-- ==== Sys2Proof/Word.lean ====
section
/-! DEFINITION. The word types of the Kolold architecture: bytes, 32-bit registers, 64-thread masks,
57-bit virtual addresses (R77) and 52-bit physical addresses (R73). -/

namespace Sys2Proof

/-- One byte of memory; memory is little-endian in every space (R6). -/
abbrev Byte := BitVec 8

/-- A 32-bit register: one thread's share of a v register, or an s register (R217). -/
abbrev Word := BitVec 32

/-- One bit for each of the 64 threads of a wave: EXEC, a lane predicate, a rejoin mask (R217). -/
abbrev Mask := BitVec 64

/-- A virtual address (R77). -/
abbrev VAddr := BitVec 57

/-- A physical address (R73). -/
abbrev PAddr := BitVec 52

end Sys2Proof
end

