-- ==== Sys2Proof/Syntax.lean ====
section
/-! DEFINITION. The syntax of the Kolold instruction set: the fields of the four formats (R30-R40), and Instr,
one constructor for each row of spec/opcode_table.json. An instruction keeps the fields of its word; the
decoder (Decode.lean) checks them in the order of R49, and Operands.lean gives the operand codes their
meaning. The rows that are events of the device carry what selects their occurrence (which wave, which
packet at which slice, which queue): an occurrence that finds nothing to act on changes nothing. -/

namespace Sys2Proof

/-- A wave slot of the package: core 2,048 x die + 16 x cluster + core (the index of R423), slot 0-7. -/
structure WaveId where
  core : Nat
  slot : Nat
  deriving DecidableEq, Repr, Inhabited

/-- The guard of W0[13:10]: predicate number and negate bit (R30, R31). -/
structure Guard where
  pred : BitVec 3
  neg : Bool
  deriving DecidableEq, Repr, Inhabited

/-- The fields of format A (R32); `lit` is the literal word of the 96-bit form (R33). -/
structure InsA where
  g : Guard
  d : BitVec 8
  a : BitVec 8
  b : BitVec 8
  c : BitVec 8
  fn : BitVec 6
  rnd : BitVec 3
  sat : Bool
  na : Bool
  nb : Bool
  aa : Bool
  ab : Bool
  lit : Option (BitVec 32)
  deriving DecidableEq, Repr, Inhabited

/-- The fields of format M (R36); `ext` is the 32-bit offset of the 96-bit form (R37). -/
structure InsM where
  g : Guard
  d : BitVec 8
  addr : BitVec 8
  data : BitVec 8
  fn : BitVec 6
  so : BitVec 2
  off : BitVec 16
  ext : Option (BitVec 32)
  deriving DecidableEq, Repr, Inhabited

/-- The fields of format B (R38); `wide` is the 96-bit form that NOP alone has (R40). -/
structure InsB where
  g : Guard
  rel : BitVec 24
  x : BitVec 8
  fn : BitVec 6
  wide : Bool
  deriving DecidableEq, Repr, Inhabited

/-- The fields of format T (R39); `w1` is the upper half of the 128-bit form. -/
structure InsT where
  g : Guard
  d : BitVec 8
  a : BitVec 8
  b : BitVec 8
  c : BitVec 8
  fn : BitVec 6
  w1 : Option (BitVec 64)
  deriving DecidableEq, Repr, Inhabited

/-- A domain as DOMAINCUT lays it out (R128, R129): sub-butterfly `k` of `n`, on `die` or on both. -/
structure DomainPlan where
  num : Nat
  n : Nat
  k : Nat
  spanning : Bool
  die : Nat
  base : Nat
  nopelPorts : List Nat
  deriving DecidableEq, Repr, Inhabited

/-- The engines that Mantis stops (R419). -/
inductive Engine where
  | waves | copies | sequencers | sync | interface | cicada
  deriving DecidableEq, Repr, Inhabited

/-- A flit of a Nopel link (R442): CRC, the body's 16-byte packet flits, SEQ, ACK, NAK, TYPE, NPF, DOM and the reserved
bits. -/
structure NopelFlit where
  crc : BitVec 64
  body : List (BitVec 128)
  seq : BitVec 12
  ack : BitVec 12
  nak : Bool
  ty : BitVec 3
  npf : BitVec 4
  dom : BitVec 4
  reserved : BitVec 28
  deriving DecidableEq, Repr, Inhabited

/-- The 15 packet flits of a flit's body. -/
def NopelFlit.wf (f : NopelFlit) : Bool := f.body.length == 15

/-- Bits [1983:0] of a flit, which its CRC covers (R442). -/
def NopelFlit.bits (f : NopelFlit) : Nat :=
  f.reserved.toNat + 2 ^ 28 * f.dom.toNat + 2 ^ 32 * f.npf.toNat + 2 ^ 36 * f.ty.toNat + 2 ^ 39 * f.nak.toNat +
    2 ^ 40 * f.ack.toNat + 2 ^ 52 * f.seq.toNat + 2 ^ 64 * f.body.foldr (fun b n => b.toNat + 2 ^ 128 * n) 0

/-- The packet flits that a flit carries: the first NPF of its body. -/
def NopelFlit.packets (f : NopelFlit) : List (BitVec 128) := f.body.take f.npf.toNat

/-- The mnemonics of format A (ALU), R32, named as R61 names them. -/
inductive OpA where
  | smov | sadd | ssub | smul | smulhi | smad | smin | smax
  | sshl | sshr | sbfe | sbfi | spopc | sclz | scmp | ssel
  | vmov | vadd | vsub | vmul | vmulhi | vmad | vmin | vmax
  | vabs | vshl | vshr | vshf | vbfe | vbfi | vpopc | vclz
  | vbrev | vcmp | vsel | vdot4 | vcvti | vshfl | vrdlane | vwrlane
  | vballot | vredux | vscan | vfadd | vfmul | vfma | vfmin | vfmax
  | vfcmp | vfrnd | vfclass | vcvt | vfma2 | vfdot2 | vfldexp | vrcp
  | vrsq | vsqrt | vexp2 | vlog2 | vsin | vcos | vsinpi | vcospi
  | vtanh | vqnt | vdqnt | vpack | vunpk | vamax | vunp3 | vtdot4
  deriving DecidableEq, Repr, Inhabited

/-- The mnemonics of format M (memory), R36, named as R61 names them. -/
inductive OpM where
  | ld | st | lds | sts | ldu | stu | atom | red
  | atoms | fence | cctl | ldb | stb | msend
  deriving DecidableEq, Repr, Inhabited

/-- The mnemonics of format B (branch and control), R38, named as R61 names them. -/
inductive OpB where
  | nop | bra | brq | brv | brx | call | callx | ret
  | jenrol | jpark | jstrike | exit | sleep | yield | etrig | trap
  | eret | bkpt
  deriving DecidableEq, Repr, Inhabited

/-- The mnemonics of format T (tensor, matrix, sync and the 128-bit group), R39, named as R61 names them. -/
inductive OpT where
  | waitc | enq | bond | unbond | csrr | csrw | slop3 | qlop
  | vlop3 | plop | tcopy | tcopym | tshape | tsfence | twany | twall
  | tfirst | tclr | aclaim | afree | walloc | wload | wpin | wunpin
  | wrevoke | wquery | mloop | mzero | mepi | mcorr | phnew | phfree
  | phreg | phdrop | phsig | phwait | phsw | phexp | bar | rwait
  | qpush | qpop | qmark | qstat | spillf | fillf
  deriving DecidableEq, Repr, Inhabited

/-- The rows of spec/opcode_table.json: 150 instructions, each with the fields of its format, then 108
events of the device (spec/95), each with what selects the occurrence. -/
inductive Instr where
  | nop (f : InsB)
  | bra (f : InsB)
  | brq (f : InsB)
  | brv (f : InsB)
  | brx (f : InsB)
  | call (f : InsB)
  | callx (f : InsB)
  | ret (f : InsB)
  | jenrol (f : InsB)
  | jpark (f : InsB)
  | jstrike (f : InsB)
  | exit (f : InsB)
  | waitc (f : InsT)
  | sleep (f : InsB)
  | yield (f : InsB)
  | etrig (f : InsB)
  | enq (f : InsT)
  | trap (f : InsB)
  | eret (f : InsB)
  | bkpt (f : InsB)
  | bond (f : InsT)
  | unbond (f : InsT)
  | csrr (f : InsT)
  | csrw (f : InsT)
  | smov (f : InsA)
  | sadd (f : InsA)
  | ssub (f : InsA)
  | smul (f : InsA)
  | smulhi (f : InsA)
  | smad (f : InsA)
  | smin (f : InsA)
  | smax (f : InsA)
  | slop3 (f : InsT)
  | sshl (f : InsA)
  | sshr (f : InsA)
  | sbfe (f : InsA)
  | sbfi (f : InsA)
  | spopc (f : InsA)
  | sclz (f : InsA)
  | scmp (f : InsA)
  | ssel (f : InsA)
  | qlop (f : InsT)
  | vmov (f : InsA)
  | vadd (f : InsA)
  | vsub (f : InsA)
  | vmul (f : InsA)
  | vmulhi (f : InsA)
  | vmad (f : InsA)
  | vmin (f : InsA)
  | vmax (f : InsA)
  | vabs (f : InsA)
  | vlop3 (f : InsT)
  | vshl (f : InsA)
  | vshr (f : InsA)
  | vshf (f : InsA)
  | vbfe (f : InsA)
  | vbfi (f : InsA)
  | vpopc (f : InsA)
  | vclz (f : InsA)
  | vbrev (f : InsA)
  | vcmp (f : InsA)
  | vsel (f : InsA)
  | plop (f : InsT)
  | vdot4 (f : InsA)
  | vcvti (f : InsA)
  | vshfl (f : InsA)
  | vrdlane (f : InsA)
  | vwrlane (f : InsA)
  | vballot (f : InsA)
  | vredux (f : InsA)
  | vscan (f : InsA)
  | vfadd (f : InsA)
  | vfmul (f : InsA)
  | vfma (f : InsA)
  | vfmin (f : InsA)
  | vfmax (f : InsA)
  | vfcmp (f : InsA)
  | vfrnd (f : InsA)
  | vfclass (f : InsA)
  | vcvt (f : InsA)
  | vfma2 (f : InsA)
  | vfdot2 (f : InsA)
  | vfldexp (f : InsA)
  | vrcp (f : InsA)
  | vrsq (f : InsA)
  | vsqrt (f : InsA)
  | vexp2 (f : InsA)
  | vlog2 (f : InsA)
  | vsin (f : InsA)
  | vcos (f : InsA)
  | vsinpi (f : InsA)
  | vcospi (f : InsA)
  | vtanh (f : InsA)
  | vqnt (f : InsA)
  | vdqnt (f : InsA)
  | vpack (f : InsA)
  | vunpk (f : InsA)
  | vamax (f : InsA)
  | vunp3 (f : InsA)
  | vtdot4 (f : InsA)
  | ld (f : InsM)
  | st (f : InsM)
  | lds (f : InsM)
  | sts (f : InsM)
  | ldu (f : InsM)
  | stu (f : InsM)
  | atom (f : InsM)
  | red (f : InsM)
  | atoms (f : InsM)
  | fence (f : InsM)
  | cctl (f : InsM)
  | ldb (f : InsM)
  | stb (f : InsM)
  | msend (f : InsM)
  | tcopy (f : InsT)
  | tcopym (f : InsT)
  | tshape (f : InsT)
  | tsfence (f : InsT)
  | twany (f : InsT)
  | twall (f : InsT)
  | tfirst (f : InsT)
  | tclr (f : InsT)
  | aclaim (f : InsT)
  | afree (f : InsT)
  | walloc (f : InsT)
  | wload (f : InsT)
  | wpin (f : InsT)
  | wunpin (f : InsT)
  | wrevoke (f : InsT)
  | wquery (f : InsT)
  | mloop (f : InsT)
  | mzero (f : InsT)
  | mepi (f : InsT)
  | mcorr (f : InsT)
  | phnew (f : InsT)
  | phfree (f : InsT)
  | phreg (f : InsT)
  | phdrop (f : InsT)
  | phsig (f : InsT)
  | phwait (f : InsT)
  | phsw (f : InsT)
  | phexp (f : InsT)
  | bar (f : InsT)
  | rwait (f : InsT)
  | qpush (f : InsT)
  | qpop (f : InsT)
  | qmark (f : InsT)
  | qstat (f : InsT)
  | spillf (f : InsT)
  | fillf (f : InsT)
  | impreciseTrap (w : WaveId)
  | issueCycle
  | activeSetIdleExit (w : WaveId)
  | activeSetLongWait (w : WaveId)
  | sleepExpiry (w : WaveId)
  | waveEnd (w : WaveId)
  | dispatchBlock (grid cluster : Nat)
  | switchOutputEnqueue (i : Nat)
  | sliceRd (slice i : Nat)
  | sliceWr (slice i : Nat)
  | sliceAtom (slice i : Nat)
  | sliceRed (slice i : Nat)
  | sliceCprdm (slice i : Nat)
  | sliceMsg (slice i : Nat)
  | sliceResentPayload (slice i : Nat)
  | pullSend (slice i : Nat)
  | sliceWack (slice i : Nat)
  | sliceMack (slice i : Nat)
  | sliceMnak (slice i : Nat)
  | msgdReoffer (slice i : Nat)
  | msgOfferTimeout (slice i : Nat)
  | sliceMigrate (slice i : Nat)
  | sliceRelease (slice i : Nat)
  | portRdata (port i : Nat)
  | portWdone (port i : Nat)
  | portAres (port i : Nat)
  | portPull (port i : Nat)
  | portRedirect (port i : Nat)
  | portMdone (port i : Nat)
  | replySwitchMdata (i : Nat)
  | residueTimeout (sw i : Nat)
  | clusterMdata (port i : Nat)
  | clusterWinv (port i : Nat)
  | interfaceMsgd (port i : Nat)
  | phaserByteAdd (cluster i : Nat)
  | fallbackPoll (w : WaveId)
  | pageWalkComplete (cluster i : Nat)
  | migrationWalkRetry (cluster i : Nat)
  | l1LineExpiry (core i : Nat)
  | hbmFillComplete (slice i : Nat)
  | sliceScrub (slice i : Nat)
  | sramRailLower (die : Nat)
  | sramRailRaise (die : Nat)
  | channelGroupFailure (group : Nat)
  | copyRecordStage (core : Nat)
  | copyChunk (core i chunk : Nat)
  | copyComplete (core i : Nat)
  | copyStop (core i : Nat)
  | residencyLoad (core i line : Nat)
  | residencyLoadComplete (core i : Nat)
  | kStep (core : Nat)
  | mzeroRun (core : Nat)
  | mepiRun (core : Nat)
  | mcorrRun (core : Nat)
  | doorbell (queue : Nat) (tail : BitVec 32)
  | eventHeadWrite (dom : Nat) (head : BitVec 32)
  | eventOverflowFlush (dom : Nat)
  | queueRecordChange (queue : Nat)
  | replicaInvalAck (queue : Nat)
  | laneBind (die lane : Nat)
  | cicadaStep (die : Nat)
  | waitPacket (queue : Nat)
  | waitPoll (queue : Nat)
  | signalPacket (queue : Nat)
  | launchPacket (queue : Nat)
  | seedlaunchPacket (queue : Nat)
  | indirectPacket (queue : Nat)
  | copyPacket (queue : Nat)
  | setquota (queue : Nat)
  | revokeall (queue : Nat)
  | inval (queue : Nat)
  | invalkey (queue : Nat)
  | keyload (queue : Nat)
  | keyrevoke (queue : Nat)
  | migrate (queue : Nat)
  | resume (queue : Nat)
  | counters (queue : Nat)
  | setq (queue : Nat)
  | setasr (queue : Nat)
  | domaincut (queue : Nat) (layout : List DomainPlan)
  | enqRequest (i : Nat)
  | spawnHandoff (i : Nat)
  | gridComplete (grid : Nat)
  | session
  | getreport
  | setring
  | setslice
  | readlog
  | fwload
  | route
  | qread
  | hostWrite (pa : PAddr) (bytes : List Byte)
  | hostRead (pa : PAddr) (len : Nat)
  | peerAccess (port : Nat)
  | timeSliceExpiry (ctx : Nat)
  | mantisSave (ctx : Nat)
  | engineStopAck (ctx : Nat) (engine : Engine)
  | mantisRestore (ctx : Nat) (placement : List (Nat × Nat))
  | nopelFlitReceive (port : Nat) (flit : NopelFlit)
  | nopelReplay (port : Nat)
  | nopelIdleTimeout (port : Nat)
  | coldReset
  | warmReset
  | switchOutputLinkSlot (sw : Nat)
  | nopelPortDownExpiry (port : Nat)
  | nopelPortUp (port : Nat)
  | domainReinitialisation (dom : Nat)
  | throttling (level : Nat)
  deriving DecidableEq, Repr, Inhabited

/-- The instruction of a format A mnemonic with the given fields. -/
def Instr.ofA : OpA → InsA → Instr
  | .smov, f => .smov f
  | .sadd, f => .sadd f
  | .ssub, f => .ssub f
  | .smul, f => .smul f
  | .smulhi, f => .smulhi f
  | .smad, f => .smad f
  | .smin, f => .smin f
  | .smax, f => .smax f
  | .sshl, f => .sshl f
  | .sshr, f => .sshr f
  | .sbfe, f => .sbfe f
  | .sbfi, f => .sbfi f
  | .spopc, f => .spopc f
  | .sclz, f => .sclz f
  | .scmp, f => .scmp f
  | .ssel, f => .ssel f
  | .vmov, f => .vmov f
  | .vadd, f => .vadd f
  | .vsub, f => .vsub f
  | .vmul, f => .vmul f
  | .vmulhi, f => .vmulhi f
  | .vmad, f => .vmad f
  | .vmin, f => .vmin f
  | .vmax, f => .vmax f
  | .vabs, f => .vabs f
  | .vshl, f => .vshl f
  | .vshr, f => .vshr f
  | .vshf, f => .vshf f
  | .vbfe, f => .vbfe f
  | .vbfi, f => .vbfi f
  | .vpopc, f => .vpopc f
  | .vclz, f => .vclz f
  | .vbrev, f => .vbrev f
  | .vcmp, f => .vcmp f
  | .vsel, f => .vsel f
  | .vdot4, f => .vdot4 f
  | .vcvti, f => .vcvti f
  | .vshfl, f => .vshfl f
  | .vrdlane, f => .vrdlane f
  | .vwrlane, f => .vwrlane f
  | .vballot, f => .vballot f
  | .vredux, f => .vredux f
  | .vscan, f => .vscan f
  | .vfadd, f => .vfadd f
  | .vfmul, f => .vfmul f
  | .vfma, f => .vfma f
  | .vfmin, f => .vfmin f
  | .vfmax, f => .vfmax f
  | .vfcmp, f => .vfcmp f
  | .vfrnd, f => .vfrnd f
  | .vfclass, f => .vfclass f
  | .vcvt, f => .vcvt f
  | .vfma2, f => .vfma2 f
  | .vfdot2, f => .vfdot2 f
  | .vfldexp, f => .vfldexp f
  | .vrcp, f => .vrcp f
  | .vrsq, f => .vrsq f
  | .vsqrt, f => .vsqrt f
  | .vexp2, f => .vexp2 f
  | .vlog2, f => .vlog2 f
  | .vsin, f => .vsin f
  | .vcos, f => .vcos f
  | .vsinpi, f => .vsinpi f
  | .vcospi, f => .vcospi f
  | .vtanh, f => .vtanh f
  | .vqnt, f => .vqnt f
  | .vdqnt, f => .vdqnt f
  | .vpack, f => .vpack f
  | .vunpk, f => .vunpk f
  | .vamax, f => .vamax f
  | .vunp3, f => .vunp3 f
  | .vtdot4, f => .vtdot4 f

/-- The instruction of a format M mnemonic with the given fields. -/
def Instr.ofM : OpM → InsM → Instr
  | .ld, f => .ld f
  | .st, f => .st f
  | .lds, f => .lds f
  | .sts, f => .sts f
  | .ldu, f => .ldu f
  | .stu, f => .stu f
  | .atom, f => .atom f
  | .red, f => .red f
  | .atoms, f => .atoms f
  | .fence, f => .fence f
  | .cctl, f => .cctl f
  | .ldb, f => .ldb f
  | .stb, f => .stb f
  | .msend, f => .msend f

/-- The instruction of a format B mnemonic with the given fields. -/
def Instr.ofB : OpB → InsB → Instr
  | .nop, f => .nop f
  | .bra, f => .bra f
  | .brq, f => .brq f
  | .brv, f => .brv f
  | .brx, f => .brx f
  | .call, f => .call f
  | .callx, f => .callx f
  | .ret, f => .ret f
  | .jenrol, f => .jenrol f
  | .jpark, f => .jpark f
  | .jstrike, f => .jstrike f
  | .exit, f => .exit f
  | .sleep, f => .sleep f
  | .yield, f => .yield f
  | .etrig, f => .etrig f
  | .trap, f => .trap f
  | .eret, f => .eret f
  | .bkpt, f => .bkpt f

/-- The instruction of a format T mnemonic with the given fields. -/
def Instr.ofT : OpT → InsT → Instr
  | .waitc, f => .waitc f
  | .enq, f => .enq f
  | .bond, f => .bond f
  | .unbond, f => .unbond f
  | .csrr, f => .csrr f
  | .csrw, f => .csrw f
  | .slop3, f => .slop3 f
  | .qlop, f => .qlop f
  | .vlop3, f => .vlop3 f
  | .plop, f => .plop f
  | .tcopy, f => .tcopy f
  | .tcopym, f => .tcopym f
  | .tshape, f => .tshape f
  | .tsfence, f => .tsfence f
  | .twany, f => .twany f
  | .twall, f => .twall f
  | .tfirst, f => .tfirst f
  | .tclr, f => .tclr f
  | .aclaim, f => .aclaim f
  | .afree, f => .afree f
  | .walloc, f => .walloc f
  | .wload, f => .wload f
  | .wpin, f => .wpin f
  | .wunpin, f => .wunpin f
  | .wrevoke, f => .wrevoke f
  | .wquery, f => .wquery f
  | .mloop, f => .mloop f
  | .mzero, f => .mzero f
  | .mepi, f => .mepi f
  | .mcorr, f => .mcorr f
  | .phnew, f => .phnew f
  | .phfree, f => .phfree f
  | .phreg, f => .phreg f
  | .phdrop, f => .phdrop f
  | .phsig, f => .phsig f
  | .phwait, f => .phwait f
  | .phsw, f => .phsw f
  | .phexp, f => .phexp f
  | .bar, f => .bar f
  | .rwait, f => .rwait f
  | .qpush, f => .qpush f
  | .qpop, f => .qpop f
  | .qmark, f => .qmark f
  | .qstat, f => .qstat f
  | .spillf, f => .spillf f
  | .fillf, f => .fillf f

/-- An instruction seen as its mnemonic and fields; an event has no such view. -/
inductive View where
  | a (op : OpA) (f : InsA)
  | m (op : OpM) (f : InsM)
  | b (op : OpB) (f : InsB)
  | t (op : OpT) (f : InsT)
  | event
  deriving DecidableEq, Repr

/-- The view of a row. -/
def Instr.view : Instr → View
  | .nop f => .b .nop f
  | .bra f => .b .bra f
  | .brq f => .b .brq f
  | .brv f => .b .brv f
  | .brx f => .b .brx f
  | .call f => .b .call f
  | .callx f => .b .callx f
  | .ret f => .b .ret f
  | .jenrol f => .b .jenrol f
  | .jpark f => .b .jpark f
  | .jstrike f => .b .jstrike f
  | .exit f => .b .exit f
  | .waitc f => .t .waitc f
  | .sleep f => .b .sleep f
  | .yield f => .b .yield f
  | .etrig f => .b .etrig f
  | .enq f => .t .enq f
  | .trap f => .b .trap f
  | .eret f => .b .eret f
  | .bkpt f => .b .bkpt f
  | .bond f => .t .bond f
  | .unbond f => .t .unbond f
  | .csrr f => .t .csrr f
  | .csrw f => .t .csrw f
  | .smov f => .a .smov f
  | .sadd f => .a .sadd f
  | .ssub f => .a .ssub f
  | .smul f => .a .smul f
  | .smulhi f => .a .smulhi f
  | .smad f => .a .smad f
  | .smin f => .a .smin f
  | .smax f => .a .smax f
  | .slop3 f => .t .slop3 f
  | .sshl f => .a .sshl f
  | .sshr f => .a .sshr f
  | .sbfe f => .a .sbfe f
  | .sbfi f => .a .sbfi f
  | .spopc f => .a .spopc f
  | .sclz f => .a .sclz f
  | .scmp f => .a .scmp f
  | .ssel f => .a .ssel f
  | .qlop f => .t .qlop f
  | .vmov f => .a .vmov f
  | .vadd f => .a .vadd f
  | .vsub f => .a .vsub f
  | .vmul f => .a .vmul f
  | .vmulhi f => .a .vmulhi f
  | .vmad f => .a .vmad f
  | .vmin f => .a .vmin f
  | .vmax f => .a .vmax f
  | .vabs f => .a .vabs f
  | .vlop3 f => .t .vlop3 f
  | .vshl f => .a .vshl f
  | .vshr f => .a .vshr f
  | .vshf f => .a .vshf f
  | .vbfe f => .a .vbfe f
  | .vbfi f => .a .vbfi f
  | .vpopc f => .a .vpopc f
  | .vclz f => .a .vclz f
  | .vbrev f => .a .vbrev f
  | .vcmp f => .a .vcmp f
  | .vsel f => .a .vsel f
  | .plop f => .t .plop f
  | .vdot4 f => .a .vdot4 f
  | .vcvti f => .a .vcvti f
  | .vshfl f => .a .vshfl f
  | .vrdlane f => .a .vrdlane f
  | .vwrlane f => .a .vwrlane f
  | .vballot f => .a .vballot f
  | .vredux f => .a .vredux f
  | .vscan f => .a .vscan f
  | .vfadd f => .a .vfadd f
  | .vfmul f => .a .vfmul f
  | .vfma f => .a .vfma f
  | .vfmin f => .a .vfmin f
  | .vfmax f => .a .vfmax f
  | .vfcmp f => .a .vfcmp f
  | .vfrnd f => .a .vfrnd f
  | .vfclass f => .a .vfclass f
  | .vcvt f => .a .vcvt f
  | .vfma2 f => .a .vfma2 f
  | .vfdot2 f => .a .vfdot2 f
  | .vfldexp f => .a .vfldexp f
  | .vrcp f => .a .vrcp f
  | .vrsq f => .a .vrsq f
  | .vsqrt f => .a .vsqrt f
  | .vexp2 f => .a .vexp2 f
  | .vlog2 f => .a .vlog2 f
  | .vsin f => .a .vsin f
  | .vcos f => .a .vcos f
  | .vsinpi f => .a .vsinpi f
  | .vcospi f => .a .vcospi f
  | .vtanh f => .a .vtanh f
  | .vqnt f => .a .vqnt f
  | .vdqnt f => .a .vdqnt f
  | .vpack f => .a .vpack f
  | .vunpk f => .a .vunpk f
  | .vamax f => .a .vamax f
  | .vunp3 f => .a .vunp3 f
  | .vtdot4 f => .a .vtdot4 f
  | .ld f => .m .ld f
  | .st f => .m .st f
  | .lds f => .m .lds f
  | .sts f => .m .sts f
  | .ldu f => .m .ldu f
  | .stu f => .m .stu f
  | .atom f => .m .atom f
  | .red f => .m .red f
  | .atoms f => .m .atoms f
  | .fence f => .m .fence f
  | .cctl f => .m .cctl f
  | .ldb f => .m .ldb f
  | .stb f => .m .stb f
  | .msend f => .m .msend f
  | .tcopy f => .t .tcopy f
  | .tcopym f => .t .tcopym f
  | .tshape f => .t .tshape f
  | .tsfence f => .t .tsfence f
  | .twany f => .t .twany f
  | .twall f => .t .twall f
  | .tfirst f => .t .tfirst f
  | .tclr f => .t .tclr f
  | .aclaim f => .t .aclaim f
  | .afree f => .t .afree f
  | .walloc f => .t .walloc f
  | .wload f => .t .wload f
  | .wpin f => .t .wpin f
  | .wunpin f => .t .wunpin f
  | .wrevoke f => .t .wrevoke f
  | .wquery f => .t .wquery f
  | .mloop f => .t .mloop f
  | .mzero f => .t .mzero f
  | .mepi f => .t .mepi f
  | .mcorr f => .t .mcorr f
  | .phnew f => .t .phnew f
  | .phfree f => .t .phfree f
  | .phreg f => .t .phreg f
  | .phdrop f => .t .phdrop f
  | .phsig f => .t .phsig f
  | .phwait f => .t .phwait f
  | .phsw f => .t .phsw f
  | .phexp f => .t .phexp f
  | .bar f => .t .bar f
  | .rwait f => .t .rwait f
  | .qpush f => .t .qpush f
  | .qpop f => .t .qpop f
  | .qmark f => .t .qmark f
  | .qstat f => .t .qstat f
  | .spillf f => .t .spillf f
  | .fillf f => .t .fillf f
  | .impreciseTrap _ => .event
  | .issueCycle => .event
  | .activeSetIdleExit _ => .event
  | .activeSetLongWait _ => .event
  | .sleepExpiry _ => .event
  | .waveEnd _ => .event
  | .dispatchBlock _ _ => .event
  | .switchOutputEnqueue _ => .event
  | .sliceRd _ _ => .event
  | .sliceWr _ _ => .event
  | .sliceAtom _ _ => .event
  | .sliceRed _ _ => .event
  | .sliceCprdm _ _ => .event
  | .sliceMsg _ _ => .event
  | .sliceResentPayload _ _ => .event
  | .pullSend _ _ => .event
  | .sliceWack _ _ => .event
  | .sliceMack _ _ => .event
  | .sliceMnak _ _ => .event
  | .msgdReoffer _ _ => .event
  | .msgOfferTimeout _ _ => .event
  | .sliceMigrate _ _ => .event
  | .sliceRelease _ _ => .event
  | .portRdata _ _ => .event
  | .portWdone _ _ => .event
  | .portAres _ _ => .event
  | .portPull _ _ => .event
  | .portRedirect _ _ => .event
  | .portMdone _ _ => .event
  | .replySwitchMdata _ => .event
  | .residueTimeout _ _ => .event
  | .clusterMdata _ _ => .event
  | .clusterWinv _ _ => .event
  | .interfaceMsgd _ _ => .event
  | .phaserByteAdd _ _ => .event
  | .fallbackPoll _ => .event
  | .pageWalkComplete _ _ => .event
  | .migrationWalkRetry _ _ => .event
  | .l1LineExpiry _ _ => .event
  | .hbmFillComplete _ _ => .event
  | .sliceScrub _ _ => .event
  | .sramRailLower _ => .event
  | .sramRailRaise _ => .event
  | .channelGroupFailure _ => .event
  | .copyRecordStage _ => .event
  | .copyChunk _ _ _ => .event
  | .copyComplete _ _ => .event
  | .copyStop _ _ => .event
  | .residencyLoad _ _ _ => .event
  | .residencyLoadComplete _ _ => .event
  | .kStep _ => .event
  | .mzeroRun _ => .event
  | .mepiRun _ => .event
  | .mcorrRun _ => .event
  | .doorbell _ _ => .event
  | .eventHeadWrite _ _ => .event
  | .eventOverflowFlush _ => .event
  | .queueRecordChange _ => .event
  | .replicaInvalAck _ => .event
  | .laneBind _ _ => .event
  | .cicadaStep _ => .event
  | .waitPacket _ => .event
  | .waitPoll _ => .event
  | .signalPacket _ => .event
  | .launchPacket _ => .event
  | .seedlaunchPacket _ => .event
  | .indirectPacket _ => .event
  | .copyPacket _ => .event
  | .setquota _ => .event
  | .revokeall _ => .event
  | .inval _ => .event
  | .invalkey _ => .event
  | .keyload _ => .event
  | .keyrevoke _ => .event
  | .migrate _ => .event
  | .resume _ => .event
  | .counters _ => .event
  | .setq _ => .event
  | .setasr _ => .event
  | .domaincut _ _ => .event
  | .enqRequest _ => .event
  | .spawnHandoff _ => .event
  | .gridComplete _ => .event
  | .session => .event
  | .getreport => .event
  | .setring => .event
  | .setslice => .event
  | .readlog => .event
  | .fwload => .event
  | .route => .event
  | .qread => .event
  | .hostWrite _ _ => .event
  | .hostRead _ _ => .event
  | .peerAccess _ => .event
  | .timeSliceExpiry _ => .event
  | .mantisSave _ => .event
  | .engineStopAck _ _ => .event
  | .mantisRestore _ _ => .event
  | .nopelFlitReceive _ _ => .event
  | .nopelReplay _ => .event
  | .nopelIdleTimeout _ => .event
  | .coldReset => .event
  | .warmReset => .event
  | .switchOutputLinkSlot _ => .event
  | .nopelPortDownExpiry _ => .event
  | .nopelPortUp _ => .event
  | .domainReinitialisation _ => .event
  | .throttling _ => .event

end Sys2Proof
end

