-- ==== Sys2Proof/Decode.lean ====
section
/-! DEFINITION. The encoding of the instruction set: the opcode map (R61), what each instruction admits in each
field (R178, R210, R221, R226, R232, R239, R272, R310, R325, R341, R350, R369, R415), the checks of R49 in their order
with the TRAPINFO value of R50, the decoder, and the encoder written from the same layouts (R30-R40). -/

namespace Sys2Proof

/-- A mnemonic of any format. -/
inductive Op where
  | a (o : OpA) | m (o : OpM) | b (o : OpB) | t (o : OpT)
  deriving DecidableEq, Repr

/-- Opcodes 0x00-0x20 of R61. -/
def opRowsControl : List (Nat × Op) :=
  [(0x00, .b .nop), (0x01, .b .bra), (0x02, .b .brq), (0x03, .b .brv), (0x04, .b .brx), (0x05, .b .call),
   (0x06, .b .callx), (0x07, .b .ret), (0x08, .b .jenrol), (0x09, .b .jpark), (0x0A, .b .jstrike), (0x0B, .b .exit),
   (0x0C, .t .waitc), (0x0D, .b .sleep), (0x0E, .b .yield), (0x0F, .b .etrig), (0x10, .t .enq), (0x11, .b .trap),
   (0x12, .b .eret), (0x13, .t .bond), (0x14, .t .unbond), (0x15, .t .csrr), (0x16, .t .csrw), (0x17, .b .bkpt),
   (0x18, .a .smov), (0x19, .a .sadd), (0x1A, .a .ssub), (0x1B, .a .smul), (0x1C, .a .smulhi), (0x1D, .a .smad),
   (0x1E, .a .smin), (0x1F, .a .smax), (0x20, .t .slop3)]

/-- Opcodes 0x21-0x38 of R61. -/
def opRowsUniform : List (Nat × Op) :=
  [(0x21, .a .sshl), (0x22, .a .sshr), (0x23, .a .sbfe), (0x24, .a .sbfi), (0x25, .a .spopc), (0x26, .a .sclz),
   (0x27, .a .scmp), (0x28, .a .ssel), (0x29, .t .qlop), (0x30, .a .vmov), (0x31, .a .vadd), (0x32, .a .vsub),
   (0x33, .a .vmul), (0x34, .a .vmulhi), (0x35, .a .vmad), (0x36, .a .vmin), (0x37, .a .vmax), (0x38, .a .vabs)]

/-- Opcodes 0x39-0x4C of R61. -/
def opRowsVector : List (Nat × Op) :=
  [(0x39, .t .vlop3), (0x3A, .a .vshl), (0x3B, .a .vshr), (0x3C, .a .vshf), (0x3D, .a .vbfe), (0x3E, .a .vbfi),
   (0x3F, .a .vpopc), (0x40, .a .vclz), (0x41, .a .vbrev), (0x42, .a .vcmp), (0x43, .a .vsel), (0x44, .t .plop),
   (0x45, .a .vdot4), (0x46, .a .vcvti), (0x47, .a .vshfl), (0x48, .a .vrdlane), (0x49, .a .vwrlane), (0x4A, .a .vballot),
   (0x4B, .a .vredux), (0x4C, .a .vscan)]

/-- Opcodes 0x50-0x76 of R61. -/
def opRowsFloat : List (Nat × Op) :=
  [(0x50, .a .vfadd), (0x51, .a .vfmul), (0x52, .a .vfma), (0x53, .a .vfmin), (0x54, .a .vfmax), (0x55, .a .vfcmp),
   (0x56, .a .vfrnd), (0x57, .a .vfclass), (0x58, .a .vcvt), (0x59, .a .vfma2), (0x5A, .a .vfdot2), (0x5B, .a .vfldexp),
   (0x60, .a .vrcp), (0x61, .a .vrsq), (0x62, .a .vsqrt), (0x63, .a .vexp2), (0x64, .a .vlog2), (0x65, .a .vsin),
   (0x66, .a .vcos), (0x67, .a .vsinpi), (0x68, .a .vcospi), (0x69, .a .vtanh), (0x70, .a .vqnt), (0x71, .a .vdqnt),
   (0x72, .a .vpack), (0x73, .a .vunpk), (0x74, .a .vamax), (0x75, .a .vunp3), (0x76, .a .vtdot4)]

/-- Opcodes 0x80-0xE1 of R61. -/
def opRowsEngine : List (Nat × Op) :=
  [(0x80, .m .ld), (0x81, .m .st), (0x82, .m .lds), (0x83, .m .sts), (0x84, .m .ldu), (0x85, .m .stu),
   (0x86, .m .atom), (0x87, .m .red), (0x88, .m .atoms), (0x89, .m .fence), (0x8A, .m .cctl), (0x8B, .m .ldb),
   (0x8C, .m .stb), (0x8D, .m .msend), (0xA0, .t .tcopy), (0xA1, .t .tcopym), (0xA2, .t .tshape), (0xA3, .t .tsfence),
   (0xA4, .t .twany), (0xA5, .t .twall), (0xA6, .t .tfirst), (0xA7, .t .tclr), (0xB0, .t .aclaim), (0xB1, .t .afree),
   (0xB2, .t .walloc), (0xB3, .t .wload), (0xB4, .t .wpin), (0xB5, .t .wunpin), (0xB6, .t .wrevoke), (0xB7, .t .wquery),
   (0xB8, .t .mloop), (0xB9, .t .mzero), (0xBA, .t .mepi), (0xBB, .t .mcorr), (0xC0, .t .phnew), (0xC1, .t .phfree),
   (0xC2, .t .phreg), (0xC3, .t .phdrop), (0xC4, .t .phsig), (0xC5, .t .phwait), (0xC6, .t .phsw), (0xC7, .t .phexp),
   (0xC8, .t .bar), (0xC9, .t .rwait), (0xCA, .t .qpush), (0xCB, .t .qpop), (0xCC, .t .qmark), (0xCD, .t .qstat),
   (0xE0, .t .spillf), (0xE1, .t .fillf)]
/-- The major opcode map of R61; an opcode not listed is reserved (R62). -/
def opRows : List (Nat × Op) :=
  opRowsControl ++ opRowsUniform ++ opRowsVector ++ opRowsFloat ++ opRowsEngine

/-- The mnemonic of a major opcode, or none for a reserved one. -/
def Op.ofCode (c : Nat) : Option Op := (opRows.find? (fun r => r.1 == c)).map Prod.snd

/-- The major opcode of a mnemonic (R61). -/
def Op.code (o : Op) : Nat := ((opRows.find? (fun r => r.2 == o)).map Prod.fst).getD 0

/-! ## Bits and bytes -/

/-- The number whose bytes, lowest first, are given (R6). -/
def leNat : List Byte → Nat
  | [] => 0
  | b :: bs => b.toNat + 256 * leNat bs

/-- The lowest `n` bytes of a number, lowest first (R6). -/
def leBytes : Nat → Nat → List Byte
  | 0, _ => []
  | n + 1, v => BitVec.ofNat 8 v :: leBytes n (v / 256)

/-- Bits [lo+len-1 : lo] of a number (R5). -/
def bitsOf (lo len v : Nat) : Nat := (v >>> lo) % 2 ^ len

/-! ## Guard kinds and operand positions -/

/-- Whether an opcode takes the lane guard (R31, the Guard column of R61); otherwise it takes the uniform guard. -/
def Op.laneGuard (o : Op) : Bool :=
  let c := o.code
  (0x30 ≤ c && c ≤ 0x8D)

/-- What an operand field admits (R41-R46, R174, R236). `w` is the width of the position in bits; `fp` marks a
floating-point position, in which an inline constant is a converted value (R43). -/
inductive Slot where
  /-- not used: must hold 0x00 (R47) -/
  | unused
  /-- a vector register as destination -/
  | vdst (w : Nat)
  /-- a uniform register as destination -/
  | sdst (w : Nat)
  /-- a source of a vector instruction: vector, uniform, inline, literal or special -/
  | vsrc (w : Nat) (fp : Bool)
  /-- a source that must be uniform: register, inline, literal or uniform special -/
  | usrc (w : Nat) (fp : Bool)
  /-- a uniform register, an inline integer or a uniform special -/
  | uint (w : Nat)
  /-- a uniform register only -/
  | sreg (w : Nat)
  /-- a vector or a uniform register -/
  | reg (w : Nat)
  /-- a vector register only -/
  | vreg (w : Nat)
  /-- the stored value of R174: a vector or uniform register, or an inline constant -/
  | data (w : Nat)
  /-- the stored value of STU: a uniform register or an inline constant -/
  | sdata (w : Nat)
  /-- a predicate number or j index 0-7 as a source (R236, R38) -/
  | num7
  /-- a predicate number 0-6 as a destination (R236) -/
  | num6
  deriving DecidableEq, Repr

/-- How many consecutive registers a position of `w` bits takes. -/
def regCount (w : Nat) : Nat := if w ≤ 32 then 1 else w / 32

/-- Alignment and allocation of a register code (R42): a pair is even, a quad a multiple of 4, and a uniform
register lies below the wave's `.scalars`. -/
def regCodeOk (code w scalars : Nat) : Bool :=
  code % regCount w == 0 && (code < 0x20 || code - 0x20 + regCount w ≤ scalars)

/-- The codes of the per-thread special operands %lane, %widlo and %widhi (R45). -/
def isThreadSpecial (code : Nat) : Bool := code == 0xC0 || code == 0xC2 || code == 0xC3

/-- Whether a code may stand in a position (R41-R46). `lit` tells whether the instruction has a literal word. An inline FP32
code is admitted in a 128-bit raw position too, of which the spec does not speak: its pattern is extended with zeros, as in the
64-bit ones (assumption 73). -/
def Slot.ok (sl : Slot) (code scalars : Nat) (lit : Bool) : Bool :=
  let vec := code < 0x20
  let uni := 0x20 ≤ code && code < 0xA0
  let inl := 0xA0 ≤ code && code < 0xB0
  let inf := 0xB0 ≤ code && code < 0xB8
  let spec := 0xC0 ≤ code && code ≤ 0xCB
  match sl with
  | .unused => true
  | .vdst w => vec && regCodeOk code w scalars
  | .sdst w => uni && regCodeOk code w scalars
  | .vsrc w fp => ((vec || uni) && regCodeOk code w scalars) || inl || (inf && (fp || 32 ≤ w)) || (code == 0xB8 && lit) ||
      (spec && w == 32)
  | .usrc w fp => (uni && regCodeOk code w scalars) || inl || (inf && (fp || 32 ≤ w)) || (code == 0xB8 && lit) ||
      (spec && w == 32 && !isThreadSpecial code)
  | .uint w => (uni && regCodeOk code w scalars) || inl || (spec && w == 32 && !isThreadSpecial code)
  | .sreg w => uni && regCodeOk code w scalars
  | .reg w => (vec || uni) && regCodeOk code w scalars
  | .vreg w => vec && regCodeOk code w scalars
  | .data w => ((vec || uni) && regCodeOk code w scalars) || inl || (inf && 32 ≤ w)
  | .sdata w => (uni && regCodeOk code w scalars) || inl || (inf && 32 ≤ w)
  | .num7 => code ≤ 7
  | .num6 => code ≤ 6

/-- The four operand positions D, A, B, C (format M: D, ADDR, DATA). -/
structure Slots where
  d : Slot
  a : Slot
  b : Slot
  c : Slot
  deriving DecidableEq, Repr

/-- Width of an integer type code (R68). -/
def intWidth (t : Nat) : Nat := if t < 2 then 8 else if t < 4 then 16 else if t < 6 then 32 else 64

/-- Width of a floating-format code (R67); codes 6 and 7 are .I32 and .N32. -/
def fmtWidth (t : Nat) : Nat := match t with
  | 0 | 1 => 16
  | 3 => 64
  | 4 | 5 => 8
  | _ => 32

/-- Register width of a destination of a floating format: 8- and 16-bit results take one register (R267). -/
def regWidth (w : Nat) : Nat := if w ≤ 32 then 32 else w

/-- FN[2:0] and FN[5:3] (R66). -/
def fnLo (fn : BitVec 6) : Nat := fn.toNat % 8
def fnHi (fn : BitVec 6) : Nat := fn.toNat / 8

/-- The positions of a uniform integer instruction (R239). -/
def sSlots (w : Nat) (d a b c : Bool) : Slots :=
  ⟨if d then .sdst w else .unused, if a then .usrc w false else .unused,
   if b then .usrc w false else .unused, if c then .usrc w false else .unused⟩

/-- The positions of a vector instruction whose used operands have one width (R239, R272). -/
def vSlots (w : Nat) (fp a b c : Bool) : Slots :=
  ⟨.vdst w, if a then .vsrc w fp else .unused, if b then .vsrc w fp else .unused,
   if c then .vsrc w fp else .unused⟩

/-- The wide format of a quantisation instruction, FN[5:3] in 0-2 of R67 (R69). -/
def wideWidth (fn : BitVec 6) : Nat := fmtWidth (fnHi fn)

/-- The operand positions of a format A instruction (R239, R272). -/
def OpA.slots (o : OpA) (fn : BitVec 6) : Slots :=
  let w := intWidth (fnLo fn)
  let f := fmtWidth (fnLo fn)
  let zp : Bool := 4 ≤ fnLo fn && fnLo fn ≤ 6
  match o with
  | .smov => sSlots w true true false false
  | .sadd | .ssub | .smul | .smulhi | .smin | .smax => sSlots w true true true false
  | .smad => sSlots w true true true true
  | .sshl | .sshr | .sbfe => ⟨.sdst w, .usrc w false, .usrc 32 false, .unused⟩
  | .sbfi => ⟨.sdst w, .usrc w false, .usrc 32 false, .usrc w false⟩
  | .spopc | .sclz => ⟨.sdst 32, .usrc w false, .unused, .unused⟩
  | .scmp => ⟨.num6, .usrc w false, .usrc w false, .unused⟩
  | .ssel => ⟨.sdst w, .usrc w false, .usrc w false, .num7⟩
  | .vmov | .vabs | .vbrev => vSlots w false true false false
  | .vadd | .vsub | .vmul | .vmulhi | .vmin | .vmax => vSlots w false true true false
  | .vmad => vSlots w false true true true
  | .vshl | .vshr | .vbfe => ⟨.vdst w, .vsrc w false, .vsrc 32 false, .unused⟩
  | .vshf => vSlots 32 false true true true
  | .vbfi => ⟨.vdst w, .vsrc w false, .vsrc 32 false, .vsrc w false⟩
  | .vpopc | .vclz => ⟨.vdst 32, .vsrc w false, .unused, .unused⟩
  | .vcmp => ⟨.num6, .vsrc w false, .vsrc w false, .unused⟩
  | .vsel => ⟨.vdst w, .vsrc w false, .vsrc w false, .num7⟩
  | .vdot4 => vSlots 32 false true true true
  | .vcvti => ⟨.vdst (regWidth w), .vsrc (intWidth (fnHi fn)) false, .unused, .unused⟩
  | .vshfl => ⟨.vdst w, .vsrc w false, .vsrc 32 false, .unused⟩
  | .vrdlane => ⟨.sdst w, .vsrc w false, .usrc 32 false, .unused⟩
  | .vwrlane => ⟨.vdst w, .usrc w false, .usrc 32 false, .unused⟩
  | .vballot => ⟨.sdst 64, .num7, .unused, .unused⟩
  | .vredux => ⟨.sdst w, .vsrc w false, .unused, .unused⟩
  | .vscan => vSlots w false true false false
  | .vfadd | .vfmul | .vfmin | .vfmax => vSlots f true true true false
  | .vfma => vSlots f true true true true
  | .vfcmp => ⟨.num6, .vsrc f true, .vsrc f true, .unused⟩
  | .vfrnd | .vrcp | .vrsq | .vsqrt | .vexp2 | .vlog2 | .vsin | .vcos | .vsinpi | .vcospi | .vtanh =>
      vSlots f true true false false
  | .vfclass => ⟨.vdst 32, .vsrc f true, .unused, .unused⟩
  | .vcvt => ⟨.vdst (regWidth f), .vsrc (fmtWidth (fnHi fn)) (decide (fnHi fn < 6)), .unused, .unused⟩
  | .vfma2 => vSlots 32 true true true true
  | .vfdot2 => vSlots 32 true true true true
  | .vfldexp => ⟨.vdst f, .vsrc f true, .vsrc 32 false, .unused⟩
  | .vqnt => ⟨.vdst 32, .vsrc (wideWidth fn) true, .vsrc 32 true, if zp then .vsrc 32 false else .unused⟩
  | .vdqnt => ⟨.vdst 32, .vsrc 32 false, .vsrc 32 true, if zp then .vsrc 32 false else .unused⟩
  | .vpack => vSlots 32 false true true true
  | .vunpk => ⟨.vdst 32, .vsrc 32 false, .vsrc 32 false, .unused⟩
  | .vamax => ⟨.sdst 32, .vsrc 32 true, .unused, .usrc 32 true⟩
  | .vunp3 => ⟨.vdst 64, .vsrc 32 false, .vsrc 32 false, .unused⟩
  | .vtdot4 => vSlots 32 false true true true

/-- The FN values a format A instruction lists (R66-R71, R239, R272). -/
def OpA.fnOk (o : OpA) (fn : BitVec 6) : Bool :=
  let lo := fnLo fn
  let hi := fnHi fn
  match o with
  | .smov | .vmov | .sbfi | .vbfi | .spopc | .vpopc | .sclz | .vclz | .vbrev | .ssel | .vsel | .vrdlane | .vwrlane =>
      (lo == 5 || lo == 7) && hi == 0
  | .sadd | .ssub | .smul | .smulhi | .smad | .smin | .smax | .vadd | .vsub | .vmul | .vmulhi | .vmad | .vmin | .vmax
  | .sshl | .sshr | .vshl | .vshr | .sbfe | .vbfe => 4 ≤ lo && hi == 0
  | .vabs => (lo == 4 || lo == 6) && hi == 0
  | .vshf => lo == 5 && hi ≤ 1
  | .scmp | .vcmp => 4 ≤ lo && hi ≤ 5
  | .vdot4 => lo ≤ 1 && hi ≤ 1
  | .vcvti => lo != hi
  | .vshfl => (lo == 5 || lo == 7) && hi ≤ 3
  | .vballot => fn == 0
  | .vredux | .vscan => 4 ≤ lo && hi ≤ 5
  | .vfadd | .vfmul | .vfma | .vfmin | .vfmax | .vfrnd | .vfclass | .vfldexp | .vrcp | .vrsq | .vsqrt => lo ≤ 3 && hi == 0
  | .vfcmp => lo ≤ 3
  | .vcvt => lo != hi && !(6 ≤ lo && 6 ≤ hi)
  | .vfma2 => lo ≤ 1 && hi == 0
  | .vfdot2 => lo == 2 && hi ≤ 1
  | .vexp2 | .vlog2 | .vsin | .vcos | .vsinpi | .vcospi | .vtanh => lo ≤ 2 && hi == 0
  | .vqnt | .vdqnt => lo ≤ 6 && hi ≤ 2
  | .vpack => hi == 0
  | .vunpk => lo ≤ 6 && hi ≤ 2 && !(lo == 3 && hi == 0)
  | .vamax => fn == 0
  | .vunp3 => lo == 7 && hi == 0
  | .vtdot4 => (lo == 4 || lo == 5) && hi ≤ 1

/-- The RND codes a format A instruction admits (R34, R237, R272). -/
def OpA.rndOk (o : OpA) (fn : BitVec 6) (rnd : Nat) : Bool :=
  match o with
  | .vfadd | .vfmul | .vfma | .vfrnd | .vfma2 | .vfdot2 | .vfldexp | .vsqrt | .vdqnt => rnd ≤ 4 || rnd == 6
  | .vcvt => rnd ≤ 4 || rnd == 6 || (rnd == 5 && (fnLo fn == 4 || fnLo fn == 5))
  | .vqnt => rnd ≤ 4 || rnd == 6 || (rnd == 5 && fnLo fn != 3)
  | _ => rnd == 0

/-- Whether the SAT bit may have the given value (R35, R239, R272). -/
def OpA.satOk (o : OpA) (fn : BitVec 6) (sat : Bool) : Bool :=
  match o with
  | .sadd | .ssub | .smul | .smad | .vadd | .vsub | .vmul | .vmad | .vabs | .vdot4 | .vcvti | .vtdot4 => true
  | .vcvt => !sat || fnLo fn == 4 || fnLo fn == 5
  | .vqnt => sat || fnLo fn ≤ 1
  | .vpack => !sat || (4 ≤ fnLo fn && fnLo fn ≤ 6)
  | _ => !sat

/-- Whether NA and AA are admitted (R35, R272). -/
def OpA.modA (o : OpA) (fn : BitVec 6) : Bool :=
  match o with
  | .vfadd | .vfmul | .vfma | .vfmin | .vfmax | .vfcmp | .vfrnd | .vfma2 | .vfdot2 | .vfldexp | .vrcp | .vrsq | .vsqrt
  | .vexp2 | .vlog2 | .vsin | .vcos | .vsinpi | .vcospi | .vtanh | .vqnt => true
  | .vcvt => fnHi fn < 6
  | _ => false

/-- Whether NB and AB are admitted (R35, R272). -/
def OpA.modB (o : OpA) : Bool :=
  match o with
  | .vfadd | .vfmul | .vfma | .vfmin | .vfmax | .vfcmp | .vfma2 | .vfdot2 => true
  | _ => false

/-- Access size in bytes of a size code (R37). -/
def sizeBytes (fn : BitVec 6) : Nat := 2 ^ fnLo fn

/-- The operand positions of a format M instruction: D, ADDR, DATA (R174, R350). -/
def OpM.slots (o : OpM) (fn : BitVec 6) : Slots :=
  let w := 8 * sizeBytes fn
  let dw := regWidth w
  let op := if fnHi fn == 7 then .data (2 * w) else .data w
  match o with
  | .ld => ⟨.vdst dw, .reg 64, .unused, .unused⟩
  | .st => ⟨.unused, .reg 64, .data w, .unused⟩
  | .lds => ⟨.vdst dw, .reg 32, .unused, .unused⟩
  | .sts => ⟨.unused, .reg 32, .data w, .unused⟩
  | .ldu => ⟨.sdst dw, .sreg 64, .unused, .unused⟩
  | .stu => ⟨.unused, .sreg 64, .sdata w, .unused⟩
  | .atom => ⟨.vdst dw, .reg 64, op, .unused⟩
  | .red => ⟨.unused, .reg 64, .data w, .unused⟩
  | .atoms => ⟨.vdst dw, .reg 32, op, .unused⟩
  | .fence => ⟨.unused, .unused, .unused, .unused⟩
  | .cctl => ⟨.unused, .reg 64, .unused, .unused⟩
  | .ldb => ⟨.vdst dw, .reg 32, .unused, .unused⟩
  | .stb => ⟨.unused, .reg 32, .data w, .unused⟩
  | .msend => ⟨.sdst 32, .uint 32, .vreg w, .unused⟩

/-- The FN values of a format M instruction (R37, R72, R178, R182, R187, R350). -/
def OpM.fnOk (o : OpM) (fn : BitVec 6) : Bool :=
  let lo := fnLo fn
  let hi := fnHi fn
  match o with
  | .ld | .ldu => lo ≤ 4 && hi ≤ 3 && !(lo == 4 && hi % 2 == 1)
  | .st | .stu => lo ≤ 4 && (hi == 0 || hi == 2)
  | .lds => lo ≤ 4 && hi ≤ 1 && !(lo == 4 && hi == 1)
  | .sts => lo ≤ 4 && hi == 0
  | .atom | .atoms => lo == 2 || lo == 3
  | .red => (lo == 2 || lo == 3) && hi ≤ 6
  | .fence => lo == 0 && hi ≤ 2
  | .cctl => lo == 0 && hi ≤ 3
  | .ldb | .stb => 2 ≤ lo && lo ≤ 4 && hi ≤ 2
  | .msend => (lo == 2 || lo == 3) && hi ≤ 3

/-- The orderings a format M instruction admits (R175, R350). -/
def OpM.soOk (o : OpM) (so : Nat) : Bool :=
  match o with
  | .ld | .ldu | .lds => so ≤ 1
  | .st | .stu | .sts | .red | .msend => so == 0 || so == 2
  | .atom | .atoms => true
  | .fence | .cctl | .ldb | .stb => so == 0

/-- Whether a format M instruction admits the 96-bit form (R61). -/
def OpM.wideOk (o : OpM) : Bool :=
  match o with
  | .fence | .ldb | .stb | .msend => false
  | _ => true

/-- Whether a format M instruction uses its offset (R178, R350). -/
def OpM.usesOff (o : OpM) : Bool :=
  match o with
  | .fence | .msend => false
  | _ => true

/-- The X field of a format B instruction (R221, R369, R415). -/
def OpB.slotX (o : OpB) : Slot :=
  match o with
  | .brq | .brv | .jenrol | .jpark | .jstrike => .num7
  | .brx | .callx => .sreg 64
  | .sleep => .uint 32
  | _ => .unused

/-- Whether a format B instruction takes a target in REL24 (R221, R369). -/
def OpB.usesRel (o : OpB) : Bool :=
  match o with
  | .bra | .brq | .brv | .call | .jenrol => true
  | _ => false

/-- The FN values of a format B instruction (R221, R369, R415). -/
def OpB.fnOk (o : OpB) (fn : BitVec 6) : Bool :=
  match o with
  | .brq => fn.toNat ≤ 2
  | .brv => fn.toNat ≤ 1
  | .trap => true
  | _ => fn == 0

/-- Whether a format T instruction has the 128-bit form; it then has no other (R61). -/
def OpT.wide (o : OpT) : Bool :=
  match o with
  | .waitc | .csrr | .csrw | .slop3 | .qlop | .vlop3 | .plop | .tcopy | .tcopym | .walloc | .mloop | .mepi => true
  | _ => false

/-- The operand positions of a format T instruction (R210, R226, R232, R239, R310, R341, R369). -/
def OpT.slots (o : OpT) (fn : BitVec 6) (w1 : Nat) : Slots :=
  let w := intWidth (fnLo fn)
  let u := Slot.uint 32
  match o with
  | .waitc | .bond | .unbond | .bar | .spillf | .fillf => ⟨.unused, .unused, .unused, .unused⟩
  | .enq => ⟨.num6, .sreg 64, u, .unused⟩
  | .csrr => ⟨.sdst 32, .unused, .unused, .unused⟩
  | .csrw => ⟨.unused, u, .unused, .unused⟩
  | .slop3 => ⟨.sdst w, .usrc w false, .usrc w false, .usrc w false⟩
  | .vlop3 => ⟨.vdst w, .vsrc w false, .vsrc w false, .vsrc w false⟩
  | .qlop | .plop => ⟨.num6, .num7, .num7, .num7⟩
  | .tcopy | .tcopym => ⟨.unused, .uint 64, u, if bitsOf 3 1 fn.toNat == 1 then u else .unused⟩
  | .tshape => ⟨.sdst 32, .uint 64, .unused, .unused⟩
  | .tsfence => ⟨.unused, if fn == 0 then .unused else .uint 64, .unused, .unused⟩
  | .twany => ⟨.sdst 64, .uint 64, .unused, .unused⟩
  | .twall | .tclr => ⟨.unused, .uint 64, .unused, .unused⟩
  | .tfirst => ⟨.sdst 32, .uint 64, .unused, .unused⟩
  | .aclaim => ⟨.sdst 32, .usrc 32 false, .unused, .unused⟩
  | .afree | .wpin | .wunpin | .wrevoke | .mloop | .mzero => ⟨.unused, .usrc 32 false, .unused, .unused⟩
  | .walloc => ⟨.sdst 32, .unused, .unused, .unused⟩
  | .wload => ⟨.unused, .usrc 32 false, .usrc 64 false, .unused⟩
  | .wquery => ⟨.sdst 64, .usrc 32 false, .usrc 32 false, .unused⟩
  | .mepi => ⟨.unused, .usrc 32 true, if bitsOf 14 3 w1 == 5 || bitsOf 14 3 w1 == 6 then .usrc 32 false else .unused,
      .unused⟩
  | .mcorr => ⟨.unused, .usrc 32 false, .usrc 32 false, .unused⟩
  | .phnew => ⟨.sdst 32, if fn == 0 then .unused else u, .unused, .unused⟩
  | .phfree | .phreg | .phdrop => ⟨.unused, u, .unused, .unused⟩
  | .phsig | .phexp => ⟨.unused, u, u, .unused⟩
  | .phwait | .phsw => ⟨.sdst 32, u, u, .unused⟩
  | .rwait => ⟨.sdst 32, u, u, .unused⟩
  | .qpush | .qmark => ⟨.unused, u, u, .unused⟩
  | .qpop => ⟨.sdst 32, u, .unused, .num6⟩
  | .qstat => ⟨.sdst 32, u, .unused, .unused⟩

/-- The FN values of a format T instruction. -/
def OpT.fnOk (o : OpT) (fn : BitVec 6) : Bool :=
  let n := fn.toNat
  match o with
  | .slop3 | .vlop3 => n == 5 || n == 7
  | .csrw => n ≤ 2
  | .tcopy => n % 8 ≤ 3 && n < 32 && (n < 16 || n % 8 == 2)
  | .tcopym => n % 8 == 2 && n < 32
  | .tsfence | .walloc | .phnew => n ≤ 1
  | .mloop => n ≤ 3
  | .mcorr => n < 16
  | .phreg => 1 ≤ n && n ≤ 3
  | _ => n == 0

/-- The CSR indices of R231 and R203. -/
def csrIndices : List Nat :=
  [0x000, 0x001, 0x002, 0x010, 0x011, 0x012, 0x013, 0x014, 0x015, 0x016, 0x020, 0x021, 0x022, 0x030, 0x031, 0x032,
   0x033, 0x040, 0x041, 0x042, 0x043]

/-- The lowest bits of the fields of W1 that break a description: reserved bits, limits and forbidden pairs
(R39, R210, R232, R237, R310, R325, R376). -/
def OpT.w1Bad (o : OpT) (fn : BitVec 6) (w1 : Nat) : List Nat :=
  let bad (b : Bool) (n : Nat) : List Nat := if b then [n] else []
  let fld := fun lo len => bitsOf lo len w1
  match o with
  | .waitc => bad (fld 30 34 != 0) 94
  | .csrr | .csrw => bad (!(csrIndices.contains (fld 0 12))) 64 ++ bad (fld 12 52 != 0) 76
  | .slop3 | .vlop3 | .qlop | .plop => bad (fld 8 56 != 0) 72
  | .tcopy => bad (fld 6 34 != 0) 70 ++ bad (!fn.getLsbD 4 && fld 40 16 != 0) 104 ++ bad (fld 56 8 != 0) 120
  | .tcopym => bad (fld 6 2 != 0) 70 ++ bad (!fn.getLsbD 4 && fld 40 16 != 0) 104 ++ bad (fld 56 8 != 0) 120
  | .walloc => bad (fld 0 6 == 0 || 32 < fld 0 6) 64 ++ bad (fld 6 3 == 7 || (fn == 1 && 5 ≤ fld 6 3)) 70 ++
      bad (fld 9 1 != 0) 73 ++ bad (16 < fld 10 5 || (fld 10 5 != 0 && 2 ≤ fld 6 3 && fld 6 3 ≤ 4)) 74 ++
      bad (fld 15 49 != 0) 79
  | .mloop => bad (fld 15 6 == 0 || 32 < fld 15 6) 79 ++ bad (fld 21 3 == 7) 85 ++ bad (fld 24 40 != 0) 88
  | .mepi => bad (fld 12 1 == 1 && fld 13 1 == 1 && fld 8 4 == fld 0 4) 72 ++ bad (fld 14 3 == 7) 78 ++
      bad (fld 17 2 == 3) 81 ++ bad (fld 19 3 == 5 || fld 19 3 == 7) 83 ++
      bad (if fld 14 3 == 5 || fld 14 3 == 6 then fld 22 1 == 0 else fld 14 3 ≤ 2 && fld 22 1 == 1) 86 ++
      bad (fld 24 40 != 0) 88
  | _ => bad (w1 != 0) 64

/-! ## The checks of R49 on the fields of an instruction -/

/-- The decode faults of orders 2-7 (R49, R403). -/
inductive DecodeKind where
  | illegalLength | fetchAlign | illegalOp | illegalField | illegalFn | illegalOpnd
  deriving DecidableEq, Repr

/-- A decode fault with its TRAPINFO[7:0] (R50). -/
structure DecodeFault where
  kind : DecodeKind
  info : Nat
  deriving DecidableEq, Repr

/-- The lowest offending field, where there is one (R50: the lowest bit of the offending field). -/
def lowest : List Nat → Option Nat
  | [] => none
  | n :: ns => match lowest ns with
    | none => some n
    | some m => some (min n m)

/-- The field bit `n` where the test fails. -/
def failAt (ok : Bool) (n : Nat) : List Nat := if ok then [] else [n]

/-- An unused position that does not hold 0x00 (R47). -/
def unusedBad (sl : Slot) (code n : Nat) : List Nat := failAt (sl != .unused || code == 0) n

/-- The guard: PRED 7 with PN 1 is no guard (R31). -/
def guardBad (g : Guard) : List Nat := failAt (!(g.pred == 7 && g.neg)) 13

/-- The order 5 faults of an instruction's fields, as the lowest bits of the fields that cause them. -/
def fieldBad : View → List Nat
  | .a o f =>
      let s := o.slots f.fn
      let uses : Bool := f.d == 0xB8 || f.a == 0xB8 || f.b == 0xB8 || f.c == 0xB8
      guardBad f.g ++ unusedBad s.d f.d.toNat 16 ++ unusedBad s.a f.a.toNat 24 ++ unusedBad s.b f.b.toNat 32 ++
      unusedBad s.c f.c.toNat 40 ++ failAt (o.rndOk f.fn f.rnd.toNat) 54 ++ failAt (o.satOk f.fn f.sat) 57 ++
      failAt (!f.na || o.modA f.fn) 58 ++ failAt (!f.nb || o.modB) 59 ++ failAt (!f.aa || o.modA f.fn) 60 ++
      failAt (!f.ab || o.modB) 61 ++ failAt (uses || f.lit.getD 0 == 0) 64
  | .m o f =>
      let s := o.slots f.fn
      guardBad f.g ++ failAt (f.ext.isNone || o.wideOk) 0 ++ unusedBad s.d f.d.toNat 16 ++ unusedBad s.a f.addr.toNat 24 ++
      unusedBad s.b f.data.toNat 32 ++ failAt (o.soOk f.so.toNat) 46 ++
      failAt (if f.ext.isSome || !o.usesOff then f.off == 0 else true) 48
  | .b o f =>
      guardBad f.g ++ failAt (!f.wide || o == .nop) 0 ++ failAt (o.usesRel || f.rel == 0) 16 ++
      unusedBad o.slotX f.x.toNat 40
  | .t o f =>
      let s := o.slots f.fn (f.w1.getD 0).toNat
      guardBad f.g ++ failAt (f.w1.isSome == o.wide) 0 ++ unusedBad s.d f.d.toNat 16 ++ unusedBad s.a f.a.toNat 24 ++
      unusedBad s.b f.b.toNat 32 ++ unusedBad s.c f.c.toNat 40 ++ o.w1Bad f.fn (f.w1.getD 0).toNat
  | .event => []

/-- Whether FN is listed (order 6). -/
def fnListed : View → Bool
  | .a o f => o.fnOk f.fn
  | .m o f => o.fnOk f.fn
  | .b o f => o.fnOk f.fn
  | .t o f => o.fnOk f.fn
  | .event => true

/-- The lowest bit of FN in each format (R50). -/
def fnBit : View → Nat
  | .m _ _ => 40
  | _ => 48

/-- The order 7 faults of an instruction's operand codes, under an allocation of `scalars` uniform registers. -/
def operandBad (scalars : Nat) : View → List Nat
  | .a o f =>
      let s := o.slots f.fn
      let l := f.lit.isSome
      failAt (s.d.ok f.d.toNat scalars l) 16 ++ failAt (s.a.ok f.a.toNat scalars l) 24 ++
      failAt (s.b.ok f.b.toNat scalars l) 32 ++ failAt (s.c.ok f.c.toNat scalars l) 40
  | .m o f =>
      let s := o.slots f.fn
      failAt (s.d.ok f.d.toNat scalars false) 16 ++ failAt (s.a.ok f.addr.toNat scalars false) 24 ++
      failAt (s.b.ok f.data.toNat scalars false) 32
  | .b o f => failAt (o.slotX.ok f.x.toNat scalars false) 40
  | .t o f =>
      let s := o.slots f.fn (f.w1.getD 0).toNat
      failAt (s.d.ok f.d.toNat scalars false) 16 ++ failAt (s.a.ok f.a.toNat scalars false) 24 ++
      failAt (s.b.ok f.b.toNat scalars false) 32 ++ failAt (s.c.ok f.c.toNat scalars false) 40
  | .event => []

/-- The faults of orders 5 to 7 that the fields give, in the order of R49; `extra` holds the order 5 faults of bits
that no field keeps. -/
def checkView (scalars : Nat) (extra : List Nat) (v : View) : Option DecodeFault :=
  match lowest (extra ++ fieldBad v) with
  | some n => some ⟨.illegalField, n⟩
  | none =>
    if !fnListed v then some ⟨.illegalFn, fnBit v⟩
    else match lowest (operandBad scalars v) with
      | some n => some ⟨.illegalOpnd, n⟩
      | none => none

/-! ## The decoder -/

/-- The length in bytes of a LEN code (R26). -/
def lenBytes (len : Nat) : Option Nat :=
  match len with
  | 0 => some 8
  | 1 => some 12
  | 2 => some 16
  | _ => none

/-- The guard field of the first half-word (R30). -/
def guardOf (w0 : Nat) : Guard := ⟨BitVec.ofNat 3 (w0 >>> 10), (w0 >>> 13) % 2 == 1⟩

/-- Format A's fields (R32, R33). -/
def insAOf (w0 : Nat) (lit : Option (BitVec 32)) : InsA :=
  { g := guardOf w0, d := BitVec.ofNat 8 (w0 >>> 16), a := BitVec.ofNat 8 (w0 >>> 24), b := BitVec.ofNat 8 (w0 >>> 32),
    c := BitVec.ofNat 8 (w0 >>> 40), fn := BitVec.ofNat 6 (w0 >>> 48), rnd := BitVec.ofNat 3 (w0 >>> 54),
    sat := (w0 >>> 57) % 2 == 1, na := (w0 >>> 58) % 2 == 1, nb := (w0 >>> 59) % 2 == 1, aa := (w0 >>> 60) % 2 == 1,
    ab := (w0 >>> 61) % 2 == 1, lit := lit }

/-- Format M's fields (R36, R37). -/
def insMOf (w0 : Nat) (ext : Option (BitVec 32)) : InsM :=
  { g := guardOf w0, d := BitVec.ofNat 8 (w0 >>> 16), addr := BitVec.ofNat 8 (w0 >>> 24),
    data := BitVec.ofNat 8 (w0 >>> 32), fn := BitVec.ofNat 6 (w0 >>> 40), so := BitVec.ofNat 2 (w0 >>> 46),
    off := BitVec.ofNat 16 (w0 >>> 48), ext := ext }

/-- Format B's fields (R38). -/
def insBOf (w0 : Nat) (wide : Bool) : InsB :=
  { g := guardOf w0, rel := BitVec.ofNat 24 (w0 >>> 16), x := BitVec.ofNat 8 (w0 >>> 40),
    fn := BitVec.ofNat 6 (w0 >>> 48), wide := wide }

/-- Format T's fields (R39). -/
def insTOf (w0 : Nat) (w1 : Option (BitVec 64)) : InsT :=
  { g := guardOf w0, d := BitVec.ofNat 8 (w0 >>> 16), a := BitVec.ofNat 8 (w0 >>> 24), b := BitVec.ofNat 8 (w0 >>> 32),
    c := BitVec.ofNat 8 (w0 >>> 40), fn := BitVec.ofNat 6 (w0 >>> 48), w1 := w1 }

/-- The instruction of an opcode whose W0 is `w0` and whose bits above W0 are `hi`, and the order 5 faults of the
bits its fields do not keep: reserved bits (R30, R32, R38, R39), a length its format does not have (R40), and the
extension word of the 96-bit NOP (R369). -/
def fieldsOf (o : Op) (bytes : Nat) (w0 hi : Nat) : Instr × List Nat :=
  let common := failAt (bitsOf 14 2 w0 == 0) 14
  match o with
  | .a p => (.ofA p (insAOf w0 (if bytes == 12 then some (BitVec.ofNat 32 hi) else none)),
      common ++ failAt (bytes != 16) 0 ++ failAt (bitsOf 62 2 w0 == 0) 62)
  | .m p => (.ofM p (insMOf w0 (if bytes == 12 then some (BitVec.ofNat 32 hi) else none)),
      common ++ failAt (bytes != 16) 0)
  | .b p => (.ofB p (insBOf w0 (bytes == 12)),
      common ++ failAt (bytes != 16) 0 ++ failAt (bitsOf 54 10 w0 == 0) 54 ++ failAt (bytes != 12 || hi == 0) 64)
  | .t p => (.ofT p (insTOf w0 (if bytes == 16 then some (BitVec.ofNat 64 hi) else none)),
      common ++ failAt (bytes != 12) 0 ++ failAt (bitsOf 54 10 w0 == 0) 54)

/-- The decoder: the bytes from the PC on, and the first fault of orders 2-7 that applies (R49). The bytes after the
length that LEN names are never read. -/
def decode (scalars pc : Nat) (bytes : List Byte) : Except DecodeFault Instr :=
  match lenBytes (leNat (bytes.take 1) % 4) with
  | none => .error ⟨.illegalLength, 0⟩
  | some n =>
    if pc % 4 != 0 || 32 < pc % 32 + n || bytes.length < n then .error ⟨.fetchAlign, 0⟩
    else
      let w0 := leNat (bytes.take 8)
      let hi := leNat ((bytes.take n).drop 8)
      match Op.ofCode (bitsOf 2 8 w0) with
      | none => .error ⟨.illegalOp, 0⟩
      | some o =>
        let r := fieldsOf o n w0 hi
        match checkView scalars r.2 r.1.view with
        | some e => .error e
        | none => .ok r.1

/-! ## The encoder -/

/-- The first half-word: LEN, OPC, PRED and PN (R30). -/
def headBits (len : Nat) (o : Op) (g : Guard) : Nat :=
  len + 4 * o.code + 2 ^ 10 * g.pred.toNat + 2 ^ 13 * g.neg.toNat

/-- The word W0 and the bits above it of each format (R32, R36, R38, R39), with the length in bytes. -/
def encodeView : View → Option (Nat × Nat × Nat)
  | .a o f => some (headBits (if f.lit.isSome then 1 else 0) (.a o) f.g + 2 ^ 16 * f.d.toNat + 2 ^ 24 * f.a.toNat +
      2 ^ 32 * f.b.toNat + 2 ^ 40 * f.c.toNat + 2 ^ 48 * f.fn.toNat + 2 ^ 54 * f.rnd.toNat + 2 ^ 57 * f.sat.toNat +
      2 ^ 58 * f.na.toNat + 2 ^ 59 * f.nb.toNat + 2 ^ 60 * f.aa.toNat + 2 ^ 61 * f.ab.toNat,
      (f.lit.getD 0).toNat, if f.lit.isSome then 12 else 8)
  | .m o f => some (headBits (if f.ext.isSome then 1 else 0) (.m o) f.g + 2 ^ 16 * f.d.toNat + 2 ^ 24 * f.addr.toNat +
      2 ^ 32 * f.data.toNat + 2 ^ 40 * f.fn.toNat + 2 ^ 46 * f.so.toNat + 2 ^ 48 * f.off.toNat,
      (f.ext.getD 0).toNat, if f.ext.isSome then 12 else 8)
  | .b o f => some (headBits (if f.wide then 1 else 0) (.b o) f.g + 2 ^ 16 * f.rel.toNat + 2 ^ 40 * f.x.toNat +
      2 ^ 48 * f.fn.toNat, 0, if f.wide then 12 else 8)
  | .t o f => some (headBits (if f.w1.isSome then 2 else 0) (.t o) f.g + 2 ^ 16 * f.d.toNat + 2 ^ 24 * f.a.toNat +
      2 ^ 32 * f.b.toNat + 2 ^ 40 * f.c.toNat + 2 ^ 48 * f.fn.toNat,
      (f.w1.getD 0).toNat, if f.w1.isSome then 16 else 8)
  | .event => none

/-- The bytes of an instruction, lowest address first; an event of the device has none. -/
def encode (i : Instr) : Option (List Byte) :=
  (encodeView i.view).map fun e => leBytes 8 e.1 ++ leBytes (e.2.2 - 8) e.2.1

/-- The length in bytes of an instruction (R26). -/
def Instr.bytes (i : Instr) : Nat :=
  match encodeView i.view with
  | some e => e.2.2
  | none => 0

/-! ## The host's view of the decoder -/

/-- The sixteen bytes of an instruction whose bits are `w`, bit 0 the least significant bit of its first word; the
bits above `nbits` are zero. -/
def tableBytes (nbits w : Nat) : List Byte := leBytes 16 (w % 2 ^ nbits)

/-- The instruction the decoder reads from a word of the opcode table. -/
def decodeTableWord (nbits w : Nat) : Option Instr :=
  match decode 128 0 (tableBytes nbits w) with
  | .ok i => some i
  | .error _ => none

/-! ## Pipes and classes (R61, R63) -/

/-- The six pipes of a core (R19, R61). -/
inductive Pipe where
  | scalar | vi | vf | sfu | mem | async
  deriving DecidableEq, Repr

/-- The pipe of a mnemonic (R61). -/
def Op.pipe (o : Op) : Pipe :=
  let c := o.code
  if c == 0x10 || c == 0x13 || c == 0x14 then .async
  else if c < 0x30 then .scalar
  else if c < 0x50 then .vi
  else if c < 0x60 then .vf
  else if c < 0x70 then .sfu
  else if c == 0x70 || c == 0x71 || c == 0x74 then .vf
  else if c < 0x80 then .vi
  else if c < 0x8D || c == 0xE0 || c == 0xE1 then .mem
  else .async

/-- The outstanding-operation classes (R61, R64). -/
inductive Cls where
  | ld | st | cp | tl | ms
  deriving DecidableEq, Repr

/-- The class of a mnemonic (R61). -/
def Op.cls : Op → Option Cls
  | .m .ld | .m .lds | .m .ldu | .m .atom | .m .atoms | .m .ldb | .t .fillf => some .ld
  | .m .st | .m .sts | .m .stu | .m .red | .m .stb | .t .spillf => some .st
  | .m .msend => some .ms
  | .t .tcopy | .t .tcopym => some .cp
  | .t .wload | .t .mloop | .t .mzero | .t .mepi | .t .mcorr => some .tl
  | _ => none

/-- The mnemonic of an instruction. -/
def View.op : View → Option Op
  | .a o _ => some (.a o)
  | .m o _ => some (.m o)
  | .b o _ => some (.b o)
  | .t o _ => some (.t o)
  | .event => none

/-- Whether a form has an .F64 source or result, for the holds of R63. -/
def View.isF64 : View → Bool
  | .a .vcvt f => fnLo f.fn == 3 || fnHi f.fn == 3
  | .a o f => (Op.a o).code ≥ 0x50 && (Op.a o).code < 0x70 && fnLo f.fn == 3
  | _ => false

/-- The core cycles an instruction holds its pipe (R63). -/
def View.hold (v : View) : Nat :=
  match v.op with
  | none => 0
  | some o => match o.pipe with
    | .scalar | .async => 1
    | .vi => 4
    | .vf => if v.isF64 then 32 else 4
    | .sfu => if v.isF64 then 32 else 8
    | .mem => match o with
      | .m .ldu | .m .stu | .m .fence | .m .cctl => 1
      | .t .spillf | .t .fillf => 64
      | _ => 4

end Sys2Proof
end

