-- ==== Sys2Proof/Config.lean ====
section
/-! DEFINITION. The free values of the model: constants without a body, so that nothing can be proved about the value
of one beyond its type. Each is applied to a count of the values drawn so far, or to the operands it depends on. -/

namespace Sys2Proof

/-- An error that radiation or wear brings (R170, R431), which no rule dates: in a 4-byte word of SPAD, ABUF, CBUF or
CBUF's side vectors (store 0, 1, 2 or 3), single or double, of which the last may be the report of a faulty core (R437); in a line of an L1 or of an
instruction cache; or in a word of a wave's frame (64 x register + thread), in its own copy or in the mirror's (R433). -/
inductive Upset where
  | word (core store word : Nat) (double fence : Bool)
  | line (core place : Nat) (code : Bool)
  | register (wave : WaveId) (frame word : Nat) (mirror : Bool)
  deriving DecidableEq, Repr

namespace Config

/-- A byte of a core memory whose contents are undefined (R161), by draw and address. -/
opaque freeByte : Nat → Nat → Byte

/-- A word of a frame whose contents are undefined (R218, R222), by draw, register and thread. -/
opaque freeWord : Nat → Nat → Nat → Word

/-- A choice among `n` alternatives that no rule orders, by draw; read modulo `n`. -/
opaque choice : Nat → Nat

/-- A byte read from a line under another key than the one it was written under (R90, R92): by line address, the key
slot and epoch of the reader, those of the writer, the byte's place, and the byte written. -/
opaque decrypted : Nat → Nat → Nat → Nat → Nat → Nat → Byte → Byte

/-- Whether a 64-byte chunk of a line that nothing has written since its range was set comes with poison (R462), by the
range's draw and the chunk. -/
opaque unwrittenPoison : Nat → Nat → Bool

/-- The error that strikes where nothing else is due, if one does (R431), by draw. -/
opaque upset : Nat → Option Upset

/-- The turn that the memory pipe of a core takes at a port of its memories next, if one does (R163): the core, and the place of the
operation among those in flight, by draw. -/
opaque portTurn : Nat → Option (Nat × Nat)

/-- The event that takes place next when nothing is due: any occurrence of any row, by draw. -/
opaque nextEvent : Nat → Instr

/-- A value of the cryptography that the spec names without giving its bits here (R440, R441): byte strings by the
operation's number and its inputs. -/
opaque cryptoBytes : Nat → List Byte → List Byte

/-- Whether a seal or a signature verifies (R440, R441), by the secret and the bytes. -/
opaque cryptoOk : Nat → List Byte → Bool

/-- The SHA-384 measurement of a byte string (R440), and the boot ROM that a report measures. -/
opaque sha384 : List Byte → List Byte
opaque bootRom : List Byte

/-- The fused threshold of a die's SRAM rail and other fused state reported by R440. -/
opaque fuses : List Byte

/-- The layout that a DOMAINCUT packet names in memory, whose format the spec does not give, by draw. -/
opaque layout : Nat → List DomainPlan

/-- Where firmware has placed a context's save area, in GiB from the base of its domain's range, and its key slot (R423). -/
opaque saveArea : Nat → Nat
opaque saveKey : Nat → BitVec 12

/-- The CRC-64 of a flit's bits [1983:0] (R442), whose polynomial the spec does not give. -/
opaque crc64 : Nat → BitVec 64

/-- The number of this package among the peers of the Nopel links (R73, R442). -/
opaque package : BitVec 13

/-- Where a domain's firmware has placed the aperture that it exports to peers, and the key slot of its memory (R73). -/
opaque apertureBase : Nat → Nat
opaque apertureKey : Nat → Nat

end Config

end Sys2Proof
end

