-- ==== Sys2Proof/Machine/State.lean ====
section
/-! DEFINITION. The state of the Hexlon K40 as plain data: the waves, the cores, the clusters, the network and its
slices, package memory, the front end, the reliability and security unit and the Nopel links, each with the rule
that names it. Indices are natural numbers: a core is 2,048 x die + 16 x cluster + core (R423), a cluster
128 x die + cluster, a slice 256 x die + slice (R75), a port as R97 numbers it. Tables are lists of (index, value)
in rising order; an index not listed holds the reset value of its entry. -/

namespace Sys2Proof.Machine

/-- A table indexed by number, in rising order. -/
abbrev Map (α : Type) := List (Nat × α)

/-- Why a run stops with a fault: the spec gives every access and every instruction an outcome inside the machine,
so no step of this model raises a fault (safe). -/
inductive Fault where
  deriving DecidableEq, Repr

/-- Why an instruction has no meaning here. -/
inductive Refusal where
  /-- Raised by an arm of exec whose instruction has no meaning in the model yet; safe, since the run stops. -/
  | notModelled (mnemonic : String)
  deriving DecidableEq, Repr

/-! ## Bytes with a background -/

/-- A range of a core memory with one content: zero, or bytes that the spec leaves undefined (R161), named by the
free value drawn for them. -/
structure Fill where
  lo : Nat
  len : Nat
  draw : Option Nat
  deriving DecidableEq, Repr

/-- A core memory (R158): the bytes written, over the newest range that holds the address, over zero; and its
poisoned 4-byte words (R170). -/
structure Store where
  cells : List Host.Cell
  fills : List Fill
  poison : List Nat
  deriving DecidableEq, Repr

/-! ## The wave (R217, R366) -/

/-- A rejoin mask jN (R366). -/
structure Join where
  mask : Mask
  arrived : Mask
  pc : VAddr
  deriving DecidableEq, Repr

/-- An entry of the path stack (R366). -/
structure PathEntry where
  pc : VAddr
  mask : Mask
  deriving DecidableEq, Repr

/-- A physical frame: the LINK word, and 16 registers of 64 threads (R219, R220); a register not listed holds zeros. -/
structure Frame where
  link : BitVec 64
  regs : Map (List Word)
  deriving DecidableEq, Repr

/-- The CSR fields that a wave holds (R231, R233, R270). `spill` is SPILLBASE, `tvOff` TRAPVEC.OFF. -/
structure Csrs where
  prot : Bool
  sren : Bool
  mixtrap : Bool
  ftz : Bool
  rm : BitVec 3
  flags : BitVec 8
  seed : Word
  tvOff : BitVec 30
  cause : BitVec 8
  tpc : VAddr
  tmask : Mask
  tinfo : BitVec 22
  spill : VAddr
  latch : Word
  qsat : Word
  qunder : Word
  deriving DecidableEq, Repr

/-- The class counters (R64). -/
structure Counts where
  ld : Nat
  st : Nat
  cp : Nat
  tl : Nat
  ms : Nat
  deriving DecidableEq, Repr

/-- The address space and domain of a wave or a grid (R77, R394), with the record that names them. -/
structure Context where
  asr : Nat
  dom : Nat
  asn : Nat
  key : Nat
  root : Nat
  deriving DecidableEq, Repr

/-- A register or predicate that a scoreboard entry names (R65); a v register by its logical frame and its number
in that frame. -/
inductive SbReg where
  | v (frame reg : Nat)
  | s (n : Nat)
  | p (n : Nat)
  | q (n : Nat)
  deriving DecidableEq, Repr


/-- A TLB entry: a leaf translation (R81) of 2^size bytes. -/
structure TlbEntry where
  asn : Nat
  page : Nat
  size : Nat
  frame : Nat
  key : Nat
  mt : Nat
  w : Bool
  x : Bool
  d : Bool
  dom : Nat
  deriving DecidableEq, Repr

/-- What a walk finds: a sub-code of R84 with the level, a poisoned table entry, or the translation. -/
inductive WalkFault where
  | sub (code level : Nat)
  | poison
  | found (e : TlbEntry)
  deriving DecidableEq, Repr

/-- The answer of a completed walk that a wave or an engine waits for (R82, R84): the 4 KiB page, the access kind, and what
the walk found; it serves the access that waits, whatever the TLBs hold by then. -/
structure WalkAnswer where
  page : Nat
  kind : Nat
  fault : WalkFault
  deriving DecidableEq, Repr

/-- A registration slot (R334). -/
structure Registration where
  handle : Word
  mode : Nat
  sph : Nat
  deriving DecidableEq, Repr

/-- A tile fault that is pending (R311, R412); `order` is the faulting operation's place among the wave's. -/
structure PendTile where
  cause : BitVec 8
  info : BitVec 22
  order : Nat
  deriving DecidableEq, Repr

/-- A result on its way to its registers (R65): the core cycle at which it comes, the registers that it keeps scoreboarded, and
whether its instruction can set FLAGS (R233). -/
structure Pend where
  ends : Nat
  regs : List SbReg
  flags : Bool
  deriving DecidableEq, Repr

/-- The scheduling state of a wave slot (R230, R363-R365, R367, R408). -/
structure Sched where
  live : Bool
  inSet : Bool
  age : Nat
  passed : Nat
  idle : Nat
  readyOut : Nat
  sleepUntil : Nat
  notBefore : Nat
  drowsy : Bool
  stalls : List Word
  deriving DecidableEq, Repr

/-- The waits of a wave's own: the stall code of the instruction that waits (R365), its arrival at the block's
barrier (R348) and at BOND (R312), the ENQs without their answer (R379), the polls made by a PHWAIT
and the time of the next (R340), the trap handler's first fetch (R408), an EXIT that left no path (R360), and how often
the instruction at hand has been refused for want of a walk entry (R82, R172). -/
structure Waits where
  stall : Option Nat
  barrier : Bool
  bond : Bool
  enq : Nat
  polls : Nat
  pollAt : Nat
  handler : Bool
  ending : Bool
  rejects : Nat
  deriving DecidableEq, Repr

/-- The control state of a wave: PC, EXEC, the lanes that have ended (R375), rejoin masks and path stack (R366). -/
structure Control where
  pc : VAddr
  exec : Mask
  ended : Mask
  joins : Map Join
  path : List PathEntry
  deriving DecidableEq, Repr

/-- The window and the frames (R219): CUR, LO, the NF physical frames and the frame that holds each resident logical one;
which of the core's 32 frames they are, and which of them mirror them (R433). -/
structure Window where
  cur : Nat
  lo : Nat
  nf : Nat
  frames : Map Frame
  place : Map Nat
  held : List Nat
  mirrors : List Nat
  deriving DecidableEq, Repr

/-- What the launch fixes for a wave (R356, R391, R393): grid and block, wave number, waves of the block, uniform
registers, the work identifier with field 0 zero, and the code base. -/
structure Identity where
  grid : Nat
  block : Nat
  wave : Nat
  nwaves : Nat
  scalars : Nat
  wid : BitVec 64
  codeBase : VAddr
  deriving DecidableEq, Repr

/-- A wave slot's wave (R217). `copyTs` is the highest completion timestamp of its copies, which a release takes into
pts (R145, R149); `parity` are the words with a parity error: the frame, 64 x register + thread, and whether in the mirror's copy (R433). -/
structure Wave where
  ctl : Control
  win : Window
  p : Map Mask
  s : Map Word
  q : Map Bool
  csr : Csrs
  gens : List Word
  cnt : Counts
  ctx : Context
  ident : Identity
  pts : Nat
  copyTs : Nat
  trig : Option Nat
  slots : Map Registration
  tile : Option PendTile
  tlIssued : Nat
  impKey : Option (BitVec 22)
  impMixed : Option (BitVec 22)
  halt : Option Nat
  sched : Sched
  sb : List (SbReg × Nat)
  pend : List Pend
  answers : List WalkAnswer
  parity : List (Nat × Nat × Bool)
  waits : Waits
  deriving DecidableEq, Repr

/-! ## Memory operations in flight (R171, R172, R137) -/

/-- An aligned piece of a thread's access (R103, R142): its virtual and physical address, length, offset in the
thread's value, and the key slot and page type of its translation. -/
structure Piece where
  thread : Nat
  va : Nat
  pa : Nat
  len : Nat
  off : Nat
  key : Nat
  mt : Nat
  deriving DecidableEq, Repr

/-- Where a packet of an operation stands; `rewalk` is a request that a REDIRECT sent back to its walk (R87). -/
inductive ReqState where
  | unsent
  | rewalk
  | sent (port slice seq : Nat)
  | done
  deriving DecidableEq, Repr

/-- An entry of the mixed-size monitor (R144), with what R143 needs of the write: its WTS, the bytes that it wrote over and
the WTS that its line had before, and the accesses that its packet merges, address and length of each (none where the packet is
one access). -/
structure MonitorEntry where
  addr : Nat
  len : Nat
  time : Nat
  wts : Nat
  old : List Byte
  owts : Nat
  cuts : List (Nat × Nat)
  deriving DecidableEq, Repr

/-- One packet of an operation (R171): what it asks, the pieces it serves, its refusals (R172), and the answer, with the last
writes that overlap it, newest first (R143). -/
structure Request where
  pa : Nat
  len : Nat
  key : Nat
  data : List Byte
  pieces : List Piece
  st : ReqState
  refused : Nat
  val : List Byte
  poison : Bool
  wts : Nat
  rts : Nat
  olds : List MonitorEntry := []
  deriving DecidableEq, Repr

/-- The kinds of operation that the memory pipe leaves in flight: accesses by packets, messages, and accesses to the core's own
memories, whose requests are those of the beats in turn, numbered by `key`, with the cycles of the port in `rts` of the first of
a beat and the core cycle at which the data is there in `wts` (R162). -/
inductive OpKind where
  | load | store | atom | red | spill | fill | prefetch | msend | ratoms | coreLoad | coreStore | coreAtom
  deriving DecidableEq, Repr

/-- Whether an operation accesses the core's own memories. -/
def OpKind.onCore : OpKind → Bool
  | .coreLoad | .coreStore | .coreAtom => true
  | _ => false

/-- Whether the accesses of an operation go to translated addresses. -/
def OpKind.translated : OpKind → Bool
  | .msend | .ratoms | .coreLoad | .coreStore | .coreAtom => false
  | _ => true

/-- An operation in flight: the wave slot that issued it, its class (R64), the destination code and window at issue,
size, sign, SO, scope code and operation code, and its packets. `id` rises in issue order. -/
structure MemOp where
  id : Nat
  slot : Nat
  kind : OpKind
  cls : Option Cls
  dst : Option Nat
  frame : Nat
  uni : Bool
  size : Nat
  sign : Bool
  so : Nat
  scope : Nat
  opx : Nat
  threads : Mask
  reqs : List Request
  deriving DecidableEq, Repr

/-- An L1 line (R136, R169), with its way among the four of its set, and the last writes that its read overlapped, newest
first (R143). -/
structure L1Line where
  line : Nat
  bytes : List Byte
  wts : Nat
  rts : Nat
  filled : Nat
  used : Nat
  key : Nat
  way : Nat
  olds : List MonitorEntry
  deriving DecidableEq, Repr

/-- A line of the instruction cache (R19): its physical line, the key slot it was fetched under, the status of the read
that brought it (R102), its bytes, and its place among the 256. -/
structure ILine where
  line : Nat
  key : Nat
  opx : Nat
  bytes : List Byte
  way : Nat
  deriving DecidableEq, Repr

/-! ## Engines of the core -/

/-- The state of a copy tag (R201): DONE with the copy's completion timestamp (R149, R151), ERROR with its code and
the walk level (R208). -/
inductive Tag where
  | free | busy
  | done (ts : Nat)
  | error (code level : Nat)
  deriving DecidableEq, Repr

/-- An entry of the copy queue (R189, R425): the command as issued, its wave slot, block and context, the operation
count at issue (the writes before it are those it waits for, R149), the record it bound (R198), its TS, N and the bytes
moved so far (R194), the blocks done and those on their way (by the address of their first byte), the highest WTS
written, the error that will stop it, whether pre-emption holds it (R419), whether its record is being read (R199), of a
multicast copy the blocks on their way to the partner cluster and the bytes that named cores have added to its phaser
(R206), the 64-byte chunks of its core side that it has read and the bytes that have come for chunks of its core side not yet written
(R149), and the byte count at which pre-emption stopped it, below which it writes nothing again (R428). -/
structure CopyEntry where
  id : Nat
  op : OpT
  a : Nat
  b : Nat
  c : Nat
  fn : Nat
  w1 : Nat
  dst : Nat
  slot : Nat
  grid : Nat
  block : Nat
  ctx : Context
  before : Nat
  bound : Option (BitVec 512)
  ts : Nat
  total : Nat
  moved : Nat
  chunks : List Nat
  flying : List Nat
  wts : Option Nat
  err : Option (Nat × Nat)
  stop : Bool
  reading : Bool
  far : List Nat
  added : Nat
  source : Map (List Byte)
  arrived : List Host.Cell
  base : Nat
  deriving DecidableEq, Repr

/-- An entry of the record cache (R198), which lists the record used last first. -/
structure RecEntry where
  asn : Nat
  va : Nat
  bits : BitVec 512
  deriving DecidableEq, Repr

/-- An entry of a sequencer queue (R327, R425). `order` is its place among the wave's tile operations; `before` the
operation count at issue; `lines` the 64-byte chunks of the image still to be read, `flying` those of them asked for, and
`image` the bytes read; `loading`
tells that a load or reload is in progress, `first` that no K-step has run since issue or restore (R319, R322), `stop` that
pre-emption holds it. `table` is the cluster of the table that the handle names (R299); a WLOAD keeps in `back` the BACK
that stood before it (R318). -/
structure SeqEntry where
  id : Nat
  op : OpT
  handle : Nat
  a : Nat
  b : Nat
  fn : Nat
  w1 : Nat
  core : Nat
  table : Nat
  back : Nat
  slot : Nat
  block : Nat
  order : Nat
  before : Nat
  ts : Nat
  steps : Nat
  loading : Bool
  lines : List Nat
  flying : List Nat
  image : List Host.Cell
  first : Bool
  stop : Bool
  deriving DecidableEq, Repr

/-- A block on a core (R159, R166, R361, R425). `amax` is `.aslots`; `waves` are its slots still
running, `freeing` the ABUF slots whose release waits (R313), `trig` the waves that have triggered (R359); `bonded` and
`left` mark BOND and UNBOND (R312); `abandoned` is the status of R348. -/
structure Block where
  grid : Nat
  b : Nat
  gang : Option Nat
  rho : Nat
  gamma : Nat
  sb : Nat
  spad : Nat
  amax : Nat
  amask : BitVec 32
  freeing : BitVec 32
  cmask : BitVec 16
  waves : List Nat
  trig : List Nat
  trigd : Bool
  trigTs : Nat
  finalTs : Nat
  nwaves : Nat
  bonded : Bool
  left : Bool
  abandoned : Bool
  dom : Nat
  asn : Nat
  deriving DecidableEq, Repr

/-- A core: its blocks, memories, engines, caches and operations in flight. `rt` holds the highest message timestamp
of each ring (R352); `icache` the instruction cache (R19); `reserved` the reserved queue of
miss-status entries and `resIn` the requests that hold a reserved entry (R172), by operation and line; `answers` the answers
of walks for the core's engines (R82, R84); `wowner` the owner of each WBUF plane, 256 x cluster + entry; `scaled` the tiles last written by
MLOOP with block scales (R325); `kept` the ABUF slots of retired blocks whose release waits for a copy (R209); `users` the domain that last used each
part (R161, R218): 256-byte units of SPAD from 0, ABUF slots from 512, CBUF tiles from 544 and frames from 560; `pipes` the end of each pipe's hold (R63); `portEnds` the end of the memory pipe's beats at the ports of SPAD, ABUF and CBUF, and
`portUsers` the other users that have had a port since its last beat there (R163, R188). -/
structure Core where
  blocks : List Block
  spad : Store
  abuf : Store
  cbuf : Store
  sideVec : Store
  sideStore : Store
  wbuf : Store
  wowner : Map Nat
  scaled : BitVec 16
  kept : BitVec 32
  tags : Map Tag
  copies : List CopyEntry
  recs : List RecEntry
  tiles : List SeqEntry
  l1 : List L1Line
  icache : List ILine
  tlb : List TlbEntry
  answers : List (Nat × WalkAnswer)
  ops : List MemOp
  reserved : List (Nat × Nat)
  resIn : List (Nat × Nat)
  pipes : List Nat
  portEnds : List Nat
  portUsers : List (Nat × Nat)
  rt : List Nat
  users : Map Nat
  fenced : Bool
  deriving DecidableEq, Repr

/-! ## The cluster -/

/-- A phaser object (R332) with GEN and the grid that made it (R331, R343). -/
structure Phaser where
  live : Bool
  gen : Nat
  grid : Nat
  regs : Nat
  lts : Nat
  cts : Nat
  ndrop : Nat
  njoin : Nat
  exp : Nat
  bytes : Nat
  nsig : Nat
  narr : Nat
  overrun : Bool
  phase : Nat
  deriving DecidableEq, Repr

/-- An entry of a stream queue (R353). -/
structure StreamEntry where
  value : Word
  marker : Bool
  ts : Nat
  deriving DecidableEq, Repr

/-- A stream queue and the grid that holds it (R354). -/
structure Stream where
  owner : Option Nat
  entries : List StreamEntry
  deriving DecidableEq, Repr

/-- The states of a residency (R300, R302). -/
inductive ResState where
  | free | loading | ready | pinned | stale | evicted | revoked
  deriving DecidableEq, Repr

/-- A residency descriptor (R300) with the planes it holds on each core, its side planes, the sum stores of its
columns (R303, R304), the order of its last use by MLOOP (R306), whether a WINV came while it was loading, its state
before the load under way (R318), the physical lines that back it (R96), and whether another context's block on its cores
ends it (step 4 of R298). -/
structure Residency where
  st : ResState
  gen : Nat
  fmt : Nat
  smode : Bool
  pin : Bool
  rlog : Nat
  clog : Nat
  seam : Bool
  origin : Nat
  nstep : Nat
  nout : Nat
  dom : Nat
  key : Nat
  wzp : Nat
  back : Nat
  outk : List Nat
  planes : Map (List Nat)
  sidePlane : Map Nat
  csum : List Word
  osum : List Word
  uscale : List Nat
  lastUse : Nat
  winv : Bool
  judge : Bool
  prior : ResState
  lines : List Nat
  deriving DecidableEq, Repr

/-- Where a walk stands (R80): the level, the table and its key slot, and the entry once it has been read. -/
structure WalkPos where
  level : Nat
  table : Nat
  key : Nat
  entry : Option Nat
  deriving DecidableEq, Repr

/-- A walk entry of a cluster (R82): the address space and page, the context it walks for, who waits (core, wave slot,
access kind; slot 8 is the core's engines), the timestamp, the time of the next try (R86) and whether the page migrates,
where the walk stands, and whether it reads every entry at its home after a restart (R80). -/
structure Walker where
  asn : Nat
  page : Nat
  ctx : Context
  waiters : List (Nat × Nat × Nat)
  ts : Nat
  retryAt : Nat
  migrating : Bool
  pos : Option WalkPos
  fresh : Bool
  deriving DecidableEq, Repr

/-- A byte count on its way to a phaser (R336). -/
structure ByteAdd where
  handle : Nat
  bytes : Nat
  ts : Option Nat
  core : Nat
  dom : Nat
  deriving DecidableEq, Repr

/-- A cluster: synchronisation engine, residency table, quotas (R306), shared TLB and walk entries (R81, R82). -/
structure Cluster where
  phasers : Map Phaser
  streams : Map Stream
  residencies : Map Residency
  quota : Map Nat
  tlb : List TlbEntry
  walks : List Walker
  adds : List ByteAdd
  deriving DecidableEq, Repr

/-- A gang of a bonded kernel (R292, R297): its cores in bond order, the shape, who has bonded and left, and the
lease. -/
structure Gang where
  grid : Nat
  num : Nat
  cores : List Nat
  rlog : Nat
  clog : Nat
  seam : Bool
  bonded : List Nat
  lease : Bool
  barred : Bool
  deriving DecidableEq, Repr

/-! ## The network and the slices (chapter 05, chapter 06) -/

/-- The packet types of R104. -/
inductive PType where
  | rd | wr | atom | red | msg | cprdm | wack | mack | mnak | migrate | release
  | rdata | wdone | ares | pull | redirect | mdata | winv | msgd | mdone
  deriving DecidableEq, Repr

/-- A packet: the header of R102, the sideband of R134 and the payload. `slice` is the slice at its other end, which
the header's ADDR gives; SRC is `port`; `mt2` tells that the page has MT = 2, which R95 makes the slice obey, `watch` that
a residency load reads the line (R303), `again` that a read is issued again under R114 or R121 (R127); `born` is the core
cycle at which a home made a reply (R139), or an interface its answer to a message (R125); `cuts` are the accesses that a
write merges and `olds` the last writes that a read overlaps, as MonitorEntry has them (R143). -/
structure Packet where
  ty : PType
  port : Nat
  slice : Nat
  seq : Nat
  dom : Nat
  key : Nat
  mark : Bool
  trim : Bool
  rpl : Bool
  retry : Nat
  len : Nat
  opx : Nat
  mgrp : Nat
  mcast : Nat
  addr : Nat
  ts : Nat
  ld : Nat
  mt2 : Bool
  watch : Bool
  again : Bool
  born : Nat
  data : List Byte
  cuts : List (Nat × Nat) := []
  olds : List MonitorEntry := []
  deriving DecidableEq, Repr

/-- A packet on its way: the output it left last (0 where it has left none), the outputs ahead, and the ports it is
for. A copy of an MDATA (R120) keeps in `path` the outputs behind it instead. -/
structure Flight where
  pkt : Packet
  last : Nat
  path : List Nat
  targets : List Nat
  deriving DecidableEq, Repr

/-- A switch output or seam lane (R99, R100): payload queue, header lane, the flits of the queue's first packet that the
link has carried, and counters (R127). -/
structure SwitchOut where
  queue : List Flight
  header : List Flight
  done : Nat
  trims : Nat
  marks : Nat
  deriving DecidableEq, Repr

/-- The residue buffer of a reply switch (R120): each copy with the output it waits for and the network cycle at
which it came; and the RESTRIMS counter. -/
structure ResidueBuf where
  held : List (Flight × Nat × Nat)
  restrims : Nat
  deriving DecidableEq, Repr

/-- A way of a slice set (R94): VALID ways only are listed; WTS and RTS are the timestamps that LEASE holds as
deltas (R133). -/
structure Way where
  way : Nat
  line : Nat
  key : Nat
  dirty : Bool
  watch : Bool
  wts : Nat
  rts : Nat
  used : Nat
  deriving DecidableEq, Repr

/-- A hole (R112, R116) with the header that opened it. -/
structure Hole where
  pkt : Packet
  pulled : Bool
  deriving DecidableEq, Repr

/-- A WINV operation (R96): the clusters whose WACK is still to come, and the completion that waits for them. -/
structure WinvOp where
  line : Nat
  clusters : List Nat
  reply : Option Packet
  deriving DecidableEq, Repr

/-- A message held at its relay slice (R122-R126). -/
structure HeldMsg where
  pkt : Packet
  offered : Bool
  offers : Nat
  refusedAt : Option Nat
  nextOffer : Nat
  deriving DecidableEq, Repr

/-- A migrating range at its old home (R85): physical range, the new frame, the key slot, the lines of the slice still to
be copied (from number `next` of the range on), the writes over a link without their answer, whether every line has been
copied, whether a line could not be (R88), and whether the page has MT = 2 (R95). -/
structure Migrating where
  base : Nat
  len : Nat
  new : Nat
  key : Nat
  next : Nat
  flying : Nat
  copied : Bool
  failed : Bool
  mt2 : Bool
  deriving DecidableEq, Repr

/-- A result kept for ATOM replays (R118). -/
structure CachedResult where
  port : Nat
  seq : Nat
  result : List Byte
  opx : Nat
  ts : Nat
  deriving DecidableEq, Repr

/-- The counters of a slice (R127). -/
structure SliceCounters where
  trims : Nat
  pulls : Nat
  rereqs : Nat
  holes : Nat
  waits : Nat
  ringfull : Nat
  deriving DecidableEq, Repr

/-- An L2 slice. `fills` are the lines that requests wait for (line, key slot, and whether the page has MT = 2); `loose`
the lines read for one access to such a page, which no way takes (R95). -/
structure Slice where
  sets : Map (List Way)
  sbase : Nat
  mts : Nat
  inbox : List Packet
  fills : List (Nat × Nat × Bool)
  loose : List (Nat × Nat)
  holes : List Hole
  waiting : List Packet
  results : List CachedResult
  lastPull : Map Nat
  winvs : List WinvOp
  msgs : List HeldMsg
  monitor : List MonitorEntry
  migrating : List Migrating
  swept : List Nat
  cnt : SliceCounters
  fenced : Bool
  deriving DecidableEq, Repr

/-- Who a port's outstanding request answers to: an operation of a core (with the packet's place in it), a block of a
copy, a copy's shape record, a chunk of a residency's image, an instruction fetch (with its line, its key slot, and the address space and
address that it was translated from), a read of
Cicada, the host, a line that a slice migrates to a peer, a cluster's own read of a multicast chunk, a Nopel port, or nobody. -/
inductive Client where
  | op (core id req : Nat)
  | chunk (core id chunk : Nat)
  | record (core id : Nat)
  | image (core id chunk : Nat)
  | fetch (core line key asn va : Nat)
  | cicada (owner key : Nat)
  | host
  | migrate (slice base : Nat)
  | refetch (pkt : Packet)
  | byteAdd
  | peer (port : Nat) (pkt : Packet)
  | none
  deriving DecidableEq, Repr

/-- An outstanding request of a port (R105) with its retransmit copy (R111); `stamp` counts requests sent. -/
structure Outstanding where
  slice : Nat
  seq : Nat
  pkt : Packet
  client : Client
  stamp : Nat
  deriving DecidableEq, Repr

/-- A port (R97): sequence counters, congestion window (R108), outstanding requests, requests that wait for a window
place (R114), and packets that have arrived. -/
structure Port where
  seqs : Map Nat
  window : Nat
  unmarked : Nat
  halved : Nat
  sent : Nat
  outstanding : List Outstanding
  waiting : List (Packet × Client)
  inbox : List Packet
  deriving DecidableEq, Repr

/-- The network of both dies. -/
structure Net where
  wires : List Flight
  outs : Map SwitchOut
  residues : Map ResidueBuf
  slices : Map Slice
  ports : Map Port
  deriving DecidableEq, Repr

/-! ## Package memory, keys and domains (chapter 04) -/

/-- The states of a key slot (R89). -/
inductive KeyState where
  | empty | loaded | revoked
  deriving DecidableEq, Repr

/-- A key slot: state, owner domain, how many keys it has held, and whether an invalidation has completed since it
was revoked (R92). -/
structure KeySlot where
  st : KeyState
  owner : Nat
  epoch : Nat
  cleared : Bool
  deriving DecidableEq, Repr

/-- A domain (R74, R128, R129): its plan and its working channel groups in ascending order. -/
structure Dom where
  plan : DomainPlan
  groups : List Nat
  deriving DecidableEq, Repr

/-- An entry of a die's translation cache (R81): address space, level, the VA bits above the level, the entry read. -/
structure CachedEntry where
  die : Nat
  asn : Nat
  level : Nat
  index : Nat
  entry : Nat
  deriving DecidableEq, Repr

/-- Package, host and peer memory, the key and epoch under which each line of package memory was last written (R90), ranges (base, length, draw) whose contents a re-cut or a
re-initialisation left undefined (R76, R462),
poisoned 64-byte chunks (R464), lost channel groups (R76), key slots, domains and translation caches. -/
structure MemSys where
  mem : List Host.Cell
  lineKey : Map (Nat × Nat)
  undef : List (Nat × Nat × Nat)
  poison : List Nat
  lost : List Nat
  keys : Map KeySlot
  doms : Map Dom
  xcache : List CachedEntry
  deriving DecidableEq, Repr

/-! ## The front end (chapter 15) -/

/-- A queue record (R383), with HTS of its last accepted doorbell (R385), whether its last change is still to be
acknowledged by the other die (R384), and the launches that have completed and triggered out of turn (R390). -/
structure QueueRec where
  pend : List (BitVec 128)
  tts : Nat
  dts : Nat
  ovfcnt : BitVec 32
  ver : BitVec 32
  trig : BitVec 32
  done : BitVec 32
  nextseq : BitVec 32
  tail : BitVec 32
  head : BitVec 32
  asr : Nat
  dom : Nat
  priv : Bool
  prio : Nat
  halt : Bool
  enable : Bool
  logn : Nat
  base : Nat
  hts : Nat
  inval : Bool
  fins : List (Nat × Nat)
  trigs : List (Nat × Nat)
  deriving DecidableEq, Repr

/-- An address-space record (R394). -/
structure AddrSpace where
  dom : Nat
  asn : Nat
  rootKey : Nat
  root : Nat
  deriving DecidableEq, Repr

/-- A Cicada lane (R380, R381): the queue it holds and the packets retired since it bound it. -/
structure Lane where
  queue : Option Nat
  retired : Nat
  deriving DecidableEq, Repr

/-- A launch header (R391). -/
structure Header where
  waves : Nat
  frames : Nat
  scalars : Nat
  aslots : Nat
  ctiles : Nat
  wplanes : Nat
  spad : Nat
  rlog : Nat
  clog : Nat
  seam : Bool
  bonded : Bool
  prot : Bool
  widths : List Nat
  narg : Nat
  tvoff : Nat
  deriving DecidableEq, Repr

/-- A grid in progress (R357-R362, R390): header, context, queue and sequence number, block count, the next block to
place, blocks retired and triggered, whether its trigger has been counted, timestamps, the seed launch it belongs to, and what its waves start with. -/
structure Grid where
  hdr : Header
  ctx : Context
  queue : Nat
  seq : Nat
  count : Nat
  placed : Nat
  retired : Nat
  trigd : Nat
  trigDone : Bool
  finalTs : Nat
  trigTs : Nat
  startTs : Nat
  seed : Option Nat
  seedVal : Word
  sqmask : BitVec 32
  args : Nat
  spill : Nat
  codeBase : Nat
  deriving DecidableEq, Repr

/-- An ENQ that the front end holds (R379): who sent it, the record, the block count and the timestamp. -/
structure Spawn where
  grid : Nat
  wave : WaveId
  record : Nat
  count : Nat
  ts : Nat
  dst : Nat
  deriving DecidableEq, Repr

/-- A seed launch (R358): the spawn-tree counter, the spawn queue, its queue and sequence number, and the highest final
timestamp among its grids, with the context of its children. -/
structure SeedLaunch where
  ctx : Context
  counter : Nat
  spawns : List Spawn
  queue : Nat
  seq : Nat
  finalTs : Nat
  deriving DecidableEq, Repr

/-- An event ring (R400): parameters, head, tail, whether SETRING has set it, the records that wait, and the pending
REPLACE_REQUESTED (R402). -/
structure EventRing where
  set : Bool
  base : Nat
  logn : Nat
  tailAddr : Nat
  head : BitVec 32
  tail : BitVec 32
  held : List (BitVec 128)
  replace : Bool
  deriving DecidableEq, Repr

/-- A cached launch header (R391). -/
structure CachedHeader where
  die : Nat
  asn : Nat
  va : Nat
  bytes : List Byte
  deriving DecidableEq, Repr

/-- A migration under way (R85): the address-space record and VA of the page, its old place and length, the new one, the
key slot and whether its MT is 2, the place of its leaf entries, their number and the key slot of their table, and the phase: 0
writing MIG = 1, 1 invalidating, 2 copying, 3 writing the new FRAME, 4 releasing. -/
structure Migration where
  asr : Nat
  va : Nat
  base : Nat
  len : Nat
  new : Nat
  key : Nat
  mt2 : Bool
  leaf : Nat
  count : Nat
  tableKey : Nat
  phase : Nat
  deriving DecidableEq, Repr

/-- A change of a queue's record that a lane of the other die sends to the owner (R384): a packet retired (`pop`), with an
error, with the sequence number that a launch takes, with the launch ended at a timestamp; the firmware fields of SETQ; HALT
cleared by RESUME; or what has come to the owner from elsewhere: a doorbell's TAIL with the highest WTS of a host write before
it (R385), or the completion (false) or the trigger (true) of a launch with its timestamp (R390). -/
structure QueueChange where
  queue : Nat
  pop : Bool
  err : Option Nat
  seq : Bool
  ended : Option Nat
  fields : Option Nat
  resume : Bool
  bell : Option (BitVec 32 × Nat)
  note : Option (Bool × Nat × Nat)
  deriving DecidableEq, Repr

/-- A walk of Cicada under way (R80, R97): for whom and at which address and whether for a write, where it stands, and
whether it reads every entry at its home after a restart. -/
structure FeWalk where
  owner : Nat
  key : Nat
  pos : Option WalkPos
  fresh : Bool
  deriving DecidableEq, Repr

/-- An answer to an access of Cicada (R97, R380): for whom, at which address and whether a write, with its status and data. -/
structure FeAnswered where
  owner : Nat
  key : Nat
  opx : Nat
  data : List Byte
  deriving DecidableEq, Repr

/-- The front end: queue records, address-space records, lanes by 32 x die + lane, the packets that this step executes
(R382), packets in progress with their progress: for a WAIT the time of its next poll, for a COPY the bytes moved (R396), cached headers, grids, ENQs without an answer, seed
launches, event rings by domain, migrations by queue, the queue that each domain's lanes bound last (R381), the
highest WTS of a host write so far (R385), the answers that Cicada's accesses have had, the walks of its that wait for a
migration with the time of the next try (R86), its walks under way (R80), the packets in hand, begun and not yet retired (R419), and the replicas of records at
the dies that do not own them, with the changes that the owners have still to make, in the order in which they came (R384). -/
structure FrontEnd where
  queues : Map QueueRec
  asrs : Map AddrSpace
  lanes : Map Lane
  todo : List (Nat × List Byte)
  polls : Map (Nat × List Byte)
  headers : List CachedHeader
  grids : Map Grid
  nextGrid : Nat
  enqs : List Spawn
  seeds : Map SeedLaunch
  rings : Map EventRing
  migs : Map Migration
  rr : Map Nat
  hostTs : Nat
  reads : List FeAnswered
  retries : List (Nat × Nat × Nat)
  walks : List FeWalk
  hands : Map (List Byte)
  replicas : Map QueueRec
  changes : List QueueChange
  deriving DecidableEq, Repr

/-! ## Reliability, security and pre-emption (chapters 16, 17) -/

/-- A management session (R441): the shared secret and the lowest counter that a blob may still carry. -/
structure Session where
  secret : Nat
  counter : Nat
  deriving DecidableEq, Repr

/-- The mailbox (R439, R466), the staged and the running firmware (R440: the dies on which no firmware runs, and the image), the
sessions, and the domain of the last one started. -/
structure Mailbox where
  cmd : Nat
  status : Nat
  buf : List Host.Cell
  staged : Option (List Byte)
  dark : List Nat
  image : List Byte
  sessions : Map Session
  operator : Option Nat
  deriving DecidableEq, Repr

/-- What Mantis has saved of one core (R424-R426): the blocks, memories, tags, copies and tiles, and its waves. -/
structure SavedCore where
  core : Nat
  body : Core
  waves : List (Nat × Wave)
  deriving DecidableEq, Repr

/-- A context as the scheduler and Mantis see it (R418-R430), by the index of its address-space record: the programmed and
the effective slice in ns, SLICECLAMP, the times last measured in ns, when the slice ends, whether a stop is out and since
when, the engines that have acknowledged it, whether the context has been saved, its cores, gangs, phasers and stream queues as
saved. A number from 4,096 on stands for a single block that Mantis saves (R418): 4,096 + 2^32 x grid + block. -/
structure CtxSched where
  slice : Nat
  effective : Nat
  clamp : Bool
  saveTime : Nat
  restoreTime : Nat
  sliceEnd : Nat
  stopping : Bool
  stopAt : Nat
  acks : List Engine
  away : Bool
  saved : List SavedCore
  gangs : Map Gang
  sync : List (Nat × Map Phaser × Map Stream)
  deriving DecidableEq, Repr

/-- Mayfly (R436), the network cycles of the last hour's corrected errors by unit (R437), rails and DEC-TED sweeps (R432),
throttling (R438), and spares used (R437). -/
structure Health where
  mayfly : Map (List (BitVec 128))
  corrected : Map (List Nat)
  railLow : List Nat
  throttle : Nat
  spares : Map Nat
  deriving DecidableEq, Repr

/-- A Nopel port (R442-R445): its domain, whether it is up, the SEQ of the next flit to send and to accept, whether a NAK
is out, whether one has come that no replay has answered, the flits without ACK, what waits for a place among them (NAK, TYPE
and packet flits), the replays of the oldest, the times of the last flit and of going down, the requests and
replies received for the butterfly with the peer's package, the result cache with the package of each result, its own requests
without answer by SEQ with the package asked, the next SEQ, and whether REPLACE_REQUESTED has been raised for it. -/
structure NopelPort where
  dom : Nat
  up : Bool
  txSeq : Nat
  rxSeq : Nat
  nakSent : Bool
  asked : Bool
  replay : List NopelFlit
  egress : List (Bool × Nat × List (BitVec 128))
  replays : Nat
  lastFlit : Nat
  downSince : Nat
  ingress : List (Nat × Packet)
  results : List (Nat × CachedResult)
  sent : List (Nat × Nat × Packet × Client)
  reqSeq : Nat
  announced : Bool
  deriving DecidableEq, Repr

/-- What the host has been answered last (R156): the address, whether it was a write, the bytes of a read, and an error
(R92). -/
structure HostReply where
  addr : Nat
  write : Bool
  data : List Byte
  error : Bool
  deriving DecidableEq, Repr

/-- A chunk of a host access (R156), or an access to BAR0: the address of the access and of the chunk, its length, the bytes
of a write, and whether it is the access's last. -/
structure HostChunk where
  addr : Nat
  pa : Nat
  len : Nat
  data : Option (List Byte)
  last : Bool
  deriving DecidableEq, Repr

/-- The host interface (R97, R155, R156): the accesses of cores to the host window that it has still to perform; the chunks
of the host's accesses in the order received, whether the first is on its way, and the bytes and the error that the access of
the first has had so far. -/
structure HostIf where
  accesses : List (Packet × Client)
  queue : List HostChunk
  sent : Bool
  data : List Byte
  error : Bool
  deriving DecidableEq, Repr

/-! ## The machine -/

/-- The state of the package. `cur` names the wave in hand, `wv`; `waves` holds the others, by 8 x core + slot.
`issuing` lists the waves that issue in this core cycle, `engine` those whose operation has gone to a synchronisation
engine in the first core cycle of this network cycle (R330), `agenda` the events that take place before the next choice,
`draws` counts the free values taken, `nextOp` the operations issued: these five are the model's own. -/
structure State where
  cur : WaveId
  wv : Wave
  waves : Map Wave
  cores : Map Core
  clusters : Map Cluster
  gangs : Map Gang
  net : Net
  ms : MemSys
  fe : FrontEnd
  box : Mailbox
  hostReply : Option HostReply
  host : HostIf
  health : Health
  ctxs : Map CtxSched
  nopel : Map NopelPort
  routes : Map (BitVec 5)
  now : Nat
  issuing : List WaveId
  engine : List WaveId
  agenda : List Instr
  draws : Nat
  nextOp : Nat
  deriving DecidableEq, Repr

/-! ## Reset values of the entries -/

/-- An empty core memory. -/
def Store.empty : Store := ⟨[], [], []⟩

/-- CSR fields before any launch (R231); where R231 says "Launch", zero stands (assumption 2). -/
def Csrs.reset : Csrs :=
  { prot := false, sren := false, mixtrap := false, ftz := false, rm := 0, flags := 0, seed := 0, tvOff := 0,
    cause := 0, tpc := 0, tmask := 0, tinfo := 0, spill := 0, latch := 0, qsat := 0, qunder := 0 }

/-- A frame of zeros. -/
def Frame.zero : Frame := ⟨0, []⟩

/-- The wave that a slot holds before any launch (assumption 2): nothing runs in it. -/
def Wave.reset : Wave :=
  { ctl := ⟨0, 0, 0, [], []⟩
    win := ⟨0, 0, 2, [], [(0, 0), (1, 1)], [], []⟩
    p := []
    s := []
    q := []
    csr := Csrs.reset
    gens := List.replicate 16 0
    cnt := ⟨0, 0, 0, 0, 0⟩
    ctx := ⟨0, 0, 0, 0, 0⟩
    ident := ⟨0, 0, 0, 1, 128, 0, 0⟩
    pts := 0
    copyTs := 0
    trig := none
    slots := []
    tile := none
    tlIssued := 0
    impKey := none
    impMixed := none
    halt := none
    sched := ⟨false, false, 0, 0, 0, 0, 0, 0, false, List.replicate 11 0⟩
    sb := []
    pend := []
    answers := []
    parity := []
    waits := ⟨none, false, false, 0, 0, 0, false, false, 0⟩ }

/-- A core at cold reset (assumption 4 for its memories). -/
def Core.reset : Core :=
  { blocks := [], spad := .empty, abuf := .empty, cbuf := .empty, sideVec := .empty, sideStore := .empty,
    wbuf := .empty, wowner := [], scaled := 0, kept := 0, tags := [], copies := [], recs := [], tiles := [], l1 := [], icache := [], tlb := [],
    answers := [], ops := [], reserved := [], resIn := [], pipes := List.replicate 6 0, portEnds := List.replicate 3 0, portUsers := [], rt := List.replicate 8 0, users := [], fenced := false }

/-- A phaser at reset: free, GEN 1 (R331, R332). -/
def Phaser.reset : Phaser := ⟨false, 1, 0, 0, 0, 0, 0, 0, 0, 0, 0, 0, false, 0⟩

/-- A stream queue at reset. -/
def Stream.reset : Stream := ⟨none, []⟩

/-- A residency descriptor at reset: FREE, GEN 1 (R300). -/
def Residency.reset : Residency :=
  { st := .free, gen := 1, fmt := 0, smode := false, pin := false, rlog := 0, clog := 0, seam := false, origin := 0,
    nstep := 0, nout := 0, dom := 0, key := 0, wzp := 0, back := 0, outk := List.replicate 16 0, planes := [],
    sidePlane := [], csum := [], osum := [], uscale := [], lastUse := 0, winv := false, judge := false, prior := .free, lines := [] }

/-- A cluster at cold reset. -/
def Cluster.reset : Cluster := ⟨[], [], [], [], [], [], []⟩

/-- A switch output at reset. -/
def SwitchOut.reset : SwitchOut := ⟨[], [], 0, 0, 0⟩

/-- A residue buffer at reset. -/
def ResidueBuf.reset : ResidueBuf := ⟨[], 0⟩

/-- A slice at reset (R94, R133). -/
def Slice.reset : Slice :=
  { sets := [], sbase := 0, mts := 0, inbox := [], fills := [], loose := [], holes := [], waiting := [], results := [],
    lastPull := [], winvs := [], msgs := [], monitor := [], migrating := [], swept := [], cnt := ⟨0, 0, 0, 0, 0, 0⟩,
    fenced := false }

/-- A port at reset: a window of 64 (R108). -/
def Port.reset : Port := ⟨[], 64, 0, 0, 0, [], [], []⟩

/-- A key slot at reset: EMPTY (R89). -/
def KeySlot.reset : KeySlot := ⟨.empty, 0, 0, true⟩

/-- A queue record at reset (R383). -/
def QueueRec.reset : QueueRec :=
  { pend := [], tts := 0, dts := 0, ovfcnt := 0, ver := 0, trig := 0, done := 0, nextseq := 0, tail := 0, head := 0,
    asr := 0, dom := 0, priv := false, prio := 0, halt := false, enable := false, logn := 0, base := 0, hts := 0,
    inval := false, fins := [], trigs := [] }

/-- An address-space record at reset (R394). -/
def AddrSpace.reset : AddrSpace := ⟨0, 0, 0, 0⟩

/-- An unbound lane. -/
def Lane.reset : Lane := ⟨none, 0⟩

/-- An event ring that SETRING has not set (R400). -/
def EventRing.reset : EventRing := ⟨false, 0, 0, 0, 0, 0, [], false⟩

/-- A context without a time slice. -/
def CtxSched.reset : CtxSched := ⟨0, 0, false, 0, 0, 0, false, 0, [], false, [], [], []⟩

/-- A Nopel port at reset: up. -/
def NopelPort.reset : NopelPort := ⟨0, true, 0, 0, false, false, [], [], 0, 0, 0, [], [], [], 0, false⟩

/-- The undivided package: one domain on both dies (R74, R128), which assumption 5 takes as the cut after reset. -/
def Dom.undivided : Dom := ⟨⟨0, 1, 0, true, 0, 0, List.range 16⟩, List.range 128⟩

/-- The machine after a cold reset. -/
def State.reset : State :=
  { cur := ⟨0, 0⟩
    wv := Wave.reset
    waves := []
    cores := []
    clusters := []
    gangs := []
    net := ⟨[], [], [], [], []⟩
    ms := ⟨[], [], [(0, 2 ^ 50, 0)], [], [], [], [(0, Dom.undivided)], []⟩
    fe := ⟨[], [], [], [], [], [], [], 1, [], [], [], [], [], 0, [], [], [], [], [], []⟩
    box := ⟨0, 1, [], none, [], [], [], none⟩
    hostReply := none
    host := ⟨[], [], false, [], false⟩
    health := ⟨[], [], [], 0, []⟩
    ctxs := []
    nopel := []
    routes := []
    now := 0
    issuing := []
    engine := []
    agenda := []
    draws := 0
    nextOp := 0 }

end Sys2Proof.Machine
end

