-- ==== Sys2Proof/Machine/Ops.lean ====
section
/-! DEFINITION. The named operations over the state: tables and memories, the registers of the wave in hand, its
window, its control state, halting it (R413), taking a trap (R407) and returning from one (R417), and the records of
errors (R435). Every instruction acts through these. -/

namespace Sys2Proof.Machine

/-- The outcome of a step of this machine. -/
abbrev Out := Host.Outcome State Fault Refusal

/-! ## Tables -/

/-- The entry of an index. -/
def Map.get? {α : Type} : Map α → Nat → Option α
  | [], _ => none
  | (k, v) :: m, i => if i < k then none else if i = k then some v else Map.get? m i

/-- The entry of an index, or the value that an unlisted index has. -/
def Map.getD {α : Type} (m : Map α) (i : Nat) (d : α) : α := (Map.get? m i).getD d

/-- The table with one entry written, in its place. -/
def Map.set {α : Type} : Map α → Nat → α → Map α
  | [], i, v => [(i, v)]
  | (k, w) :: m, i, v =>
    if i < k then (i, v) :: (k, w) :: m else if i = k then (i, v) :: m else (k, w) :: Map.set m i v

/-- The table without one entry. -/
def Map.del {α : Type} : Map α → Nat → Map α
  | [], _ => []
  | (k, w) :: m, i => if i < k then (k, w) :: m else if i = k then m else (k, w) :: Map.del m i

/-- Whether the indices of a table rise strictly. -/
def Map.sorted {α : Type} : Map α → Bool
  | [] => true
  | [_] => true
  | (k, _) :: (l, w) :: m => decide (k < l) && Map.sorted ((l, w) :: m)

/-- A list without its element number `i`. -/
def dropAt {α : Type} : List α → Nat → List α
  | [], _ => []
  | _ :: xs, 0 => xs
  | x :: xs, i + 1 => x :: dropAt xs i

/-- A list with its element number `i` changed. -/
def modAt {α : Type} (f : α → α) : List α → Nat → List α
  | [], _ => []
  | x :: xs, 0 => f x :: xs
  | x :: xs, i + 1 => x :: modAt f xs i

/-- The lowest number below `n` that a list does not hold, or 0. -/
def freeBelow (n : Nat) (used : List Nat) : Nat := ((List.range n).find? (fun i => !used.contains i)).getD 0

/-! ## Memory by physical address -/

/-- What a byte of memory that nothing has written reads as (assumption 1). -/
def Memory.unlisted : Byte := 0

/-- One byte of memory. -/
def Memory.get (m : List Host.Cell) (a : Nat) : Byte := Map.getD m a Memory.unlisted

/-- Memory with one byte written: a byte equal to what an unlisted address reads as is not listed. -/
def Memory.put (m : List Host.Cell) (a : Nat) (b : Byte) : List Host.Cell :=
  if b = Memory.unlisted then Map.del m a else Map.set m a b

/-- The canonical form of memory: addresses rise strictly, and no listed byte is what an unlisted address reads as. -/
def Memory.wf (m : List Host.Cell) : Bool := Map.sorted m && m.all (fun c => c.2 != Memory.unlisted)

/-- `n` bytes from an address on. -/
def Memory.read (m : List Host.Cell) (a : Nat) : Nat → List Byte
  | 0 => []
  | n + 1 => Memory.get m a :: Memory.read m (a + 1) n

/-- Bytes written from an address on. -/
def Memory.write (m : List Host.Cell) (a : Nat) : List Byte → List Host.Cell
  | [] => m
  | b :: bs => Memory.write (Memory.put m a b) (a + 1) bs

/-! ## Core memories -/

/-- What the background of a core memory holds at an address: the newest range that covers it, or zero. -/
def Store.background : List Fill → Nat → Byte
  | [], _ => 0
  | f :: fs, a =>
    if f.lo ≤ a ∧ a < f.lo + f.len then
      match f.draw with
      | none => 0
      | some d => Config.freeByte d a
    else Store.background fs a

/-- One byte of a core memory. -/
def Store.get (st : Store) (a : Nat) : Byte :=
  match Map.get? st.cells a with
  | some b => b
  | none => Store.background st.fills a

/-- `n` bytes of a core memory. -/
def Store.read (st : Store) (a : Nat) : Nat → List Byte
  | 0 => []
  | n + 1 => st.get a :: Store.read st (a + 1) n

/-- Bytes listed from an address on. -/
def Store.putBytes (m : List Host.Cell) (a : Nat) : List Byte → List Host.Cell
  | [] => m
  | b :: bs => Store.putBytes (Map.set m a b) (a + 1) bs

/-- The 4-byte words that lie whole inside a range. -/
def wordsWhole (a n : Nat) : List Nat :=
  ((List.range (n / 4 + 1)).map (fun i => (a + 3) / 4 + i)).filter (fun w => 4 * w + 4 ≤ a + n)

/-- The 4-byte words that a range touches. -/
def wordsTouched (a n : Nat) : List Nat :=
  if n = 0 then [] else (List.range ((a + n - 1) / 4 - a / 4 + 1)).map (fun i => a / 4 + i)

/-- Bytes written into a core memory; a word written whole loses its poison (R170). -/
def Store.write (st : Store) (a : Nat) (bs : List Byte) : Store :=
  { st with cells := Store.putBytes st.cells a bs,
            poison := st.poison.filter (fun w => !(wordsWhole a bs.length).contains w) }

/-- Whether a read of a range touches a poisoned word (R170). -/
def Store.poisoned (st : Store) (a n : Nat) : Bool := (wordsTouched a n).any (fun w => st.poison.contains w)

/-- A range given one content: zero, or undefined bytes under a draw (R161). -/
def Store.fill (st : Store) (lo len : Nat) (draw : Option Nat) : Store :=
  { cells := st.cells.filter (fun c => !(decide (lo ≤ c.1) && decide (c.1 < lo + len)))
    fills := ⟨lo, len, draw⟩ :: st.fills.filter (fun f => !(decide (lo ≤ f.lo) && decide (f.lo + f.len ≤ lo + len)))
    poison := st.poison.filter (fun w => !(decide (lo ≤ 4 * w) && decide (4 * w < lo + len))) }

/-! ## Free choices -/

/-- The state after one draw of a free value. -/
def State.drawn (s : State) : State := { s with draws := s.draws + 1 }

/-- A choice among `n` alternatives at the current draw; a single alternative is no choice. -/
def State.pick (s : State) (n : Nat) : Nat := if n ≤ 1 then 0 else Config.choice s.draws % n

/-! ## Parts of the state by index -/

/-- The index of a wave slot in the table of waves. -/
def slotIndex (w : WaveId) : Nat := 8 * w.core + w.slot

/-- The wave of a slot. -/
def State.wave (s : State) (w : WaveId) : Wave := if w = s.cur then s.wv else Map.getD s.waves (slotIndex w) Wave.reset

/-- The state with the wave of a slot changed. -/
def State.setWave (s : State) (w : WaveId) (v : Wave) : State :=
  if w = s.cur then { s with wv := v } else { s with waves := Map.set s.waves (slotIndex w) v }

/-- The state with another wave in hand. -/
def State.focus (s : State) (w : WaveId) : State :=
  if w = s.cur then s
  else { s with cur := w, wv := Map.getD s.waves (slotIndex w) Wave.reset, waves := Map.set s.waves (slotIndex s.cur) s.wv }

/-- The state with the wave in hand replaced. -/
def State.withWv (s : State) (w : Wave) : State := { s with wv := w }

/-- The state with the wave in hand changed. -/
def State.mapWv (s : State) (f : Wave → Wave) : State := { s with wv := f s.wv }

/-- A core. -/
def State.core (s : State) (i : Nat) : Core := Map.getD s.cores i Core.reset

/-- The state with a core replaced. -/
def State.setCore (s : State) (i : Nat) (c : Core) : State := { s with cores := Map.set s.cores i c }

/-- The core of the wave in hand. -/
def State.myCore (s : State) : Core := s.core s.cur.core

/-- The state with the core of the wave in hand replaced. -/
def State.setMyCore (s : State) (c : Core) : State := s.setCore s.cur.core c

/-- The cluster of a core (R423). -/
def clusterOf (core : Nat) : Nat := core / 16

/-- The die of a core. -/
def dieOf (core : Nat) : Nat := core / 2048

/-- A cluster. -/
def State.cluster (s : State) (i : Nat) : Cluster := Map.getD s.clusters i Cluster.reset

/-- The state with a cluster replaced. -/
def State.setCluster (s : State) (i : Nat) (c : Cluster) : State := { s with clusters := Map.set s.clusters i c }

/-- A slice. -/
def State.slice (s : State) (i : Nat) : Slice := Map.getD s.net.slices i Slice.reset

/-- The state with a slice replaced. -/
def State.setSlice (s : State) (i : Nat) (x : Slice) : State :=
  { s with net := { s.net with slices := Map.set s.net.slices i x } }

/-- A port. -/
def State.port (s : State) (i : Nat) : Port := Map.getD s.net.ports i Port.reset

/-- The state with a port replaced. -/
def State.setPort (s : State) (i : Nat) (x : Port) : State :=
  { s with net := { s.net with ports := Map.set s.net.ports i x } }

/-- The state with memory's part replaced. -/
def State.withMs (s : State) (m : MemSys) : State := { s with ms := m }

/-- The state with the front end replaced. -/
def State.withFe (s : State) (f : FrontEnd) : State := { s with fe := f }

/-- A queue record. -/
def State.queue (s : State) (i : Nat) : QueueRec := Map.getD s.fe.queues i QueueRec.reset

/-- The state with a queue record replaced, as a change at its owner: VER rises (R384). -/
def State.setQueue (s : State) (i : Nat) (q : QueueRec) : State :=
  s.withFe { s.fe with queues := Map.set s.fe.queues i { q with ver := q.ver + 1, inval := true } }

/-- A domain, if the package holds it. -/
def State.dom? (s : State) (d : Nat) : Option Dom := Map.get? s.ms.doms d

/-- The network cycle (R3). -/
def State.netNow (s : State) : Nat := s.now / 2

/-! ## Error records (R435, R436) -/

/-- A record of 16 bytes. -/
def errorRecord (time cls synd : Nat) (g : Bool) (dom unit index reason : Nat) : BitVec 128 :=
  BitVec.ofNat 128 (2 ^ 64 * (time % 2 ^ 64) + 2 ^ 56 * (cls % 256) + 2 ^ 52 * (synd % 16) + 2 ^ 51 * g.toNat +
    2 ^ 47 * (dom % 16) + 2 ^ 32 * (unit % 2 ^ 15) + 2 ^ 8 * (index % 2 ^ 24) + reason % 256)

/-- A record written to a die's Mayfly, which keeps the last 4,096. -/
def State.logError (s : State) (die cls synd : Nat) (g : Bool) (dom unit index reason : Nat) : State :=
  let old := Map.getD s.health.mayfly die []
  let all := old ++ [errorRecord s.netNow cls synd g dom (2 ^ 14 * die + unit) index reason]
  { s with health := { s.health with mayfly := Map.set s.health.mayfly die (all.drop (all.length - 4096)) } }

/-! ## Registers of a wave (R217) -/

/-- The physical frame that holds a logical frame (R219). -/
def Window.phys (w : Window) (f : Nat) : Nat := Map.getD w.place f 0

/-- A physical frame's contents. -/
def Window.frame (w : Window) (i : Nat) : Frame := Map.getD w.frames i Frame.zero

/-- The window with a physical frame changed. -/
def Window.mapFrame (w : Window) (i : Nat) (f : Frame → Frame) : Window :=
  { w with frames := Map.set w.frames i (f (w.frame i)) }

/-- The word of thread `l` in register `r` of a frame. -/
def Frame.word (fr : Frame) (r l : Nat) : Word := (Map.getD fr.regs r []).getD l 0

/-- A frame with one register rewritten, thread by thread. -/
def Frame.setReg (fr : Frame) (r : Nat) (f : Nat → Word) : Frame :=
  { fr with regs := Map.set fr.regs r ((List.range 64).map f) }

/-- The word of thread `l` in a v register of the window (R219). -/
def Window.getV (w : Window) (r l : Nat) : Word := (w.frame (w.phys (w.cur + r / 16))).word (r % 16) l

/-- The window with one v register rewritten, thread by thread. -/
def Window.setV (w : Window) (r : Nat) (f : Nat → Word) : Window :=
  w.mapFrame (w.phys (w.cur + r / 16)) (fun fr => fr.setReg (r % 16) f)

/-- A v register of the window in hand. -/
def Wave.getV (w : Wave) (r l : Nat) : Word := w.win.getV r l

/-- The wave with a v register rewritten. -/
def Wave.setV (w : Wave) (r : Nat) (f : Nat → Word) : Wave := { w with win := w.win.setV r f }

/-- A uniform register. -/
def Wave.getS (w : Wave) (n : Nat) : Word := Map.getD w.s n 0

/-- The wave with a uniform register written. -/
def Wave.setS (w : Wave) (n : Nat) (v : Word) : Wave := { w with s := Map.set w.s n v }

/-- A lane predicate of a thread; p7 is true (R31). -/
def Wave.getP (w : Wave) (k l : Nat) : Bool := if k = 7 then true else (Map.getD w.p k 0).getLsbD l

/-- A 64-bit mask from its bits. -/
def maskOf (f : Nat → Bool) : Mask :=
  (List.range 64).foldr (fun i acc => if f i then acc ||| (1#64 <<< i) else acc) 0

/-- The wave with a lane predicate rewritten. -/
def Wave.setP (w : Wave) (k : Nat) (f : Nat → Bool) : Wave := { w with p := Map.set w.p k (maskOf f) }

/-- A uniform predicate; q7 is true (R31). -/
def Wave.getQ (w : Wave) (k : Nat) : Bool := if k = 7 then true else Map.getD w.q k false

/-- The wave with a uniform predicate written. -/
def Wave.setQ (w : Wave) (k : Nat) (b : Bool) : Wave := { w with q := Map.set w.q k b }

/-! ## Threads and lanes (R11, R434) -/

/-- The number of visible threads: 32 in protected launch mode (R434). -/
def Wave.threads (w : Wave) : Nat := if w.csr.prot then 32 else 64

/-- The physical thread on which visible thread `t` runs (R434). -/
def Wave.lane (w : Wave) (t : Nat) : Nat := if w.csr.prot then 2 * t else t

/-- The visible thread that physical thread `l` runs or shadows (R434). -/
def Wave.visible (w : Wave) (l : Nat) : Nat := if w.csr.prot then l / 2 else l

/-- The guard's value for a physical thread of a lane-guarded instruction (R11, R31). -/
def Wave.guardLane (w : Wave) (g : Guard) (l : Nat) : Bool := xor (w.getP g.pred.toNat l) (g.neg && g.pred != 7)

/-- The guard's value for a uniform-guarded instruction (R11, R31). -/
def Wave.guardUni (w : Wave) (g : Guard) : Bool := xor (w.getQ g.pred.toNat) (g.neg && g.pred != 7)

/-- Whether physical thread `l` is active (R11); a shadow follows EXEC of its visible thread (R434). -/
def Wave.activeLane (w : Wave) (g : Guard) (l : Nat) : Bool :=
  w.ctl.exec.getLsbD (w.visible l) && w.guardLane g l

/-- Whether visible thread `t` is active (R11). -/
def Wave.active (w : Wave) (g : Guard) (t : Nat) : Bool :=
  decide (t < w.threads) && w.ctl.exec.getLsbD t && w.guardLane g (w.lane t)

/-- The mask of the active visible threads. -/
def Wave.activeMask (w : Wave) (g : Guard) : Mask := maskOf (fun t => w.active g t)

/-! ## Control state -/

/-- The wave with its PC moved. -/
def Wave.jump (w : Wave) (pc : VAddr) : Wave := { w with ctl := { w.ctl with pc := pc } }

/-- The wave with its PC past an instruction of `n` bytes. -/
def Wave.advance (w : Wave) (n : Nat) : Wave := w.jump (w.ctl.pc + BitVec.ofNat 57 n)

/-- The state with the wave in hand past an instruction of `n` bytes; the answers of walks that the instruction waited for
(R82) go with it. -/
def State.advance (s : State) (n : Nat) : State :=
  s.mapWv (fun w => { w.advance n with answers := [], waits := { w.waits with stall := none, rejects := 0 } })

/-- The state with the wave in hand waiting at its instruction, for a reason of R365. -/
def State.wait (s : State) (reason : Nat) : State :=
  s.mapWv (fun w => { w with waits := { w.waits with stall := some reason } })

/-- The wave with a path switch counted: its next instruction issues 2 core cycles later (R367). -/
def Wave.switched (w : Wave) (now : Nat) : Wave := { w with sched := { w.sched with notBefore := now + 3 } }

/-- The wave with the top path popped (R366), if there is one. -/
def Wave.pop? (w : Wave) : Option Wave :=
  match w.ctl.path with
  | [] => none
  | e :: es => some { w with ctl := { w.ctl with path := es, exec := e.mask, pc := e.pc } }

/-- The block of a wave on its core. -/
def Core.blockOf? (c : Core) (w : Wave) : Option Block :=
  c.blocks.find? (fun b => b.grid == w.ident.grid && b.b == w.ident.block)

/-- The core with a block changed. -/
def Core.mapBlock (c : Core) (grid num : Nat) (f : Block → Block) : Core :=
  { c with blocks := c.blocks.map (fun b => if b.grid == grid && b.b == num then f b else b) }

/-- Halting the wave of a slot (R413): it issues nothing more, a record of class WAVE is written, and for an
uncorrectable error its block stands ABANDONED (R348). -/
def State.haltAt (s : State) (id : WaveId) (reason : Nat) : State :=
  let w := s.wave id
  let s1 := s.setWave id { w with halt := some reason, waits := { w.waits with stall := none, ending := true } }
  let s2 := if reason = 1 then
      s1.setCore id.core ((s1.core id.core).mapBlock w.ident.grid w.ident.block (fun b => { b with abandoned := true }))
    else s1
  s2.logError (dieOf id.core) 0x05 5 false w.ctx.dom (id.core % 2048) id.slot reason

/-- Halting the wave in hand. -/
def State.halt (s : State) (reason : Nat) : State := s.haltAt s.cur reason

/-! ## Taking a trap (R407) and returning from one (R417) -/

/-- The address of the wave's handler (R231, R407). -/
def Wave.handlerPc (w : Wave) : VAddr := w.ident.codeBase + BitVec.ofNat 57 (4 * w.csr.tvOff.toNat)

/-- The wave as R407 leaves it before the handler's address is known: the cause recorded, the threads of `f` running,
the others pending on the path stack at `next`. -/
def Wave.enter (w : Wave) (cause info : Nat) (f : Mask) (next tpc : VAddr) : Wave :=
  let o := w.ctl.exec &&& ~~~f
  { w with
    csr := { w.csr with cause := BitVec.ofNat 8 cause, tinfo := BitVec.ofNat 22 info, tmask := f, tpc := tpc }
    ctl := { w.ctl with path := if o = 0 then w.ctl.path else ⟨next, o⟩ :: w.ctl.path, exec := f }
    answers := []
    waits := { w.waits with
      stall := none, handler := true, ending := false, barrier := false, bond := false, polls := 0, rejects := 0 } }

/-- Entering the handler (R407, R408): the wave halts with SPLITFULL when a pending path finds nine entries, and with
NOHANDLER when TRAPVEC.OFF is 0; otherwise it runs at its handler, whose first instruction issues 6 core cycles on. -/
def State.trap (s : State) (cause info : Nat) (f : Mask) (next tpc : VAddr) : State :=
  if s.wv.ctl.exec &&& ~~~f ≠ 0 ∧ 9 ≤ s.wv.ctl.path.length then s.halt 4
  else
    let s1 := s.withWv (s.wv.enter cause info f next tpc)
    if s.wv.csr.tvOff = 0 then s1.halt 2
    else s1.mapWv (fun w => { w.jump w.handlerPc with sched := { w.sched with notBefore := s.now + 6 } })

/-- A precise trap of an instruction that acts on the whole running path: F is EXEC, TRAPPC the instruction (R406). -/
def State.trapAll (s : State) (cause info : Nat) : State :=
  s.trap cause info s.wv.ctl.exec s.wv.ctl.pc s.wv.ctl.pc

/-- Codes of R403. -/
def cPathStack : Nat := 0x23

/-- The wave after a popped path is taken, with the switch of R367; `w0` is the wave as it stands. -/
def State.popPath (s : State) (w : Wave) : State :=
  match w.pop? with
  | some w' => s.withWv { w'.switched s.now with answers := [], waits := { w'.waits with stall := none, rejects := 0 } }
  | none => s

/-- What follows when an instruction leaves no lane running (R366, R375): the top path is popped; with an empty stack
the wave ends at this instruction if no lane is parked, and raises PATHSTACK EMPTY otherwise (R368). `w` is the wave as
the instruction would leave it. -/
def State.leave (s : State) (w : Wave) : State :=
  if w.ctl.path.isEmpty then
    if w.ctl.joins.all (fun j => j.2.arrived == 0) then
      s.mapWv (fun v => { v with waits := { v.waits with ending := true, stall := none } })
    else s.trapAll cPathStack 2
  else s.popPath w

/-- Returning from a trap (R417): the PC of TRAPPC and the lanes of TRAPMASK that have not ended. -/
def State.returnTrap (s : State) : State :=
  let m := s.wv.csr.tmask &&& ~~~s.wv.ctl.ended
  let w := s.wv.jump s.wv.csr.tpc
  if m = 0 then s.leave { w with ctl := { w.ctl with exec := 0 } }
  else s.withWv { (w.switched s.now) with ctl := { w.ctl with exec := m }, answers := [], waits := { w.waits with stall := none, rejects := 0 } }

end Sys2Proof.Machine
end

