-- ==== Sys2Proof/Machine/Operands.lean ====
section
/-! DEFINITION. The operand forms (R41-R48): registers, pairs and quads, inline constants in integer, floating-point and
packed positions, the literal word, special operands; and writing results back for the active threads. Values are raw
bits as natural numbers below 2^width. -/

namespace Sys2Proof.Machine

/-- What a source position reads (R43, R44): raw bits of a width, a number of a floating format (R67 codes), or two
packed halves of a 16-bit format. -/
inductive Pos where
  | bits (w : Nat)
  | fp (fmt : Nat)
  | halves (fmt : Nat)
  deriving DecidableEq, Repr

/-- The width of a position. -/
def Pos.width : Pos → Nat
  | .bits w => w
  | .fp f => fmtWidth f
  | .halves _ => 32

/-- Exponent and fraction widths and the bias of a floating format of R67. -/
def fmtShape : Nat → Nat × Nat × Nat
  | 0 => (5, 10, 15)
  | 1 => (8, 7, 127)
  | 3 => (11, 52, 1023)
  | 4 => (4, 3, 7)
  | 5 => (5, 2, 15)
  | _ => (8, 23, 127)

/-- The encoding of (-1)^neg x m x 2^e in a floating format, for m in 0-15 that fits it exactly as a normal number or
zero (R43). -/
def smallFp (fmt : Nat) (neg : Bool) (m : Nat) (e : Int) : Nat :=
  let (eb, mb, bias) := fmtShape fmt
  if m = 0 then 0
  else
    let k := Nat.log2 m
    neg.toNat * 2 ^ (eb + mb) + (Int.toNat (bias + e + k)) * 2 ^ mb + (m - 2 ^ k) * 2 ^ mb / 2 ^ k

/-- Whether an inline integer has no exact value in a format: 9, 11, 13 and 15 in E5M2, for which R43 states no
result. -/
def inlineInexact (fmt m : Nat) : Bool := fmt == 5 && 8 < m && m % 2 == 1

/-- An inline integer in a floating position (R43). -/
def inlineInt (fmt m : Nat) : Nat :=
  if inlineInexact fmt m then (Config.freeByte fmt m).toNat else smallFp fmt false m 0

/-- The magnitude exponent of inline FP32 code 0xB0 + i: 0.5, 1, 2, 4 and their negatives (R41). -/
def inlineExp (i : Nat) : Int := (i % 4 : Int) - 1

/-- An inline FP32 constant in a floating position (R43). -/
def inlineFp (fmt i : Nat) : Nat := smallFp fmt (4 ≤ i) 1 (inlineExp i)

/-- The literal word in a position (R44). -/
def literalIn (p : Pos) (lit : BitVec 32) : Nat :=
  match p with
  | .bits 64 => (lit.signExtend 64).toNat
  | .fp 3 => lit.toNat * 2 ^ 32
  | p => lit.toNat % 2 ^ p.width

/-- Coordinates of the wave in hand and the special operands (R45). -/
def State.special (s : State) (code l : Nat) : Nat :=
  let w := s.wv
  let wid := w.ident.wid.toNat + w.visible l
  match code with
  | 0xC0 => w.visible l
  | 0xC1 => w.ident.wave
  | 0xC2 => wid % 2 ^ 32
  | 0xC3 => wid / 2 ^ 32 % 2 ^ 32
  | 0xC4 => w.ctl.exec.toNat % 2 ^ 32
  | 0xC5 => if w.csr.prot then 0 else w.ctl.exec.toNat / 2 ^ 32
  | 0xC6 => s.cur.core % 16
  | 0xC7 => s.cur.core / 16 % 128
  | 0xC8 => dieOf s.cur.core
  | 0xC9 => w.ident.nwaves
  | 0xCA => w.csr.qsat.toNat
  | 0xCB => w.csr.qunder.toNat
  | _ => 0

/-- `n` consecutive registers as one number, the lowest register in the lowest bits (R42). -/
def joinWords (f : Nat → Word) : Nat → Nat
  | 0 => 0
  | n + 1 => joinWords f n + 2 ^ (32 * n) * (f n).toNat

/-- Word `i` of a number. -/
def wordAt (v i : Nat) : Word := BitVec.ofNat 32 (v / 2 ^ (32 * i))

/-- A register operand of `w` bits, for physical thread `l` (R41, R42). -/
def Wave.readReg (v : Wave) (code w l : Nat) : Nat :=
  if code < 0x20 then joinWords (fun i => v.getV (code + i) l) (regCount w) % 2 ^ w
  else joinWords (fun i => v.getS (code - 0x20 + i)) (regCount w) % 2 ^ w

/-- A source operand for physical thread `l` (R41-R46). -/
def State.src (s : State) (lit : Option (BitVec 32)) (p : Pos) (code : BitVec 8) (l : Nat) : Nat :=
  let c := code.toNat
  if c < 0xA0 then s.wv.readReg c p.width l
  else if c < 0xB0 then
    match p with
    | .bits _ => c - 0xA0
    | .fp f => inlineInt f (c - 0xA0)
    | .halves f => inlineInt f (c - 0xA0) * (2 ^ 16 + 1)
  else if c < 0xB8 then
    match p with
    | .bits w => inlineFp 2 (c - 0xB0) % 2 ^ w
    | .fp f => inlineFp f (c - 0xB0)
    | .halves f => inlineFp f (c - 0xB0) * (2 ^ 16 + 1)
  else if c = 0xB8 then literalIn p (lit.getD 0)
  else s.special c l % 2 ^ p.width

/-- A uniform source of `w` raw bits (R46). -/
def State.srcU (s : State) (lit : Option (BitVec 32)) (w : Nat) (code : BitVec 8) : Nat := s.src lit (.bits w) code 0

/-- The exact value of raw bits under a type: sign-extended or zero-extended (R235). -/
def valOf (signed : Bool) (w v : Nat) : Int :=
  if signed && decide (2 ^ (w - 1) ≤ v) then (v : Int) - 2 ^ w else v

/-- The low `w` bits of an exact integer (R9). -/
def wrapTo (w : Nat) (x : Int) : Nat := (x % 2 ^ w).toNat

/-- The least value of an integer type (R68). -/
def intMin (signed : Bool) (w : Nat) : Int := if signed then -(2 ^ (w - 1)) else 0

/-- The greatest value of an integer type (R68). -/
def intMax (signed : Bool) (w : Nat) : Int := if signed then 2 ^ (w - 1) - 1 else 2 ^ w - 1

/-- The clamp of R9 to an integer type. -/
def clampInt (signed : Bool) (w : Nat) (x : Int) : Int := max (intMin signed w) (min (intMax signed w) x)

/-- The wave with a vector result of `n` registers written, for the threads that `act` names; the others keep theirs
(R11, R13). -/
def Wave.putWords (w : Wave) (act : Nat → Bool) (r : Nat) (val : Nat → Nat) : Nat → Wave
  | 0 => w
  | n + 1 => (Wave.putWords w act r val n).setV (r + n) (fun l => if act l then wordAt (val l) n else w.getV (r + n) l)

/-- The wave with a vector destination of `width` bits written for the active threads. -/
def Wave.putV (w : Wave) (act : Nat → Bool) (code : BitVec 8) (width : Nat) (val : Nat → Nat) : Wave :=
  Wave.putWords w act code.toNat val (regCount width)

/-- The wave with `n` uniform registers written from one number. -/
def Wave.putSs (w : Wave) (r v : Nat) : Nat → Wave
  | 0 => w
  | n + 1 => (Wave.putSs w r v n).setS (r + n) (wordAt v n)

/-- The wave with a uniform destination of `width` bits written. -/
def Wave.putS (w : Wave) (code : BitVec 8) (width v : Nat) : Wave :=
  Wave.putSs w (code.toNat - 0x20) v (regCount width)

/-- The length in bytes of an instruction of each format (R26). -/
def lenA (f : InsA) : Nat := if f.lit.isSome then 12 else 8
def lenM (f : InsM) : Nat := if f.ext.isSome then 12 else 8
def lenB (f : InsB) : Nat := if f.wide then 12 else 8
def lenT (f : InsT) : Nat := if f.w1.isSome then 16 else 8

/-- The upper half of a format T instruction as a number (R39). -/
def w1Of (f : InsT) : Nat := (f.w1.getD 0).toNat

end Sys2Proof.Machine
end

