-- ==== Sys2Proof/Machine/Release.lean ====
section
/-! DEFINITION. What a wave's accesses and commands wait for (R137, R145-R147, R337), and the blocks that its progress
triggers (R359). -/

namespace Sys2Proof.Machine

/-- The operations of a wave slot that are in flight on its core; a prefetch is no access (R187). -/
def Core.opsOf (c : Core) (slot : Nat) : List MemOp := c.ops.filter (fun o => o.slot == slot && o.kind != .prefetch)

/-- Whether an operation writes package memory (the write queue of R137). -/
def OpKind.writes : OpKind → Bool
  | .store | .atom | .red | .spill => true
  | _ => false

/-- Whether an operation writes window 00, and so stands in the write queue (R137, R173). -/
def MemOp.pkgWrite (o : MemOp) : Bool := o.kind.writes && o.reqs.any (fun r => decide (r.pa < 2 ^ 50))

/-- Whether an operation accesses window 00, and so stands in the global order (R132). -/
def MemOp.pkgAccess (o : MemOp) : Bool :=
  o.kind != .prefetch && o.kind.translated && o.reqs.any (fun r => decide (r.pa < 2 ^ 50))

/-- Whether every earlier package write of the wave in hand has completed (R137). -/
def State.writesDone (s : State) : Bool := (s.myCore.opsOf s.cur.slot).all (fun o => !o.pkgWrite)

/-- Whether every earlier core-scope access of the wave has completed: remote ATOMS too (R145). -/
def State.coreScopeDone (s : State) : Bool :=
  (s.myCore.opsOf s.cur.slot).all (fun o => o.kind != .ratoms && !o.kind.onCore)

/-- Whether the wave's copies, tile operations, messages and core-scope accesses have completed (R145). -/
def State.releaseDone (s : State) : Bool :=
  s.wv.cnt.cp == 0 && s.wv.cnt.tl == 0 && s.wv.cnt.ms == 0 && s.coreScopeDone

/-- Whether every earlier access of the wave, at every scope, has completed (R155). -/
def State.accessesDone (s : State) : Bool := (s.myCore.opsOf s.cur.slot).isEmpty

/-- The wave with its pts raised to the completion timestamps of its copies, as a release takes them (R145). -/
def Wave.released (w : Wave) : Wave := { w with pts := max w.pts w.copyTs }

/-- Whether an acquiring access or fence of the wave is still in flight, which holds its asynchronous commands and
core-scope accesses (R146). -/
def State.acquirePending (s : State) : Bool := (s.myCore.opsOf s.cur.slot).any (fun o => o.so % 2 == 1)

/-- Whether an acquiring access at system scope is in flight, which holds every later access (R155). -/
def State.acquireSysPending (s : State) : Bool :=
  (s.myCore.opsOf s.cur.slot).any (fun o => o.so % 2 == 1 && o.scope == 2)

/-- The state with a grid changed, if it is in progress. -/
def State.mapGrid (s : State) (id : Nat) (f : Grid → Grid) : State :=
  match Map.get? s.fe.grids id with
  | some g => s.withFe { s.fe with grids := Map.set s.fe.grids id (f g) }
  | none => s

/-- A block that has triggered tells its grid, with its timestamp for R157 (R359, R378). -/
def State.blockTriggered (s : State) (core grid num : Nat) : State :=
  match (s.core core).blocks.find? (fun b => b.grid == grid && b.b == num) with
  | none => s
  | some b =>
    if !b.trigd && b.waves.all (fun w => b.trig.contains w) then
      (s.setCore core ((s.core core).mapBlock grid num (fun b => { b with trigd := true }))).mapGrid grid
        (fun g => { g with trigd := g.trigd + 1, trigTs := max g.trigTs b.trigTs })
    else s

/-- A wave of a block triggers with a timestamp (R359, R378). -/
def State.waveTriggered (s : State) (id : WaveId) (ts : Nat) : State :=
  let w := s.wave id
  let c := (s.core id.core).mapBlock w.ident.grid w.ident.block
    (fun b => { b with trig := if b.trig.contains id.slot then b.trig else b.trig ++ [id.slot], trigTs := max b.trigTs ts })
  (s.setCore id.core c).blockTriggered id.core w.ident.grid w.ident.block

/-! ## Contexts (R418) -/

/-- A context by the index of its address-space record. -/
def State.ctx (s : State) (i : Nat) : CtxSched := Map.getD s.ctxs i CtxSched.reset

/-- The number by which the scheduler knows a block that Mantis saves alone (R418); contexts are the numbers below 4,096. -/
def blockUnit (grid b : Nat) : Nat := 4096 + 2 ^ 32 * grid + b

/-- Whether a pre-emption stops a wave, by its context or its block alone (R418-R420). -/
def State.stopped (s : State) (w : Wave) : Bool :=
  (s.ctx w.ctx.asr).stopping || (s.ctx (blockUnit w.ident.grid w.ident.block)).stopping

end Sys2Proof.Machine
end

