-- ==== Sys2Proof/Machine/Flags.lean ====
section
/-! DEFINITION. The sticky FLAGS (R231) and what sets them: integer saturation (R238); the floating-point flags that
R263, R264, R268 and R270 name are computed with each rounding and ORed in here. -/

namespace Sys2Proof.Machine

/-- FLAGS bits (R231). -/
def flIV : BitVec 8 := 0x01
def flDZ : BitVec 8 := 0x02
def flOF : BitVec 8 := 0x04
def flUF : BitVec 8 := 0x08
def flNX : BitVec 8 := 0x10
def flSAT : BitVec 8 := 0x20
def flRNG : BitVec 8 := 0x40
def flILL3 : BitVec 8 := 0x80

/-- The wave with FLAGS bits set; they are sticky. -/
def Wave.raise (w : Wave) (fl : BitVec 8) : Wave := { w with csr := { w.csr with flags := w.csr.flags ||| fl } }

/-- The union of the flags that the active threads raise (R11: an inactive thread raises none). -/
def flagsOver (act : Nat → Bool) (fl : Nat → BitVec 8) : BitVec 8 :=
  (List.range 64).foldl (fun acc l => if act l then acc ||| fl l else acc) 0

/-- SAT where a clamp took place (R238). -/
def satFlag (b : Bool) : BitVec 8 := if b then flSAT else 0

end Sys2Proof.Machine
end

