-- ==== Sys2Proof/Machine/IntOps.lean ====
section
/-! DEFINITION. The integer operations of chapter 10, each once: what it computes from raw operand bits (a, b, c) and
whether it clamped. The uniform form and its vector twin share them; UniformInt.lean and VectorInt.lean apply them once
for the wave or once for each active thread. -/

namespace Sys2Proof.Machine

/-- The signedness and width of the type in FN[2:0] (R68, R235). -/
def InsA_signed (f : InsA) : Bool := fnLo f.fn % 2 == 0
def InsA_width (f : InsA) : Nat := intWidth (fnLo f.fn)

/-- The end of R241's pseudocode: wrap to `w` bits, or clamp where SAT is set and the exact value is out of range. -/
def finishInt (sat signed : Bool) (w : Nat) (x : Int) : Nat × Bool :=
  if sat && (decide (x < intMin signed w) || decide (intMax signed w < x)) then (wrapTo w (clampInt signed w x), true)
  else (wrapTo w x, false)

/-- An operation on raw operands: the result bits and whether it clamped. -/
abbrev IntOp := InsA → Nat → Nat → Nat → Nat × Bool

/-- The exact value of an operand under the instruction's type (R235). -/
def opVal (f : InsA) (x : Nat) : Int := valOf (InsA_signed f) (InsA_width f) x

/-- The end of an arithmetic operation under the instruction's type and SAT bit. -/
def opEnd (f : InsA) (x : Int) : Nat × Bool := finishInt f.sat (InsA_signed f) (InsA_width f) x

/-- MOV (R241). -/
def opMov : IntOp := fun _ a _ _ => (a, false)
/-- ADD (R241). -/
def opAdd : IntOp := fun f a b _ => opEnd f (opVal f a + opVal f b)
/-- SUB (R241). -/
def opSub : IntOp := fun f a b _ => opEnd f (opVal f a - opVal f b)
/-- MUL (R241). -/
def opMul : IntOp := fun f a b _ => opEnd f (opVal f a * opVal f b)
/-- MAD: one exact sum, one wrap or clamp (R241). -/
def opMad : IntOp := fun f a b c => opEnd f (opVal f a * opVal f b + opVal f c)
/-- ABS (R241). -/
def opAbs : IntOp := fun f a _ _ => opEnd f |opVal f a|
/-- MULHI: the high half of the exact product (R241). -/
def opMulhi : IntOp := fun f a b _ => (wrapTo (InsA_width f) (opVal f a * opVal f b / 2 ^ InsA_width f), false)
/-- MIN (R241). -/
def opMin : IntOp := fun f a b _ => (wrapTo (InsA_width f) (min (opVal f a) (opVal f b)), false)
/-- MAX (R241). -/
def opMax : IntOp := fun f a b _ => (wrapTo (InsA_width f) (max (opVal f a) (opVal f b)), false)

/-- LOP3: bit i of the result is TT[4 A[i] + 2 B[i] + C[i]] (R242). -/
def lop3 (tt w a b c : Nat) : Nat :=
  (List.range w).foldr (fun i acc =>
    (tt.testBit (4 * (a.testBit i).toNat + 2 * (b.testBit i).toNat + (c.testBit i).toNat)).toNat + 2 * acc) 0

/-- SHL by B[7:0] (R243). -/
def opShl : IntOp := fun f a b _ => (a * 2 ^ (b % 256) % 2 ^ InsA_width f, false)
/-- SHR by B[7:0], arithmetic for a signed type (R243). -/
def opShr : IntOp := fun f a b _ => (wrapTo (InsA_width f) (opVal f a / 2 ^ (b % 256)), false)
/-- VSHF: a funnel shift of A:B by C[4:0], left for FN[5:3] = 0 and right for 1 (R244). -/
def opShf : IntOp := fun f a b c =>
  let x := a * 2 ^ 32 + b
  let n := c % 32
  if fnHi f.fn = 0 then (x * 2 ^ n / 2 ^ 32 % 2 ^ 32, false) else (x / 2 ^ n % 2 ^ 32, false)

/-- The field of BFE and BFI: position B[7:0] and length B[15:8] cut to the width, none where it is empty (R245). -/
def bitField (w b : Nat) : Option (Nat × Nat) :=
  let pos := b % 256
  let len := b / 256 % 256
  if w ≤ pos ∨ len = 0 then none else some (pos, min len (w - pos))

/-- BFE (R245). -/
def opBfe : IntOp := fun f a b _ =>
  match bitField (InsA_width f) b with
  | none => (0, false)
  | some (pos, l) => (wrapTo (InsA_width f) (valOf (InsA_signed f) l (bitsOf pos l a)), false)
/-- BFI (R245). -/
def opBfi : IntOp := fun f a b c =>
  match bitField (InsA_width f) b with
  | none => (c, false)
  | some (pos, l) => (c - bitsOf pos l c * 2 ^ pos + a % 2 ^ l * 2 ^ pos, false)

/-- The number of 1 bits among the lowest `w` (R246). -/
def popCount (w a : Nat) : Nat := (List.range w).foldl (fun n i => n + (a.testBit i).toNat) 0
/-- POPC (R246). -/
def opPopc : IntOp := fun f a _ _ => (popCount (InsA_width f) a, false)
/-- CLZ (R246). -/
def opClz : IntOp := fun f a _ _ => (if a = 0 then InsA_width f else InsA_width f - 1 - Nat.log2 a, false)
/-- VBREV (R246). -/
def opBrev : IntOp := fun f a _ _ =>
  ((List.range (InsA_width f)).foldl (fun acc i => 2 * acc + (a.testBit i).toNat) 0, false)

/-- The comparisons of R70, codes 0-5, on exact values. -/
def compareInt (code : Nat) (a b : Int) : Bool :=
  match code with
  | 0 => a == b
  | 1 => a != b
  | 2 => decide (a < b)
  | 3 => decide (a ≤ b)
  | 4 => decide (b < a)
  | _ => decide (b ≤ a)

/-- CMP (R247). -/
def cmpInt (f : InsA) (a b : Nat) : Bool := compareInt (fnHi f.fn) (opVal f a) (opVal f b)

/-- A truth table of three predicates (R249). -/
def predTable (tt : Nat) (a b c : Bool) : Bool := tt.testBit (4 * a.toNat + 2 * b.toNat + c.toNat)

/-- Element `i` of four bytes, signed for code 0 and unsigned for 1 (R250). -/
def dotElem (x i code : Nat) : Int := valOf (code == 0) 8 (bitsOf (8 * i) 8 x)

/-- VDOT4: four products and the signed accumulator in one exact sum (R250). -/
def opDot4 : IntOp := fun f a b c =>
  let p := fun i => dotElem a i (fnLo f.fn) * dotElem b i (fnHi f.fn)
  finishInt f.sat true 32 (valOf true 32 c + p 0 + p 1 + p 2 + p 3)

/-- VCVTI: from the type in FN[5:3] to that in FN[2:0] (R251); a narrow result is extended to 32 bits. -/
def opCvti : IntOp := fun f a _ _ =>
  let src := fnHi f.fn
  let dst := fnLo f.fn
  let r := finishInt f.sat (dst % 2 == 0) (intWidth dst) (valOf (src % 2 == 0) (intWidth src) a)
  (wrapTo (regWidth (intWidth dst)) (valOf (dst % 2 == 0) (intWidth dst) r.1), r.2)

/-- The combining operations of VREDUX and VSCAN (R71, R256). -/
def combineInt (code : Nat) (signed : Bool) (w a b : Nat) : Nat :=
  match code with
  | 0 => (a + b) % 2 ^ w
  | 1 => wrapTo w (min (valOf signed w a) (valOf signed w b))
  | 2 => wrapTo w (max (valOf signed w a) (valOf signed w b))
  | 3 => a &&& b
  | 4 => a ||| b
  | _ => a ^^^ b

/-- The combination of a list of values, none of an empty one. -/
def combineAll (code : Nat) (signed : Bool) (w : Nat) : List Nat → Option Nat
  | [] => none
  | x :: xs => some (xs.foldl (combineInt code signed w) x)

end Sys2Proof.Machine
end

