-- ==== Sys2Proof/Machine/UniformInt.lean ====
section
/-! DEFINITION. The uniform integer instructions (chapter 10): each acts once for the wave when its uniform guard holds,
whatever EXEC holds (R234). -/

namespace Sys2Proof.Machine

/-- A uniform-guarded instruction of `n` bytes that changes the wave alone. -/
def uniGuarded (g : Guard) (n : Nat) (body : State → Wave) (s : State) : Out :=
  .next ((if s.wv.guardUni g then s.withWv (body s) else s).advance n)

/-- A uniform instruction of format A: operands of `wa`, `wb` and `wc` bits, a result of `wd` bits, SAT where it
clamped (R238). -/
def uniInt (op : IntOp) (wa wb wc wd : Nat) (f : InsA) (s : State) : Out :=
  uniGuarded f.g (lenA f) (fun s =>
    let r := op f (s.srcU f.lit wa f.a) (s.srcU f.lit wb f.b) (s.srcU f.lit wc f.c)
    (s.wv.putS f.d wd r.1).raise (satFlag r.2)) s

/-- The same with every operand of the type's width. -/
def uniIntW (op : IntOp) (f : InsA) (s : State) : Out :=
  uniInt op (InsA_width f) (InsA_width f) (InsA_width f) (InsA_width f) f s

/-- SMOV (R241). -/
def execSmov (f : InsA) (s : State) : Out := uniIntW opMov f s
/-- SADD (R241). -/
def execSadd (f : InsA) (s : State) : Out := uniIntW opAdd f s
/-- SSUB (R241). -/
def execSsub (f : InsA) (s : State) : Out := uniIntW opSub f s
/-- SMUL (R241). -/
def execSmul (f : InsA) (s : State) : Out := uniIntW opMul f s
/-- SMULHI (R241). -/
def execSmulhi (f : InsA) (s : State) : Out := uniIntW opMulhi f s
/-- SMAD (R241). -/
def execSmad (f : InsA) (s : State) : Out := uniIntW opMad f s
/-- SMIN (R241). -/
def execSmin (f : InsA) (s : State) : Out := uniIntW opMin f s
/-- SMAX (R241). -/
def execSmax (f : InsA) (s : State) : Out := uniIntW opMax f s
/-- SSHL (R243). -/
def execSshl (f : InsA) (s : State) : Out := uniInt opShl (InsA_width f) 32 32 (InsA_width f) f s
/-- SSHR (R243). -/
def execSshr (f : InsA) (s : State) : Out := uniInt opShr (InsA_width f) 32 32 (InsA_width f) f s
/-- SBFE (R245). -/
def execSbfe (f : InsA) (s : State) : Out := uniInt opBfe (InsA_width f) 32 32 (InsA_width f) f s
/-- SBFI (R245). -/
def execSbfi (f : InsA) (s : State) : Out := uniInt opBfi (InsA_width f) 32 (InsA_width f) (InsA_width f) f s
/-- SPOPC (R246). -/
def execSpopc (f : InsA) (s : State) : Out := uniInt opPopc (InsA_width f) 32 32 32 f s
/-- SCLZ (R246). -/
def execSclz (f : InsA) (s : State) : Out := uniInt opClz (InsA_width f) 32 32 32 f s

/-- SCMP writes the q predicate that D names (R247). -/
def execScmp (f : InsA) (s : State) : Out :=
  uniGuarded f.g (lenA f) (fun s =>
    s.wv.setQ f.d.toNat (cmpInt f (s.srcU f.lit (InsA_width f) f.a) (s.srcU f.lit (InsA_width f) f.b))) s

/-- SSEL (R248). -/
def execSsel (f : InsA) (s : State) : Out :=
  uniGuarded f.g (lenA f) (fun s =>
    s.wv.putS f.d (InsA_width f)
      (if s.wv.getQ f.c.toNat then s.srcU f.lit (InsA_width f) f.a else s.srcU f.lit (InsA_width f) f.b)) s

/-- SLOP3 (R242). -/
def execSlop3 (f : InsT) (s : State) : Out :=
  uniGuarded f.g (lenT f) (fun s =>
    let w := intWidth (fnLo f.fn)
    s.wv.putS f.d w (lop3 (w1Of f % 256) w (s.srcU none w f.a) (s.srcU none w f.b) (s.srcU none w f.c))) s

/-- QLOP (R249). -/
def execQlop (f : InsT) (s : State) : Out :=
  uniGuarded f.g (lenT f) (fun s =>
    s.wv.setQ f.d.toNat
      (predTable (w1Of f % 256) (s.wv.getQ f.a.toNat) (s.wv.getQ f.b.toNat) (s.wv.getQ f.c.toNat))) s

end Sys2Proof.Machine
end

