-- ==== Sys2Proof/Machine/VectorInt.lean ====
section
/-! DEFINITION. The vector integer instructions and the instructions that move values between threads (chapter 10):
each acts for every active thread (R234), reads all its sources before it writes (R48, R252), and in protected launch
mode runs on the visible threads and their shadows (R434). -/

namespace Sys2Proof.Machine

/-- A vector instruction of `n` bytes that changes the wave alone. -/
def vecDo (n : Nat) (body : State → Wave) (s : State) : Out := .next ((s.withWv (body s)).advance n)

/-- A vector instruction of format A: for each active thread, operands of `wa`, `wb` and `wc` bits and a result of
`wd` bits; SAT where an active thread clamped (R238). -/
def vecInt (op : IntOp) (wa wb wc wd : Nat) (f : InsA) (s : State) : Out :=
  vecDo (lenA f) (fun s =>
    let act := s.wv.activeLane f.g
    let r := fun l => op f (s.src f.lit (.bits wa) f.a l) (s.src f.lit (.bits wb) f.b l) (s.src f.lit (.bits wc) f.c l)
    (s.wv.putV act f.d wd (fun l => (r l).1)).raise (flagsOver act (fun l => satFlag (r l).2))) s

/-- The same with every operand of the type's width. -/
def vecIntW (op : IntOp) (f : InsA) (s : State) : Out :=
  vecInt op (InsA_width f) (InsA_width f) (InsA_width f) (InsA_width f) f s

/-- VMOV (R241). -/
def execVmov (f : InsA) (s : State) : Out := vecIntW opMov f s
/-- VADD (R241). -/
def execVadd (f : InsA) (s : State) : Out := vecIntW opAdd f s
/-- VSUB (R241). -/
def execVsub (f : InsA) (s : State) : Out := vecIntW opSub f s
/-- VMUL (R241). -/
def execVmul (f : InsA) (s : State) : Out := vecIntW opMul f s
/-- VMULHI (R241). -/
def execVmulhi (f : InsA) (s : State) : Out := vecIntW opMulhi f s
/-- VMAD (R241). -/
def execVmad (f : InsA) (s : State) : Out := vecIntW opMad f s
/-- VMIN (R241). -/
def execVmin (f : InsA) (s : State) : Out := vecIntW opMin f s
/-- VMAX (R241). -/
def execVmax (f : InsA) (s : State) : Out := vecIntW opMax f s
/-- VABS (R241). -/
def execVabs (f : InsA) (s : State) : Out := vecIntW opAbs f s
/-- VSHL (R243). -/
def execVshl (f : InsA) (s : State) : Out := vecInt opShl (InsA_width f) 32 32 (InsA_width f) f s
/-- VSHR (R243). -/
def execVshr (f : InsA) (s : State) : Out := vecInt opShr (InsA_width f) 32 32 (InsA_width f) f s
/-- VSHF (R244). -/
def execVshf (f : InsA) (s : State) : Out := vecInt opShf 32 32 32 32 f s
/-- VBFE (R245). -/
def execVbfe (f : InsA) (s : State) : Out := vecInt opBfe (InsA_width f) 32 32 (InsA_width f) f s
/-- VBFI (R245). -/
def execVbfi (f : InsA) (s : State) : Out := vecInt opBfi (InsA_width f) 32 (InsA_width f) (InsA_width f) f s
/-- VPOPC (R246). -/
def execVpopc (f : InsA) (s : State) : Out := vecInt opPopc (InsA_width f) 32 32 32 f s
/-- VCLZ (R246). -/
def execVclz (f : InsA) (s : State) : Out := vecInt opClz (InsA_width f) 32 32 32 f s
/-- VBREV (R246). -/
def execVbrev (f : InsA) (s : State) : Out := vecIntW opBrev f s
/-- VDOT4 (R250). -/
def execVdot4 (f : InsA) (s : State) : Out := vecInt opDot4 32 32 32 32 f s
/-- VCVTI (R251). -/
def execVcvti (f : InsA) (s : State) : Out :=
  vecInt opCvti (intWidth (fnHi f.fn)) 32 32 (regWidth (InsA_width f)) f s

/-- The wave with a lane predicate written for the active threads. -/
def Wave.putP (w : Wave) (act : Nat → Bool) (k : Nat) (val : Nat → Bool) : Wave :=
  w.setP k (fun l => if act l then val l else w.getP k l)

/-- VCMP writes the lane predicate that D names, for active threads (R247). -/
def execVcmp (f : InsA) (s : State) : Out :=
  vecDo (lenA f) (fun s =>
    let w := InsA_width f
    s.wv.putP (s.wv.activeLane f.g) f.d.toNat
      (fun l => cmpInt f (s.src f.lit (.bits w) f.a l) (s.src f.lit (.bits w) f.b l))) s

/-- VSEL (R248). -/
def execVsel (f : InsA) (s : State) : Out :=
  vecDo (lenA f) (fun s =>
    let w := InsA_width f
    s.wv.putV (s.wv.activeLane f.g) f.d w
      (fun l => if s.wv.getP f.c.toNat l then s.src f.lit (.bits w) f.a l else s.src f.lit (.bits w) f.b l)) s

/-- VLOP3 (R242). -/
def execVlop3 (f : InsT) (s : State) : Out :=
  vecDo (lenT f) (fun s =>
    let w := intWidth (fnLo f.fn)
    s.wv.putV (s.wv.activeLane f.g) f.d w (fun l => lop3 (w1Of f % 256) w
      (s.src none (.bits w) f.a l) (s.src none (.bits w) f.b l) (s.src none (.bits w) f.c l))) s

/-- PLOP (R249). -/
def execPlop (f : InsT) (s : State) : Out :=
  vecDo (lenT f) (fun s =>
    s.wv.putP (s.wv.activeLane f.g) f.d.toNat (fun l =>
      predTable (w1Of f % 256) (s.wv.getP f.a.toNat l) (s.wv.getP f.b.toNat l) (s.wv.getP f.c.toNat l))) s

/-! ## Values between threads (R252-R256) -/

/-- The lane-index bits that count: 64 threads, or 32 in protected launch mode (R252). -/
def Wave.laneIndex (w : Wave) (b : Nat) : Nat := b % w.threads

/-- The source thread of VSHFL (R253), within the bounds of R252. -/
def shuffleSource (mode n t b : Nat) : Nat :=
  match mode with
  | 0 => b
  | 1 => if b ≤ t then t - b else t
  | 2 => if t + b < n then t + b else t
  | _ => (t ^^^ b) % n

/-- VSHFL (R253): one read for a thread and its shadow, by the index and the guard of the thread (R252, R434). -/
def execVshfl (f : InsA) (s : State) : Out :=
  vecDo (lenA f) (fun s =>
    let w := InsA_width f
    s.wv.putV (fun l => s.wv.active f.g (s.wv.visible l)) f.d w (fun l =>
      let b := s.wv.laneIndex (s.src f.lit (.bits 32) f.b (s.wv.lane (s.wv.visible l)))
      let t := shuffleSource (fnHi f.fn) s.wv.threads (s.wv.visible l) b
      s.src f.lit (.bits w) f.a (s.wv.lane t))) s

/-- VRDLANE writes a uniform register when at least one thread is active (R254). -/
def execVrdlane (f : InsA) (s : State) : Out :=
  vecDo (lenA f) (fun s =>
    let t := s.wv.laneIndex (s.srcU f.lit 32 f.b)
    if s.wv.activeMask f.g = 0 then s.wv
    else s.wv.putS f.d (InsA_width f) (s.src f.lit (.bits (InsA_width f)) f.a (s.wv.lane t))) s

/-- VWRLANE writes one thread's register, if that thread is active (R254). -/
def execVwrlane (f : InsA) (s : State) : Out :=
  vecDo (lenA f) (fun s =>
    let t := s.wv.laneIndex (s.srcU f.lit 32 f.b)
    let v := s.srcU f.lit (InsA_width f) f.a
    s.wv.putV (fun l => s.wv.activeLane f.g l && s.wv.visible l == t) f.d (InsA_width f) (fun _ => v)) s

/-- Whether a predicate differs between a thread of the mask and its shadow (R434). -/
def Wave.shadowDiffers (w : Wave) (k : Nat) (m : Mask) : Bool :=
  w.csr.prot && (List.range 32).any (fun t => m.getLsbD t && w.getP k (2 * t) != w.getP k (2 * t + 1))

/-- VBALLOT (R255); in protected launch mode a predicate that differs from its shadow halts the wave (R434). -/
def execVballot (f : InsA) (s : State) : Out :=
  let act := s.wv.activeMask f.g
  if s.wv.shadowDiffers f.a.toNat act then .next (s.halt 5)
  else vecDo (lenA f) (fun s =>
    s.wv.putS f.d 64 (maskOf (fun t => act.getLsbD t && s.wv.getP f.a.toNat (s.wv.lane t))).toNat) s

/-- The A values of the active threads below `n`, in thread order (R256). -/
def State.activeValues (s : State) (f : InsA) (n : Nat) : List Nat :=
  ((List.range n).filter (fun t => s.wv.active f.g t)).map
    (fun t => s.src f.lit (.bits (InsA_width f)) f.a (s.wv.lane t))

/-- VREDUX (R256). -/
def execVredux (f : InsA) (s : State) : Out :=
  vecDo (lenA f) (fun s =>
    match combineAll (fnHi f.fn) (InsA_signed f) (InsA_width f) (s.activeValues f 64) with
    | none => s.wv
    | some v => s.wv.putS f.d (InsA_width f) v) s

/-- VSCAN: an inclusive scan over the active threads (R256), which a thread and its shadow both receive (R252). -/
def execVscan (f : InsA) (s : State) : Out :=
  vecDo (lenA f) (fun s =>
    s.wv.putV (fun l => s.wv.active f.g (s.wv.visible l)) f.d (InsA_width f) (fun l =>
      (combineAll (fnHi f.fn) (InsA_signed f) (InsA_width f) (s.activeValues f (s.wv.visible l + 1))).getD 0)) s

end Sys2Proof.Machine
end

