-- ==== Sys2Proof/Machine/Control.lean ====
section
/-! DEFINITION. The control instructions of chapter 14: branches, rejoin masks, EXIT, WAITC, SLEEP, YIELD, ETRIG and ENQ.
All take the uniform guard. -/

namespace Sys2Proof.Machine

/-- A uniform-guarded control instruction of `n` bytes: with the guard false it falls through. -/
def guarded (g : Guard) (n : Nat) (body : State → State) (s : State) : Out :=
  .next (if s.wv.guardUni g then body s else s.advance n)

/-- The target of a relative branch (R29). -/
def branchTarget (s : State) (rel : BitVec 24) : VAddr := s.wv.ctl.pc + 4 * rel.signExtend 57

/-- The state with the wave in hand at another PC. -/
def State.goto (s : State) (pc : VAddr) : State :=
  s.mapWv (fun w => { w.jump pc with answers := [], waits := { w.waits with stall := none, rejects := 0 } })

/-- NOP (R370). -/
def execNop (f : InsB) (s : State) : Out := guarded f.g (lenB f) (fun s => s.advance (lenB f)) s

/-- BRA (R370). -/
def execBra (f : InsB) (s : State) : Out := guarded f.g (lenB f) (fun s => s.goto (branchTarget s f.rel)) s

/-- The threads of EXEC for which a lane predicate holds (R370, R371). -/
def Wave.votes (w : Wave) (k : Nat) : Mask :=
  maskOf (fun t => decide (t < w.threads) && w.ctl.exec.getLsbD t && w.getP k (w.lane t))

/-- Whether the vote of BRQ holds: .ANY, .ALL or .NONE (R370). -/
def voteHolds (fn : Nat) (votes exec : Mask) : Bool :=
  match fn with
  | 0 => votes != 0
  | 1 => votes == exec
  | _ => votes == 0

/-- BRQ (R370); in protected launch mode a predicate that differs from its shadow halts the wave (R434). -/
def execBrq (f : InsB) (s : State) : Out :=
  guarded f.g (lenB f) (fun s =>
    let k := f.x.toNat
    if s.wv.shadowDiffers k s.wv.ctl.exec then s.halt 5
    else if voteHolds f.fn.toNat (s.wv.votes k) s.wv.ctl.exec then s.goto (branchTarget s f.rel)
    else s.advance (lenB f)) s

/-- BRV (R371). -/
def execBrv (f : InsB) (s : State) : Out :=
  guarded f.g (lenB f) (fun s =>
    let w := s.wv
    let e := w.ctl.exec
    let v := w.votes f.x.toNat
    let t := if f.fn = 1 then e &&& ~~~v else v
    let o := e &&& ~~~t
    if w.shadowDiffers f.x.toNat e then s.halt 5
    else if o = 0 then s.goto (branchTarget s f.rel)
    else if t = 0 then s.advance (lenB f)
    else if 8 ≤ w.ctl.path.length then s.trapAll cPathStack 1
    else
      s.withWv { (w.switched s.now) with
        ctl := { w.ctl with path := ⟨w.ctl.pc + 8, o⟩ :: w.ctl.path, exec := t, pc := branchTarget s f.rel }
        answers := [], waits := { w.waits with stall := none, rejects := 0 } }) s

/-- BRX: the target is a uniform pair (R370). -/
def execBrx (f : InsB) (s : State) : Out :=
  guarded f.g (lenB f) (fun s => s.goto (BitVec.ofNat 57 (s.srcU none 64 f.x))) s

/-- A rejoin mask of the wave. -/
def Wave.join (w : Wave) (n : Nat) : Join := Map.getD w.ctl.joins n ⟨0, 0, 0⟩

/-- The wave with a rejoin mask written. -/
def Wave.setJoin (w : Wave) (n : Nat) (j : Join) : Wave := { w with ctl := { w.ctl with joins := Map.set w.ctl.joins n j } }

/-- JENROL (R372). -/
def execJenrol (f : InsB) (s : State) : Out :=
  guarded f.g (lenB f) (fun s =>
    if (s.wv.join f.x.toNat).arrived ≠ 0 then s.trapAll cPathStack 3
    else (s.withWv (s.wv.setJoin f.x.toNat ⟨s.wv.ctl.exec, 0, branchTarget s f.rel⟩)).advance (lenB f)) s

/-- JPARK (R373). -/
def execJpark (f : InsB) (s : State) : Out :=
  guarded f.g (lenB f) (fun s =>
    let w := s.wv
    let n := f.x.toNat
    let j := w.join n
    let p := w.ctl.exec &&& j.mask
    let o := w.ctl.exec &&& ~~~j.mask
    let arrived := j.arrived ||| p
    if p ≠ 0 ∧ arrived = j.mask then
      if o ≠ 0 ∧ 8 ≤ w.ctl.path.length then s.trapAll cPathStack 1
      else
        let w1 := w.setJoin n { j with arrived := 0 }
        let path := if o ≠ 0 then ⟨w.ctl.pc + 8, o⟩ :: w.ctl.path else w.ctl.path
        s.withWv { (w1.switched s.now) with
          ctl := { w1.ctl with path := path, exec := j.mask, pc := j.pc }
          answers := [], waits := { w.waits with stall := none, rejects := 0 } }
    else
      let w1 := w.setJoin n { j with arrived := arrived }
      if o ≠ 0 then (s.withWv { w1 with ctl := { w1.ctl with exec := o } }).advance (lenB f)
      else if w.ctl.path.isEmpty then s.trapAll cPathStack 2
      else s.popPath w1) s

/-- JSTRIKE (R374). -/
def execJstrike (f : InsB) (s : State) : Out :=
  guarded f.g (lenB f) (fun s =>
    let w := s.wv
    let j := w.join f.x.toNat
    let m := j.mask &&& ~~~w.ctl.exec
    if j.arrived ≠ 0 ∧ j.arrived = m then
      if 8 ≤ w.ctl.path.length then s.trapAll cPathStack 1
      else
        let w1 := w.setJoin f.x.toNat ⟨m, 0, j.pc⟩
        (s.withWv { w1 with ctl := { w1.ctl with path := ⟨j.pc, m⟩ :: w1.ctl.path } }).advance (lenB f)
    else (s.withWv (w.setJoin f.x.toNat { j with mask := m })).advance (lenB f)) s

/-- The rejoin masks without the lanes of `l`, and the paths that this completes, in ascending order (R375). -/
def exitJoins (l : Mask) : Map Join → List PathEntry → Map Join × List PathEntry
  | [], path => ([], path)
  | (i, j) :: js, path =>
    let m := j.mask &&& ~~~l
    let a := j.arrived &&& ~~~l
    if a ≠ 0 ∧ a = m then
      let r := exitJoins l js (⟨j.pc, m⟩ :: path)
      ((i, ⟨m, 0, j.pc⟩) :: r.1, r.2)
    else
      let r := exitJoins l js path
      ((i, ⟨m, a, j.pc⟩) :: r.1, r.2)

/-- EXIT ends the running lanes (R375): a completed rejoin is pushed, the top path popped, or the wave ends (R360). -/
def execExit (f : InsB) (s : State) : Out :=
  guarded f.g (lenB f) (fun s =>
    let w := s.wv
    let r := exitJoins w.ctl.exec w.ctl.joins w.ctl.path
    if 8 < r.2.length ∧ w.ctl.path.length < r.2.length then s.trapAll cPathStack 1
    else s.leave { w with
      ctl := { w.ctl with joins := r.1, path := r.2, ended := w.ctl.ended ||| w.ctl.exec, exec := 0 } }) s

/-- The limits of WAITC (R376). -/
def waitcLimit (f : InsT) (i : Nat) : Nat := bitsOf (6 * i) 6 (w1Of f)

/-- Taking the pending tile fault at the instruction in hand (R311). -/
def State.takeTile (s : State) (t : PendTile) : State :=
  (s.mapWv (fun w => { w with tile := none })).trapAll t.cause.toNat t.info.toNat

/-- WAITC (R376): waits for the class counters, then takes a tile fault whose operation it requires (R311). -/
def execWaitc (f : InsT) (s : State) : Out :=
  guarded f.g (lenT f) (fun s =>
    let c := s.wv.cnt
    if waitcLimit f 0 < c.ld ∨ waitcLimit f 1 < c.st ∨ waitcLimit f 2 < c.cp ∨ waitcLimit f 3 < c.tl ∨
        waitcLimit f 4 < c.ms then s.wait 5
    else
      match s.wv.tile with
      | some t => if t.order + waitcLimit f 3 ≤ s.wv.tlIssued then s.takeTile t else s.advance (lenT f)
      | none => s.advance (lenT f)) s

/-- The wave outside the active scheduling set until a time (R377). -/
def Wave.leaveSet (w : Wave) (wake : Nat) : Wave :=
  { w with sched := { w.sched with inSet := false, idle := 0, readyOut := 0, sleepUntil := max 1 wake, drowsy := true } }

/-- The core cycle from which a wave that sleeps now for `n` core cycles may issue (R377): it issues in none of the `n` after this
one; with none, SLEEP acts as YIELD. -/
def sleepEnd (now n : Nat) : Nat := if n = 0 then now else now + n + 1

/-- SLEEP (R377): 64 x X[15:0] core cycles outside the set. -/
def execSleep (f : InsB) (s : State) : Out :=
  guarded f.g (lenB f) (fun s =>
    (s.mapWv (fun w => w.leaveSet (sleepEnd s.now (64 * (s.srcU none 32 f.x % 2 ^ 16))))).advance (lenB f)) s

/-- YIELD (R377). -/
def execYield (f : InsB) (s : State) : Out :=
  guarded f.g (lenB f) (fun s => (s.mapWv (fun w => w.leaveSet s.now)).advance (lenB f)) s

/-- ETRIG (R378): waits as a release and for every earlier package write, then records the trigger timestamp. -/
def execEtrig (f : InsB) (s : State) : Out :=
  guarded f.g (lenB f) (fun s =>
    match s.wv.trig with
    | some _ => s.advance (lenB f)
    | none =>
      if !(s.releaseDone && s.writesDone) then s.wait 5
      else
        let s1 := s.mapWv Wave.released
        ((s1.mapWv (fun w => { w with trig := some w.pts })).waveTriggered s1.cur s1.wv.pts).advance (lenB f)) s

/-- ENQ (R379): a count of 0 is answered at once; otherwise the request is sent to the front end after the release,
with qD scoreboarded until the answer. -/
def execEnq (f : InsT) (s : State) : Out :=
  guarded f.g (lenT f) (fun s =>
    let b := s.srcU none 32 f.b
    if b = 0 then (s.mapWv (fun w => w.setQ f.d.toNat true)).advance (lenT f)
    else if !(s.releaseDone && s.writesDone) then s.wait 5
    else
      let s1 := s.mapWv Wave.released
      let sp : Spawn := ⟨s1.wv.ident.grid, s1.cur, s1.srcU none 64 f.a % 2 ^ 57, b, s1.wv.pts, f.d.toNat⟩
      let s2 := s1.mapWv (fun w => { w with
        waits := { w.waits with enq := w.waits.enq + 1 }, sb := w.sb ++ [(SbReg.q f.d.toNat, s.nextOp)] })
      (({ s2 with nextOp := s2.nextOp + 1 }).withFe { s2.fe with enqs := s2.fe.enqs ++ [sp] }).advance (lenT f)) s

end Sys2Proof.Machine
end

