-- ==== Sys2Proof/Machine/Atomic.lean ====
section
/-! DEFINITION. The operation table that ATOM, RED and ATOMS share (R182), but for .FADD, which is applied by the home
slice alone (Slices.lean). -/

namespace Sys2Proof.Machine

/-- The new value of an `n`-byte location: `old` and the operand `b`, whose upper half is the new value of CAS. -/
def atomNew (op n old b : Nat) : Nat :=
  let w := 8 * n
  match op with
  | 0 => (old + b) % 2 ^ w
  | 1 => wrapTo w (min (valOf true w old) (valOf true w b))
  | 2 => wrapTo w (max (valOf true w old) (valOf true w b))
  | 3 => old &&& b
  | 4 => old ||| b
  | 5 => old ^^^ b
  | 6 => b % 2 ^ w
  | _ => if old = b % 2 ^ w then b / 2 ^ w % 2 ^ w else old

end Sys2Proof.Machine
end

