-- ==== Sys2Proof/Machine/Home.lean ====
section
/-! DEFINITION. The home slice of a line and what it does with an access: placement (R75), keys and poison (R90, R92,
R464), tags and fills (R94, R95), timestamps (R133, R135), the mixed-size monitor (R144), and the watch (R96). -/

namespace Sys2Proof.Machine

/-! ## Placement (R74, R75) -/

/-- The lines of a channel group: 4.5 GiB (R75). -/
def groupLines : Nat := 37748736

/-- The size of a domain's range (R74). -/
def Dom.size (d : Dom) : Nat := d.groups.length * groupLines * 128

/-- Whether a physical address lies in the domain's range of window 00 (R74). -/
def Dom.holds (d : Dom) (pa : Nat) : Bool := d.plan.base ≤ pa && pa < d.plan.base + d.size

/-- The position of a line in its group (R75). -/
def Dom.position (d : Dom) (pa : Nat) : Nat := (pa - d.plan.base) / 128 / d.groups.length

/-- The channel group of a line (R75). -/
def Dom.group (d : Dom) (pa : Nat) : Nat :=
  let n := d.groups.length
  let p := d.position pa
  let h := (p % 256) ^^^ (p / 2 ^ 8 % 256) ^^^ (p / 2 ^ 16 % 256) ^^^ (p / 2 ^ 24 % 4)
  d.groups.getD (((pa - d.plan.base) / 128 % n + h) % n) 0

/-- The home slice of a line (R75). -/
def Dom.home (d : Dom) (pa : Nat) : Nat :=
  let p := d.position pa
  4 * d.group pa + ((p % 4) ^^^ (p / 2 ^ 8 % 4))

/-- The set of a line in its slice (R93). -/
def Dom.set (d : Dom) (pa : Nat) : Nat := d.position pa / 4 % 512

/-- The domain that holds a package address, with the line's home. -/
def State.homeOf (s : State) (dom pa : Nat) : Option (Dom × Nat) :=
  match s.dom? dom with
  | some d => if d.holds pa then some (d, d.home pa) else none
  | none => none

/-! ## Keys and poison -/

/-- A key slot (R89). -/
def State.key (s : State) (k : Nat) : KeySlot := Map.getD s.ms.keys k KeySlot.reset

/-- Whether a key slot may be used by a domain at the home (R89): loaded, and owned by it. -/
def State.keyUsable (s : State) (k dom : Nat) : Bool := (s.key k).st == .loaded && (s.key k).owner == dom

/-- What stands for a key slot in a host write of a line that nothing has written: the host interface names no slot, and a
kernel's first loads return the host's input (R446), so every slot of the domain reads such a line (assumption 49). -/
def hostSlot : Nat := 4097

/-- The key slot of a host access (R92): the one under which the line was last written, or none in particular; the spec does
not name it (assumption 49). -/
def State.hostKey (s : State) (pa : Nat) : Nat :=
  match Map.get? s.ms.lineKey (pa / 128) with
  | some t => t.1
  | none => hostSlot

/-- The key slot and epoch under which a line was last written (R90), or the mark of a range whose contents are
undefined (R76, R462): no key slot reads those as they were. -/
def State.lineTag (s : State) (line : Nat) : Option (Nat × Nat) :=
  match Map.get? s.ms.lineKey line with
  | some t => some t
  | none => (s.ms.undef.find? (fun r => decide (r.1 ≤ 128 * line) && decide (128 * line < r.1 + r.2.1))).map
      (fun r => (4096, r.2.2))

/-- A byte of package memory as a request under key slot `k` sees it (R90): what was written, where the line was last
written under the same key, or was never written; otherwise a byte without a defined value. -/
def State.byteUnder (s : State) (k a : Nat) : Byte :=
  let b := Memory.get s.ms.mem a
  match s.lineTag (a / 128) with
  | none => b
  | some (k0, e0) =>
    if k0 = hostSlot ∨ (k0 = k ∧ e0 = (s.key k).epoch) then b
    else Config.decrypted (a / 128) k (s.key k).epoch k0 e0 (a % 128) b

/-- `n` bytes under a key slot. -/
def State.bytesUnder (s : State) (k a : Nat) : Nat → List Byte
  | 0 => []
  | n + 1 => s.byteUnder k a :: State.bytesUnder s k (a + 1) n

/-- The 64-byte chunks that a range touches. -/
def chunksOf (a n : Nat) : List Nat := if n = 0 then [] else (List.range ((a + n - 1) / 64 - a / 64 + 1)).map (a / 64 + ·)

/-- Whether a line's channel group is lost (R76). -/
def State.lineLost (s : State) (d : Dom) (pa : Nat) : Bool := s.ms.lost.contains (d.group pa)

/-- The draw that names the contents of a line that nothing has written since its range was set (R462). -/
def State.unwritten (s : State) (line : Nat) : Option Nat :=
  if (Map.get? s.ms.lineKey line).isSome then none
  else (s.ms.undef.find? (fun r => decide (r.1 ≤ 128 * line) && decide (128 * line < r.1 + r.2.1))).map (fun r => r.2.2)

/-- Whether a 64-byte chunk is poisoned: by an error (R464), or because a line without a defined value may carry poison
(R462). -/
def State.chunkPoisoned (s : State) (c : Nat) : Bool :=
  s.ms.poison.contains c || (match s.unwritten (c / 2) with
    | some k => Config.unwrittenPoison k c
    | none => false)

/-- Whether a read of a range meets poison (R462, R464, R437). -/
def State.rangePoisoned (s : State) (d : Dom) (pa n : Nat) : Bool :=
  (chunksOf pa n).any s.chunkPoisoned || s.lineLost d pa || (s.slice (d.home pa)).fenced

/-- Memory with bytes of one line written under a key slot: a line last written under another key is first taken as
that key reads it (R90). A chunk written whole loses its poison, any other chunk of the line keeps it (R462, R464). -/
def State.writeLine (s : State) (k a : Nat) (bs : List Byte) : State :=
  let line := a / 128
  let whole := s.bytesUnder k (128 * line) 128
  let same := match s.lineTag line with
    | none => true
    | some (k0, e0) => k0 = k && e0 = (s.key k).epoch
  let mem0 := if same then s.ms.mem else Memory.write s.ms.mem (128 * line) whole
  let poison := s.ms.poison ++ [2 * line, 2 * line + 1].filter (fun c => !s.ms.poison.contains c && s.chunkPoisoned c)
  s.withMs { s.ms with
    mem := Memory.write mem0 a bs
    lineKey := Map.set s.ms.lineKey line (k, (s.key k).epoch)
    poison := poison.filter (fun c => !(decide (a ≤ 64 * c) && decide (64 * c + 64 ≤ a + bs.length))) }

/-! ## Tags, fills and evictions (R94, R95, R133) -/

/-- The way that holds a line. -/
def Slice.way? (x : Slice) (set line : Nat) : Option Way := (Map.getD x.sets set []).find? (fun w => w.line == line)

/-- Whether a slice holds a line under a key slot. -/
def Slice.present (x : Slice) (set line key : Nat) : Bool :=
  match x.way? set line with
  | some w => w.key == key
  | none => false

/-- A way with RDELTA in 16 bits: WTS rises where it would not fit (R133). -/
def Way.fit (w : Way) : Way := if w.wts + 65535 < w.rts then { w with wts := w.rts - 65535 } else w

/-- A slice with every WDELTA in 16 bits: SBASE rises by steps of 32,768, and lines below it with it (R133). -/
def Slice.fit (x : Slice) (wts : Nat) : Slice :=
  if wts ≤ x.sbase + 65535 then x
  else
    let base := x.sbase + 32768 * ((wts - x.sbase - 65535 + 32767) / 32768)
    { x with
      sbase := base
      sets := x.sets.map (fun e =>
        (e.1, e.2.map (fun w => if w.wts < base then { w with wts := base, rts := max w.rts base } else w))) }

/-- A way as LEASE can hold it in a slice (R133): WTS not below SBASE, and RDELTA in 16 bits. -/
def Slice.raise (x : Slice) (w : Way) : Way :=
  (if w.wts < x.sbase then { w with wts := x.sbase, rts := max w.rts x.sbase } else w).fit

/-- A slice with a way written over the line's old place, or added, as LEASE holds it. -/
def Slice.putWay (x : Slice) (set : Nat) (w : Way) : Slice :=
  let w := x.raise w
  let ws := (Map.getD x.sets set []).filter (fun v => v.way != w.way)
  Slice.fit { x with sets := Map.set x.sets set (ws ++ [w]) } w.wts

/-- A slice without a way; MTS keeps its RTS (R135). -/
def Slice.evict (x : Slice) (set : Nat) (w : Way) : Slice :=
  { x with sets := Map.set x.sets set ((Map.getD x.sets set []).filter (fun v => v.way != w.way)), mts := max x.mts w.rts }

/-- The least recently used of some ways. -/
def leastUsed : List Way → Option Way
  | [] => none
  | w :: ws => match leastUsed ws with
    | none => some w
    | some v => if w.used ≤ v.used then some w else some v

/-- The clusters of a domain (R128, R129). -/
def Dom.clusters (d : Dom) : List Nat :=
  let part := fun die => (List.range (128 / d.plan.n)).map (fun i => 128 * die + 128 * d.plan.k / d.plan.n + i)
  if d.plan.spanning then part 0 ++ part 1 else part d.plan.die

/-- The ports numbered 0 of the 16 clusters of a group (R96, R119). -/
def groupPorts (grp : Nat) : List Nat := (List.range 16).map (fun i => 256 * (grp / 8) + 2 * (16 * (grp % 8) + i))

/-- The header of the WINV for a group of 16 clusters (R96, R463). -/
def winvPacket (slice line dom ts grp : Nat) : Packet :=
  { ty := .winv, port := 256 * (grp / 8) + 32 * (grp % 8), slice := slice, seq := 0, dom := dom, key := 0,
    mark := false, trim := false, rpl := false, retry := 0, len := 128, opx := 0,
    mgrp := grp, mcast := 0xFFFF, addr := 128 * line, ts := ts, ld := 0,
    mt2 := false, watch := false, again := false, born := 0, data := [] }

/-! ## Paths (R97-R99, R129, R130) -/

/-- The die of a port (R97). -/
def portDie (p : Nat) : Nat := if p < 512 then p / 256 else (p - 512) / 256

/-- The die and the line at which a port's packets enter or leave the die-select stage: a cluster port at its own, a
service port at the domain's lowest-numbered cluster port (R130). -/
def portPlace (d : Dom) (p : Nat) : Nat × Nat :=
  if p < 512 then (p / 256, p % 256) else (if d.plan.spanning then 0 else d.plan.die, 256 * d.plan.k / d.plan.n)

/-- The seam lane of a die-select switch among the domain's own (R99, R128). -/
def seamLane (d : Dom) (line : Nat) : Nat := 16 * d.plan.k / d.plan.n + line % max 1 (16 / d.plan.n)

/-- The number of a switch output: network (0 request, 1 reply), die, stage (0 die-select, 1-4 radix-4) and line. The seam
lanes that leave a die have stage 5 of network 0: both networks use them (R99). -/
def switchId (net die stage line : Nat) : Nat := ((net * 2 + die) * 8 + stage) * 256 + line

/-- The bits of the line that are the destination's after radix-4 stage `j` (R98). A stage of the reply butterfly replaces
the bits (3, 0), then (4, 1), (5, 2) and (7, 6), as the worked example of R121 has it; the request butterfly has the same
stages in reverse order. -/
def stageMask (net j : Nat) : Nat :=
  if net = 0 then [0, 0xC0, 0xE4, 0xF6, 0xFF].getD j 0xFF else [0, 0x09, 0x1B, 0x3F, 0xFF].getD j 0xFF

/-- The line after radix-4 stage `j`. -/
def stageLine (net j src dst : Nat) : Nat := (dst &&& stageMask net j) + (src &&& (255 - stageMask net j))

/-- The radix-4 outputs from a line to a destination line on one die. -/
def radixPath (net die src dst : Nat) : List Nat :=
  (List.range 4).map (fun i => switchId net die (i + 1) (stageLine net (i + 1) src dst))

/-- The path of a request from a port to a slice. -/
def requestPath (d : Dom) (port slice : Nat) : List Nat :=
  let e := portPlace d port
  let b := slice / 256
  [switchId 0 e.1 0 e.2] ++ (if e.1 = b then [] else [switchId 0 e.1 5 (seamLane d e.2)]) ++ radixPath 0 b e.2 (slice % 256)

/-- The path of a reply from a slice to a port; across the seam it enters the far die's first radix-4 stage (R99). -/
def replyPath (d : Dom) (slice port : Nat) : List Nat :=
  let e := portPlace d port
  let b := slice / 256
  radixPath 1 b (slice % 256) e.2 ++
    (if e.1 = b then [] else switchId 0 b 5 (seamLane d e.2) :: radixPath 1 e.1 e.2 e.2) ++ [switchId 1 e.1 0 e.2]

/-- The domain of a packet, or the undivided package for one that does not exist. -/
def State.domOf (s : State) (d : Nat) : Dom := (s.dom? d).getD Dom.undivided

/-- A packet put on the wire to a slice. -/
def State.sendRequest (s : State) (p : Packet) : State :=
  { s with net := { s.net with wires := s.net.wires ++ [⟨p, 0, requestPath (s.domOf p.dom) p.port p.slice, []⟩] } }

/-- A packet put on the wire to a port. -/
def State.sendReply (s : State) (p : Packet) : State :=
  { s with net := { s.net with wires := s.net.wires ++ [⟨{ p with born := s.now }, 0, replyPath (s.domOf p.dom) p.slice p.port, [p.port]⟩] } }

/-- One WINV sent to each group of 16 clusters of the line's domain, and the operation that waits for the WACKs of all its
clusters (R96). -/
def State.startWinv (s : State) (slice dom line ts : Nat) (reply : Option Packet) : State :=
  let cs := (s.domOf dom).clusters
  let x := s.slice slice
  let s1 := s.setSlice slice { x with winvs := x.winvs ++ [⟨line, cs, reply⟩] }
  { s1 with net := { s1.net with wires := s1.net.wires ++
      ((cs.map (fun c => c / 16)).eraseDups).map (fun g => ⟨winvPacket slice line dom ts g, 0, [], groupPorts g⟩) } }

/-- A line brought into its slice under a key slot, if it is not there (R90, R95, R135): a free way, else the least
recently used without the watch, else the least recently used of all, whose WINV is sent. No write caused that WINV, and
R463 gives it no timestamp; it carries the line's WTS (assumption 81). -/
def State.ensureLine (s : State) (d : Dom) (pa key : Nat) : State :=
  let home := d.home pa
  let set := d.set pa
  let line := pa / 128
  let x := s.slice home
  match x.way? set line with
  | some w =>
    if w.key = key then s
    else
      let x1 := x.evict set w
      s.setSlice home (x1.putWay set { w with key := key, dirty := false, wts := x1.mts, rts := x1.mts, used := s.now })
  | none =>
    let ws := Map.getD x.sets set []
    let ways := if x.swept.contains set then 14 else 16
    let new := fun (x1 : Slice) (i : Nat) =>
      x1.putWay set ⟨i, line, key, false, false, x1.mts, x1.mts, s.now⟩
    match (List.range ways).find? (fun i => !(ws.any (fun w => w.way == i))) with
    | some i => s.setSlice home (new x i)
    | none =>
      let cand := ws.filter (fun w => w.way < ways)
      match leastUsed (cand.filter (fun w => !w.watch)) with
      | some w => s.setSlice home (new (x.evict set w) w.way)
      | none =>
        match leastUsed cand with
        | some w =>
          (s.setSlice home (new (x.evict set w) w.way)).startWinv home d.plan.num w.line w.wts none
        | none => s

/-- The way that serves an access: the line's, brought in if need be; a line of a page with MT = 2 that no way holds is
served without one (R95), with the timestamps of a fill (R135). -/
def State.lineFor (s : State) (d : Dom) (pa key : Nat) (mt2 : Bool) : State × Way :=
  let x := s.slice (d.home pa)
  let passing : Way := ⟨16, pa / 128, key, false, false, x.mts, x.mts, s.now⟩
  if mt2 && (x.way? (d.set pa) (pa / 128)).isNone then (s, passing)
  else
    let s1 := s.ensureLine d pa key
    (s1, ((s1.slice (d.home pa)).way? (d.set pa) (pa / 128)).getD passing)

/-- The way after an access: kept, or for a page with MT = 2 given up, unless the watch needs it (R95, assumption 75). -/
def State.keepLine (s : State) (d : Dom) (pa : Nat) (mt2 : Bool) (w : Way) : State :=
  let x := s.slice (d.home pa)
  if mt2 && !w.watch then s.setSlice (d.home pa) (x.evict (d.set pa) (x.raise w))
  else s.setSlice (d.home pa) (x.putWay (d.set pa) w)

/-- Whether an access that needs the line of an address would start a WINV operation (R96): a write of a watched line, or a
fill of a set whose every way is watched. -/
def State.winvNeeded (s : State) (d : Dom) (pa : Nat) (mt2 write : Bool) : Bool :=
  let x := s.slice (d.home pa)
  let ways := if x.swept.contains (d.set pa) then 14 else 16
  let ws := Map.getD x.sets (d.set pa) []
  match x.way? (d.set pa) (pa / 128) with
  | some w => write && w.watch
  | none => !mt2 && (List.range ways).all (fun i => ws.any (fun w => w.way == i && w.watch))

/-- Whether that would be one beyond the 64 that a slice has (R96). -/
def State.winvBlocked (s : State) (d : Dom) (pa : Nat) (mt2 write : Bool) : Bool :=
  decide (64 ≤ (s.slice (d.home pa)).winvs.length) && s.winvNeeded d pa mt2 write

/-- The migrating range of a slice that holds an address (R87). -/
def Slice.frozen (x : Slice) (pa : Nat) : Bool := x.migrating.any (fun m => decide (m.base ≤ pa) && decide (pa < m.base + m.len))

/-! ## The mixed-size monitor (R143, R144) -/

/-- Whether two accesses overlap in mixed size (R143). -/
def mixedSize (a n b m : Nat) : Bool := a < b + m && b < a + n && !(a == b && n == m)

/-- Whether the monitor flags an access now (R144). -/
def Slice.flagged (x : Slice) (a n now : Nat) : Bool :=
  x.monitor.any (fun e => mixedSize a n e.addr e.len && now < e.time + 4096)

/-- The monitor after a write: its last 256 (R144). -/
def Slice.noteWrite (x : Slice) (e : MonitorEntry) : Slice :=
  let all := x.monitor ++ [e]
  { x with monitor := all.drop (all.length - 256) }

/-- The writes that the monitor shows for some bytes and that a read may still miss by R139, newest first. -/
def Slice.recent (x : Slice) (a n now : Nat) : List MonitorEntry :=
  (x.monitor.filter (fun e => decide (a < e.addr + e.len) && decide (e.addr < a + n) && decide (now < e.time + 1024))).reverse

/-- Whether a write holds an access of just this address and size (R143). -/
def MonitorEntry.same (e : MonitorEntry) (a n : Nat) : Bool := (if e.cuts.isEmpty then [(e.addr, e.len)] else e.cuts).contains (a, n)

/-- The writes of `es`, newest first, whose bytes an access of address and size may return old or new (R143): those that it
overlaps in mixed size, back to the first of its own address and size, or that is already ordered before it, or applied 2,048
core cycles before (R139). -/
def missable (es : List MonitorEntry) (a n pts now : Nat) : List MonitorEntry :=
  (es.filter (fun e => decide (a < e.addr + e.len) && decide (e.addr < a + n))).takeWhile
    (fun e => !e.same a n && decide (pts < e.wts) && decide (now < e.time + 1024))

/-- Byte `i` of an access, at address `x`: the value `b` that the home holds, or what one of the writes wrote over, as the
digits of a choice have it. -/
def mixedByte (es : List MonitorEntry) (c i x : Nat) (b : Byte) : Byte :=
  let vs := (es.filter (fun e => decide (e.addr ≤ x) && decide (x < e.addr + e.len))).map (fun e => e.old.getD (x - e.addr) b)
  (b :: vs).getD (c / 512 ^ i % 512 % (vs.length + 1)) b

/-- The bytes of an access as it may read them. -/
def mixedBytes (es : List MonitorEntry) (a c : Nat) (bs : List Byte) : List Byte :=
  bs.zipIdx.map (fun b => mixedByte es c b.2 (a + b.2) b.1)

/-! ## Applying an access at its home (R135) -/

/-- What a home answers: data, status bits of OPX (R102), the sideband, and whether a watched line was written. -/
structure HomeAnswer where
  data : List Byte
  opx : Nat
  ts : Nat
  ld : Nat
  watched : Bool
  deriving DecidableEq, Repr

/-- The status of an access before it is applied: 5 under a key slot that is not usable (R92), else the mixed-size
flag (R144). -/
def State.accessStatus (s : State) (d : Dom) (key pa n : Nat) : Nat :=
  if key ≠ hostSlot ∧ !(s.keyUsable key d.plan.num) then 5
  else if (s.slice (d.home pa)).flagged pa n s.netNow then 2 else 0

/-- A read at the home (R135): the current value. -/
def State.homeRead (s : State) (d : Dom) (key pa n ts : Nat) (mt2 : Bool) : State × HomeAnswer :=
  let st := s.accessStatus d key pa n
  if st = 5 then (s, ⟨List.replicate n 0, 5, ts, 0, false⟩)
  else
    let a := s.lineFor d pa key mt2
    let w := (a.1.slice (d.home pa)).raise { a.2 with rts := max a.2.rts (max (a.2.wts + 64) (ts + 64)), used := s.now }
    let opx := st + if a.1.rangePoisoned d pa n then 1 else 0
    (a.1.keepLine d pa mt2 w, ⟨a.1.bytesUnder key pa n, opx, w.wts, w.rts - w.wts, false⟩)

/-- The writes that an access at its home may still miss (R143). -/
def State.recentAt (s : State) (d : Dom) (pa n : Nat) : List MonitorEntry := (s.slice (d.home pa)).recent pa n s.netNow

/-- The bytes of a read by an engine that came back at its TS (R143, R149): the old or the new ones of each write that it
overlaps in mixed size, as a free value has it. -/
def State.engineBytes (s : State) (es : List MonitorEntry) (pa n ts : Nat) (bs : List Byte) : State × List Byte :=
  match missable es pa n ts s.netNow with
  | [] => (s, bs)
  | vs => (s.drawn, mixedBytes vs pa (Config.choice s.draws) bs)

/-- A write, an atomic or a reduction at the home (R135): `new` gives the bytes from the old ones, which the answer
holds; `rmw` tells that the old ones matter, so that poison forbids it (R464); `cuts` are the accesses that it merges. -/
def State.homeWrite (s : State) (d : Dom) (key pa n ts : Nat) (mt2 rmw : Bool) (new : List Byte → List Byte)
    (cuts : List (Nat × Nat) := []) : State × HomeAnswer :=
  let st := s.accessStatus d key pa n
  if st = 5 then (s, ⟨List.replicate n 0, 5, ts, 0, false⟩)
  else
    let a := s.lineFor d pa key mt2
    let x := a.1.slice (d.home pa)
    let w := x.raise a.2
    if rmw && a.1.rangePoisoned d pa n then (a.1.keepLine d pa mt2 w, ⟨List.replicate n 0, st + 1, w.wts, 0, false⟩)
    else
      let old := a.1.bytesUnder key pa n
      let wts := max ts (w.rts + 1)
      let s1 := a.1.setSlice (d.home pa) (x.noteWrite ⟨pa, n, s.netNow, wts, old, w.wts, cuts⟩)
      let s2 := s1.keepLine d pa mt2 { w with wts := wts, rts := wts, dirty := true, watch := false, used := s.now }
      (s2.writeLine key pa (new old), ⟨old, st, wts, 0, w.watch⟩)

/-- The watch bit of a line set at its home, in the step that reads it for a residency load (R96, R303). -/
def State.watchLine (s : State) (d : Dom) (pa : Nat) : State :=
  let h := d.home pa
  let x := s.slice h
  match x.way? (d.set pa) (pa / 128) with
  | some w => s.setSlice h (x.putWay (d.set pa) { w with watch := true })
  | none => s

/-- A write by a migration or a save, taken at the home in one step; a watched line's WINV goes out (R96). -/
def State.engineWrite (s : State) (d : Dom) (key pa ts : Nat) (mt2 : Bool) (bs : List Byte) : State × HomeAnswer :=
  let r := s.homeWrite d key pa bs.length ts mt2 false (fun _ => bs)
  if r.2.watched then (r.1.startWinv (d.home pa) d.plan.num (pa / 128) ts none, r.2) else r

end Sys2Proof.Machine
end

