-- ==== Sys2Proof/Machine/Translate.lean ====
section
/-! DEFINITION. Virtual addresses and the page table (R77-R84): the walk, the TLBs, the walk entries of a cluster, and
what a wave's access or an engine's finds. Access kinds: 0 load, 1 store, 2 atomic or reduction, 3 fetch, 4 an engine's
read, 5 an engine's write, which R84 reports as 4. -/

namespace Sys2Proof.Machine

/-- Whether an access of a kind needs W (R79, R84). -/
def needsW (kind : Nat) : Bool := kind == 1 || kind == 2 || kind == 5

/-- The size in bits of a leaf at a level (R78). -/
def leafBits (level : Nat) (size : Bool) : Nat := 12 + 9 * level + if size then 4 else 0

/-- The format checks of an entry (BAD_ENTRY of R84, under R79). A leaf with MT = 3 is refused in every window: R79 has the
pages of windows 10 and 11 behave as MT = 2 whatever MT holds, R84 lists MT = 3 without an exception (assumption 74). -/
def entryBad (level e : Nat) : Bool :=
  let leaf := e.testBit 1
  let size := e.testBit 4
  let frame := bitsOf 12 40 e * 4096
  bitsOf 10 2 e != 0 || (level == 0 && !leaf) || (3 ≤ level && leaf) ||
    (if leaf then bitsOf 8 2 e == 3 || frame % 2 ^ (12 + 9 * level) != 0 || (level == 0 && frame % 4096 != 0)
     else bitsOf 2 3 e != 0 || bitsOf 6 4 e != 0) || (size && !leaf)

/-- The start of the page that a leaf maps (R78). -/
def leafBase (level e : Nat) : Nat :=
  let n := leafBits level (e.testBit 4)
  bitsOf 12 40 e * 4096 / 2 ^ n * 2 ^ n

/-- Whether a leaf's FRAME lies where it may (PHYS_RANGE of R84, R73, R74). -/
def leafPlaced (d : Dom) (level e : Nat) : Bool :=
  let b := leafBase level e
  match b / 2 ^ 50 with
  | 0 => d.holds b
  | 1 => false
  | _ => true

/-- The key check of an entry: 6 KEY_DENIED, 7 KEY_REVOKED (R84, R89). -/
def State.keyFault (s : State) (dom k : Nat) : Option Nat :=
  let x := s.key k
  match x.st with
  | .empty => some 6
  | .loaded => if x.owner = dom then none else some 6
  | .revoked => if x.owner = dom then some 7 else some 6

/-- The first check of R84 that an entry fails, for an access of a kind. -/
def State.entryFault (s : State) (d : Dom) (level e kind : Nat) : Option Nat :=
  let leaf := e.testBit 1
  if !e.testBit 0 then some 1
  else if entryBad level e then some 2
  else if leaf && needsW kind && !e.testBit 2 then some 3
  else if leaf && kind == 3 && !e.testBit 3 then some 4
  else if !(if leaf then leafPlaced d level e else d.holds (bitsOf 12 40 e * 4096)) then some 5
  else s.keyFault d.plan.num (bitsOf 52 12 e)

/-- The TLB entry that a leaf gives (R81). -/
def leafEntry (ctx : Context) (va level e : Nat) (d : Bool) : TlbEntry :=
  let n := leafBits level (e.testBit 4)
  { asn := ctx.asn, page := va / 2 ^ n, size := n, frame := leafBase level e, key := bitsOf 52 12 e,
    mt := if 2 ≤ bitsOf 50 2 e then 2 else bitsOf 8 2 e, w := e.testBit 2, x := e.testBit 3, d := d, dom := ctx.dom }

/-- The VA bits above a level, by which the translation cache tags an entry (R81). -/
def cacheIndex (va level : Nat) : Nat := va / 2 ^ (12 + 9 * level)

/-- A translation-cache entry added in place of the one with its tag; with 32,768 of its die held, one of them goes (R81). -/
def State.cacheEntry (s : State) (c : CachedEntry) : State :=
  let same := fun (x : CachedEntry) => x.die == c.die && x.asn == c.asn && x.level == c.level && x.index == c.index
  let mine := s.ms.xcache.filter (fun x => x.die == c.die && !same x)
  let others := s.ms.xcache.filter (fun x => x.die != c.die)
  if mine.length < 32768 then s.withMs { s.ms with xcache := c :: mine ++ others }
  else (s.withMs { s.ms with xcache := c :: dropAt mine (s.pick mine.length) ++ others }).drawn

/-- What one action of a walk gives: nothing yet, a new place, a restart at level 4, the leaf of a level, or the fault of
a level. -/
inductive WalkAct where
  | busy
  | go (p : WalkPos)
  | restart
  | leaf (level entry : Nat)
  | fault (f : WalkFault)
  deriving DecidableEq, Repr

/-- Where a walk begins (R77, R84). Before any entry is read, a context without a domain and a root key slot that may not
be used are faults of level 4 (assumption 76). -/
def State.walkStart (s : State) (ctx : Context) : Except WalkFault WalkPos :=
  match s.dom? ctx.dom with
  | none => .error (.sub 5 4)
  | some _ =>
    match s.keyFault ctx.dom ctx.key with
    | some c => .error (.sub c 4)
    | none => .ok ⟨4, ctx.root * 4096, ctx.key, none⟩

/-- The physical address of the entry that a walk stands at (R78). -/
def WalkPos.entryPa (p : WalkPos) (va : Nat) : Nat := p.table + 8 * (cacheIndex va p.level % 512)

/-- A walk reads its entry (R80): from the die's translation cache, unless the walk was restarted, or at its home. At a
home that a migration has frozen, the read is answered with REDIRECT, and the walk starts again (R87). -/
def State.walkRead (s : State) (die : Nat) (d : Dom) (ctx : Context) (va ts : Nat) (fresh : Bool) (p : WalkPos) :
    State × WalkAct :=
  let hit := if fresh then none else s.ms.xcache.find? (fun c => c.die == die && c.asn == ctx.asn && c.level == p.level &&
    c.index == cacheIndex va p.level)
  let pa := p.entryPa va
  if !d.holds p.table then (s, .fault (.sub 5 p.level))
  else
    match hit with
    | some c => (s, .go { p with entry := some c.entry })
    | none =>
      if (s.slice (d.home pa)).frozen pa then (s, .restart)
      else if s.winvBlocked d pa false false then (s, .busy)
      else
        let r := s.homeRead d p.key pa 8 ts false
        if r.2.opx % 2 = 1 then (r.1, .fault (if r.2.opx / 4 % 2 = 1 then .sub 7 p.level else .poison))
        else (r.1, .go { p with entry := some (leNat r.2.data) })

/-- Where a walk goes from an entry that has passed. -/
def walkNext (level e : Nat) : WalkAct :=
  if e.testBit 1 then .leaf level e else .go ⟨level - 1, bitsOf 12 40 e * 4096, bitsOf 52 12 e, none⟩

/-- A walk uses the entry it has read (R78, R80, R84): the entry's faults; a leaf that migrates is left as it is; A is set,
and D where a write of one of the kinds `ks` goes through a leaf, by a compare-and-swap at the entry's home. If the entry
has changed since it was read, the walk restarts at level 4. The leaf's own faults are judged for each waiter. -/
def State.walkUse (s : State) (die : Nat) (d : Dom) (ctx : Context) (va ts : Nat) (ks : List Nat) (p : WalkPos) (e : Nat) :
    State × WalkAct :=
  let leaf := e.testBit 1
  let good := ks.filter (fun k => (s.entryFault d p.level e k).isNone)
  let pa := p.entryPa va
  if !leaf && (s.entryFault d p.level e 0).isSome then (s, .fault (.sub ((s.entryFault d p.level e 0).getD 1) p.level))
  else if good.isEmpty || (leaf && e.testBit 7) then (s, .leaf p.level e)
  else
    let e1 := e ||| 0x20 ||| (if leaf && good.any needsW then 0x40 else 0)
    if e1 = e then (s.cacheEntry ⟨die, ctx.asn, p.level, cacheIndex va p.level, e⟩, walkNext p.level e)
    else if (s.slice (d.home pa)).frozen pa then (s, .restart)
    else if s.winvBlocked d pa false true then (s, .busy)
    else
      let r := s.homeWrite d p.key pa 8 ts false true (fun old => if leNat old = e then leBytes 8 e1 else old)
      let s1 := if r.2.watched then r.1.startWinv (d.home pa) d.plan.num (pa / 128) ts none else r.1
      if r.2.opx % 2 = 1 then (s1, .fault (if r.2.opx / 4 % 2 = 1 then .sub 7 p.level else .poison))
      else if leNat r.2.data ≠ e then (s1, .restart)
      else (s1.cacheEntry ⟨die, ctx.asn, p.level, cacheIndex va p.level, e1⟩, walkNext p.level e1)

/-- One action of a walk for accesses of some kinds (R80). -/
def State.walkAct (s : State) (die : Nat) (ctx : Context) (va ts : Nat) (ks : List Nat) (fresh : Bool) (pos : Option WalkPos) :
    State × WalkAct :=
  match s.walkStart ctx with
  | .error f => (s, .fault f)
  | .ok p0 =>
    let d := s.domOf ctx.dom
    let p := pos.getD p0
    match p.entry with
    | none => s.walkRead die d ctx va ts fresh p
    | some e => s.walkUse die d ctx va ts ks p e

/-- What a leaf gives an access of a kind: its translation, its fault (R84), or the wait for a migration (R86). -/
inductive WalkResult where
  | leaf (e : TlbEntry)
  | migrating
  | fault (f : WalkFault)
  deriving DecidableEq, Repr

/-- A leaf judged for one access kind: a fault comes before the wait for a migration (assumption 110). -/
def State.judgeLeaf (s : State) (ctx : Context) (va kind level e : Nat) : WalkResult :=
  match s.entryFault (s.domOf ctx.dom) level e kind with
  | some c => .fault (.sub c level)
  | none => if e.testBit 7 then .migrating else .leaf (leafEntry ctx va level e (e.testBit 6))

/-! ## TLBs -/

/-- Whether a TLB entry serves an access (R79, R81): a write through an entry without D walks again to set it. -/
def TlbEntry.serves (e : TlbEntry) (ctx : Context) (va kind : Nat) : Bool :=
  e.asn == ctx.asn && e.dom == ctx.dom && e.page == va / 2 ^ e.size && (!needsW kind || (e.w && e.d)) &&
    (kind != 3 || e.x)

/-- A translation entered among `n` entries; a full set gives up an entry that no rule names. -/
def tlbInsert (tlb : List TlbEntry) (n pick : Nat) (e : TlbEntry) : List TlbEntry :=
  let rest := tlb.filter (fun x => !(x.asn == e.asn && x.size == e.size && x.page == e.page))
  if rest.length < n then e :: rest else e :: dropAt rest (pick % rest.length)

/-- A translation entered in the L1 TLB of a core: 64 entries, fully associative (R81). -/
def State.fillL1Tlb (s : State) (core : Nat) (e : TlbEntry) : State :=
  let c := s.core core
  (s.setCore core { c with tlb := tlbInsert c.tlb 64 (s.pick 64) e }).drawn

/-- A translation entered in the shared TLB of a cluster: 128 sets of 8 ways, chosen by the low bits of the page number
(R81, assumption 85). -/
def State.fillSharedTlb (s : State) (cluster : Nat) (e : TlbEntry) : State :=
  let c := s.cluster cluster
  let set := c.tlb.filter (fun x => x.page % 128 == e.page % 128)
  let rest := c.tlb.filter (fun x => x.page % 128 != e.page % 128)
  (s.setCluster cluster { c with tlb := tlbInsert set 8 (s.pick 8) e ++ rest }).drawn

/-- The TLB entry that serves an access of a core, if there is one; a shared entry is copied to the L1 TLB. -/
def State.tlbLookup (s : State) (core : Nat) (ctx : Context) (va kind : Nat) : Option TlbEntry × State :=
  match (s.core core).tlb.find? (fun e => e.serves ctx va kind) with
  | some e => (some e, s)
  | none =>
    match (s.cluster (clusterOf core)).tlb.find? (fun e => e.serves ctx va kind) with
    | some e => (some e, s.fillL1Tlb core e)
    | none => (none, s)

/-- The physical address of a VA under a TLB entry. -/
def TlbEntry.phys (e : TlbEntry) (va : Nat) : Nat := e.frame + va % 2 ^ e.size

/-- The level of the leaf that a TLB entry holds (R78). -/
def TlbEntry.level (e : TlbEntry) : Nat := (e.size - 12) / 9

/-- Whether a translation yields an address of window 00 outside the domain's range (R74). -/
def State.outside (s : State) (ctx : Context) (e : TlbEntry) (va : Nat) : Bool :=
  e.phys va / 2 ^ 50 == 0 && !(s.domOf ctx.dom).holds (e.phys va)

/-! ## A wave's access -/

/-- What a wave's access finds: its translation, a fault, a poisoned table entry, or a walk to wait for (R82, R84). -/
inductive Found where
  | ok (e : TlbEntry)
  | fault (f : WalkFault)
  | wait
  deriving DecidableEq, Repr

/-- A wave's request to the cluster's walk entries: it joins an open walk of the same address space and page, opens one
of the 32, or is refused (R82). Slot 8 of a core stands for its engines. -/
def State.openWalk (s : State) (id : WaveId) (ctx : Context) (va kind ts : Nat) : State :=
  let k := clusterOf id.core
  let c := s.cluster k
  let page := va / 4096
  let me := (id.core, id.slot, kind)
  if c.walks.any (fun w => w.asn == ctx.asn && w.page == page) then
    s.setCluster k { c with walks := c.walks.map (fun w =>
      if w.asn == ctx.asn && w.page == page && !w.waiters.contains me then { w with waiters := w.waiters ++ [me] } else w) }
  else if c.walks.length < 32 then
    s.setCluster k { c with walks := c.walks ++ [⟨ctx.asn, page, ctx, [me], ts, 0, false, none, false⟩] }
  else s

/-- Whether a cluster can take a walk of a page: it is open, or an entry is free (R82). -/
def State.walkRoom (s : State) (cluster asn va : Nat) : Bool :=
  decide ((s.cluster cluster).walks.length < 32) ||
    (s.cluster cluster).walks.any (fun w => w.asn == asn && w.page == va / 4096)

/-- The translation of one address for the wave in hand: what a walk that it waited for has found (R82), or its TLBs; a walk
refused counts towards the reserved queue (R172). -/
def State.find (s : State) (va kind : Nat) : Found × State :=
  let ctx := s.wv.ctx
  let use := fun (e : TlbEntry) => if s.outside ctx e va then Found.fault (.sub 5 e.level) else .ok e
  match s.wv.answers.find? (fun a => a.page == va / 4096 && a.kind == kind) with
  | some ⟨_, _, .found e⟩ => (use e, s)
  | some a => (.fault a.fault, s)
  | none =>
    match s.tlbLookup s.cur.core ctx va kind with
    | (some e, s1) => (use e, s1)
    | (none, s1) =>
      let k := if kind = 3 ∨ s1.walkRoom (clusterOf s.cur.core) ctx.asn va then 0 else 1
      (.wait, (s1.openWalk s.cur ctx va kind s.wv.pts).mapWv (fun w =>
        { w with waits := { w.waits with rejects := w.waits.rejects + k } }))

/-- The wave in hand without its walk answers, once an instruction has used them. -/
def State.dropAnswers (s : State) : State := s.mapWv (fun w => { w with answers := [] })

/-- The cause code and TRAPINFO of a translation fault of a wave (R84, R403). -/
def faultCause (code : Nat) : Nat := if code ≤ 2 then 0x10 else if code = 7 then 0x12 else 0x11
def faultInfo (code level kind : Nat) : Nat := code + 2 ^ 8 * level + 2 ^ 11 * kind

/-! ## Walk completion (R82, R86) -/

/-- What a walk found told to a waiter: kept for its wave or its core's engines (R82, R84), or its wave halted by a poisoned
entry (R414). -/
def State.tellWaiter (s : State) (w : Walker) (m : Nat × Nat × Nat) (f : WalkFault) : State :=
  let id : WaveId := ⟨m.1, m.2.1⟩
  let kind := m.2.2
  if m.2.1 = 8 then
    let c := s.core m.1
    s.setCore m.1 { c with answers := c.answers ++ [(w.asn, ⟨w.page, kind, f⟩)] }
  else if f = .poison then
    if (s.wave id).halt.isSome then s else s.haltAt id (if kind = 3 ∧ (s.wave id).waits.handler then 3 else 1)
  else
    let v := s.wave id
    s.setWave id { v with answers := v.answers ++ [⟨w.page, kind, f⟩] }

/-- The waiters of a walk that has found its leaf answered in turn: their TLBs filled and the translation told, or their
faults; those that must wait for a migration are returned (R82, R86). -/
def State.answerAll (s : State) (cluster : Nat) (w : Walker) (level e : Nat) :
    List (Nat × Nat × Nat) → State × List (Nat × Nat × Nat)
  | [] => (s, [])
  | m :: ms =>
    match s.judgeLeaf w.ctx (w.page * 4096) m.2.2 level e with
    | .migrating =>
      let r := State.answerAll s cluster w level e ms
      (r.1, m :: r.2)
    | .leaf t => State.answerAll (((s.fillSharedTlb cluster t).fillL1Tlb m.1 t).tellWaiter w m (.found t)) cluster w level e ms
    | .fault f => State.answerAll (s.tellWaiter w m f) cluster w level e ms

/-- Every waiter of a walk told one fault. -/
def State.failAll (s : State) (w : Walker) (f : WalkFault) : State := w.waiters.foldl (fun t m => t.tellWaiter w m f) s

/-- The state with a walk entry of a cluster replaced. -/
def State.setWalk (s : State) (cluster i : Nat) (w : Walker) : State :=
  let c := s.cluster cluster
  s.setCluster cluster { c with walks := modAt (fun _ => w) c.walks i }

/-- The state without a walk entry of a cluster. -/
def State.endWalk (s : State) (cluster i : Nat) : State :=
  let c := s.cluster cluster
  s.setCluster cluster { c with walks := dropAt c.walks i }

/-- A walk entry served by one action of its walk (R80): it moves on, restarts, ends, or waits 1,024 network cycles for
the page to be released (R86). -/
def State.serveWalk (s : State) (cluster i : Nat) (w : Walker) : State :=
  match s.walkAct (cluster / 128) w.ctx (w.page * 4096) w.ts (w.waiters.map (fun m => m.2.2)) w.fresh w.pos with
  | (s1, .busy) => s1
  | (s1, .go p) => s1.setWalk cluster i { w with pos := some p, migrating := false }
  | (s1, .restart) => s1.setWalk cluster i { w with pos := none, fresh := true, migrating := false }
  | (s1, .fault f) => (s1.failAll w f).endWalk cluster i
  | (s1, .leaf l e) =>
    let r := s1.answerAll cluster w l e w.waiters
    if r.2.isEmpty then r.1.endWalk cluster i
    else r.1.setWalk cluster i { w with waiters := r.2, retryAt := s.netNow + 1024, migrating := true, pos := none, fresh := true }

/-- PAGE_WALK_COMPLETE: walk entry `i` of a cluster takes its next action, the last of which ends it (R80, R82). -/
def execPageWalkComplete (cluster i : Nat) (s : State) : Out :=
  match (s.cluster cluster).walks[i]? with
  | some w => .next (if w.migrating then s else s.serveWalk cluster i w)
  | none => .next s

/-- MIGRATION_WALK_RETRY: a walk that found MIG = 1 is repeated once its interval has passed (R86). -/
def execMigrationWalkRetry (cluster i : Nat) (s : State) : Out :=
  match (s.cluster cluster).walks[i]? with
  | some w => .next (if w.migrating && decide (w.retryAt ≤ s.netNow) then s.serveWalk cluster i w else s)
  | none => .next s

/-! ## An engine's access (kinds 4 and 5) -/

/-- What an engine's address finds; `wait` where its walk is under way or could not be opened. -/
inductive EngineFound where
  | ok (pa key mt : Nat)
  | fault (code level : Nat)
  | poison
  | wait
  deriving DecidableEq, Repr

/-- What the walk that an agent of a core waits for has found, taken from the core. -/
def State.takeAnswer (s : State) (core asn va kind : Nat) : Option WalkFault × State :=
  let c := s.core core
  let mine := fun (a : Nat × WalkAnswer) => a.1 == asn && a.2.page == va / 4096 && a.2.kind == kind
  match c.answers.find? mine with
  | some a => (some a.2.fault, s.setCore core { c with answers := c.answers.filter (fun a => !mine a) })
  | none => (none, s)

/-- The translation of an engine's address on a core (R82, R84): a miss waits in a walk entry of the cluster. -/
def State.engineFind (s : State) (core : Nat) (ctx : Context) (va kind ts : Nat) : State × EngineFound :=
  let use := fun (e : TlbEntry) => if s.outside ctx e va then EngineFound.fault 5 e.level else .ok (e.phys va) e.key e.mt
  match s.takeAnswer core ctx.asn va kind with
  | (some (.sub c l), s1) => (s1, .fault c l)
  | (some .poison, s1) => (s1, .poison)
  | (some (.found e), s1) => (s1, use e)
  | (none, _) =>
    match s.tlbLookup core ctx va kind with
    | (some e, s1) => (s1, use e)
    | (none, s1) => (s1.openWalk ⟨core, 8⟩ ctx va kind ts, .wait)

end Sys2Proof.Machine
end

