-- ==== Sys2Proof/Machine/Ports.lean ====
section
/-! DEFINITION. Ports (R97, R105-R108, R111), the host window and the peer window as a core sees them (R73, R155), and
the pump that sends an operation's packets as the write queue (R137), the miss-status entries (R172) and the port's
window (R105) let them go. -/

namespace Sys2Proof.Machine

/-- The port of a core (R97). -/
def portOf (core : Nat) : Nat := 256 * dieOf core + 2 * (core / 16 % 128) + core % 16 / 8

/-- The service port of the host interface (R97). -/
def hostPort : Nat := 513

/-- A request sent by a port: it takes the pair's next SEQ and a place in the window, and its payload stays in the
retransmit buffer (R105, R106, R111). -/
def State.portSend (s : State) (port : Nat) (p : Packet) (c : Client) : State :=
  let x := s.port port
  let seq := Map.getD x.seqs p.slice 0
  let p1 := { p with port := port, seq := seq }
  (s.setPort port { x with
    seqs := Map.set x.seqs p.slice ((seq + 1) % 1024)
    sent := x.sent + 1
    outstanding := x.outstanding ++ [⟨p.slice, seq, p1, c, x.sent⟩] }).sendRequest p1

/-- Whether a port's window has room (R105). -/
def Port.hasRoom (x : Port) : Bool := x.outstanding.length < x.window

/-- Requests that wait at a port for a window place are sent while it has room (R114). -/
def State.drainPort (s : State) (port : Nat) : Nat → State
  | 0 => s
  | n + 1 =>
    let x := s.port port
    match x.waiting with
    | [] => s
    | (p, c) :: rest =>
      if x.hasRoom then State.drainPort ((s.setPort port { x with waiting := rest }).portSend port p c) port n else s

/-- A request that waits at its port for a window place rather than being refused (R114). -/
def State.portQueue (s : State) (port : Nat) (p : Packet) (c : Client) : State :=
  let x := s.port port
  (s.setPort port { x with waiting := x.waiting ++ [(p, c)] }).drainPort port (x.waiting.length + 1)

/-- A final reply's effect on the window (R108). -/
def Port.finalReply (x : Port) (o : Outstanding) (mark : Bool) : Port :=
  if mark then
    if o.stamp < x.halved then { x with unmarked := 0 }
    else { x with window := max 4 (x.window / 2), halved := x.sent, unmarked := 0 }
  else if x.unmarked + 1 ≥ x.window then { x with window := min 64 (x.window + 1), unmarked := 0 }
  else { x with unmarked := x.unmarked + 1 }

/-- The outstanding request that a reply answers. -/
def Port.find (x : Port) (slice seq : Nat) : Option Outstanding :=
  x.outstanding.find? (fun o => o.slice == slice && o.seq == seq)

/-- The port after a final reply: the request leaves the window and the retransmit buffer (R105, R111). -/
def State.portFinal (s : State) (port : Nat) (o : Outstanding) (mark : Bool) : State :=
  let x := s.port port
  let x1 := { x with outstanding := x.outstanding.filter (fun v => !(v.slice == o.slice && v.seq == o.seq)) }
  (s.setPort port (x1.finalReply o mark)).drainPort port x.waiting.length

/-! ## Packets of an operation -/

/-- The packet type of an operation's request (R104). -/
def OpKind.ptype : OpKind → PType
  | .load | .fill | .prefetch => .rd
  | .store | .spill => .wr
  | .atom => .atom
  | .red => .red
  | _ => .msg

/-- The relay slice of a message's destination, and its port (R122). -/
def relaySlice (addr : Nat) : Nat := 256 * (addr / 2 ^ 14 % 2) + 2 * (addr / 2 ^ 7 % 128) + addr / 2 ^ 3 % 16 / 8

/-- The destination core of a message's ADDR (R122). -/
def msgCore (addr : Nat) : Nat := 2048 * (addr / 2 ^ 14 % 2) + 16 * (addr / 2 ^ 7 % 128) + addr / 2 ^ 3 % 16

/-- The accesses that a request merges: those of a store's threads, behind the piece of the packet itself (R171). -/
def OpKind.cuts (k : OpKind) (r : Request) : List (Nat × Nat) :=
  if k == .store then (r.pieces.drop 1).map (fun p => (p.pa, p.len)) else []

/-- The packet of an operation's request, as a wave with the given domain and pts sends it (R102, R134). -/
def opPacket (o : MemOp) (r : Request) (dom pts slice : Nat) : Packet :=
  { ty := o.kind.ptype, port := 0, slice := slice, seq := 0, dom := dom, key := r.key, mark := false, trim := false,
    rpl := false, retry := 0, len := r.len, opx := o.opx, mgrp := 0, mcast := 0, addr := r.pa, ts := pts, ld := 0,
    mt2 := r.pieces.any (fun p => p.mt == 2), watch := false, again := false, born := 0, data := r.data, cuts := o.kind.cuts r }

/-! ## Peers over Nopel links (R442, R444) -/

/-- The Nopel port that carries traffic for a package: the route table's entry (R444). -/
def State.routeOf (s : State) (pkg : Nat) : Option Nat :=
  match Map.get? s.routes pkg with
  | some e => if e.getLsbD 4 then some (e.toNat % 16) else none
  | none => none

/-- A Nopel port. -/
def State.nport (s : State) (j : Nat) : NopelPort := Map.getD s.nopel j NopelPort.reset

/-- The state with a Nopel port replaced. -/
def State.setNport (s : State) (j : Nat) (p : NopelPort) : State := { s with nopel := Map.set s.nopel j p }

/-- The header flit of a packet (R102); SRC and SEQ as the sending port gives them. -/
def headerFlit (p : Packet) (src seq : Nat) : BitVec 128 :=
  let ty := match p.ty with
    | .rd => 0 | .wr => 1 | .atom => 2 | .red => 3 | .msg => 4 | .cprdm => 5 | .wack => 6 | .mack => 7 | .mnak => 8
    | .migrate => 9 | .release => 10 | .rdata => 0x10 | .wdone => 0x11 | .ares => 0x12 | .pull => 0x13
    | .redirect => 0x14 | .mdata => 0x15 | .winv => 0x16 | .msgd => 0x17 | .mdone => 0x18
  BitVec.ofNat 128 (2 ^ 123 * ty + 2 ^ 113 * (src % 1024) + 2 ^ 103 * (seq % 1024) + 2 ^ 99 * (p.dom % 16) +
    2 ^ 87 * (p.key % 4096) + 2 ^ 86 * p.mark.toNat + 2 ^ 85 * p.trim.toNat + 2 ^ 84 * p.rpl.toNat +
    2 ^ 80 * (p.retry % 16) + 2 ^ 77 * (Nat.log2 p.len % 8) + 2 ^ 72 * (p.opx % 32) + 2 ^ 68 * (p.mgrp % 16) +
    2 ^ 52 * (p.mcast % 2 ^ 16) + p.addr % 2 ^ 52)

/-- The payload flits of a packet (R101). -/
def payloadFlits (data : List Byte) : List (BitVec 128) :=
  if data.isEmpty then []
  else (List.range ((data.length + 15) / 16)).map (fun i => BitVec.ofNat 128 (leNat ((data.drop (16 * i)).take 16)))

/-- A flit of a Nopel port: its packet flits, padded to the body's 15, with the next SEQ, ACK, TYPE, NPF, DOM and the CRC
over them (R442). -/
def NopelPort.flit (p : NopelPort) (nak : Bool) (ty : Nat) (body : List (BitVec 128)) : NopelFlit :=
  let f : NopelFlit := ⟨0, body ++ List.replicate (15 - body.length) 0, BitVec.ofNat 12 p.txSeq,
    BitVec.ofNat 12 (p.rxSeq + 4095), nak, BitVec.ofNat 3 ty, BitVec.ofNat 4 body.length, BitVec.ofNat 4 p.dom, 0⟩
  { f with crc := Config.crc64 f.bits }

/-- A port that sends what waits, while it holds fewer than 1,024 flits without ACK (R443). -/
def NopelPort.drain : Nat → NopelPort → NopelPort
  | 0, p => p
  | n + 1, p =>
    match p.egress with
    | [] => p
    | (nak, ty, body) :: rest =>
      if 1024 ≤ p.replay.length then p
      else NopelPort.drain n { p with
        egress := rest, txSeq := (p.txSeq + 1) % 4096, replay := p.replay ++ [p.flit nak ty body] }

/-- A flit put on a Nopel link, or waiting for a place among the unacknowledged ones (R443). -/
def NopelPort.send (p : NopelPort) (nak : Bool) (ty : Nat) (body : List (BitVec 128)) : NopelPort :=
  NopelPort.drain (p.egress.length + 1) { p with egress := p.egress ++ [(nak, ty, body)] }

/-- A data flit with packet flits put on a Nopel link. -/
def State.nopelSend (s : State) (j : Nat) (body : List (BitVec 128)) : State := s.setNport j ((s.nport j).send false 0 body)

/-- A butterfly packet's flits on a link: the route flit with the packages it goes to and comes from, its header, its
payload (R442). -/
def linkFlits (dst : Nat) (p : Packet) (src seq : Nat) : List (BitVec 128) :=
  BitVec.ofNat 128 (dst % 8192 + 2 ^ 16 * Config.package.toNat) :: headerFlit p src seq :: payloadFlits p.data

/-- The service port of a Nopel port (R97). -/
def nopelService (j : Nat) : Nat := 514 + 256 * (j / 8) + j % 8

/-- A request to a peer sent over Nopel port `j`, whose own buffer keeps it until the answer (R111, R444). -/
def State.peerSend (s : State) (j pkg : Nat) (p : Packet) (c : Client) : State :=
  let n := s.nport j
  (s.setNport j { n with sent := n.sent ++ [(n.reqSeq, pkg, p, c)], reqSeq := (n.reqSeq + 1) % 1024 }).nopelSend j
    (linkFlits pkg p (nopelService j) n.reqSeq)

/-- Whether a peer's link can take no request now: 64 of the port are outstanding, or 1,024 flits wait for their ACK
(R105, R443). -/
def State.linkFull (s : State) (pa : Nat) : Bool :=
  pa / 2 ^ 50 == 3 && (match s.routeOf (pa / 2 ^ 37 % 8192) with
    | some j => (s.nport j).up && (decide (64 ≤ (s.nport j).sent.length) || decide (1024 ≤ (s.nport j).replay.length))
    | none => false)

/-- A core's request to the host window or a peer (R73, R155): it waits at the host interface, or crosses the Nopel
port that the route table names and that belongs to the requester's domain (R438); none where no link carries it. -/
def State.sendSystem (s : State) (p : Packet) (c : Client) : Option State :=
  if p.addr / 2 ^ 50 = 2 then
    some { s with host := { s.host with accesses := s.host.accesses ++ [(p, c)] } }
  else
    match s.routeOf (p.addr / 2 ^ 37 % 8192) with
    | none => none
    | some j => if (s.nport j).up && (s.nport j).dom == p.dom then some (s.peerSend j (p.addr / 2 ^ 37 % 8192) p c) else none

/-- Whether a request of a client stands at a port, at the host interface or on a link without its answer. -/
def State.asked (s : State) (port : Nat) (c : Client) : Bool :=
  let x := s.port port
  x.outstanding.any (fun o => o.client == c) || x.waiting.any (fun e => e.2 == c) ||
    s.host.accesses.any (fun e => e.2 == c) || s.nopel.any (fun n => n.2.sent.any (fun e => e.2.2.2 == c))

/-! ## The pump -/

/-- The lines for which an operation holds a miss-status entry: from the first packet to the last final reply (R172). A
message takes none, nor does an access to the core's own memories. -/
def MemOp.heldLines (o : MemOp) : List Nat :=
  if !o.kind.translated then []
  else
    let open' := o.reqs.filter (fun r => r.st != .done)
    let begun := o.reqs.filter (fun r => r.st != .unsent)
    ((open'.map (fun r => r.pa / 128)).filter (fun l => begun.any (fun r => r.pa / 128 == l))).eraseDups

/-- The requests of a core that hold a miss-status entry, by operation and line (R172). -/
def Core.held (c : Core) : List (Nat × Nat) := c.ops.flatMap (fun o => o.heldLines.map (fun l => (o.id, l)))

/-- A core whose reserved entries are those of requests still open. -/
def Core.tidy (c : Core) : Core := { c with resIn := c.resIn.filter (fun e => c.held.contains e) }

/-- The entry of a request: it holds one, one of the 48 is free, or one of the 4 reserved ones is free and it stands first
in the reserved queue (R172). The core with the reserved entry taken; none where there is none. -/
def Core.takeEntry (c : Core) (id line : Nat) : Option Core :=
  if c.held.contains (id, line) then some c
  else if (c.held.filter (fun e => !c.resIn.contains e)).length < 48 then
    some { c with reserved := c.reserved.filter (fun e => e != (id, line)) }
  else if c.resIn.length < 4 ∧ c.reserved.head? = some (id, line) then
    some { c with reserved := c.reserved.drop 1, resIn := c.resIn ++ [(id, line)] }
  else none

/-- Whether an operation touches window 10 or 11 at bytes that another touches too (R155). -/
def MemOp.sameSystemBytes (o v : MemOp) : Bool :=
  o.kind.translated && v.kind.translated &&
    o.reqs.any (fun r => decide (2 ^ 51 ≤ r.pa) && v.reqs.any (fun q => decide (r.pa < q.pa + q.len) && decide (q.pa < r.pa + r.len)))

/-- Whether an operation may send: a package write waits for the wave's earlier package accesses, so that they stand in
program order (R132, R137), and a system access for the wave's earlier accesses to the same bytes (R155). -/
def Core.queueOpen (c : Core) (o : MemOp) : Bool :=
  c.ops.all (fun v => !(v.slot == o.slot && decide (v.id < o.id) &&
    ((o.pkgWrite && v.pkgAccess) || o.sameSystemBytes v)))

/-- The lowest virtual address of a request. -/
def Request.lowest (r : Request) : Nat := r.pieces.foldl (fun m p => min m p.va) (2 ^ 57)

/-- Whether a request must wait for another of its operation: it holds a higher piece of one thread's split access, and the
pieces stand in ascending order (R142, assumption 87). -/
def Request.after (r q : Request) : Bool :=
  q.st != .done && decide (q.lowest < r.lowest) &&
    r.pieces.any (fun p => q.pieces.any (fun z => z.thread == p.thread && decide (z.off < p.off)))

/-- A core with one request of an operation changed. -/
def Core.mapReq (c : Core) (id i : Nat) (f : Request → Request) : Core :=
  { c with ops := c.ops.map (fun o => if o.id == id then { o with reqs := modAt f o.reqs i } else o) }

/-- A core whose operation's request of a line has been refused once more (R172): every unsent packet of the line counts
it; the 16th time the request joins the reserved queue, and a refused prefetch is discarded (R187). -/
def Core.refuse (c : Core) (o : MemOp) (line : Nat) : Core :=
  let mine := fun (r : Request) => r.st == .unsent && r.pa / 128 == line
  if o.kind == .prefetch then
    { c with ops := c.ops.map (fun v => if v.id == o.id then
        { v with reqs := v.reqs.map (fun r => if mine r then { r with st := .done } else r) } else v) }
  else
    let n := (o.reqs.filter mine).foldl (fun m r => max m (r.refused + 1)) 0
    { c with
      ops := c.ops.map (fun v => if v.id == o.id then
        { v with reqs := v.reqs.map (fun r => if mine r then { r with refused := n } else r) } else v)
      reserved := if 16 ≤ n && !c.reserved.contains (o.id, line) && o.kind.translated then
        c.reserved ++ [(o.id, line)] else c.reserved }

/-- One packet of an operation sent, or its request refused (R105, R172). -/
def State.trySend (s : State) (core : Nat) (o : MemOp) (i : Nat) (r : Request) : State :=
  let c := s.core core
  let w := s.wave ⟨core, o.slot⟩
  let line := r.pa / 128
  let refused := s.setCore core (c.refuse o line)
  let isMsg := o.kind == .msend || o.kind == .ratoms
  match (if isMsg then some c else c.takeEntry o.id line) with
  | none => refused
  | some c1 =>
    if !isMsg && 2 ≤ r.pa / 2 ^ 50 then
      if s.linkFull r.pa then refused
      else
        match (s.setCore core c1).sendSystem (opPacket o r w.ctx.dom w.pts 0) (.op core o.id i) with
        | some s1 => s1.setCore core ((s1.core core).mapReq o.id i (fun r => { r with st := .sent hostPort 0 0 }))
        | none =>
          -- no link carries it: answered with poison, as R445 lays down for a port that is down
          s.setCore core (c.mapReq o.id i (fun r => { r with st := .done, poison := true, val := List.replicate r.len 0 }))
    else
      let port := portOf core
      let slice := if isMsg then relaySlice r.pa else
        match s.homeOf w.ctx.dom r.pa with
        | some h => h.2
        | none => 0
      if (s.port port).hasRoom then
        let seq := Map.getD (s.port port).seqs slice 0
        let s1 := (s.setCore core c1).portSend port (opPacket o r w.ctx.dom w.pts slice) (.op core o.id i)
        s1.setCore core ((s1.core core).mapReq o.id i (fun r => { r with st := .sent port slice seq }))
      else refused

/-- A request placed at the frame that a translation gives (R87). -/
def Request.moved (r : Request) (e : TlbEntry) : Request :=
  let va := (r.pieces.headD ⟨0, 0, 0, 0, 0, 0, 0⟩).va
  let off := (r.pieces.headD ⟨0, 0, 0, 0, 0, 0, 0⟩).pa - r.pa
  let pa := e.phys va - off
  { r with pa := pa, key := e.key, st := .unsent, refused := 0
           pieces := r.pieces.map (fun p => { p with pa := p.pa - r.pa + pa, key := e.key, mt := e.mt }) }

/-- The access kind of an operation, as R84 counts it. -/
def OpKind.access : OpKind → Nat
  | .store | .spill => 1
  | .atom | .red => 2
  | _ => 0

/-- A request that a REDIRECT sent back walks again (R87): with a translation it stands at the new frame; without one its
walk is open, or was refused (R82). A walk that now faults ends the request with poison, and the fault traps the wave
before its next instruction, as R92 has it for a revoked key slot (assumption 89). -/
def State.rewalk (s : State) (core : Nat) (o : MemOp) (i : Nat) (r : Request) : State :=
  let id : WaveId := ⟨core, o.slot⟩
  let ctx := (s.wave id).ctx
  let kind := o.kind.access
  let va := (r.pieces.headD ⟨0, 0, 0, 0, 0, 0, 0⟩).va
  let fail := fun (t : State) (info : BitVec 22) =>
    let w := t.wave id
    (t.setWave id { w with impKey := some (info ||| 0x4000) }).setCore core
      ((t.core core).mapReq o.id i (fun r => { r with st := .done, poison := true, val := List.replicate r.len 0 }))
  let use := fun (s1 : State) (e : TlbEntry) =>
    if s1.outside ctx e va then fail s1 (BitVec.ofNat 22 (faultInfo 5 e.level kind))
    else s1.setCore core ((s1.core core).mapReq o.id i (fun r => r.moved e))
  match s.takeAnswer core ctx.asn va kind with
  | (some (.found e), s1) => use s1 e
  | (some (.sub c l), s1) => fail s1 (BitVec.ofNat 22 (faultInfo c l kind))
  | (some .poison, s1) =>
    let s2 := s1.setCore core ((s1.core core).mapReq o.id i (fun r => { r with st := .done, poison := true, val := List.replicate r.len 0 }))
    if (s2.wave id).halt.isNone then s2.haltAt id 1 else s2
  | (none, _) =>
    match s.tlbLookup core ctx va kind with
    | (some e, s1) => use s1 e
    | (none, s1) => s1.openWalk ⟨core, 8⟩ ctx va kind (s1.wave id).pts

/-- A core without the L1 TLB entries of a page. -/
def Core.dropTlb (c : Core) (asn va : Nat) : Core :=
  { c with tlb := c.tlb.filter (fun e => !(e.asn == asn && e.page == va / 2 ^ e.size)) }

/-- The packets `rs` of an operation, which is number `id`, from number `i` on. A refused request is tried again only where
`retry` says that the wave has an issue opportunity, and once (R172). -/
def State.pumpReqs (s : State) (core id : Nat) (retry : Bool) : List Request → Nat → State
  | [], _ => s
  | r0 :: rs, i =>
    let s1 := match (s.core core).ops.find? (fun v => v.id == id) with
      | none => s
      | some o =>
        match o.reqs[i]? with
        | none => s
        | some r =>
          if r.st == .rewalk then s.rewalk core o i r
          else if r.st == .unsent && r.refused == (if retry then r0.refused else 0) && !(o.reqs.any (fun q => r.after q)) then
            s.trySend core o i r
          else s
    State.pumpReqs s1 core id retry rs (i + 1)

/-- The operations of a core in issue order. -/
def State.pumpOps (s : State) (core : Nat) (retry : Bool) : List MemOp → State
  | [] => s
  | o :: os => State.pumpOps (if !o.kind.onCore && (s.core core).queueOpen o then s.pumpReqs core o.id retry o.reqs 0 else s) core retry os

/-- Every packet that may go is sent; a core without operations is left as it is. -/
def State.pump (s : State) (core : Nat) (retry : Bool) : State :=
  if (s.core core).ops.isEmpty then s
  else (s.setCore core (s.core core).tidy).pumpOps core retry (s.core core).ops

/-- Whether a wave slot has a request that was refused and has not gone, or that walks again, which is its memory reject
(R86, R172). -/
def Core.rejected (c : Core) (slot : Nat) : Bool :=
  (c.opsOf slot).any (fun o => o.reqs.any (fun r => (r.st == .unsent && decide (0 < r.refused)) || r.st == .rewalk))

end Sys2Proof.Machine
end

