-- ==== Sys2Proof/Machine/MemOps.lean ====
section
/-! DEFINITION. Operations of the memory pipe in flight: how an instruction's accesses are cut into pieces (R103, R142,
R176), formed into requests (R171), looked up in the L1 (R136, R169), and how their answers reach the wave: loads under
R137, poison under R92 and R414, the mixed-size flag under R144, and completion under R177. -/

namespace Sys2Proof.Machine

/-! ## Class counters (R64) -/

/-- The counters with one class changed. -/
def Counts.bump (c : Counts) (k : Cls) (f : Nat → Nat) : Counts :=
  match k with
  | .ld => { c with ld := f c.ld }
  | .st => { c with st := f c.st }
  | .cp => { c with cp := f c.cp }
  | .tl => { c with tl := f c.tl }
  | .ms => { c with ms := f c.ms }

/-- The wave with one more operation of a class outstanding. -/
def Wave.countUp (w : Wave) (k : Cls) : Wave := { w with cnt := w.cnt.bump k (· + 1) }

/-- The wave with one operation of a class completed. -/
def Wave.countDown (w : Wave) (k : Cls) : Wave := { w with cnt := w.cnt.bump k (· - 1) }

/-- The wave without the scoreboard entries of an operation (R65). -/
def Wave.release (w : Wave) (id : Nat) : Wave := { w with sb := w.sb.filter (fun e => e.2 != id) }

/-- The v registers that a destination names, for the scoreboard: logical frame and register (R65). -/
def sbVec (cur code width : Nat) : List SbReg :=
  (List.range (regCount width)).map (fun i => SbReg.v (cur + (code + i) / 16) ((code + i) % 16))

/-- The uniform registers that a destination names. -/
def sbUni (code width : Nat) : List SbReg := (List.range (regCount width)).map (fun i => SbReg.s (code - 0x20 + i))

/-! ## Pieces (R142, R176) -/

/-- The largest power of two, at most `n`, that divides `a` and is at most `n`. -/
def alignedPiece (a : Nat) : Nat → Nat → Nat
  | 0, _ => 1
  | k + 1, n => if 2 ^ (k + 1) ≤ n ∧ a % 2 ^ (k + 1) = 0 then 2 ^ (k + 1) else alignedPiece a k n

/-- An access of `n` bytes cut into aligned pieces in ascending order: address and length of each. -/
def cutPieces : Nat → Nat → Nat → List (Nat × Nat)
  | 0, _, _ => []
  | fuel + 1, a, n =>
    if n = 0 then [] else
      let l := alignedPiece a 4 n
      (a, l) :: cutPieces fuel (a + l) (n - l)

/-- The pieces of one thread's access at an effective address (R77, R103). -/
def piecesOf (t va n : Nat) : List Piece :=
  (cutPieces 16 va n).map (fun p => ⟨t, p.1 % 2 ^ 57, 0, p.2, p.1 - va, 0, 0⟩)

/-! ## Stores merged line by line (R171) -/

/-- The bytes that an instruction stores, by physical address, each with the piece that stores it: the highest-numbered
thread's where several write one. -/
def storeBytes (ps : List (Piece × List Byte)) : Map (Byte × Piece) :=
  ps.foldl (fun m p => ((List.range p.1.len).zip p.2).foldl
    (fun m e => Map.set m (p.1.pa + e.1) (e.2, p.1)) m) []

/-- Whether every byte of a block is stored, under one key. -/
def blockStored (m : Map (Byte × Piece)) (a n key : Nat) : Bool :=
  (List.range n).all (fun i => match Map.get? m (a + i) with
    | some e => e.2.key == key
    | none => false)

/-- The largest aligned block of 2^k bytes, k at most `k`, that starts at `a` and is stored whole. -/
def storeBlock (m : Map (Byte × Piece)) (a key : Nat) : Nat → Nat
  | 0 => 1
  | k + 1 => if a % 2 ^ (k + 1) = 0 ∧ blockStored m a (2 ^ (k + 1)) key then 2 ^ (k + 1) else storeBlock m a key k

/-- The packets of a store: the aligned blocks, as large as the stored bytes fill, in ascending order (R171), each with
the threads' pieces that it holds. -/
def storeRequests (m : Map (Byte × Piece)) : Nat → List (Nat × (Byte × Piece)) → List Request
  | 0, _ => []
  | _, [] => []
  | fuel + 1, (a, b, q) :: rest =>
    let n := storeBlock m a q.key 7
    let held := (List.range n).map (fun i => Map.getD m (a + i) (b, q))
    { pa := a, len := n, key := q.key, data := held.map (fun e => e.1),
      pieces := { q with va := q.va + (a - q.pa), pa := a, len := n } :: (held.map (fun e => e.2)).eraseDups,
      st := .unsent, refused := 0, val := [], poison := false, wts := 0, rts := 0 } ::
      storeRequests m fuel (rest.drop (n - 1))

/-! ## The L1 (R136, R169) -/

/-- Whether a load fills the L1 (R136, R169): window 00, MT = 0, MIXTRAP off. -/
def fillsL1 (mixtrap : Bool) (p : Piece) : Bool := !mixtrap && p.pa / 2 ^ 50 == 0 && p.mt == 0

/-- The L1 line that a load hits (R136). -/
def Core.l1Hit (c : Core) (line key pts now : Nat) : Option L1Line :=
  c.l1.find? (fun l => l.line == line && l.key == key && decide (now < l.filled + 2048) && decide (pts ≤ l.rts))

/-- A list with the entries that `p` picks at its front: the order of use, most recent first. -/
def touch {α : Type} (p : α → Bool) (l : List α) : List α := l.filter p ++ l.filter (fun x => !p x)

/-- The last entry of a list that `p` picks taken out: the least recently used. -/
def dropOldest {α : Type} (p : α → Bool) : List α → List α
  | [] => []
  | x :: xs => if p x && !xs.any p then xs else x :: dropOldest p xs

/-- The L1 with a line used (R169). -/
def Core.l1Use (c : Core) (line : Nat) : Core := { c with l1 := touch (fun l => l.line == line) c.l1 }

/-- The L1 with a line filled: 128 sets of 4 ways, of which a free one takes it, or that of the least recently used; the list
holds the lines in the order of their use (R169). -/
def Core.l1Fill (c : Core) (l : L1Line) : Core :=
  let rest := c.l1.filter (fun v => v.line != l.line)
  let here := fun (v : L1Line) => v.line % 128 == l.line % 128
  let kept := if (rest.filter here).length < 4 then rest else dropOldest here rest
  { c with l1 := { l with way := freeBelow 4 ((kept.filter here).map (fun v => v.way)) } :: kept }

/-- The L1 without the lines that a write touches, as it issues (R136). -/
def Core.l1Drop (c : Core) (lines : List Nat) : Core := { c with l1 := c.l1.filter (fun l => !lines.contains l.line) }

/-- The requests of a load: one fill for the pieces of a line, or one packet for each piece (R171). -/
def loadRequests (mixtrap : Bool) : List Piece → List Request
  | [] => []
  | p :: ps =>
    let rs := loadRequests mixtrap ps
    let line := p.pa / 128
    if fillsL1 mixtrap p then
      match rs.find? (fun r => r.len == 128 && r.pa == 128 * line && r.key == p.key) with
      | some _ => rs.map (fun r =>
          if r.len == 128 && r.pa == 128 * line && r.key == p.key then { r with pieces := p :: r.pieces } else r)
      | none => { pa := 128 * line, len := 128, key := p.key, data := [], pieces := [p], st := .unsent, refused := 0,
                  val := [], poison := false, wts := 0, rts := 0 } :: rs
    else { pa := p.pa, len := p.len, key := p.key, data := [], pieces := [p], st := .unsent, refused := 0,
           val := [], poison := false, wts := 0, rts := 0 } :: rs

/-- The timestamp at which a read that came with WTS `ts` stands for its wave: where each of its pieces overlaps in mixed size
a write that it may miss, the read need not synchronise with it, as a choice has it (R143); the line's WTS before the writes
stands then. -/
def Request.readTs (r : Request) (pts ts now c : Nat) : Nat :=
  let old := fun (p : Piece) => (missable r.olds p.pa p.len pts now).getLast?.map (fun e => e.owts)
  if c % 2 = 1 ∧ !r.pieces.isEmpty ∧ r.pieces.all (fun p => (old p).isSome) then
    min ts (r.pieces.foldl (fun m p => max m ((old p).getD 0)) 0)
  else ts

/-- A load's requests answered from the L1 where they hit, with the wave's pts raised to their WTS (R136); a higher piece of
a split access hits only where the lower ones have (R142). `before` are the requests already looked up; `ch` chooses for a read in
mixed size (R143). -/
def hitRequests (c : Core) (now ch : Nat) : List Request → List Request → Nat → List Request × Nat
  | _, [], pts => ([], pts)
  | before, r :: rs, pts =>
    match (if r.len = 128 ∧ !(before ++ rs).any (fun q => r.after q) then c.l1Hit (r.pa / 128) r.key pts now else none) with
    | some l =>
      let r1 := { r with st := .done, val := l.bytes, wts := l.wts, rts := l.rts, olds := l.olds }
      let q := hitRequests c now ch (before ++ [r1]) rs (max pts (r1.readTs pts l.wts (now / 2) (ch / 2 ^ before.length)))
      (r1 :: q.1, q.2)
    | none =>
      let q := hitRequests c now ch (before ++ [r]) rs pts
      (r :: q.1, q.2)

/-- The core after the lines that a load hit have been used. -/
def Core.useHits (c : Core) (rs : List Request) : Core :=
  rs.foldl (fun c r => if r.st == .done then c.l1Use (r.pa / 128) else c) c

/-! ## Answers -/

/-- Byte `i` of a thread's value, from the answer that holds its piece. -/
def MemOp.byteOf (o : MemOp) (t i : Nat) : Byte :=
  o.reqs.foldl (fun acc r => r.pieces.foldl (fun acc p =>
    if p.thread == t && p.off ≤ i && i < p.off + p.len then r.val.getD (p.pa - r.pa + (i - p.off)) 0 else acc) acc) 0

/-- A thread's value, lowest byte first. -/
def MemOp.valueOf (o : MemOp) (t : Nat) : Nat := leNat ((List.range o.size).map (o.byteOf t))

/-- Whether one of a thread's pieces came back poisoned by a revoked key slot (R92). -/
def MemOp.revokedFor (o : MemOp) (t : Nat) : Bool := o.reqs.any (fun r => r.poison && r.pieces.any (fun p => p.thread == t))

/-- The register bits of a load of `n` bytes: zero- or sign-extended to max(32, 8n) bits (R179); each word 0xDEAD_0BAD
for poison of a revoked key slot (R92), which R92 says of loads and the model takes for the result of an ATOM too
(assumption 78). -/
def MemOp.loaded (o : MemOp) (t : Nat) : Nat :=
  let w := regWidth (8 * o.size)
  if o.revokedFor t then joinWords (fun _ => 0xDEAD0BAD#32) (regCount w)
  else wrapTo w (valOf o.sign (8 * o.size) (o.valueOf t))

/-- The window with a register of a logical frame rewritten for some threads. -/
def Window.setLogical (w : Window) (f r : Nat) (val : Nat → Word → Word) : Window :=
  if (Map.get? w.place f).isSome then w.mapFrame (w.phys f) (fun fr => fr.setReg r (fun l => val l (fr.word r l))) else w

/-- The wave with a load's or an atomic's result written, register by register (R177). -/
def Wave.writeLoaded (v : Wave) (o : MemOp) (code : Nat) : Nat → Wave
  | 0 => v
  | n + 1 =>
    let v1 := Wave.writeLoaded v o code n
    let r := code + n
    { v1 with win := v1.win.setLogical (o.frame + r / 16) (r % 16) (fun l old =>
      let t := v.visible l
      if o.threads.getLsbD t then wordAt (o.loaded t) n else old) }

/-- The wave with FILLF's frame and LINK written (R227); poison of a revoked key slot as R92 gives it (R228). -/
def Wave.writeFrame (v : Wave) (o : MemOp) : Wave :=
  let byte := fun i =>
    let r := o.reqs.getD (i / 128) ⟨0, 0, 0, [], [], .done, 0, [], false, 0, 0, []⟩
    if r.poison then (leBytes 4 0xDEAD0BAD).getD (i % 4) 0 else r.val.getD (i % 128) 0
  let word := fun i => BitVec.ofNat 32 (leNat ((List.range 4).map (fun k => byte (i + k))))
  let fr : Frame := ⟨BitVec.ofNat 64 (leNat ((List.range 8).map byte)),
    (List.range 16).map (fun r => (r, (List.range 64).map (fun t => word (128 + 256 * r + 4 * t))))⟩
  { v with win := v.win.mapFrame (v.win.phys o.frame) (fun _ => fr) }

/-- A load as it is written at last, its pieces apart: each byte that a piece shares with a write in mixed size holds what was
there before the write or after it, as a choice has it (R143). -/
def MemOp.chosen (o : MemOp) (pts now c : Nat) : MemOp :=
  { o with reqs := o.reqs.flatMap (fun r => r.pieces.map (fun p =>
      let bs := (r.val.drop (p.pa - r.pa)).take p.len
      { r with pa := p.pa, len := p.len, pieces := [p],
               val := mixedBytes (missable r.olds p.pa p.len pts now) p.pa (c / 512 ^ (32 * p.thread + p.off)) bs })) }

/-- Whether every packet of an operation has its answer. -/
def MemOp.answered (o : MemOp) : Bool := o.reqs.all (fun r => r.st == .done)

/-- Whether a load may be written now: the wave's earlier accesses of window 00 have completed (R137), its loads too, so
that loads stand in program order (R132). A load of the system windows alone waits for none (R155). -/
def Core.loadOpen (c : Core) (o : MemOp) : Bool :=
  !o.pkgAccess || c.ops.all (fun v => !(v.slot == o.slot && v.pkgAccess && decide (v.id < o.id)))

/-- A load's requests whose lease no longer reaches the wave's pts are performed again (R137), each from its translation on: one
made before an invalidation is used no more (R83). -/
def MemOp.again (o : MemOp) (pts : Nat) : MemOp :=
  { o with reqs := o.reqs.map (fun r =>
      if r.pa / 2 ^ 50 == 0 && decide (r.rts < pts) then { r with st := .rewalk, refused := 0 } else r) }

/-- Whether a load's lease reaches the wave's pts (R137). -/
def MemOp.leased (o : MemOp) (pts : Nat) : Bool := o.reqs.all (fun r => r.pa / 2 ^ 50 != 0 || decide (pts ≤ r.rts))

/-- The wave without the errors of the words that an operation writes as it completes (R433). -/
def Wave.rewritten (w : Wave) (o : MemOp) : Wave :=
  { w with parity := w.parity.filter (fun m =>
      !((o.kind == .fill || o.threads.getLsbD (w.visible (m.2.1 % 64))) && w.sb.any (fun e => e.2 == o.id &&
        (match e.1 with
          | .v f n => Map.get? w.win.place f == some m.1 && n == m.2.1 / 64
          | _ => false)))) }

/-- The operation gone from its core, its counter down and its registers clear (R64, R65, R177). -/
def State.retireOp (s : State) (core : Nat) (o : MemOp) : State :=
  let c := s.core core
  let id : WaveId := ⟨core, o.slot⟩
  let s1 := s.setCore core { c with
    ops := c.ops.filter (fun v => v.id != o.id)
    reserved := c.reserved.filter (fun e => e.1 != o.id)
    resIn := c.resIn.filter (fun e => e.1 != o.id) }
  let w := ((s1.wave id).rewritten o).release o.id
  s1.setWave id (match o.cls with
    | some k => w.countDown k
    | none => w)

/-- A load, or FILLF's read, written and retired (R137, R177, R227): `v` is the load with the bytes that it reads. -/
def State.writeLoad (s : State) (core : Nat) (o v : MemOp) : State :=
  let id : WaveId := ⟨core, o.slot⟩
  let w := s.wave id
  let n := regCount (8 * o.size)
  (s.setWave id (if o.kind == .fill then w.writeFrame v
    else if o.uni then w.putSs (o.dst.getD 0x20 - 0x20) (v.loaded 0) n
    else w.writeLoaded v (o.dst.getD 0) n)).retireOp core o

/-- An operation completed, if it may be (R137, R177): one on the core's own memories once the port has served its last
beat (R162). -/
def State.settle (s : State) (core : Nat) (o : MemOp) : State :=
  let id : WaveId := ⟨core, o.slot⟩
  let w := s.wave id
  if !o.answered then s
  else
    match o.kind with
    | .store | .red | .spill | .prefetch => s.retireOp core o
    | .msend => (s.setWave id (w.putSs (o.dst.getD 0x20 - 0x20) (o.valueOf 0) 1)).retireOp core o
    | .ratoms =>
      -- the local threads of the same instruction come first
      if (s.core core).ops.any (fun v => v.slot == o.slot && v.kind == .coreAtom && v.cls.isNone && decide (v.id < o.id)) then s
      else (s.setWave id (w.writeLoaded o (o.dst.getD 0) (regCount (8 * o.size)))).retireOp core o
    | .atom => (s.setWave id (w.writeLoaded o (o.dst.getD 0) (regCount (8 * o.size)))).retireOp core o
    | .coreLoad | .coreStore | .coreAtom =>
      if o.reqs.any (fun r => decide (s.now < r.wts)) then s
      else (if o.kind == .coreStore then s else s.setWave id (w.writeLoaded o (o.dst.getD 0) (regCount (8 * o.size)))).retireOp core o
    | .load | .fill =>
      if !(s.core core).loadOpen o then s
      else if !o.leased w.pts then
        s.setCore core { (s.core core) with ops := (s.core core).ops.map (fun v => if v.id == o.id then v.again w.pts else v) }
      else if o.reqs.all (fun r => r.olds.isEmpty) then s.writeLoad core o o
      else s.drawn.writeLoad core o (o.chosen w.pts s.netNow (Config.choice s.draws))

/-- The operations of a core settled in issue order. -/
def State.settleAll (s : State) (core : Nat) : List Nat → State
  | [] => s
  | id :: ids =>
    match (s.core core).ops.find? (fun o => o.id == id) with
    | some o => State.settleAll (s.settle core o) core ids
    | none => State.settleAll s core ids

/-- What may complete completes, and what has not been refused is sent if it may be (R137, R172). -/
def State.progress (s : State) (core : Nat) : State :=
  let ids := (s.core core).ops.map (fun o => o.id)
  (s.settleAll core ids).pump core false

/-- The refused requests of a core tried again, as its waves have their issue opportunities (R172). -/
def State.retry (s : State) (core : Nat) : State :=
  if (s.core core).ops.isEmpty then s
  else (s.pump core true).settleAll core ((s.core core).ops.map (fun o => o.id))

/-- The trap that a wave takes for an access refused under a key slot that may not be used (R92): KEY_REVOKED, or for a
slot that is EMPTY KEY_DENIED, as any use of one raises (R89); TRAPINFO[14] marks it imprecise. -/
def State.keyTrap (s : State) (k kind : Nat) : BitVec 22 :=
  (if (s.key k).st = .empty then BitVec.ofNat 22 (faultInfo 6 0 kind) else 0) ||| 0x4000

/-- An answer to a request of an operation: its data and timestamps kept, the wave's pts raised (R134), and poison, a
revoked key slot or a mixed-size flag brought to the wave (R92, R144, R414). A read in mixed size may leave pts below its
reply's (R143). -/
def State.answerReq (s : State) (core id i : Nat) (data : List Byte) (opx ts ld : Nat) (olds : List MonitorEntry) : State :=
  match (s.core core).ops.find? (fun o => o.id == id) with
  | none => s
  | some o =>
    let wid : WaveId := ⟨core, o.slot⟩
    let s1 := s.setCore core ((s.core core).mapReq id i (fun r =>
      { r with st := .done, val := data, poison := opx % 2 == 1, wts := ts, rts := ts + ld, olds := olds }))
    if o.kind == .prefetch then s1
    else
      let w := s1.wave wid
      let t : Nat := if olds.isEmpty then ts else ((o.reqs[i]?).map (fun r =>
        Request.readTs { r with olds := olds } w.pts ts s.netNow (Config.choice s.draws))).getD ts
      let w1 : Wave := { w with pts := max w.pts t }
      let w2 := if opx / 2 % 2 = 1 ∧ w1.csr.mixtrap then { w1 with impMixed := some 0x4000 } else w1
      let key := ((o.reqs[i]?).map (fun r => r.key)).getD 0
      let w3 := if opx % 2 = 1 ∧ opx / 4 % 2 = 1 then { w2 with impKey := some (s.keyTrap key o.kind.access) } else w2
      let s2 := (if olds.isEmpty then s1 else s1.drawn).setWave wid w3
      if opx % 2 = 1 ∧ opx / 4 % 2 = 0 ∧ w.halt.isNone then s2.haltAt wid 1 else s2

end Sys2Proof.Machine
end

