-- ==== Sys2Proof/Machine/Beats.lean ====
section
/-! DEFINITION. The ports of a core's memories (R158, R162-R164, R188): the beats of an instruction of the memory pipe, served
one after another, and the other users that take a port between them. -/

namespace Sys2Proof.Machine

/-- The memory of a buffer space (R165); the scratchpad is space 3. -/
def Core.buf (c : Core) (space : Nat) : Store :=
  if space = 0 then c.abuf else if space = 1 then c.cbuf else if space = 2 then c.sideVec else c.spad

/-- The core with the memory of a space replaced. -/
def Core.setBuf (c : Core) (space : Nat) (st : Store) : Core :=
  if space = 0 then { c with abuf := st } else if space = 1 then { c with cbuf := st }
  else if space = 2 then { c with sideVec := st } else { c with spad := st }

/-- The port of a space (R158): 0 SPAD, 1 ABUF, 2 CBUF with its side vectors. -/
def spacePort (space : Nat) : Nat := if space = 3 then 0 else if space = 0 then 1 else 2

/-- The users of a port beside the memory pipe (R163, R188). -/
def copyUser : Nat := 1
def interfaceUser : Nat := 2
def bankUser : Nat := 3
def sequencerUser : Nat := 4

/-! ## Beats (R162, R164, R188) -/

/-- The space that an operation on a memory of the core reaches, and the operation of ATOMS. -/
def MemOp.space (o : MemOp) : Nat := o.opx % 4
def MemOp.atomFn (o : MemOp) : Nat := o.opx / 4

/-- The port at which an operation waits for its beats. -/
def MemOp.portNo (o : MemOp) : Nat := spacePort o.space

/-- The places of the requests that a beat of an operation serves next: those still to be served with the number of the first of
them, which their `key` holds. -/
def MemOp.beat (o : MemOp) : List Nat :=
  match o.reqs.find? (fun r => r.st == .unsent) with
  | none => []
  | some r => (List.range o.reqs.length).filter (fun i => match o.reqs[i]? with
    | some q => q.st == .unsent && q.key == r.key
    | none => false)

/-- What one step serves of a beat: all of it, or of ATOMS one word operation (R164). -/
def MemOp.unit (o : MemOp) : List Nat := if o.kind == .coreAtom then o.beat.take 1 else o.beat

/-- One access of a beat performed on the memory of its core: the bytes read, those stored, or an atomic step (R164). An
atomic on a poisoned word applies nothing (R170). -/
def Core.serveReq (c : Core) (o : MemOp) (r : Request) : Core × List Byte :=
  let st := c.buf o.space
  match o.kind with
  | .coreLoad => (c, st.read r.pa r.len)
  | .coreStore =>
    let c1 := if o.space = 1 then { c with scaled := c.scaled &&& ~~~(1#16 <<< (r.pa / 4096)) } else c
    (c1.setBuf o.space (st.write r.pa r.data), [])
  | .coreAtom =>
    let old := st.read r.pa r.len
    if st.poisoned r.pa r.len then (c, old)
    else (c.setBuf o.space (st.write r.pa (leBytes r.len (atomNew o.atomFn r.len (leNat old) (leNat r.data)))), old)
  | _ => (c, [])

/-- Whether an access of a beat consumes a poisoned word (R170, R414). -/
def Core.meetsPoison (c : Core) (o : MemOp) (r : Request) : Bool := o.kind != .coreStore && (c.buf o.space).poisoned r.pa r.len

/-- Some accesses of an operation performed in turn, their data there at core cycle `ends`. -/
def State.serveReqs (s : State) (core id ends : Nat) : List Nat → State
  | [] => s
  | i :: is =>
    let c := s.core core
    match c.ops.find? (fun o => o.id == id) with
    | none => s
    | some o =>
      match o.reqs[i]? with
      | none => s
      | some r =>
        let bad := c.meetsPoison o r
        let x := c.serveReq o r
        let s1 := s.setCore core (x.1.mapReq id i (fun r => { r with st := .done, val := x.2, poison := bad, wts := ends }))
        let s2 := if bad && (s1.wave ⟨core, o.slot⟩).halt.isNone then s1.haltAt ⟨core, o.slot⟩ 1 else s1
        State.serveReqs s2 core id ends is

/-- The next step of an operation at its port (R162-R164): its cycles follow those of the pipe's earlier beats there, and the
port's other users may take their turns again. -/
def State.serveUnit (s : State) (core id : Nat) : State :=
  let c := s.core core
  match c.ops.find? (fun o => o.id == id) with
  | none => s
  | some o =>
    let ends := max s.now (c.portEnds.getD o.portNo 0) +
      (o.unit.map (fun i => ((o.reqs[i]?).map (fun r => r.rts)).getD 0)).foldl (· + ·) 0
    let s1 := s.setCore core { c with
      portEnds := c.portEnds.set o.portNo ends, portUsers := c.portUsers.filter (fun e => e.1 != o.portNo) }
    s1.serveReqs core id ends o.unit

/-- Whether an operation of the memory pipe may take its port now: it has beats left, and no earlier one of its wave waits
there (R153). -/
def Core.beatReady (c : Core) (o : MemOp) : Bool :=
  o.kind.onCore && !o.unit.isEmpty &&
    c.ops.all (fun v => !(v.slot == o.slot && v.kind.onCore && v.portNo == o.portNo && decide (v.id < o.id) && !v.unit.isEmpty))

/-- The number of the operation at place `i` of a core, if it may take its port now. -/
def Core.beatAt (c : Core) (i : Nat) : Option Nat :=
  match c.ops[i]? with
  | some o => if c.beatReady o then some o.id else none
  | none => none

/-- A turn of the memory pipe: the operation at place `i` of a core takes its next step. -/
def State.portStep (s : State) (core i : Nat) : State :=
  match (s.core core).beatAt i with
  | some id => s.serveUnit core id
  | none => s

/-! ## The rotation (R163, R188) -/

/-- What is left of an operation's beat served. -/
def State.serveBeat (s : State) (core : Nat) (o : MemOp) : State :=
  if o.kind == .coreAtom then o.beat.foldl (fun t _ => t.serveUnit core o.id) s else s.serveUnit core o.id

/-- Whether an operation has begun the beat that it would go on with. -/
def MemOp.midBeat (o : MemOp) : Bool :=
  match o.reqs.find? (fun r => r.st == .unsent) with
  | none => false
  | some r => o.reqs.any (fun q => q.st == .done && q.key == r.key)

/-- A user of a port takes it for one chunk or access. The memory pipe holds the port for a whole beat, and where it waits it
has a beat before a user takes the port a second time (R163, R188). -/
def State.usePort (s : State) (core port user : Nat) : State :=
  let waits := fun (t : State) => (t.core core).ops.filter (fun o => o.portNo == port && (t.core core).beatReady o)
  match waits s with
  | [] => s
  | _ =>
    let s1 := ((waits s).filter MemOp.midBeat).foldl (fun t o => t.serveBeat core o) s
    let s2 := match (s1.core core).portUsers.contains (port, user), waits s1 with
      | true, o :: _ => s1.serveBeat core o
      | _, _ => s1
    s2.setCore core { (s2.core core) with portUsers := (s2.core core).portUsers ++ [(port, user)] }

/-- A tile operation's turn at the buffers of some cores (R188): of ABUF and CBUF. -/
def State.useBuffers (s : State) (cores : List Nat) : State :=
  cores.foldl (fun t k => (t.usePort k 1 sequencerUser).usePort k 2 sequencerUser) s

end Sys2Proof.Machine
end

