-- ==== Sys2Proof/Machine/MemInstr.lean ====
section
/-! DEFINITION. The instructions that reach package and system memory: LD, ST, LDU, STU, ATOM, RED, FENCE and CCTL
(R171-R187). Each is decided whole at its fault-check point (R405): the pieces of every active thread are translated,
the threads without a fault commit, and the others trap (R406). -/

namespace Sys2Proof.Machine

/-! ## Addresses and data -/

/-- The offset of a format M instruction (R37). -/
def offsetOf (f : InsM) : Int :=
  match f.ext with
  | some e => e.toInt
  | none => f.off.toInt

/-- The effective address of visible thread `t`, whose base has `w` bits, wrapped at `space` bits (R37, R77). -/
def State.effAddr (s : State) (f : InsM) (w space t : Nat) : Nat :=
  wrapTo space ((s.src none (.bits w) f.addr (s.wv.lane t) : Nat) + offsetOf f)

/-- The stored value or operand of visible thread `t`: `bits` raw bits (R174), of RED.FADD too
(assumption 109). -/
def State.dataOf (s : State) (f : InsM) (bits t : Nat) : Nat := s.src none (.bits bits) f.data (s.wv.lane t)

/-- Whether the address or the data of an active thread differs from its shadow's (R434). -/
def State.protMismatch (s : State) (f : InsM) (addrBits dataBits : Nat) (act : Mask) : Bool :=
  s.wv.csr.prot && (List.range 32).any (fun t => act.getLsbD t &&
    (s.src none (.bits addrBits) f.addr (2 * t) != s.src none (.bits addrBits) f.addr (2 * t + 1) ||
     s.src none (.bits dataBits) f.data (2 * t) != s.src none (.bits dataBits) f.data (2 * t + 1)))

/-- The visible threads of a mask, in ascending order. -/
def threadsOf (m : Mask) : List Nat := (List.range 64).filter (fun t => m.getLsbD t)

/-! ## The fault-check point (R405) -/

/-- What the fault-check point finds for one thread. -/
inductive Checked where
  | ok (ps : List Piece)
  | fault (cause info : Nat)
  | wait
  deriving DecidableEq, Repr

/-- The state with at most one more refusal for want of a walk entry than `n`: an issue opportunity counts once (R172). -/
def State.oneRefusal (s : State) (n : Nat) : State :=
  s.mapWv (fun w => { w with waits := { w.waits with rejects := min w.waits.rejects (n + 1) } })

/-- The pieces of one thread translated in ascending address order (R84). -/
def State.checkPieces (kind : Nat) : State → List Piece → State × Checked
  | s, [] => (s, .ok [])
  | s, p :: ps =>
    match s.find p.va kind with
    | (.fault (.sub c l), s1) => (s1, .fault (faultCause c) (faultInfo c l kind))
    | (.fault _, s1) => (s1, .wait)
    | (.wait, s1) => (s1, .wait)
    | (.ok e, s1) =>
      match State.checkPieces kind s1 ps with
      | (s2, .ok qs) => (s2, .ok ({ p with pa := e.phys p.va, key := e.key, mt := e.mt } :: qs))
      | r => r

/-- Every thread of an instruction checked: its pieces by thread, or a fault known before translation. -/
def State.checkThreads (kind : Nat) (pieces : Nat → Except (Nat × Nat) (List Piece)) :
    State → List Nat → State × List (Nat × Checked)
  | s, [] => (s, [])
  | s, t :: ts =>
    let r := match pieces t with
      | .error e => (s, Checked.fault e.1 e.2)
      | .ok ps => s.checkPieces kind ps
    let q := State.checkThreads kind pieces r.1 ts
    (q.1.oneRefusal s.wv.waits.rejects, (t, r.2) :: q.2)

/-- HOST_ATOMIC for a thread whose operation the host window does not carry (R183). -/
def hostAtomic (admits : Bool) : Checked → Checked
  | .ok ps => if !admits && ps.any (fun p => p.pa / 2 ^ 50 == 2) then .fault 0x17 0 else .ok ps
  | c => c

/-- The threads that commit, with their pieces. -/
def okThreads (rs : List (Nat × Checked)) : List (Nat × List Piece) :=
  rs.filterMap (fun r => match r.2 with
    | .ok ps => some (r.1, ps)
    | _ => none)

/-- The faulting threads. -/
def faultThreads (rs : List (Nat × Checked)) : List Nat :=
  rs.filterMap (fun r => match r.2 with
    | .fault _ _ => some r.1
    | _ => none)

/-- Cause and TRAPINFO of the lowest-numbered faulting thread (R406). -/
def firstFault (rs : List (Nat × Checked)) : Option (Nat × Nat) :=
  rs.findSome? (fun r => match r.2 with
    | .fault c i => some (c, i)
    | _ => none)

/-- The end of an instruction of `n` bytes at its fault-check point: the machine goes on, or the faulting threads trap
and the others stand past the instruction (R406, R407). `all` is F for an access of the whole wave (R180). -/
def State.finishChecked (s : State) (n : Nat) (rs : List (Nat × Checked)) (all : Option Mask) : State :=
  match firstFault rs with
  | none => s.advance n
  | some (c, i) =>
    let m := match all with
      | some m => m
      | none => maskOf (fun t => (faultThreads rs).contains t)
    s.trap c i m (s.wv.ctl.pc + BitVec.ofNat 57 n) s.wv.ctl.pc

/-- What an access of package or system memory has in common: what it waits for (R145, R155, R173), its check, the
comparison of R434, its commit, and its end. `rel` tells at which scope the checked pieces release. -/
def State.access (s : State) (f : InsM) (kind : Nat) (ts : List Nat) (pieces : Nat → Except (Nat × Nat) (List Piece))
    (admitsHost : Bool) (sys : List (Nat × Checked) → Bool) (prot : Bool) (all : Option Mask)
    (commit : State → List (Nat × List Piece) → Bool → State) : State :=
  if s.acquireSysPending then s.wait 5
  else
    let r := s.checkThreads kind pieces ts
    if r.2.any (fun e => e.2 == .wait) then r.1.wait 3
    else
      let rs := r.2.map (fun e => (e.1, hostAtomic admitsHost e.2))
      let ok := okThreads rs
      if ok.isEmpty then r.1.dropAnswers.finishChecked (lenM f) rs all
      else if f.so.getLsbD 1 && !(s.releaseDone && (!sys rs || s.accessesDone)) then r.1.wait 5
      else if prot then r.1.halt 5
      else
        let s1 := r.1.dropAnswers
        let s2 := if f.so.getLsbD 1 then s1.mapWv Wave.released else s1
        ((commit s2 ok (sys rs)).finishChecked (lenM f) rs all).progress s.cur.core

/-- Scope code 2 where the suffix is .SYS (R72). -/
def scopeOf (f : InsM) : Nat := if 2 ≤ fnHi f.fn then 2 else 0

/-! ## Putting an operation in flight -/

/-- The number of the next operation of the core of the wave in hand: above that of every operation that the core holds. -/
def State.opId (s : State) : Nat := s.myCore.ops.foldl (fun m v => max m (v.id + 1)) s.nextOp

/-- An operation added to the core of the wave in hand: counted in its class (R64), with its destination registers
scoreboarded (R65), and the lines it writes dropped from the L1 (R136). Its requests are tried at once, with the refusals
that its walks have met (R172). -/
def State.issueOp (s : State) (o : MemOp) (regs : List SbReg) : State :=
  let id := s.opId
  let n := if o.kind.onCore then 0 else s.wv.waits.rejects
  let reqs := o.reqs.map (fun r => if r.st == .unsent then { r with refused := n } else r)
  let o1 := { o with id := id, slot := s.cur.slot, reqs := reqs }
  let c := s.myCore
  let c1 := if o.kind.writes then c.l1Drop ((o.reqs.filter (fun r => decide (r.pa < 2 ^ 50))).map (fun r => r.pa / 128)) else c
  let s1 := { (s.setMyCore { c1 with ops := c1.ops ++ [o1] }) with nextOp := id + 1 }
  let s2 := s1.mapWv (fun w =>
    let w1 := { w with sb := w.sb ++ regs.map (fun r => (r, id)) }
    match o.cls with
    | some k => w1.countUp k
    | none => w1)
  if !o.kind.onCore && s2.myCore.queueOpen o1 then s2.pumpReqs s.cur.core id true reqs 0 else s2

/-- An operation with the fields that every kind sets. -/
def newOp (s : State) (kind : OpKind) (cls : Option Cls) (f : InsM) (size : Nat) (threads : Mask) (reqs : List Request) :
    MemOp :=
  { id := 0, slot := 0, kind := kind, cls := cls, dst := none, frame := s.wv.win.cur, uni := false, size := size,
    sign := false, so := f.so.toNat, scope := 0, opx := 0, threads := threads, reqs := reqs }

/-- A request of one packet for one piece (R171). -/
def pieceRequest (p : Piece) (data : List Byte) : Request :=
  { pa := p.pa, len := p.len, key := p.key, data := data, pieces := [p], st := .unsent, refused := 0, val := [],
    poison := false, wts := 0, rts := 0 }

/-- The mask of the threads that commit. -/
def okMask (ok : List (Nat × List Piece)) : Mask := maskOf (fun t => ok.any (fun e => e.1 == t))

/-- A load committed: its requests, answered at once where the L1 holds the line (R136, R169, R179). -/
def State.commitLoad (s : State) (f : InsM) (uni : Bool) (ok : List (Nat × List Piece)) : State :=
  let n := sizeBytes f.fn
  let reqs := loadRequests s.wv.csr.mixtrap (ok.flatMap (fun e => e.2))
  let h := if s.wv.csr.mixtrap then (reqs, s.wv.pts) else hitRequests s.myCore s.now (Config.choice s.draws) [] reqs s.wv.pts
  let s0 := if h.1.any (fun r => !r.olds.isEmpty) then s.drawn else s
  let s1 := (s0.setMyCore (s.myCore.useHits h.1)).mapWv (fun w => { w with pts := h.2 })
  let o := newOp s .load (some .ld) f n (okMask ok) h.1
  s1.issueOp { o with dst := some f.d.toNat, uni := uni, sign := fnHi f.fn % 2 == 1, scope := scopeOf f }
    (if uni then sbUni f.d.toNat (8 * n) else sbVec s.wv.win.cur f.d.toNat (8 * n))

/-- A store committed: the bytes of each piece, merged line by line (R171, R179). -/
def State.commitStore (s : State) (f : InsM) (ok : List (Nat × List Piece)) : State :=
  let n := sizeBytes f.fn
  let bytes := ok.flatMap (fun e =>
    let d := leBytes n (s.dataOf f (8 * n) e.1)
    e.2.map (fun p => (p, (d.drop p.off).take p.len)))
  let m := storeBytes bytes
  s.issueOp { newOp s .store (some .st) f n (okMask ok) (storeRequests m m.length m) with scope := scopeOf f } []

/-- The pieces of a thread's access of `n` bytes, split where it is misaligned (R176). -/
def State.splitPieces (s : State) (f : InsM) (n t : Nat) : Except (Nat × Nat) (List Piece) :=
  .ok (piecesOf t (s.effAddr f 64 57 t) n)

/-- The one piece of a thread's atomic access; a misaligned one raises MISALIGNED (R176). -/
def State.wholePiece (s : State) (f : InsM) (n t : Nat) : Except (Nat × Nat) (List Piece) :=
  let a := s.effAddr f 64 57 t
  if a % n = 0 then .ok [⟨t, a, 0, n, 0, 0, 0⟩] else .error (0x14, 0)

/-- LD (R179). -/
def execLd (f : InsM) (s : State) : Out :=
  let act := s.wv.activeMask f.g
  .next (if act = 0 then s.advance (lenM f)
    else s.access f 0 (threadsOf act) (s.splitPieces f (sizeBytes f.fn)) true (fun _ => 2 ≤ fnHi f.fn) false none
      (fun s ok _ => s.commitLoad f false ok))

/-- ST (R179). -/
def execSt (f : InsM) (s : State) : Out :=
  let act := s.wv.activeMask f.g
  .next (if act = 0 then s.advance (lenM f)
    else s.access f 1 (threadsOf act) (s.splitPieces f (sizeBytes f.fn)) true (fun _ => 2 ≤ fnHi f.fn)
      (s.protMismatch f 64 (8 * sizeBytes f.fn) act) none (fun s ok _ => s.commitStore f ok))

/-- LDU: one access for the wave (R180). -/
def execLdu (f : InsM) (s : State) : Out :=
  let act := s.wv.activeMask f.g
  .next (if act = 0 then s.advance (lenM f)
    else s.access f 0 [0] (s.splitPieces f (sizeBytes f.fn)) true (fun _ => 2 ≤ fnHi f.fn) false (some act)
      (fun s ok _ => s.commitLoad f true ok))

/-- STU: one access for the wave (R180). -/
def execStu (f : InsM) (s : State) : Out :=
  let act := s.wv.activeMask f.g
  .next (if act = 0 then s.advance (lenM f)
    else s.access f 1 [0] (s.splitPieces f (sizeBytes f.fn)) true (fun _ => 2 ≤ fnHi f.fn) false (some act)
      (fun s ok _ => s.commitStore f ok))

/-- The requests of an atomic or a reduction: one packet for each thread, with its operand of `bytes` bytes (R171). They are
sent in ascending order of thread, and the home applies those of one line in that order; R132 and R183 give the threads
of one instruction no order (assumption 72). -/
def State.atomRequests (s : State) (f : InsM) (bytes : Nat) (ok : List (Nat × List Piece)) : List Request :=
  ok.flatMap (fun e => e.2.map (fun p => pieceRequest p (leBytes bytes (s.dataOf f (8 * bytes) e.1))))

/-- Whether a checked thread's address lies in window 10 or 11 (R173): one that HOST_ATOMIC stops lies there too. -/
def anySystemChecked (rs : List (Nat × Checked)) : Bool :=
  rs.any (fun e => match e.2 with
    | .ok ps => ps.any (fun p => decide (2 ^ 51 ≤ p.pa))
    | .fault c _ => c == 0x17
    | .wait => false)

/-- ATOM (R182, R183). -/
def execAtom (f : InsM) (s : State) : Out :=
  let act := s.wv.activeMask f.g
  let n := sizeBytes f.fn
  let op := fnHi f.fn
  let bytes := if op = 7 then 2 * n else n
  .next (if act = 0 then s.advance (lenM f)
    else s.access f 2 (threadsOf act) (s.wholePiece f n) (op == 0 || op == 6 || op == 7) anySystemChecked
      (s.protMismatch f 64 (8 * bytes) act) none (fun s ok sys =>
        let o := newOp s .atom (some .ld) f n (okMask ok) (s.atomRequests f bytes ok)
        s.issueOp { o with dst := some f.d.toNat, opx := op, scope := if sys then 2 else 0 }
          (sbVec s.wv.win.cur f.d.toNat (8 * n))))

/-- RED (R182, R183). -/
def execRed (f : InsM) (s : State) : Out :=
  let act := s.wv.activeMask f.g
  let n := sizeBytes f.fn
  .next (if act = 0 then s.advance (lenM f)
    else s.access f 2 (threadsOf act) (s.wholePiece f n) (fnHi f.fn == 0) anySystemChecked
      (s.protMismatch f 64 (8 * n) act) none (fun s ok sys =>
        let o := newOp s .red (some .st) f n (okMask ok) (s.atomRequests f n ok)
        s.issueOp { o with opx := fnHi f.fn, scope := if sys then 2 else 0 } []))

/-- FENCE waits at issue as its scope asks, and then holds nothing further (R147, R186). -/
def execFence (f : InsM) (s : State) : Out :=
  let ready := !s.acquireSysPending && !s.acquirePending && s.releaseDone && (match fnHi f.fn with
    | 0 => s.writesDone
    | 1 => true
    | _ => s.accessesDone)
  .next (if s.wv.activeMask f.g = 0 then s.advance (lenM f)
    else if ready then (s.mapWv Wave.released).advance (lenM f) else s.wait 5)

/-! ## CCTL (R187) -/

/-- The lines that CCTL names, each with its translation where it succeeds; one whose walk is open waits. A prefetch whose
walk is refused is discarded, a drop is tried again (R187). -/
def State.cctlLines (s : State) (prefetch : Bool) : List Nat → State × List Checked
  | [] => (s, [])
  | va :: vas =>
    let r := s.checkPieces 0 [⟨0, va, 0, 128, 0, 0, 0⟩]
    let refused := prefetch && r.2 == .wait && !((r.1.cluster (clusterOf s.cur.core)).walks.any
      (fun w => w.asn == s.wv.ctx.asn && w.page == va / 4096))
    let q := State.cctlLines r.1 prefetch vas
    (q.1.oneRefusal s.wv.waits.rejects, (if refused then .fault 0 0 else r.2) :: q.2)

/-- The lines of window 00 that a prefetch names, of those found; for `.PF1` only lines that the L1 may hold (R169). -/
def State.prefetchPieces (s : State) (toL1 : Bool) (cs : List Checked) : List Piece :=
  (cs.flatMap (fun c => match c with
    | .ok ps => ps
    | _ => [])).filter (fun p => decide (p.pa < 2 ^ 50) && (!toL1 || fillsL1 s.wv.csr.mixtrap p))

/-- Whether the L1 holds the line of a piece for a load of the wave in hand (R136). -/
def State.l1Holds (s : State) (p : Piece) : Bool := (s.myCore.l1Hit (p.pa / 128) p.key s.wv.pts s.now).isSome

/-- The prefetch requests of the lines found: one RD of each; `.PF1` asks for none that the L1 holds. -/
def State.prefetchRequests (s : State) (toL1 : Bool) (cs : List Checked) : List Request :=
  ((s.prefetchPieces toL1 cs).filter (fun p => !(toL1 && s.l1Holds p))).map (fun p => pieceRequest p [])

/-- The core after `.PF1` has used the lines that its L1 holds, as a load would (R169, R187). -/
def State.prefetchUse (s : State) (toL1 : Bool) (cs : List Checked) : Core :=
  if toL1 then ((s.prefetchPieces true cs).filter s.l1Holds).foldl (fun c p => c.l1Use (p.pa / 128)) s.myCore else s.myCore

/-- CCTL (R187): prefetches leave in flight and report to no register; drops act on the core's L1. -/
def execCctl (f : InsM) (s : State) : Out :=
  let act := s.wv.activeMask f.g
  let op := fnHi f.fn
  let lines := ((threadsOf act).map (fun t => s.effAddr f 64 57 t / 128 * 128)).eraseDups
  .next (if act = 0 then s.advance (lenM f)
    else if op = 3 then (s.setMyCore { s.myCore with l1 := [] }).advance (lenM f)
    else
      let r := s.cctlLines (op != 2) lines
      if r.2.any (fun c => c == .wait) then r.1.wait 3
      else
        let s1 := r.1.dropAnswers
        if op = 2 then
          let found := r.2.flatMap (fun c => match c with
            | .ok ps => ps.map (fun p => p.pa / 128)
            | _ => [])
          (s1.setMyCore (s1.myCore.l1Drop found)).advance (lenM f)
        else
          let o := newOp s1 .prefetch none f 128 0 (s1.prefetchRequests (op == 1) r.2)
          (((s1.setMyCore (s1.prefetchUse (op == 1) r.2)).issueOp { o with dst := if op = 1 then some 0 else none } []).advance (lenM f)).progress s.cur.core)

end Sys2Proof.Machine
end

