-- ==== Sys2Proof/Machine/CoreMem.lean ====
section
/-! DEFINITION. The instructions that reach the core's own memories: LDS, STS and ATOMS on the scratchpad (R159-R164,
R181, R184, R185), LDB and STB on the array buffers (R165-R167, R188). An instruction is checked whole as it issues (R405); its
accesses then wait at the port, beat by beat (Beats.lean), and it completes with the last (R162, R177). -/

namespace Sys2Proof.Machine

/-- The block of the wave in hand. -/
def State.myBlock? (s : State) : Option Block := s.myCore.blockOf? s.wv

/-- Base and size of the wave's scratchpad allocation (R159). -/
def State.spadRange (s : State) : Nat × Nat :=
  match s.myBlock? with
  | some b => (b.sb, b.spad)
  | none => (0, 0)

/-- The pieces of a scratchpad access at a block address, wrapped at 17 bits (R37, R142): block addresses in `pa`. -/
def spadPieces (t a n : Nat) : List Piece :=
  (cutPieces 16 a n).map (fun p => ⟨t, p.1, p.1 % 2 ^ 17, p.2, p.1 - a, 0, 0⟩)

/-- SPAD_RANGE where a piece has a byte at or beyond the allocation (R159). -/
def spadCheck (size : Nat) (ps : List Piece) : Checked :=
  if ps.all (fun p => decide (p.pa + p.len ≤ size)) then .ok ps else .fault 0x15 0

/-- Whether the wave's core-scope accesses must wait: an acquiring access (R146, R155), or for a release what R145
names. -/
def State.coreScopeHeld (s : State) (rel : Bool) : Bool :=
  s.acquirePending || s.acquireSysPending || (rel && !s.releaseDone)

/-- The wave with per-thread results written for the threads that commit; a shadow receives its thread's (R434). -/
def Wave.putOk (w : Wave) (m : Mask) (code : BitVec 8) (width : Nat) (val : Nat → Nat) : Wave :=
  w.putV (fun l => m.getLsbD (w.visible l)) code width (fun l => val (w.visible l))

/-- The core cycles for which a beat that touches some words holds the SPAD port (R162). -/
def beatCycles (words : List Nat) : Nat :=
  let ws := words.eraseDups
  max ((ws.length + 15) / 16) ((List.range 32).foldl (fun m b => max m (ws.countP (fun w => w % 32 == b))) 0)

/-- The words of SPAD that some accesses touch. -/
def touchedWords (rs : List Request) : List Nat := rs.flatMap (fun r => wordsTouched r.pa r.len)

/-- The core cycles for which a beat of an operation holds its port: on SPAD by its words (R162), and for ATOMS not fewer than the
word operations of any one bank (R164); on a buffer one for each 64 bytes (R188). -/
def beatCost (kind : OpKind) (space : Nat) (rs : List Request) : Nat :=
  if space ≠ 3 then ((rs.map (fun r => r.len)).foldl (· + ·) 0 + 63) / 64
  else if kind == .coreAtom then
    max (beatCycles (touchedWords rs))
      ((List.range 32).foldl (fun m b => max m (rs.countP (fun r => (wordsTouched r.pa r.len).any (fun w => w % 32 == b)))) 0)
  else beatCycles (touchedWords rs)

/-- The accesses of one beat, with its cycles at the first. -/
def costed (kind : OpKind) (space : Nat) (rs : List Request) : List Request :=
  match rs with
  | [] => []
  | r :: rest => { r with rts := beatCost kind space rs } :: rest

/-- The accesses of an instruction on a memory of the core, beat after beat: 16 physical threads in each (R162), the pieces of
each thread at a base with the bytes of its data. -/
def State.beatRequests (s : State) (kind : OpKind) (space base : Nat) (data : Nat → List Byte) (ok : List (Nat × List Piece)) :
    List Request :=
  (List.range 4).flatMap (fun b => costed kind space ((ok.filter (fun e => s.wv.lane e.1 / 16 == b)).flatMap (fun e =>
    e.2.map (fun p =>
      let bs := data e.1
      { pa := base + p.pa, len := p.len, key := b, data := if kind == .coreAtom then bs else (bs.drop p.off).take p.len,
        pieces := [{ p with pa := base + p.pa }], st := .unsent, refused := 0, val := [], poison := false, wts := 0, rts := 0 }))))

/-- An access to a memory of the core put in flight: counted, its registers scoreboarded, its beats at the port (R64, R65,
R177). The local threads of an ATOMS that sends messages too are not counted apart from those. -/
def State.enterBeats (s : State) (f : InsM) (kind : OpKind) (counted : Bool) (space op n base : Nat) (data : Nat → List Byte)
    (ok : List (Nat × List Piece)) : State :=
  let cls := if !counted then none else some (if kind == .coreStore then Cls.st else .ld)
  let o := newOp s kind cls f n (okMask ok) (s.beatRequests kind space base data ok)
  let dst := if kind == .coreStore then none else some f.d.toNat
  s.issueOp { o with dst := dst, opx := space + 4 * op, scope := 1, sign := kind == .coreLoad && space == 3 && fnHi f.fn == 1 }
    (if kind == .coreStore then [] else sbVec s.wv.win.cur f.d.toNat (regWidth (8 * n)))

/-- A core memory access of each active thread of the wave: checked, then committed for the threads without a fault
(R405). -/
def State.coreAccess (s : State) (f : InsM) (check : Nat → Checked) (prot : Bool)
    (commit : State → List (Nat × List Piece) → State) : State :=
  let rs := (threadsOf (s.wv.activeMask f.g)).map (fun t => (t, check t))
  let ok := okThreads rs
  if ok.isEmpty then s.finishChecked (lenM f) rs none
  else if prot then s.halt 5
  else (commit s ok).finishChecked (lenM f) rs none

/-- LDS (R181). -/
def execLds (f : InsM) (s : State) : Out :=
  let n := sizeBytes f.fn
  let (base, size) := s.spadRange
  .next (if s.wv.activeMask f.g = 0 then s.advance (lenM f)
    else if s.coreScopeHeld false then s.wait 5
    else s.coreAccess f (fun t => spadCheck size (spadPieces t (s.effAddr f 32 17 t) n)) false
      (fun s ok => s.enterBeats f .coreLoad true 3 0 n base (fun _ => []) ok))

/-- STS (R181); of the bytes that several threads store the highest-numbered thread's stays (R171). -/
def execSts (f : InsM) (s : State) : Out :=
  let n := sizeBytes f.fn
  let (base, size) := s.spadRange
  .next (if s.wv.activeMask f.g = 0 then s.advance (lenM f)
    else if s.coreScopeHeld (f.so.getLsbD 1) then s.wait 5
    else s.coreAccess f (fun t => spadCheck size (spadPieces t (s.effAddr f 32 17 t) n))
      (s.protMismatch f 32 (8 * n) (s.wv.activeMask f.g))
      (fun s ok => (if f.so.getLsbD 1 then s.mapWv Wave.released else s).enterBeats f .coreStore true 3 0 n base
        (fun t => leBytes n (s.dataOf f (8 * n) t)) ok))

/-! ## ATOMS (R184, R185) -/

/-- The target of a thread's ATOMS: the base address above bit 16, the sum below it (R37, R184). -/
def State.atomsTarget (s : State) (f : InsM) (t : Nat) : Nat :=
  s.src none (.bits 32) f.addr (s.wv.lane t) / 2 ^ 17 * 2 ^ 17 + s.effAddr f 32 17 t

/-- The checks of one thread's ATOMS (R176, R184, R159): the range before the alignment, of which no rule says which comes
first (assumption 82). -/
def atomsCheck (size n a t : Nat) : Checked :=
  let local' := a / 2 ^ 31 == 0
  if bitsOf 29 2 a != 0 || (local' && bitsOf 17 14 a != 0) then .fault 0x15 0
  else
    let b := a % 2 ^ 17
    if local' && decide (size < b + n) then .fault 0x15 0
    else if b % n ≠ 0 then .fault 0x14 0
    else .ok [⟨t, a, b, n, 0, 0, 0⟩]

/-- The core that a remote ATOMS names (R184). -/
def atomsCore (a : Nat) : Nat := 2048 * bitsOf 28 1 a + 16 * bitsOf 21 7 a + bitsOf 17 4 a

/-- The MSG of one thread's remote ATOMS (R185): two payload flits. -/
def remoteRequest (op n : Nat) (e : Nat × List Piece) (operand : Nat) : Request :=
  let p := e.2.headD ⟨0, 0, 0, 0, 0, 0, 0⟩
  let addr := bitsOf 28 1 p.va * 2 ^ 14 + bitsOf 21 7 p.va * 2 ^ 7 + bitsOf 17 4 p.va * 2 ^ 3
  { pa := addr, len := 32, key := op,
    data := leBytes 16 (p.pa + 2 ^ 17 * (if n = 8 then 1 else 0)) ++ leBytes 16 operand,
    pieces := [{ p with pa := addr }], st := .unsent, refused := 0, val := [], poison := false, wts := 0, rts := 0 }

/-- A remote ATOMS answered at once with NORING, because its target is outside the wave's domain (R185). -/
def remoteDenied (s : State) (e : Nat × List Piece) : Bool :=
  let p := e.2.headD ⟨0, 0, 0, 0, 0, 0, 0⟩
  !((s.domOf s.wv.ctx.dom).clusters.contains (clusterOf (atomsCore p.va)))

/-- ATOMS (R184, R185): the bank units apply the local threads in ascending order, one word operation a step (R164); the remote
ones go as messages. -/
def execAtoms (f : InsM) (s : State) : Out :=
  let n := sizeBytes f.fn
  let op := fnHi f.fn
  let bytes := if op = 7 then 2 * n else n
  let (base, size) := s.spadRange
  let isRemote := fun (e : Nat × List Piece) => e.2.any (fun p => decide (2 ^ 31 ≤ p.va))
  .next (if s.wv.activeMask f.g = 0 then s.advance (lenM f)
    else if s.coreScopeHeld (f.so.getLsbD 1) then s.wait 5
    else (s.coreAccess f (fun t => atomsCheck size n (s.atomsTarget f t) t)
      (s.protMismatch f 32 (8 * bytes) (s.wv.activeMask f.g))
      (fun s ok =>
        let s1 := if f.so.getLsbD 1 then s.mapWv Wave.released else s
        let near := ok.filter (fun e => !isRemote e)
        let far := ok.filter (fun e => isRemote e && !remoteDenied s e)
        let denied := ok.filter (fun e => isRemote e && remoteDenied s e)
        let s2 := s1.mapWv (fun w => w.putOk (okMask denied) f.d (8 * n) (fun _ => 2))
        let s3 := if near.isEmpty then s2
          else s2.enterBeats f .coreAtom (far.isEmpty) 3 op n base (fun t => leBytes bytes (s.dataOf f (8 * bytes) t)) near
        if far.isEmpty then s3
        else
          let o := newOp s .ratoms (some .ld) f n (okMask far)
            (far.map (fun e => remoteRequest op n e (s.dataOf f (8 * bytes) e.1)))
          s3.issueOp { o with dst := some f.d.toNat, opx := 16 + op, scope := 1 } (sbVec s.wv.win.cur f.d.toNat (8 * n)))).progress
            s.cur.core)

/-! ## LDB and STB (R165, R166, R188) -/

/-- The width of a buffer space (R165). -/
def bufWidth (space : Nat) : Nat := if space = 2 then 11 else 16

/-- Whether the wave's block reaches a byte of a buffer space (R166). -/
def State.holdsBuf (s : State) (space a : Nat) : Bool :=
  match s.myBlock? with
  | none => false
  | some b =>
    if space = 0 then
      b.amask.getLsbD (a / 2048) ||
        (b.gang.isSome && s.myCore.blocks.any (fun x => x.gang == b.gang && x.grid == b.grid && x.amask.getLsbD (a / 2048)))
    else if space = 1 then b.cmask.getLsbD (a / 4096)
    else b.cmask.getLsbD (a / 128)

/-- The checks of one thread's LDB or STB (R166, R176): the alignment before the range (assumption 82). -/
def State.bufCheck (s : State) (space n a t : Nat) : Checked :=
  if a % n ≠ 0 then .fault 0x14 0
  else if s.holdsBuf space a then .ok [⟨t, a, a, n, 0, 0, 0⟩]
  else .fault 0x16 0

/-- LDB (R188). -/
def execLdb (f : InsM) (s : State) : Out :=
  let n := sizeBytes f.fn
  let sp := fnHi f.fn
  .next (if s.wv.activeMask f.g = 0 then s.advance (lenM f)
    else if s.acquireSysPending then s.wait 5
    else s.coreAccess f (fun t => s.bufCheck sp n (s.effAddr f 32 (bufWidth sp) t) t) false
      (fun s ok => s.enterBeats f .coreLoad true sp 0 n 0 (fun _ => []) ok))

/-- STB (R188). -/
def execStb (f : InsM) (s : State) : Out :=
  let n := sizeBytes f.fn
  let sp := fnHi f.fn
  .next (if s.wv.activeMask f.g = 0 then s.advance (lenM f)
    else if s.acquireSysPending then s.wait 5
    else s.coreAccess f (fun t => s.bufCheck sp n (s.effAddr f 32 (bufWidth sp) t) t)
      (s.protMismatch f 32 (8 * n) (s.wv.activeMask f.g))
      (fun s ok => s.enterBeats f .coreStore true sp 0 n 0 (fun t => leBytes n (s.dataOf f (8 * n) t)) ok))

/-! ## MSEND (R351) -/

/-- The payload of MSEND: the bytes of each active thread, zero for the others (R351). -/
def State.messageBytes (s : State) (f : InsM) : List Byte :=
  let e := sizeBytes f.fn
  (List.range (16 * 2 ^ fnHi f.fn / e)).flatMap (fun i =>
    leBytes e (if s.wv.active f.g i then s.dataOf f (8 * e) i else 0))

/-- MSEND (R351): the destination word holds the bits of an MSG's ADDR (R122, R350). -/
def execMsend (f : InsM) (s : State) : Out :=
  let a := s.srcU none 32 f.addr % 2 ^ 15
  .next (if s.wv.activeMask f.g = 0 then s.advance (lenM f)
    else if s.acquirePending then s.wait 5
    else if s.protMismatch f 32 (8 * sizeBytes f.fn) (s.wv.activeMask f.g) then s.halt 5
    else if !((s.domOf s.wv.ctx.dom).clusters.contains (clusterOf (msgCore a))) then
      (s.mapWv (fun w => w.putS f.d 32 2)).advance (lenM f)
    else if !s.writesDone || (f.so == 2 && !s.releaseDone) then s.wait 5
    else
      let s1 := if f.so = 2 then s.mapWv Wave.released else s
      let data := s.messageBytes f
      let r : Request := ⟨a, data.length, 0, data, [⟨0, a, a, 4, 0, 0, 0⟩], .unsent, 0, [], false, 0, 0, []⟩
      let o := newOp s1 .msend (some .ms) f 4 1 [r]
      ((s1.issueOp { o with dst := some f.d.toNat } (sbUni f.d.toNat 32)).advance (lenM f)).progress s.cur.core)

end Sys2Proof.Machine
end

