-- ==== Sys2Proof/Machine/Csr.lean ====
section
/-! DEFINITION. The control and status registers (R231, R203): what a read returns and which fields a write reaches
(R7, R8), CSRR and CSRW (R233). -/

namespace Sys2Proof.Machine

/-- The generators that a seed sets (R265). -/
def seedGens (seed : Word) : List Word :=
  (List.range 16).map (fun l =>
    let g := seed ^^^ BitVec.ofNat 32 (0x9E3779B9 * (l + 1))
    if g = 0 then 1 else g)

/-- The wave with its generators seeded (R265). -/
def Wave.seeded (w : Wave) (seed : Word) : Wave := { w with csr := { w.csr with seed := seed }, gens := seedGens seed }

/-- The completion bitmap of TAGS: word `i` of it (R203). -/
def tagBitmap (tags : Map Tag) (i : Nat) : Nat :=
  (List.range 32).foldr (fun k acc =>
    (match Map.getD tags (32 * i + k) Tag.free with
      | .done _ => 1
      | .error _ _ => 1
      | _ => 0) + 2 * acc) 0

/-- MODE as a word (R231). -/
def Csrs.modeWord (c : Csrs) : Nat :=
  c.rm.toNat + 8 * c.ftz.toNat + 16 * c.mixtrap.toNat + 32 * c.sren.toNat + 64 * c.prot.toNat

/-- CNT as a word (R231, R64). -/
def Counts.word (c : Counts) : Nat :=
  c.ld % 64 + 2 ^ 6 * (c.st % 64) + 2 ^ 12 * (c.cp % 64) + 2 ^ 18 * (c.tl % 64) + 2 ^ 24 * (c.ms % 64)

/-- FRAME as a word (R231). -/
def Window.word (w : Window) : Nat := w.cur % 2 ^ 12 + 2 ^ 12 * (w.lo % 2 ^ 12) + 2 ^ 24 * (w.nf % 32)

/-- The CBUF tiles of the wave's block (CTILES of R231). -/
def State.ctiles (s : State) : Nat :=
  match s.myCore.blockOf? s.wv with
  | some b => b.cmask.toNat
  | none => 0

/-- What a read of a CSR returns (R231, R203). -/
def State.csrValue (s : State) (i : Nat) : Nat :=
  let c := s.wv.csr
  match i with
  | 0x000 => c.modeWord
  | 0x001 => c.flags.toNat
  | 0x002 => c.seed.toNat
  | 0x010 => 4 * c.tvOff.toNat
  | 0x011 => c.cause.toNat
  | 0x012 => c.tpc.toNat % 2 ^ 32
  | 0x013 => c.tpc.toNat / 2 ^ 32
  | 0x014 => c.tmask.toNat % 2 ^ 32
  | 0x015 => c.tmask.toNat / 2 ^ 32
  | 0x016 => c.tinfo.toNat
  | 0x020 => s.wv.win.word
  | 0x021 => c.spill.toNat % 2 ^ 32 / 128 * 128
  | 0x022 => c.spill.toNat / 2 ^ 32
  | 0x030 => tagBitmap s.myCore.tags 0
  | 0x031 => tagBitmap s.myCore.tags 1
  | 0x032 => s.wv.cnt.word
  | 0x033 => s.ctiles
  | 0x040 => s.wv.ctx.dom % 16
  | 0x041 => s.wv.ctx.key % 2 ^ 12
  | 0x042 => s.netNow % 2 ^ 32
  | 0x043 => c.latch.toNat
  | _ => 0

/-- The CSR fields after a write of a word: only the fields that software may write take it, and a rounding mode of
5-7 leaves RM (R7, R231). -/
def Csrs.write (c : Csrs) (i v : Nat) : Csrs :=
  match i with
  | 0x000 => { c with
      sren := v.testBit 5, mixtrap := v.testBit 4, ftz := v.testBit 3, rm := if v % 8 < 5 then BitVec.ofNat 3 v else c.rm }
  | 0x001 => { c with flags := BitVec.ofNat 8 v }
  | 0x010 => { c with tvOff := BitVec.ofNat 30 (v / 4) }
  | 0x012 => { c with tpc := BitVec.ofNat 57 (c.tpc.toNat / 2 ^ 32 * 2 ^ 32 + v) }
  | 0x013 => { c with tpc := BitVec.ofNat 57 (c.tpc.toNat % 2 ^ 32 + 2 ^ 32 * v) }
  | 0x014 => { c with tmask := BitVec.ofNat 64 (c.tmask.toNat / 2 ^ 32 * 2 ^ 32 + v) }
  | 0x015 => { c with tmask := BitVec.ofNat 64 (c.tmask.toNat % 2 ^ 32 + 2 ^ 32 * v) }
  | 0x021 => { c with spill := BitVec.ofNat 57 (c.spill.toNat / 2 ^ 32 * 2 ^ 32 + v / 128 * 128) }
  | 0x022 => { c with spill := BitVec.ofNat 57 (c.spill.toNat % 2 ^ 32 + 2 ^ 32 * v) }
  | _ => c

/-- The wave after a CSR write; a write to LFSR seeds the generators (R265). -/
def Wave.writeCsr (w : Wave) (i v : Nat) : Wave :=
  if i = 0x002 then w.seeded (BitVec.ofNat 32 v) else { w with csr := w.csr.write i v }

/-- Whether an earlier instruction of the wave that can set FLAGS is still running (R233): one whose result is still to come
(R65, R289), or a MEPI (R325). -/
def State.flagsPending (s : State) : Bool :=
  s.wv.pend.any (fun p => p.flags) ||
  s.myCore.tiles.any (fun e => e.op == .mepi && e.core == s.cur.core && e.slot == s.cur.slot)

/-- CSRR (R233). -/
def execCsrr (f : InsT) (s : State) : Out :=
  guarded f.g (lenT f) (fun s =>
    let i := w1Of f % 2 ^ 12
    if i = 0x001 ∧ s.flagsPending then s.wait 2
    else
      let v := s.csrValue i
      let w := if i = 0x042 then
          { s.wv with csr := { s.wv.csr with latch := BitVec.ofNat 32 (s.netNow / 2 ^ 32) } }
        else s.wv
      (s.withWv (w.putS f.d 32 v)).advance (lenT f)) s

/-- The value that CSRW writes: the word, the bits set, or the bits cleared (R233). -/
def csrNew (fn old v : Nat) : Nat :=
  match fn with
  | 0 => v
  | 1 => old ||| v
  | _ => old &&& (2 ^ 32 - 1 - v)

/-- CSRW (R233). -/
def execCsrw (f : InsT) (s : State) : Out :=
  guarded f.g (lenT f) (fun s =>
    let i := w1Of f % 2 ^ 12
    if i = 0x001 ∧ s.flagsPending then s.wait 2
    else
      (s.mapWv (fun w => w.writeCsr i (csrNew f.fn.toNat (s.csrValue i) (s.srcU none 32 f.a)))).advance (lenT f)) s

end Sys2Proof.Machine
end

