-- ==== Sys2Proof/Machine/Cicada.lean ====
section
/-! DEFINITION. Memory as the front end reaches it, through the service port of each die (R73, R97, R380). -/

namespace Sys2Proof.Machine

/-- What an access of Cicada gives: its data, a fault or poison, or nothing yet. -/
inductive FeAnswer where
  | done (bs : List Byte)
  | fail
  | later
  deriving DecidableEq, Repr

/-- The service port of a die's Cicada (R97). -/
def cicadaPort (die : Nat) : Nat := 512 + 256 * die

/-- The packet of an access of Cicada. -/
def fePacket (ty : PType) (dom key pa n ts : Nat) (data : List Byte) : Packet :=
  { ty := ty, port := 0, slice := 0, seq := 0, dom := dom, key := key, mark := false, trim := false, rpl := false, retry := 0,
    len := n, opx := 0, mgrp := 0, mcast := 0, addr := pa, ts := ts, ld := 0, mt2 := false, watch := false, again := false,
    born := 0, data := data }

/-- An access of Cicada with its translation sent: through its die's port to the home, or to the host or a peer (R73,
R97). -/
def State.feSend (s : State) (die owner key : Nat) (ctx : Context) (e : TlbEntry) (va n ts : Nat) (write : Option (List Byte)) :
    State × FeAnswer :=
  let pa := e.phys va
  let c := Client.cicada owner key
  let p := { fePacket (if write.isSome then .wr else .rd) ctx.dom e.key pa n ts (write.getD []) with mt2 := e.mt == 2 }
  if s.outside ctx e va then (s, .fail)
  else if pa / 2 ^ 50 = 0 then
    match s.homeOf ctx.dom pa with
    | none => (s, .fail)
    | some (_, h) => (s.portQueue (cicadaPort die) { p with slice := h } c, .later)
  else if s.linkFull pa then (s, .later)
  else
    match s.sendSystem p c with
    | some s1 => (s1, .later)
    | none => (s, .fail)

/-- The walk of an access of Cicada. -/
def State.feWalkOf (s : State) (owner key : Nat) : FeWalk :=
  (s.fe.walks.find? (fun w => w.owner == owner && w.key == key)).getD ⟨owner, key, none, false⟩

/-- The walk of an access of Cicada at a new place, or over. -/
def State.feWalkAt (s : State) (owner key : Nat) (w : Option FeWalk) : State :=
  s.withFe { s.fe with walks := w.toList ++ s.fe.walks.filter (fun v => !(v.owner == owner && v.key == key)) }

/-- One action of a walk of Cicada (kind 4), which it makes itself, without a walk entry of a cluster (R80); one that finds
MIG = 1 is made again 1,024 network cycles later (R86, assumption 84). -/
def State.feWalk (s : State) (die owner key : Nat) (ctx : Context) (va ts : Nat) (write : Bool) : State × Option (Option TlbEntry) :=
  if s.fe.retries.any (fun r => r.1 == owner && r.2.1 == key && decide (s.netNow < r.2.2)) then (s, none)
  else
    let kind := if write then 5 else 4
    let w := s.feWalkOf owner key
    match s.walkAct die ctx va ts [kind] w.fresh w.pos with
    | (s1, .busy) => (s1, none)
    | (s1, .go p) => (s1.feWalkAt owner key (some { w with pos := some p }), none)
    | (s1, .restart) => (s1.feWalkAt owner key (some { w with pos := none, fresh := true }), none)
    | (s1, .fault _) => (s1.feWalkAt owner key none, some none)
    | (s1, .leaf l e) =>
      match s1.judgeLeaf ctx va kind l e with
      | .migrating =>
        let s2 := s1.feWalkAt owner key (some { w with pos := none, fresh := true })
        (s2.withFe { s2.fe with
          retries := (owner, key, s.netNow + 1024) :: s.fe.retries.filter (fun r => !(r.1 == owner && r.2.1 == key)) }, none)
      | .fault _ => (s1.feWalkAt owner key none, some none)
      | .leaf t => (s1.feWalkAt owner key none, some (some t))

/-- One access of Cicada within an aligned 64-byte chunk: answered, on its way, or begun now. -/
def State.feChunk (s : State) (die owner : Nat) (ctx : Context) (va n ts : Nat) (write : Option (List Byte)) : State × FeAnswer :=
  let key := 2 * va + write.isSome.toNat
  match s.fe.reads.find? (fun r => r.owner == owner && r.key == key) with
  | some r => (s, if r.opx % 2 = 1 then .fail else .done r.data)
  | none =>
    if s.asked (cicadaPort die) (.cicada owner key) then (s, .later)
    else
      match s.feWalk die owner key ctx va ts write.isSome with
      | (s1, none) => (s1, .later)
      | (s1, some none) => (s1, .fail)
      | (s1, some (some e)) => s1.feSend die owner key ctx e va n ts write

/-- The length of the first piece of a range that stays in an aligned 64-byte chunk. -/
def pieceLen (va n : Nat) : Nat := min n (64 - va % 64)

/-- The aligned block of 2^k bytes, as small as can be, that holds `n` bytes within an aligned 64-byte chunk: its address and its
length. -/
def coverBlock (va n : Nat) : Nat × Nat :=
  let k := ((List.range 7).find? (fun k => va / 2 ^ k == (va + n - 1) / 2 ^ k)).getD 6
  (va / 2 ^ k * 2 ^ k, 2 ^ k)

/-- A read of Cicada of any length, in aligned 64-byte chunks in ascending order: each with one read, of the aligned block that
holds what is asked for (R103, R149). -/
def State.feRead (die owner : Nat) (ctx : Context) (ts : Nat) : Nat → State → Nat → Nat → State × FeAnswer
  | 0, s, _, _ => (s, .done [])
  | k + 1, s, va, n =>
    if n = 0 then (s, .done [])
    else
      let m := pieceLen va n
      let b := coverBlock va m
      match s.feChunk die owner ctx (b.1 % 2 ^ 57) b.2 ts none with
      | (s1, .done bs) =>
        match State.feRead die owner ctx ts k s1 (va + m) (n - m) with
        | (s2, .done cs) => (s2, .done ((bs.drop (va - b.1)).take m ++ cs))
        | r => r
      | r => r

/-- A read of `n` bytes for a packet. -/
def State.feLoad (s : State) (die owner : Nat) (ctx : Context) (va n ts : Nat) : State × FeAnswer :=
  State.feRead die owner ctx ts (n + 1) s va n

/-- A write of Cicada of any length, in aligned 64-byte chunks in ascending order, each with one single-copy atomic write (R156,
assumption 107); each waits for the one before it. -/
def State.feWrite (die owner : Nat) (ctx : Context) (ts : Nat) : Nat → State → Nat → List Byte → State × FeAnswer
  | 0, s, _, _ => (s, .done [])
  | k + 1, s, va, bs =>
    if bs.isEmpty then (s, .done [])
    else
      let m := pieceLen va bs.length
      match s.feChunk die owner ctx (va % 2 ^ 57) m ts (some (bs.take m)) with
      | (s1, .done _) => State.feWrite die owner ctx ts k s1 (va + m) (bs.drop m)
      | r => r

/-- A write of bytes for a packet. -/
def State.feStore (s : State) (die owner : Nat) (ctx : Context) (va ts : Nat) (bs : List Byte) : State × FeAnswer :=
  State.feWrite die owner ctx ts (bs.length + 1) s va bs

/-- What an agent of Cicada has read forgotten. -/
def State.feForget (s : State) (owner : Nat) : State :=
  s.withFe { s.fe with
    reads := s.fe.reads.filter (fun r => r.owner != owner), retries := s.fe.retries.filter (fun r => r.1 != owner)
    walks := s.fe.walks.filter (fun w => w.owner != owner) }

/-- An access of firmware to an entry of a page table at its physical address, by its die's port (R85, R97): a read, or a
write or reduction of its bytes; answered, on its way, or begun now. -/
def State.fePhys (s : State) (die owner dom key pa ts : Nat) (ty : PType) (opx : Nat) (data : List Byte) : State × FeAnswer :=
  let me := 2 ^ 58 + 2 * pa + (ty != .rd).toNat
  match s.fe.reads.find? (fun r => r.owner == owner && r.key == me) with
  | some r => (s, if r.opx % 2 = 1 then .fail else .done r.data)
  | none =>
    if s.asked (cicadaPort die) (.cicada owner me) then (s, .later)
    else
      match s.homeOf dom pa with
      | none => (s, .fail)
      | some (_, h) =>
        (s.portQueue (cicadaPort die) { (fePacket ty dom key pa 8 ts data) with slice := h, opx := opx } (.cicada owner me), .later)

/-- The number of an agent of Cicada: of queue `n` the reader of its packets (0), that of a packet at its launch's timestamp
(1), what a packet reads and writes (2), a COPY (3); the reader of the records of seed launch `n` (4), and of the arguments of a block
(5, argsOwner). -/
def feOwner (n kind : Nat) : Nat := 8 * n + kind

/-- The agent that reads the arguments of a block (assumption 95). -/
def argsOwner (gid b : Nat) : Nat := 8 * (2 ^ 40 * gid + b) + 5

/-- The grid whose block an agent reads the arguments for, if the block is still to be placed. -/
def State.argsGrid (s : State) (owner : Nat) : Option Grid :=
  (Map.get? s.fe.grids (owner / 8 / 2 ^ 40)).filter (fun g => decide (g.placed ≤ owner / 8 % 2 ^ 40))

/-- The context of an address-space record (R394). -/
def State.asrContext (s : State) (asr : Nat) : Context :=
  let a := Map.getD s.fe.asrs asr AddrSpace.reset
  ⟨asr, a.dom, a.asn, a.rootKey, a.root⟩

end Sys2Proof.Machine
end

