-- ==== Sys2Proof/Machine/Trap.lean ====
section
/-! DEFINITION. TRAP, BKPT and ERET (R415-R417), and the imprecise trap that is taken before the next instruction
issues (R404, R410, R412). -/

namespace Sys2Proof.Machine

/-- TRAP: cause SWTRAP with FN in TRAPINFO[7:0], TRAPPC past it (R416). -/
def execTrap (f : InsB) (s : State) : Out :=
  guarded f.g (lenB f) (fun s =>
    s.trap 0x40 f.fn.toNat s.wv.ctl.exec s.wv.ctl.pc (s.wv.ctl.pc + 8)) s

/-- BKPT: cause BREAKPOINT, TRAPINFO 0 (R416). -/
def execBkpt (f : InsB) (s : State) : Out :=
  guarded f.g (lenB f) (fun s => s.trap 0x41 0 s.wv.ctl.exec s.wv.ctl.pc (s.wv.ctl.pc + 8)) s

/-- ERET (R417). -/
def execEret (f : InsB) (s : State) : Out := guarded f.g (lenB f) (fun s => s.returnTrap) s

/-- Whether a wave can take a trap between instructions: it runs, has not halted and has not ended. -/
def Wave.running (w : Wave) : Bool := w.sched.live && w.halt.isNone

/-- The cause of a pending trap for a refused access: KEY_REVOKED (R92), or for another sub-code of R84 its own. -/
def impreciseCause (info : Nat) : Nat := if info % 256 = 0 then 0x12 else faultCause (info % 256)

/-- IMPRECISE_TRAP: the pending imprecise trap with the lower cause code is taken before the wave's next instruction
issues, with F the whole of EXEC and TRAPINFO[14] set (R404, R407, R410). -/
def execImpreciseTrap (id : WaveId) (s : State) : Out :=
  let w := s.wave id
  if !w.running || w.waits.ending then .next s
  else
    let s1 := s.focus id
    match w.impKey, w.impMixed with
    | some info, _ =>
      .next ((s1.mapWv (fun w => { w with impKey := none })).trap (impreciseCause info.toNat) (info.toNat ||| 2 ^ 14)
        w.ctl.exec w.ctl.pc w.ctl.pc)
    | none, some info =>
      .next ((s1.mapWv (fun w => { w with impMixed := none })).trap 0x13 (info.toNat ||| 2 ^ 14) w.ctl.exec w.ctl.pc
        w.ctl.pc)
    | none, none => .next s

end Sys2Proof.Machine
end

