-- ==== Sys2Proof/Machine/Events.lean ====
section
/-! DEFINITION. The event ring of a domain (R400-R402): records and tail word in host memory, queue errors and the halt of
a queue that finds the ring full, overflow records, REPLACE_REQUESTED (R437), and the count of corrected errors that
raises it. -/

namespace Sys2Proof.Machine

/-- The physical address of a host address (R73). -/
def hostPa (a : Nat) : Nat := 2 ^ 51 + a % 2 ^ 50

/-- A domain's event ring. -/
def State.ring (s : State) (d : Nat) : EventRing := Map.getD s.fe.rings d EventRing.reset

/-- The state with an event ring replaced. -/
def State.setRing (s : State) (d : Nat) (r : EventRing) : State := s.withFe { s.fe with rings := Map.set s.fe.rings d r }

/-- The records for which a ring has room (R400): none until SETRING has set it. -/
def EventRing.room (r : EventRing) : Nat := if r.set then 2 ^ r.logn - (r.tail - r.head).toNat else 0

/-- An event record (R400). -/
def eventRecord (time code queue kind : Nat) : BitVec 128 :=
  BitVec.ofNat 128 (2 ^ 64 * (time % 2 ^ 64) + 2 ^ 32 * (code % 2 ^ 32) + 2 ^ 8 * (queue % 4096) + kind % 256)

/-- The kinds of event record (R400). -/
def evSignal : Nat := 1
def evQerror : Nat := 2
def evOverflow : Nat := 3
def evReplace : Nat := 4
def evMgmtDone : Nat := 5

/-- A record written to a domain's ring in host memory, and its tail word after it (R400). -/
def State.putEvent (s : State) (d : Nat) (v : BitVec 128) : State :=
  let r := s.ring d
  let tail := r.tail + 1
  let m1 := Memory.write s.ms.mem (hostPa (r.base + 16 * (r.tail.toNat % 2 ^ r.logn))) (leBytes 16 v.toNat)
  let m2 := Memory.write m1 (hostPa r.tailAddr) (leBytes 4 tail.toNat)
  (s.withMs { s.ms with mem := m2 }).setRing d { r with tail := tail }

/-- Records written to a domain's ring in order. -/
def State.putEvents (s : State) (d : Nat) (vs : List (BitVec 128)) : State := vs.foldl (fun t v => t.putEvent d v) s

/-- A record with a code that the spec does not give for its kind: a free value. -/
def State.freeCode (s : State) : Nat := (Config.freeWord s.draws 0 0).toNat

/-- The QUEUE of a record of no queue: a free value, apart from that of its code. -/
def State.freeQueue (s : State) : Nat := (Config.freeWord s.draws 1 0).toNat % 4096

/-- A record of a domain written, or kept until the ring has room (R400). -/
def State.postEvent (s : State) (d : Nat) (v : BitVec 128) : State :=
  let r := s.ring d
  if 0 < r.room ∧ r.held.isEmpty then s.putEvent d v else s.setRing d { r with held := r.held ++ [v] }

/-! ## Queue errors (R401, R402) -/

/-- The codes of R401. -/
def qBadPkt : Nat := 0x01
def qPktFault : Nat := 0x02
def qBadHdr : Nat := 0x03
def qTooMany : Nat := 0x04
def qSeedWaves : Nat := 0x05
def qNoFit : Nat := 0x06
def qCountFault : Nat := 0x07
def qDenied : Nat := 0x08
def qMgmtFail : Nat := 0x09
def qEnqRec : Nat := 0x0A
def qBadBell : Nat := 0x0B

/-- A queue's record after an error that found the ring full (R402). -/
def QueueRec.overflow (q : QueueRec) (v : BitVec 128) : QueueRec :=
  { q with halt := true, ovfcnt := q.ovfcnt + 1, pend := if q.pend.length < 4 then q.pend ++ [v] else q.pend }

/-- A queue error posted as a QERROR record, or latched where it finds the ring full (R401, R402). The record of the queue
that results is returned, not yet stored. -/
def State.queueError (s : State) (n code : Nat) (q : QueueRec) : State × QueueRec :=
  let v := eventRecord s.netNow code n evQerror
  if 0 < (s.ring q.dom).room then (s.putEvent q.dom v, q) else (s, q.overflow v)

/-! ## What a queue's record waits for (R384, R390) -/

/-- A record with the next completed launch counted, or else the next triggered one: each is a change of its own (R384,
R390). -/
def QueueRec.counted (q : QueueRec) : QueueRec :=
  match q.fins.find? (fun e => e.1 == (q.done + 1).toNat) with
  | some e => { q with fins := q.fins.filter (fun x => x.1 != e.1), done := q.done + 1, dts := max q.dts e.2 }
  | none =>
    match q.trigs.find? (fun e => e.1 == (q.trig + 1).toNat) with
    | some e => { q with trigs := q.trigs.filter (fun x => x.1 != e.1), trig := q.trig + 1, tts := max q.tts e.2 }
    | none => q

/-- Whether a change of a queue's record has still to be made at the owner. -/
def State.changing (s : State) (n : Nat) : Bool := s.fe.changes.any (fun c => c.queue == n)

/-- Whether the owner can make no other change of a record yet: the last one is not acknowledged, a launch is to be counted,
or a change has come before (R384). -/
def State.recordBusy (s : State) (n : Nat) : Bool :=
  let q := s.queue n
  q.inval || q.counted != q || s.changing n

/-! ## REPLACE_REQUESTED (R402, R437) -/

/-- The first halted queue of a domain, in ascending index, with its record. -/
def State.haltedQueue (s : State) (d : Nat) : Option (Nat × QueueRec) :=
  s.fe.queues.find? (fun e => e.2.dom == d && e.2.halt)

/-- REPLACE_REQUESTED posted to a domain; where the ring is full it stays pending (R402). Its QUEUE and CODE are not stated. -/
def State.requestReplace (s : State) (d : Nat) : State :=
  let r := s.ring d
  if 0 < r.room then
    (s.putEvent d (eventRecord s.netNow s.freeCode s.freeQueue evReplace)).drawn
  else s.setRing d { r with replace := true }

/-- What waits for a domain's ring written, as far as there is room: the overflow records of the first halted queue with all
that it latched; after the last such queue the records held, and then REPLACE_REQUESTED (R400, R402). -/
def State.flushOnce (s : State) (d : Nat) : State :=
  let r := s.ring d
  match s.haltedQueue d with
  | some (n, q) =>
    if s.recordBusy n || decide (r.room < 1 + q.pend.length) then s
    else
      (s.putEvents d (eventRecord s.netNow q.ovfcnt.toNat n evOverflow :: q.pend)).setQueue n
        { q with ovfcnt := 0, pend := [], halt := false }
  | none =>
    if r.room = 0 then s
    else
      match r.held with
      | v :: vs => (s.setRing d { r with held := vs }).putEvent d v
      | [] => if r.replace then (s.setRing d { r with replace := false }).requestReplace d else s

/-- EVENT_OVERFLOW_FLUSH (R402). -/
def execEventOverflowFlush (d : Nat) (s : State) : Out := .next (s.flushOnce d)

/-- EVENT_HEAD_WRITE: a host write of a domain's event head; none while the domain has no ring (R385, R400). -/
def execEventHeadWrite (d : Nat) (head : BitVec 32) (s : State) : Out :=
  let r := s.ring d
  .next (if r.set then s.setRing d { r with head := head } else s)

/-! ## Corrected errors (R437) -/

/-- One hour in network cycles (R3). -/
def hourCycles : Nat := 7200000000000

/-- The number of a unit for its count of corrected errors: a core (`part` 0), a slice (1) or a channel group (2) of a die. -/
def unitKey (die part unit : Nat) : Nat := (4 * die + part) * 2 ^ 15 + unit

/-- The network cycles of a unit's corrected errors in the last hour (R437). -/
def State.correctedIn (s : State) (die part unit : Nat) : List Nat :=
  (Map.getD s.health.corrected (unitKey die part unit) []).filter (fun t => decide (s.netNow < t + hourCycles))

/-- A corrected error recorded; with more than 1,024 of one unit in an hour, REPLACE_REQUESTED goes to the unit's domain
(R437). -/
def State.corrected (s : State) (die cls synd dom part unit index : Nat) : State :=
  let s1 := s.logError die cls synd false dom unit index 0
  let times := s.correctedIn die part unit ++ [s.netNow]
  let s2 := { s1 with health := { s1.health with
    corrected := Map.set s1.health.corrected (unitKey die part unit) (times.drop (times.length - 1025)) } }
  if 1024 < times.length then s2.requestReplace dom else s2

end Sys2Proof.Machine
end

