-- ==== Sys2Proof/Machine/Regs.lean ====
section
/-! DEFINITION. What an instruction needs: its pipe, its class, and the registers and predicates that it reads and writes
(R61-R65). -/

namespace Sys2Proof.Machine

/-! ## Pipes, classes and registers (R63-R65) -/

/-- The place of a pipe among a core's (R61). -/
def pipeIndex : Pipe → Nat
  | .scalar => 0
  | .vi => 1
  | .vf => 2
  | .sfu => 3
  | .mem => 4
  | .async => 5

/-- The pipe of an instruction (R61). -/
def viewPipe (v : View) : Nat :=
  match v.op with
  | some o => pipeIndex o.pipe
  | none => 0

/-- Whether it is an operation on a synchronisation engine (R330): on a phaser, or on a stream queue. -/
def viewEngine (v : View) : Bool :=
  match v with
  | .t o _ => decide (o ∈ [OpT.phnew, .phfree, .phreg, .phdrop, .phsig, .phwait, .phsw, .phexp, .qpush, .qpop, .qmark, .qstat])
  | _ => false

/-- Its class (R61). -/
def viewClass (v : View) : Option Cls :=
  match v.op with
  | some o => o.cls
  | none => none

/-- Whether it takes the lane guard (R31). -/
def viewLane (v : View) : Bool :=
  match v.op with
  | some o => o.laneGuard
  | none => false

/-- The count of a class. -/
def Counts.of (c : Counts) : Cls → Nat
  | .ld => c.ld
  | .st => c.st
  | .cp => c.cp
  | .tl => c.tl
  | .ms => c.ms

/-- The registers that a code names in a position of `w` bits (R42). -/
def codeRegs (cur code w : Nat) : List SbReg :=
  (List.range (regCount w)).filterMap (fun i =>
    let r := code + i
    if r < 0x20 then some (.v (cur + r / 16) (r % 16)) else if r < 0xA0 then some (.s (r - 0x20)) else none)

/-- The registers or predicates that a field reads or writes. -/
def slotRegs (cur : Nat) (lane : Bool) (sl : Slot) (code : BitVec 8) : List SbReg :=
  let c := code.toNat
  match sl with
  | .unused => []
  | .num6 => [if lane then .p c else .q c]
  | .num7 => [if lane then .p c else .q c]
  | .vdst w => codeRegs cur c w
  | .sdst w => codeRegs cur c w
  | .vsrc w _ => codeRegs cur c w
  | .usrc w _ => codeRegs cur c w
  | .uint w => codeRegs cur c w
  | .sreg w => codeRegs cur c w
  | .reg w => codeRegs cur c w
  | .vreg w => codeRegs cur c w
  | .data w => codeRegs cur c w
  | .sdata w => codeRegs cur c w

/-- The registers of a logical frame. -/
def frameRegs (f : Nat) : List SbReg := (List.range 16).map (fun r => SbReg.v f r)

/-- The guard of an instruction. -/
def viewGuard : View → Guard
  | .a _ f => f.g
  | .m _ f => f.g
  | .b _ f => f.g
  | .t _ f => f.g
  | .event => ⟨7, false⟩

/-- The registers and predicates that an instruction writes; the frame of a FILLF (R227), and q0 of BAR (R348), are named
by no field. -/
def viewDests (w : Window) (v : View) : List SbReg :=
  let lane := viewLane v
  match v with
  | .a o f => slotRegs w.cur lane (o.slots f.fn).d f.d
  | .m o f => slotRegs w.cur lane (o.slots f.fn).d f.d
  | .b _ _ => []
  | .t o f =>
    let sl := o.slots f.fn (w1Of f)
    slotRegs w.cur lane sl.d f.d ++ (if o = .qpop then slotRegs w.cur lane sl.c f.c else []) ++
      (if o = .bar then [SbReg.q 0] else []) ++ (if o = .fillf then frameRegs (w.lo - 1) else [])
  | .event => []

/-- Whether an instruction of a wave's own pipes can set FLAGS: one that clamps (R238), and the floating-point and T5
instructions but VFCLASS and VUNPK (R269, R279, R286, R288). MEPI sets them from the sequencer (R325). -/
def viewMayFlag (v : View) : Bool :=
  match v with
  | .a o f =>
    f.sat || o == .vunp3 || o == .vtdot4 ||
      (((Op.a o).pipe == .vf || (Op.a o).pipe == .sfu) && o != .vfclass && o != .vunpk)
  | _ => false

/-- The registers and predicates that an instruction reads besides its guard: the join of JENROL, JPARK and JSTRIKE is no
register (R372), and SPILLF reads a frame (R227). -/
def viewSources (w : Window) (v : View) : List SbReg :=
  let lane := viewLane v
  match v with
  | .a o f =>
    let sl := o.slots f.fn
    slotRegs w.cur lane sl.a f.a ++ slotRegs w.cur lane sl.b f.b ++ slotRegs w.cur lane sl.c f.c
  | .m o f =>
    let sl := o.slots f.fn
    slotRegs w.cur lane sl.a f.addr ++ slotRegs w.cur lane sl.b f.data
  | .b o f => if o = .jenrol || o = .jpark || o = .jstrike then [] else slotRegs w.cur true o.slotX f.x
  | .t o f =>
    let sl := o.slots f.fn (w1Of f)
    slotRegs w.cur lane sl.a f.a ++ slotRegs w.cur lane sl.b f.b ++ (if o = .qpop then [] else slotRegs w.cur lane sl.c f.c) ++
      (if o = .spillf then frameRegs w.lo else [])
  | .event => []

/-- The registers and predicates that an instruction reads or writes, its guard among them (R65). -/
def viewRegs (w : Window) (v : View) : List SbReg :=
  (match v with
    | .event => []
    | _ => [if viewLane v then SbReg.p (viewGuard v).pred.toNat else SbReg.q (viewGuard v).pred.toNat]) ++
    viewDests w v ++ viewSources w v

/-- Whether some registers hold a vector register. -/
def touchesVector (rs : List SbReg) : Bool := rs.any (fun r => match r with
  | .v _ _ => true
  | _ => false)

/-- Whether an instruction's class operation, or an answer that comes later, writes its register (R65, R177, R379): its
own completion clears the scoreboard. -/
def viewLate (v : View) : Bool :=
  match v with
  | .m _ _ => true
  | .t o _ => o = .tshape || o = .enq || o = .fillf || o = .bar
  | _ => false

end Sys2Proof.Machine
end

