-- ==== Sys2Proof/Machine/Upsets.lean ====
section
/-! DEFINITION. Errors in the memories of a core and in its waves' registers, and what meets them (R170, R431, R433). -/

namespace Sys2Proof.Machine

/-- The domain that owns a core (R128), for the records of its errors. -/
def State.coreDom (s : State) (core : Nat) : Nat :=
  ((s.ms.doms.find? (fun d => d.2.clusters.contains (clusterOf core))).map (fun d => d.1)).getD 0

/-- A core memory with a word poisoned (R170). -/
def Store.spoil (st : Store) (w : Nat) : Store := if st.poison.contains w then st else { st with poison := st.poison ++ [w] }

/-- The core with a word of SPAD, ABUF or CBUF poisoned; CBUF's side vectors are store 3 (R158). -/
def Core.spoil (c : Core) (store w : Nat) : Core :=
  if store = 0 then { c with spad := c.spad.spoil w }
  else if store = 1 then { c with abuf := c.abuf.spoil w }
  else if store = 2 then { c with cbuf := c.cbuf.spoil w }
  else { c with sideVec := c.sideVec.spoil w }

/-- The 4-byte words of SPAD, ABUF, CBUF and its side vectors (R158). -/
def storeWords (store : Nat) : Nat :=
  if store = 0 then 32768 else if store < 3 then 16384 else if store = 3 then 512 else 0

/-- The INDEX of an error in a cache line: the set, and the way in its lowest bits (R435, assumption 121). -/
def lineIndex (ways set way : Nat) : Nat := ways * set + way

/-- An uncorrectable parity error recorded (R431, R435). -/
def State.parityRecord (s : State) (core index : Nat) : State :=
  s.logError (dieOf core) 1 3 false (s.coreDom core) (core % 2048) index 0

/-- An error strikes (R170, R431). One of a single bit is corrected at once, and one of two bits poisons its word; the line of
a cache is dropped; a word of a frame holds its error until something reads or writes it (assumption 91). -/
def State.strike (s : State) (u : Upset) : State :=
  match u with
  | .word core store w double fence =>
    if !(decide (core < 4096) && decide (w < storeWords store)) then s
    else if !double then s.corrected (dieOf core) 1 0 (s.coreDom core) 0 (core % 2048) w
    else
      let c := (s.core core).spoil store w
      (s.setCore core { c with fenced := c.fenced || fence }).logError (dieOf core) 1 2 false (s.coreDom core) (core % 2048) w 0
  | .line core place code =>
    let c := s.core core
    if code then
      match c.icache[place]? with
      | some l => (s.setCore core { c with icache := dropAt c.icache place }).parityRecord core (lineIndex 256 0 l.way)
      | none => s
    else
      match c.l1[place]? with
      | some l => (s.setCore core { c with l1 := dropAt c.l1 place }).parityRecord core (lineIndex 4 (l.line % 128) l.way)
      | none => s
  | .register id frame w mirror =>
    let v := s.wave id
    let m := (frame, w, mirror)
    if !(v.sched.live && decide (frame < v.win.nf) && decide (w < 1024) && (!mirror || !v.win.mirrors.isEmpty)) then s
    else if v.parity.contains m then s
    else s.setWave id { v with parity := v.parity ++ [m] }

/-! ## What meets an error of a register (R433) -/

/-- The marked words of some registers, in the threads that `lanes` names. -/
def Wave.marked (w : Wave) (rs : List SbReg) (lanes : Nat → Bool) : List (Nat × Nat × Bool) :=
  w.parity.filter (fun m => lanes (m.2.1 % 64) && rs.any (fun r => match r with
    | .v f n => Map.get? w.win.place f == some m.1 && n == m.2.1 / 64
    | _ => false))

/-- Whether a physical thread is no shadow of another (R434). -/
def Wave.leads (w : Wave) (l : Nat) : Bool := w.lane (w.visible l) == l

/-- Whether an instruction reads the words of other threads (R252). -/
def readsAcross (o : OpA) : Bool := o = .vshfl || o = .vrdlane || o = .vredux || o = .vscan

/-- The threads whose words an instruction reads of its own: the active ones, of which a shadow reads nothing where the
instruction reads across threads (R252); those of a whole frame for SPILLF. -/
def Wave.readsLane (w : Wave) (v : View) (l : Nat) : Bool :=
  match v with
  | .a o f => w.activeLane f.g l && (!readsAcross o || w.leads l)
  | .t o f => if o = .spillf then w.guardUni f.g else w.activeLane f.g l
  | _ => w.activeLane (viewGuard v) l

/-- The registers that an instruction reads in every thread, active or not: the source of one that reads across threads
(R252). -/
def viewAcross (w : Window) (v : View) : List SbReg :=
  match v with
  | .a o f => if readsAcross o then slotRegs w.cur true (o.slots f.fn).a f.a else []
  | _ => []

/-- The words with an error that an instruction reads (R433). -/
def Wave.meets (w : Wave) (v : View) : List (Nat × Nat × Bool) :=
  let own := w.marked (viewSources w.win v) (w.readsLane v)
  let far := w.marked (viewAcross w.win v) w.leads
  w.parity.filter (fun m => own.contains m || far.contains m)

/-- What an instruction meets in its registers as it issues (R433): a word with an error in one copy is read from the other
and rewritten; with errors in both, or with no mirror, the wave halts (R413), and the answer is that it has. The words that it writes hold no
error any more. -/
def State.meetParity (s : State) (v : View) : State × Bool :=
  let w := s.wv
  let met := w.meets v
  let bad := fun (m : Nat × Nat × Bool) => w.win.mirrors.isEmpty || w.parity.contains (m.1, m.2.1, !m.2.2)
  let core := s.cur.core
  let index := fun (m : Nat × Nat × Bool) => 1024 * (w.win.held.getD m.1 0) + m.2.1
  match met.find? bad with
  | some m => ((s.parityRecord core (index m)).halt 1, true)
  | none =>
    let wrote := w.marked (viewDests w.win v) (w.activeLane (viewGuard v))
    let s1 := s.mapWv (fun w => { w with parity := w.parity.filter (fun m => !met.contains m && !wrote.contains m) })
    (met.foldl (fun t m => t.corrected (dieOf core) 1 3 (t.coreDom core) 0 (core % 2048) (index m)) s1, false)

end Sys2Proof.Machine
end

