-- ==== Sys2Proof/Machine/Fetch.lean ====
section
/-! DEFINITION. Fetching the instruction of the wave in hand through its core's instruction cache (R19, R26-R28, R49, R84,
R408) and what the machine does next:
the waves that issue in this core cycle, then the events due, then an event that nothing fixes (assumption 6). -/

namespace Sys2Proof.Machine

/-- The cause code of a decode fault (R403). -/
def decodeCause : DecodeKind → Nat
  | .illegalLength => 0x01
  | .fetchAlign => 0x02
  | .illegalOp => 0x03
  | .illegalField => 0x04
  | .illegalFn => 0x05
  | .illegalOpnd => 0x06

/-- The bytes of the fetch window from an address on (R28). -/
def windowLen (pc : Nat) : Nat := 32 - pc % 32

/-- What the fetch of an address finds: the bytes of its window, a fault, or the wait for its line. -/
inductive Fetched where
  | bytes (bs : List Byte)
  | revoked (code : Nat)
  | poison
  | wait
  deriving DecidableEq, Repr

/-- The read of an instruction line (R97, R134). -/
def fetchPacket (w : Wave) (line key mt slice : Nat) : Packet :=
  { ty := .rd, port := 0, slice := slice, seq := 0, dom := w.ctx.dom, key := key, mark := false, trim := false, rpl := false,
    retry := 0, len := 128, opx := 0, mgrp := 0, mcast := 0, addr := 128 * line, ts := w.pts, ld := 0, mt2 := mt == 2,
    watch := false, again := false, born := 0, data := [] }

/-- An instruction line, with the address in it that a wave fetches, asked of its home, the host or a peer, where the port has
room (R73, R105). -/
def State.askLine (s : State) (line key mt va : Nat) : State × Fetched :=
  let core := s.cur.core
  let c := Client.fetch core line key s.wv.ctx.asn (va / 128 * 128)
  if s.asked (portOf core) c then (s, .wait)
  else if 2 ^ 51 ≤ 128 * line then
    if s.linkFull (128 * line) then (s, .wait)
    else
      match s.sendSystem (fetchPacket s.wv line key mt 0) c with
      | some s1 => (s1, .wait)
      | none => (s, .poison)
  else
    match s.homeOf s.wv.ctx.dom (128 * line) with
    | none => (s, .poison)
    | some (_, h) =>
      if (s.port (portOf core)).hasRoom then (s.portSend (portOf core) (fetchPacket s.wv line key mt h) c, .wait)
      else (s, .wait)

/-- The window's bytes under a translation (R19, R90, R92, R414). A line that came with an error serves one fetch, which
takes the error. -/
def State.fetchLine (s : State) (e : TlbEntry) (pc : Nat) : State × Fetched :=
  let pa := e.phys pc
  let mine := fun (l : ILine) => l.line == pa / 128 && l.key == e.key
  match s.myCore.icache.find? mine with
  | none => s.askLine (pa / 128) e.key e.mt pc
  | some l =>
    if l.opx % 2 = 0 then (s, .bytes ((l.bytes.drop (pa % 128)).take (windowLen pc)))
    else
      (s.setMyCore { s.myCore with icache := s.myCore.icache.filter (fun l => !mine l) },
        if l.opx / 4 % 2 = 1 then .revoked (if (s.key e.key).st = .empty then 6 else 7) else .poison)

/-- An instruction line that has come: 256 lines of 128 bytes; a full cache gives up a line that no rule names
(assumption 90). -/
def State.fillIcache (s : State) (core line key opx : Nat) (bs : List Byte) : State :=
  let c := s.core core
  let rest := c.icache.filter (fun l => !(l.line == line && l.key == key))
  let kept := if rest.length < 256 then rest else dropAt rest (s.pick rest.length)
  (s.setCore core { c with icache := ⟨line, key, opx, bs, freeBelow 256 (kept.map (fun l => l.way))⟩ :: kept }).drawn

/-- A fetch fault of order 1, or FETCH_ALIGN, for the wave in hand: at a handler's first instruction it halts the wave
(R408). -/
def State.fetchFault (s : State) (cause info : Nat) : State :=
  if s.wv.waits.handler then s.halt 3 else s.dropAnswers.trapAll cause info

/-- The instruction at the PC of the wave in hand, where the fetch and the decode succeed; otherwise the state after
the fault, or with the walk or the fetch under way (R49, R84). A line refused at its home under its key slot raises
KEY_REVOKED, or for an EMPTY slot KEY_DENIED (R89), precisely and with level 0 in TRAPINFO, for which the spec names none
(assumption 79). -/
def State.fetchDecode (s : State) : State × Option Instr :=
  let pc := s.wv.ctl.pc.toNat
  match s.find pc 3 with
  | (.wait, s1) => (s1.wait 3, none)
  | (.fault (.sub c l), s1) => (s1.fetchFault (faultCause c) (faultInfo c l 3), none)
  | (.fault _, s1) => (s1.halt (if s1.wv.waits.handler then 3 else 1), none)
  | (.ok e, s1) =>
    match s1.fetchLine e pc with
    | (s2, .wait) => (s2.wait 3, none)
    | (s2, .revoked c) => (s2.fetchFault (faultCause c) (faultInfo c 0 3), none)
    | (s2, .poison) => (s2.halt (if s2.wv.waits.handler then 3 else 1), none)
    | (s2, .bytes bs) =>
      match decode s2.wv.ident.scalars pc bs with
      | .error e => (if e.kind = .fetchAlign then s2.fetchFault 0x02 0 else s2.trapAll (decodeCause e.kind) e.info, none)
      | .ok i => (s2.mapWv (fun w => { w with waits := { w.waits with handler := false } }), some i)

/-- Whether a row of the table is an event of the device rather than an instruction of a wave. -/
def isEvent (i : Instr) : Bool := i.view == .event

/-- An event as the machine's next act; anything else is no act of the device. -/
def eventOf (i : Instr) : Option Instr := if isEvent i then some i else none

/-- The instruction that a wave issues: fetched and decoded, unless a register that it reads holds an error in every copy
(R433). -/
def State.issued (s : State) : State × Option Instr :=
  match s.fetchDecode with
  | (s1, none) => (s1, none)
  | (s1, some i) =>
    if s1.wv.parity.isEmpty then (s1, some i)
    else
      match s1.meetParity i.view with
      | (s2, true) => (s2, none)
      | (s2, false) => (s2, some i)

/-- What the machine does next: a wave picked to issue takes a pending imprecise trap (R404) or fetches its
instruction; with none left, the first event due; with none due, an error that strikes, a beat of a core's memory pipe (R163), or an
event of no fixed order. -/
def State.turn (s : State) : State × Option Instr :=
  match s.issuing with
  | w :: rest =>
    let s1 := { s with issuing := rest }.focus w
    if !s1.wv.running || s1.wv.waits.ending then (s1, none)
    else if s1.wv.impKey.isSome || s1.wv.impMixed.isSome then (s1, some (.impreciseTrap w))
    else s1.issued
  | [] =>
    match s.agenda with
    | e :: rest => ({ s with agenda := rest }, eventOf e)
    | [] =>
      match Config.upset s.draws with
      | some u => (s.drawn.strike u, none)
      | none =>
        match Config.portTurn s.draws with
        | some u => (s.drawn.portStep u.1 u.2, none)
        | none => (s.drawn, eventOf (Config.nextEvent s.draws))

end Sys2Proof.Machine
end

