-- ==== Sys2Proof/Machine/FpNum.lean ====
section
/-! DEFINITION. Floating-point numbers (R258-R268): decoding an encoding, exact values as (-1)^neg x mag x 2^exp, rounding
once to a format or to an integer, overflow, tininess and the flags. A format is named by its code in R67; code 8
stands for E2M1. -/

namespace Sys2Proof.Machine

/-- Exponent bits, mantissa bits and bias of a format (R258). -/
def fpShape (fmt : Nat) : Nat × Nat × Nat := if fmt = 8 then (2, 1, 1) else fmtShape fmt

/-- A value: a NaN (signalling or quiet), an infinity, or an exact finite number; zeros keep their sign. -/
inductive FpVal where
  | nan (sig : Bool)
  | inf (neg : Bool)
  | fin (neg : Bool) (mag : Nat) (exp : Int)
  deriving DecidableEq, Repr

/-- The sign bit of a format as a number. -/
def signBit (fmt : Nat) : Nat := 2 ^ ((fpShape fmt).1 + (fpShape fmt).2.1)

/-- The value of an encoding (R258, R259). -/
def fpDecode (fmt bits : Nat) : FpVal :=
  let eb := (fpShape fmt).1
  let mb := (fpShape fmt).2.1
  let bias := (fpShape fmt).2.2
  let neg := bits / 2 ^ (eb + mb) % 2 == 1
  let e := bits / 2 ^ mb % 2 ^ eb
  let m := bits % 2 ^ mb
  let top := e == 2 ^ eb - 1
  if fmt == 4 && top && m == 7 then .nan false
  else if fmt != 4 && fmt != 8 && top then
    if m = 0 then .inf neg else .nan (fmt != 5 && m < 2 ^ (mb - 1))
  else if e = 0 then .fin neg m (1 - (bias : Int) - mb)
  else .fin neg (2 ^ mb + m) ((e : Int) - bias - mb)

/-- The default NaN of a format (R259). -/
def defaultNan (fmt : Nat) : Nat :=
  match fmt with
  | 0 => 0x7E00
  | 1 => 0x7FC0
  | 3 => 0x7FF8000000000000
  | 4 => 0x7F
  | 5 => 0x7E
  | _ => 0x7FC00000

/-- An infinity of a format that has one (R258). -/
def infBits (fmt : Nat) (neg : Bool) : Nat :=
  neg.toNat * signBit fmt + (2 ^ (fpShape fmt).1 - 1) * 2 ^ (fpShape fmt).2.1

/-- The encoding of the largest finite value (R258). -/
def maxBits (fmt : Nat) : Nat :=
  if fmt = 4 then 0x7E else if fmt = 8 then 7 else (2 ^ (fpShape fmt).1 - 1) * 2 ^ (fpShape fmt).2.1 - 1

/-- The largest finite value as magnitude and exponent; the exponent is that of its spacing, u_max of R263. -/
def maxVal (fmt : Nat) : Nat × Int :=
  match fpDecode fmt (maxBits fmt) with
  | .fin _ m e => (m, e)
  | _ => (0, 0)

/-- Whether m1 x 2^e1 ≤ m2 x 2^e2. -/
def dyLe (m1 : Nat) (e1 : Int) (m2 : Nat) (e2 : Int) : Bool :=
  let e := min e1 e2
  m1 * 2 ^ (e1 - e).toNat ≤ m2 * 2 ^ (e2 - e).toNat

/-- Whether m1 x 2^e1 < m2 x 2^e2. -/
def dyLt (m1 : Nat) (e1 : Int) (m2 : Nat) (e2 : Int) : Bool := !dyLe m2 e2 m1 e1

/-- A magnitude rounded to a multiple of 2^q under a mode (R262, R264): the multiple, and whether it is inexact. `r` is
the draw of stochastic rounding. -/
def roundGrid (mode : Nat) (neg : Bool) (r mag : Nat) (exp q : Int) : Nat × Bool :=
  if q ≤ exp then (mag * 2 ^ (exp - q).toNat, false)
  else
    let u := 2 ^ (q - exp).toNat
    let lo := mag / u
    let rem := mag % u
    let up : Bool := match mode with
      | 0 => decide (u < 2 * rem) || (2 * rem == u && lo % 2 == 1)
      | 1 => false
      | 2 => rem != 0 && !neg
      | 3 => rem != 0 && neg
      | 4 => decide (u ≤ 2 * rem)
      | _ => rem != 0 && decide (r % 2 ^ 16 < 2 ^ 16 * rem / u)
    (if up then lo + 1 else lo, rem != 0)

/-- Whether a rounding overflows the format (R263): `n` x 2^q is the rounded magnitude. -/
def overflows (fmt mode : Nat) (neg : Bool) (mag : Nat) (exp : Int) (n : Nat) (q : Int) : Bool :=
  let m := maxVal fmt
  match mode with
  | 1 => false
  | 2 => !neg && dyLt m.1 m.2 mag exp
  | 3 => neg && dyLt m.1 m.2 mag exp
  | 5 => dyLt m.1 m.2 n q
  | _ => dyLe (2 * m.1 + 1) (m.2 - 1) mag exp

/-- What an overflow delivers (R263). -/
def overflowResult (fmt : Nat) (satf neg : Bool) : Nat × BitVec 8 :=
  if fmt = 8 ∨ ((fmt = 4 ∨ fmt = 5) ∧ satf = true) then (neg.toNat * signBit fmt + maxBits fmt, flSAT ||| flNX)
  else if fmt = 4 then (0x7F, flOF ||| flNX)
  else (infBits fmt neg, flOF ||| flNX)

/-- The encoding of n x 2^q, which the format represents. -/
def fpEncode (fmt : Nat) (neg : Bool) (n : Nat) (q : Int) : Nat :=
  let mb := (fpShape fmt).2.1
  let bias := (fpShape fmt).2.2
  let s := neg.toNat * signBit fmt
  if n < 2 ^ mb then s + n
  else
    let k := Nat.log2 n
    s + ((k : Int) + q + bias).toNat * 2 ^ mb + (n / 2 ^ (k - mb) - 2 ^ mb)

/-- One rounding of an exact value to a format (R262-R266): the encoding and the flags. -/
def fpRound (fmt mode r : Nat) (ftz satf neg : Bool) (mag : Nat) (exp : Int) : Nat × BitVec 8 :=
  let mb := (fpShape fmt).2.1
  let bias := (fpShape fmt).2.2
  if mag = 0 then (neg.toNat * signBit fmt, 0)
  else
    let k := (Nat.log2 mag : Int) + exp
    let tiny := k < 1 - (bias : Int)
    if tiny && ftz && decide (fmt ≤ 2) then (neg.toNat * signBit fmt, flUF ||| flNX)
    else
      let q := max (k - mb) (1 - (bias : Int) - mb)
      let g := roundGrid mode neg r mag exp q
      if overflows fmt mode neg mag exp g.1 q then overflowResult fmt satf neg
      else if dyLt (maxVal fmt).1 (maxVal fmt).2 g.1 q then (neg.toNat * signBit fmt + maxBits fmt, flNX)
      else (fpEncode fmt neg g.1 q,
        (if g.2 then flNX else 0) ||| (if tiny && g.2 then flUF else 0))

/-- An exact value rounded to an integer (R262): the integer and whether it is inexact. -/
def intRound (mode r : Nat) (neg : Bool) (mag : Nat) (exp : Int) : Int × Bool :=
  let g := roundGrid mode neg r mag exp 0
  (if neg then -(g.1 : Int) else g.1, g.2)

/-! ## Sources (R35, R266) -/

/-- The sign modifiers on an encoding: clear, then invert (R35). -/
def signMods (fmt : Nat) (abs neg : Bool) (bits : Nat) : Nat :=
  let s := signBit fmt
  let b := if abs then bits % s else bits
  if neg then (if b / s % 2 = 1 then b - s else b + s) else b

/-- A subnormal source of FP16, BF16 or FP32 is read as zero under FTZ (R266). -/
def flushIn (fmt : Nat) (ftz : Bool) (v : FpVal) : FpVal :=
  match v with
  | .fin neg m e => if ftz && decide (fmt ≤ 2) && decide (m < 2 ^ (fpShape fmt).2.1) then .fin neg 0 e else v
  | v => v

/-- Whether a value is a NaN. -/
def FpVal.isNan : FpVal → Bool
  | .nan _ => true
  | _ => false

/-- Whether a value is a signalling NaN. -/
def FpVal.isSig : FpVal → Bool
  | .nan s => s
  | _ => false

/-- Whether a value is negative, or a zero or infinity with its sign set. -/
def FpVal.isNeg : FpVal → Bool
  | .nan _ => false
  | .inf n => n
  | .fin n _ _ => n

/-- Whether a value is a zero. -/
def FpVal.isZero : FpVal → Bool
  | .fin _ m _ => m == 0
  | _ => false

/-! ## Exact sums and products (R262, R274) -/

/-- A product: exact, or a NaN where it is invalid (0 x infinity). -/
def fpMul : FpVal → FpVal → FpVal × Bool
  | .nan s, _ => (.nan s, false)
  | _, .nan s => (.nan s, false)
  | .inf a, .inf b => (.inf (xor a b), false)
  | .inf a, .fin b m _ => if m = 0 then (.nan false, true) else (.inf (xor a b), false)
  | .fin a m _, .inf b => if m = 0 then (.nan false, true) else (.inf (xor a b), false)
  | .fin a m e, .fin b n f => (.fin (xor a b) (m * n) (e + f), false)

/-- The least exponent among finite terms. -/
def leastExp : List FpVal → Int → Int
  | [], e => e
  | .fin _ _ f :: ts, e => leastExp ts (min e f)
  | _ :: ts, e => leastExp ts e

/-- The exact sum of finite terms, in units of 2^e. -/
def sumUnits (e : Int) : List FpVal → Int
  | [] => 0
  | .fin neg m f :: ts => (if neg then -((m * 2 ^ (f - e).toNat : Nat) : Int) else ((m * 2 ^ (f - e).toNat : Nat) : Int)) + sumUnits e ts
  | _ :: ts => sumUnits e ts

/-- The exact sum of terms with no NaN: an infinity, a finite value with the zero sign of R262, or a NaN where it is
invalid. -/
def fpSum (mode : Nat) (ts : List FpVal) : FpVal × Bool :=
  if ts.any FpVal.isNan then (.nan false, false)
  else
    let pos := ts.any (fun t => t == .inf false)
    let neg := ts.any (fun t => t == .inf true)
    if pos && neg then (.nan false, true)
    else if pos then (.inf false, false)
    else if neg then (.inf true, false)
    else
      let e := leastExp ts 0
      let x := sumUnits e ts
      if x = 0 then
        let allZero := ts.all FpVal.isZero
        if allZero && ts.all (fun t => !t.isNeg) then (.fin false 0 e, false)
        else if allZero && ts.all FpVal.isNeg then (.fin true 0 e, false)
        else (.fin (mode == 3) 0 e, false)
      else (.fin (decide (x < 0)) x.natAbs e, false)

/-- A value rounded to a format (R262-R266): a NaN becomes the default NaN, an infinity stays. -/
def fpFinish (fmt mode r : Nat) (ftz satf : Bool) (v : FpVal) : Nat × BitVec 8 :=
  match v with
  | .nan _ => (defaultNan fmt, 0)
  | .inf neg => (infBits fmt neg, 0)
  | .fin neg m e => fpRound fmt mode r ftz satf neg m e

/-- IV where a condition holds. -/
def ivFlag (b : Bool) : BitVec 8 := if b then flIV else 0

/-- The rounded sum of products and terms of one operation, with IV for an invalid operation or a signalling source
among `srcs` (R274). -/
def fpSumOp (fmt mode r : Nat) (ftz : Bool) (prods : List (FpVal × FpVal)) (terms srcs : List FpVal) : Nat × BitVec 8 :=
  let ps := prods.map (fun p => fpMul p.1 p.2)
  let sum := fpSum mode (ps.map Prod.fst ++ terms)
  let res := fpFinish fmt mode r ftz false sum.1
  (res.1, res.2 ||| ivFlag (ps.any Prod.snd || sum.2 || srcs.any FpVal.isSig))

/-- The .FADD of RED (R182): RNE, subnormals kept, the default NaN for any NaN, no flag. -/
def redFadd (n old b : Nat) : Nat :=
  let fmt := if n = 8 then 3 else 2
  (fpFinish fmt 0 0 false false (fpSum 0 [fpDecode fmt old, fpDecode fmt b]).1).1

/-! ## Comparison (R70, R276, R277) -/

/-- Whether a < b for values without NaNs, with -0 equal to +0. -/
def fpLt : FpVal → FpVal → Bool
  | .inf a, .inf b => a && !b
  | .inf a, _ => a
  | _, .inf b => !b
  | .fin a m e, .fin b n f =>
    let k := min e f
    let x : Int := (m * 2 ^ (e - k).toNat : Nat)
    let y : Int := (n * 2 ^ (f - k).toNat : Nat)
    (if a then -x else x) < (if b then -y else y)
  | _, _ => false

/-- The floating comparison of R70 for a pair. -/
def fpCompare (code : Nat) (a b : FpVal) : Bool :=
  let un := a.isNan || b.isNan
  match code with
  | 0 => !un && !fpLt a b && !fpLt b a
  | 1 => un || fpLt a b || fpLt b a
  | 2 => !un && fpLt a b
  | 3 => !un && !fpLt b a
  | 4 => !un && fpLt b a
  | 5 => !un && !fpLt a b
  | 6 => un
  | _ => !un

end Sys2Proof.Machine
end

