-- ==== Sys2Proof/Machine/Float.lean ====
section
/-! DEFINITION. The floating-point arithmetic of chapter 11: VFADD-VFLDEXP and VCVT (R274-R280), with the rounding mode
(R34, R262) and the draws of stochastic rounding (R264, R265). -/

namespace Sys2Proof.Machine

/-! ## Rounding mode and draws -/

/-- The rounding mode of an instruction; `narrow` tells that its destination admits SR (R262). -/
def State.rmode (s : State) (f : InsA) (narrow : Bool) : Nat :=
  if f.rnd = 6 then (if narrow && s.wv.csr.sren then 5 else s.wv.csr.rm.toNat) else f.rnd.toNat

/-- One step of a generator (R265). -/
def lfsrStep (g : Word) : Word := if g.getLsbD 0 then (g >>> 1) ^^^ 0x80200003#32 else g >>> 1

/-- A draw for each thread in turn, from the generator of its number modulo 16 (R265). -/
def srDraws (gens : List Word) : List Nat → List Word × Map Nat
  | [] => (gens, [])
  | t :: ts =>
    let g := lfsrStep (gens.getD (t % 16) 0)
    let r := srDraws (gens.set (t % 16) g) ts
    (r.1, (t, g.toNat) :: r.2)

/-- The draws that an instruction takes: one for each active thread under SR, none otherwise (R265). -/
def State.drawsFor (s : State) (sr : Bool) (g : Guard) : List Word × Map Nat :=
  if sr then srDraws s.wv.gens ((List.range 64).filter (fun t => s.wv.active g t)) else (s.wv.gens, [])

/-- A vector floating-point instruction: for each active thread a result of `wd` bits and its flags (R269). `op` is
given the physical thread and its draw. -/
def vecFloat (f : InsA) (wd : Nat) (sr : State → Bool) (op : State → Nat → Nat → Nat × BitVec 8) (s : State) : Out :=
  vecDo (lenA f) (fun s =>
    let act := s.wv.activeLane f.g
    let d := s.drawsFor (sr s) f.g
    let r := fun l => op s l (Map.getD d.2 (s.wv.visible l) 0)
    { (s.wv.putV act f.d wd (fun l => (r l).1)).raise (flagsOver act (fun l => (r l).2)) with gens := d.1 }) s

/-! ## Sources -/

/-- The encoding of a floating source after its sign modifiers (R35). -/
def State.fbits (s : State) (f : InsA) (fmt : Nat) (code : BitVec 8) (abs neg : Bool) (l : Nat) : Nat :=
  signMods fmt abs neg (s.src f.lit (.fp fmt) code l)

/-- A floating source: modifiers, then FTZ (R274). -/
def State.fsrc (s : State) (f : InsA) (fmt : Nat) (code : BitVec 8) (abs neg : Bool) (l : Nat) : FpVal :=
  flushIn fmt s.wv.csr.ftz (fpDecode fmt (s.fbits f fmt code abs neg l))

/-- The A, B and C sources of an instruction. -/
def State.fA (s : State) (f : InsA) (fmt l : Nat) : FpVal := s.fsrc f fmt f.a f.aa f.na l
def State.fB (s : State) (f : InsA) (fmt l : Nat) : FpVal := s.fsrc f fmt f.b f.ab f.nb l
def State.fC (s : State) (f : InsA) (fmt l : Nat) : FpVal := s.fsrc f fmt f.c false false l

/-- Half `h` of a packed source, with modifiers on its sign (R43, R274). -/
def State.fhalf (s : State) (f : InsA) (fmt : Nat) (code : BitVec 8) (abs neg : Bool) (l h : Nat) : FpVal :=
  flushIn fmt s.wv.csr.ftz (fpDecode fmt (signMods fmt abs neg (bitsOf (16 * h) 16 (s.src f.lit (.halves fmt) code l))))

/-- The format of FN[2:0]. -/
def fmtOf (f : InsA) : Nat := fnLo f.fn

/-- An arithmetic instruction in one format without stochastic rounding: exact products and terms, one rounding. -/
def vecArith (f : InsA) (prods : State → Nat → List (FpVal × FpVal)) (terms srcs : State → Nat → List FpVal) (s : State) :
    Out :=
  vecFloat f (fmtWidth (fmtOf f)) (fun _ => false) (fun s l _ =>
    fpSumOp (fmtOf f) (s.rmode f false) 0 s.wv.csr.ftz (prods s l) (terms s l) (srcs s l)) s

/-- VFADD (R275). -/
def execVfadd (f : InsA) (s : State) : Out :=
  let ts := fun (s : State) l => [s.fA f (fmtOf f) l, s.fB f (fmtOf f) l]
  vecArith f (fun _ _ => []) ts ts s

/-- VFMUL (R275). -/
def execVfmul (f : InsA) (s : State) : Out :=
  vecArith f (fun s l => [(s.fA f (fmtOf f) l, s.fB f (fmtOf f) l)]) (fun _ _ => [])
    (fun s l => [s.fA f (fmtOf f) l, s.fB f (fmtOf f) l]) s

/-- VFMA: one rounding (R275). -/
def execVfma (f : InsA) (s : State) : Out :=
  vecArith f (fun s l => [(s.fA f (fmtOf f) l, s.fB f (fmtOf f) l)]) (fun s l => [s.fC f (fmtOf f) l])
    (fun s l => [s.fA f (fmtOf f) l, s.fB f (fmtOf f) l, s.fC f (fmtOf f) l]) s

/-- A source of VFMIN or VFMAX as it would be returned: after the modifiers, flushed under FTZ (R276). -/
def State.fkeep (s : State) (f : InsA) (fmt : Nat) (code : BitVec 8) (abs neg : Bool) (l : Nat) : Nat :=
  let b := s.fbits f fmt code abs neg l
  match flushIn fmt s.wv.csr.ftz (fpDecode fmt b) with
  | .fin n 0 _ => n.toNat * signBit fmt
  | _ => b

/-- The lesser or greater of two sources, with -0 below +0 (R276). -/
def minMax (fmt : Nat) (big : Bool) (a b : FpVal) (ba bb : Nat) : Nat × BitVec 8 :=
  let iv := ivFlag (a.isSig || b.isSig)
  if a.isNan && b.isNan then (defaultNan fmt, iv)
  else if a.isNan then (bb, iv)
  else if b.isNan then (ba, iv)
  else
    let less := fpLt a b || (a.isZero && b.isZero && a.isNeg && !b.isNeg)
    (if less == big then bb else ba, 0)

/-- VFMIN and VFMAX (R276). -/
def vecMinMax (big : Bool) (f : InsA) (s : State) : Out :=
  vecFloat f (fmtWidth (fmtOf f)) (fun _ => false) (fun s l _ =>
    minMax (fmtOf f) big (s.fA f (fmtOf f) l) (s.fB f (fmtOf f) l) (s.fkeep f (fmtOf f) f.a f.aa f.na l)
      (s.fkeep f (fmtOf f) f.b f.ab f.nb l)) s

/-- VFMIN (R276). -/
def execVfmin (f : InsA) (s : State) : Out := vecMinMax false f s
/-- VFMAX (R276). -/
def execVfmax (f : InsA) (s : State) : Out := vecMinMax true f s

/-- IV of a comparison (R277). -/
def compareFlags (code : Nat) (a b : FpVal) : BitVec 8 :=
  ivFlag (a.isSig || b.isSig || (decide (2 ≤ code) && decide (code ≤ 5) && (a.isNan || b.isNan)))

/-- VFCMP (R277). -/
def execVfcmp (f : InsA) (s : State) : Out :=
  vecDo (lenA f) (fun s =>
    let act := s.wv.activeLane f.g
    let c := fnHi f.fn
    (s.wv.putP act f.d.toNat (fun l => fpCompare c (s.fA f (fmtOf f) l) (s.fB f (fmtOf f) l))).raise
      (flagsOver act (fun l => compareFlags c (s.fA f (fmtOf f) l) (s.fB f (fmtOf f) l)))) s

/-- A value rounded to an integral value of its own format, with no NX (R278). -/
def fpIntegral (fmt mode : Nat) (v : FpVal) : Nat × BitVec 8 :=
  match v with
  | .nan sig => (defaultNan fmt, ivFlag sig)
  | .inf n => (infBits fmt n, 0)
  | .fin n m e => ((fpRound fmt 0 0 false false n (roundGrid mode n 0 m e 0).1 0).1, 0)

/-- VFRND (R278). -/
def execVfrnd (f : InsA) (s : State) : Out :=
  vecFloat f (fmtWidth (fmtOf f)) (fun _ => false) (fun s l _ =>
    fpIntegral (fmtOf f) (s.rmode f false) (s.fA f (fmtOf f) l)) s

/-- The class mask of an encoding (R279). -/
def fpClass (fmt bits : Nat) : Nat :=
  match fpDecode fmt bits with
  | .nan sig => if sig then 2 ^ 8 else 2 ^ 9
  | .inf n => if n then 1 else 2 ^ 7
  | .fin n m _ =>
    if m = 0 then (if n then 2 ^ 3 else 2 ^ 4)
    else if m < 2 ^ (fpShape fmt).2.1 then (if n then 2 ^ 2 else 2 ^ 5)
    else if n then 2 ^ 1 else 2 ^ 6

/-- VFCLASS (R279). -/
def execVfclass (f : InsA) (s : State) : Out :=
  vecFloat f 32 (fun _ => false) (fun s l _ => (fpClass (fmtOf f) (s.fbits f (fmtOf f) f.a false false l), 0)) s

/-- VFMA2: both halves, each rounded once (R275). -/
def execVfma2 (f : InsA) (s : State) : Out :=
  vecFloat f 32 (fun _ => false) (fun s l _ =>
    let fmt := fmtOf f
    let r := fun h =>
      let a := s.fhalf f fmt f.a f.aa f.na l h
      let b := s.fhalf f fmt f.b f.ab f.nb l h
      let c := s.fhalf f fmt f.c false false l h
      fpSumOp fmt (s.rmode f false) 0 s.wv.csr.ftz [(a, b)] [c] [a, b, c]
    ((r 0).1 + 2 ^ 16 * (r 1).1, (r 0).2 ||| (r 1).2)) s

/-- VFDOT2: one exact sum in FP32 (R275). -/
def execVfdot2 (f : InsA) (s : State) : Out :=
  vecFloat f 32 (fun _ => false) (fun s l _ =>
    let fmt := fnHi f.fn
    let a := s.fhalf f fmt f.a f.aa f.na l
    let b := s.fhalf f fmt f.b f.ab f.nb l
    let c := s.fC f 2 l
    fpSumOp 2 (s.rmode f false) 0 s.wv.csr.ftz [(a 0, b 0), (a 1, b 1)] [c] [a 0, a 1, b 0, b 1, c]) s

/-- A value times a power of two; powers beyond every format are cut, which changes no result (R275). -/
def fpScale (v : FpVal) (b : Int) : FpVal :=
  match v with
  | .fin n m e => .fin n m (e + max (-5000) (min 5000 b))
  | v => v

/-- VFLDEXP (R275). -/
def execVfldexp (f : InsA) (s : State) : Out :=
  vecFloat f (fmtWidth (fmtOf f)) (fun _ => false) (fun s l _ =>
    let a := s.fA f (fmtOf f) l
    let r := fpFinish (fmtOf f) (s.rmode f false) 0 s.wv.csr.ftz false (fpScale a (valOf true 32 (s.src f.lit (.bits 32) f.b l)))
    (r.1, r.2 ||| ivFlag a.isSig)) s

/-! ## VCVT (R280) -/

/-- A value converted to a floating format: infinities into the 8-bit formats as R280 lays down. -/
def cvtFloat (fmt mode r : Nat) (ftz satf : Bool) (v : FpVal) : Nat × BitVec 8 :=
  match v with
  | .nan sig => (defaultNan fmt, ivFlag sig)
  | .inf n =>
    if fmt = 4 ∨ (fmt = 5 ∧ satf = true) then
      if satf then (n.toNat * signBit fmt + maxBits fmt, flSAT ||| flNX) else (0x7F, flIV)
    else (infBits fmt n, 0)
  | .fin n m e => fpRound fmt mode r ftz satf n m e

/-- A value converted to a 32-bit integer (R280). -/
def cvtInt (signed : Bool) (mode : Nat) (v : FpVal) : Nat × BitVec 8 :=
  match v with
  | .nan _ => (0, flIV)
  | .inf n => (wrapTo 32 (if n then intMin signed 32 else intMax signed 32), flIV)
  | .fin n m e =>
    let r := intRound mode 0 n m e
    if r.1 < intMin signed 32 ∨ intMax signed 32 < r.1 then (wrapTo 32 (clampInt signed 32 r.1), flIV)
    else (wrapTo 32 r.1, if r.2 then flNX else 0)

/-- VCVT (R280). -/
def execVcvt (f : InsA) (s : State) : Out :=
  let dst := fnLo f.fn
  let from' := fnHi f.fn
  let narrow := dst == 4 || dst == 5
  vecFloat f (regWidth (fmtWidth dst)) (fun s => s.rmode f narrow == 5) (fun s l r =>
    let v := if 6 ≤ from' then
        let x := valOf (from' == 6) 32 (s.src f.lit (.bits 32) f.a l)
        FpVal.fin (decide (x < 0)) x.natAbs 0
      else s.fA f from' l
    if 6 ≤ dst then cvtInt (dst == 6) (s.rmode f narrow) v
    else cvtFloat dst (s.rmode f narrow) r s.wv.csr.ftz f.sat v) s

end Sys2Proof.Machine
end

