-- ==== Sys2Proof/Machine/Frames.lean ====
section
/-! DEFINITION. The register window: CALL, CALLX and RET (R222, R223) and the frame faults (R229). SPILLF and FILLF,
which reach memory, are in SpillFill.lean over the same operations. -/

namespace Sys2Proof.Machine

/-- Codes of R403. -/
def cSpill : Nat := 0x20
def cFill : Nat := 0x21
def cFrameFault : Nat := 0x22

/-- The physical frames of a wave that hold no resident frame. -/
def Window.freeFrames (w : Window) : List Nat :=
  (List.range w.nf).filter (fun i => !(w.place.any (fun p => p.2 == i)))

/-- The window with LINK of a logical frame written (R220). -/
def Window.setLink (w : Window) (f : Nat) (v : BitVec 64) : Window :=
  w.mapFrame (w.phys f) (fun fr => { fr with link := v })

/-- LINK of a logical frame (R220). -/
def Window.link (w : Window) (f : Nat) : BitVec 64 := (w.frame (w.phys f)).link

/-- The call of R222: the checks, a fresh frame, LINK, the window moved up, the PC at the target. -/
def State.call (s : State) (target : VAddr) : State :=
  let w := s.wv.win
  if 4093 < w.cur then s.trapAll cFrameFault 4
  else if w.nf + w.lo < w.cur + 3 then s.trapAll cSpill 0
  else
    let free := w.freeFrames
    let i := free.getD (s.pick free.length) 0
    let s1 := if free.length ≤ 1 then s else s.drawn
    let w1 : Window := { w with place := Map.set w.place (w.cur + 2) i }
    let w2 := w1.setLink (w.cur + 2) ((s.wv.ctl.pc + 8).zeroExtend 64)
    (s1.mapWv (fun v => { v with win := { w2 with cur := w.cur + 1 } })).goto target

/-- CALL (R222). -/
def execCall (f : InsB) (s : State) : Out := guarded f.g (lenB f) (fun s => s.call (branchTarget s f.rel)) s

/-- CALLX (R222). -/
def execCallx (f : InsB) (s : State) : Out :=
  guarded f.g (lenB f) (fun s => s.call (BitVec.ofNat 57 (s.srcU none 64 f.x))) s

/-- Whether a register of a logical frame is scoreboarded (R65). -/
def Wave.frameBusy (w : Wave) (f : Nat) : Bool :=
  w.sb.any (fun e => match e.1 with
    | .v g _ => g == f
    | _ => false)

/-- Whether a logical frame is still being written by a FILLF (R223, R228). -/
def State.frameFilling (s : State) (f : Nat) : Bool :=
  (s.myCore.opsOf s.cur.slot).any (fun o => o.kind == .fill && o.frame == f)

/-- RET (R223). -/
def execRet (f : InsB) (s : State) : Out :=
  guarded f.g (lenB f) (fun s =>
    let w := s.wv.win
    if w.cur = 0 then s.trapAll cFrameFault 3
    else if w.cur - 1 < w.lo then s.trapAll cFill 0
    else if s.frameFilling (w.cur - 1) then s.wait 2
    else
      (s.mapWv (fun v => { v with
        win := { w with place := Map.del w.place (w.cur + 1), cur := w.cur - 1 } })).goto
          ((w.link (w.cur + 1)).truncate 57)) s

end Sys2Proof.Machine
end

