-- ==== Sys2Proof/Machine/Phaser.lean ====
section
/-! DEFINITION. Phaser objects (R331-R336): handles, the fallback record in SPAD, the flip, registrations, and the byte
counts that copies add. -/

namespace Sys2Proof.Machine

/-! ## Handles (R331) -/

/-- What a handle names: a hardware object, or a record in a core's SPAD. -/
inductive PhRef where
  | hardware (cluster obj gen : Nat) (clean : Bool)
  | fallback (core addr : Nat) (clean : Bool)
  deriving DecidableEq, Repr

/-- The parts of a handle; `clean` tells that its zero bits are zero. -/
def phRef (h : Word) : PhRef :=
  let n := h.toNat
  if h.getLsbD 31 then
    .fallback (2048 * bitsOf 28 1 n + 16 * bitsOf 21 7 n + bitsOf 17 4 n) (bitsOf 0 17 n) (bitsOf 29 2 n == 0)
  else .hardware (128 * bitsOf 15 1 n + bitsOf 8 7 n) (bitsOf 0 7 n) (bitsOf 16 8 n) (bitsOf 24 7 n == 0 && bitsOf 7 1 n == 0)

/-- The handle of a hardware object. -/
def phHandle (cluster obj gen : Nat) : Word :=
  BitVec.ofNat 32 (2 ^ 16 * (gen % 256) + 2 ^ 15 * (cluster / 128 % 2) + 2 ^ 8 * (cluster % 128) + obj % 128)

/-- The handle of a fallback record. -/
def fbHandle (core addr : Nat) : Word :=
  BitVec.ofNat 32 (2 ^ 31 + 2 ^ 28 * (core / 2048 % 2) + 2 ^ 21 * (core / 16 % 128) + 2 ^ 17 * (core % 16) + addr % 2 ^ 17)

/-! ## The record (R332) -/

/-- MAGIC of a live record. -/
def phMagic : Nat := 0x00005048

/-- The 64 bytes of a record. -/
def Phaser.record (p : Phaser) : List Byte :=
  leBytes 2 p.phase ++ leBytes 2 p.overrun.toNat ++ leBytes 4 p.narr ++ leBytes 4 p.nsig ++ leBytes 4 p.bytes ++
    leBytes 4 p.exp ++ leBytes 2 p.njoin ++ leBytes 2 p.ndrop ++ leBytes 8 p.cts ++ leBytes 8 p.lts ++
    leBytes 4 (if p.live then phMagic else 0) ++ leBytes 4 p.regs ++ List.replicate 16 0

/-- `n` bytes of a record, as a number. -/
def recordField (bs : List Byte) (i n : Nat) : Nat := leNat ((bs.drop i).take n)

/-- A record's phaser. -/
def phaserOf (bs : List Byte) : Phaser :=
  { live := recordField bs 40 4 == phMagic, gen := 0, grid := 0, regs := recordField bs 44 4, lts := recordField bs 32 8,
    cts := recordField bs 24 8, ndrop := recordField bs 22 2, njoin := recordField bs 20 2, exp := recordField bs 16 4,
    bytes := recordField bs 12 4, nsig := recordField bs 8 4, narr := recordField bs 4 4,
    overrun := recordField bs 2 2 % 2 == 1, phase := recordField bs 0 2 }

/-- A new phaser of a grid (R332, R343). -/
def Phaser.fresh (p : Phaser) (grid : Nat) : Phaser := { Phaser.reset with live := true, gen := p.gen, grid := grid }

/-- A freed object: its GEN rises, from 255 to 1 (R331). -/
def Phaser.freed (p : Phaser) : Phaser := { Phaser.reset with gen := p.gen % 255 + 1 }

/-! ## The flip (R333) -/

/-- Whether the phaser flips. -/
def Phaser.flips (p : Phaser) : Bool :=
  if 0 < p.nsig then decide (p.nsig ≤ p.narr) && decide (p.exp ≤ p.bytes) else decide (0 < p.exp) && decide (p.exp ≤ p.bytes)

/-- A flip. -/
def Phaser.flip (p : Phaser) : Phaser :=
  { p with
    overrun := decide (p.exp < p.bytes), lts := max p.lts p.cts, cts := 0
    nsig := (p.nsig + p.njoin + 2 ^ 32 - p.ndrop) % 2 ^ 32, njoin := 0, ndrop := 0, narr := 0, bytes := 0, exp := 0
    phase := (p.phase + 1) % 2 ^ 16 }

/-- The test that follows an arrival, a drop, a byte add and PHEXP. -/
def Phaser.test (p : Phaser) : Phaser := if p.flips then p.flip else p

/-- A byte count added, with a completion timestamp (R336). -/
def Phaser.addBytes (p : Phaser) (n : Nat) (ts : Option Nat) : Phaser :=
  Phaser.test { p with bytes := (p.bytes + n) % 2 ^ 32, cts := max p.cts (ts.getD 0) }

/-- An arrival with bytes to expect (R346). -/
def Phaser.arrive (p : Phaser) (n pts : Nat) : Phaser :=
  Phaser.test { p with exp := (p.exp + n) % 2 ^ 32, cts := max p.cts pts, narr := (p.narr + 1) % 2 ^ 32 }

/-- A registration joins (R335): the phaser, and SPH. -/
def Phaser.join (p : Phaser) (mode : Nat) : Phaser × Nat :=
  let q := { p with regs := (p.regs + 1) % 2 ^ 32 }
  if mode = 2 then (q, p.phase)
  else if p.narr = 0 then ({ q with nsig := (p.nsig + 1) % 2 ^ 32 }, p.phase)
  else ({ q with njoin := (p.njoin + 1) % 2 ^ 16 }, (p.phase + 1) % 2 ^ 16)

/-- Whether the drop of a registration counts as an arrival (R335). -/
def Phaser.dropArrives (p : Phaser) (r : Registration) : Bool := r.mode != 2 && r.sph == p.phase && p.narr != 0

/-- A registration dropped (R335). -/
def Phaser.drop (p : Phaser) (r : Registration) (pts : Nat) : Phaser :=
  let q := { p with regs := (p.regs + 2 ^ 32 - 1) % 2 ^ 32 }
  if r.mode = 2 then Phaser.test q
  else if p.dropArrives r then
    Phaser.test { q with cts := max p.cts pts, narr := (p.narr + 1) % 2 ^ 32, ndrop := (p.ndrop + 1) % 2 ^ 16 }
  else if r.sph = p.phase then Phaser.test { q with nsig := (p.nsig + 2 ^ 32 - 1) % 2 ^ 32 }
  else Phaser.test { q with ndrop := (p.ndrop + 1) % 2 ^ 16 }

/-! ## Objects in the machine -/

/-- The phaser that a handle names, where it stands. -/
def State.phaserAt (s : State) : PhRef → Phaser
  | .hardware c o _ _ => Map.getD (s.cluster c).phasers o Phaser.reset
  | .fallback k a _ => phaserOf ((s.core k).spad.read a 64)

/-- The state with a phaser rewritten. -/
def State.setPhaser (s : State) (r : PhRef) (p : Phaser) : State :=
  match r with
  | .hardware c o _ _ => s.setCluster c { (s.cluster c) with phasers := Map.set (s.cluster c).phasers o p }
  | .fallback k a _ => s.setCore k { (s.core k) with spad := (s.core k).spad.write a p.record }

/-- Whether a record holds a poisoned word (R170). -/
def State.recordPoisoned (s : State) : PhRef → Bool
  | .hardware _ _ _ _ => false
  | .fallback k a _ => (s.core k).spad.poisoned a 64

/-- Whether a handle is dead for a grid (R331); for an add, which carries no grid, `none` (R336). -/
def State.phDead (s : State) (r : PhRef) (grid : Option Nat) : Bool :=
  let p := s.phaserAt r
  match r with
  | .hardware _ _ g clean => !p.live || p.gen != g || (match grid with
      | some k => !clean || p.grid != k
      | none => false)
  | .fallback _ _ clean => !p.live || (grid.isSome && !clean)

/-- Whether a handle is used outside the place it names (R342): another cluster, or another core. -/
def phRemote (core : Nat) : PhRef → Bool
  | .hardware c _ _ _ => c != clusterOf core
  | .fallback k _ _ => k != core

/-! ## Registrations of a wave (R334) -/

/-- The slot of a wave's registration for a handle. -/
def Wave.regSlot (w : Wave) (h : Word) : Option (Nat × Registration) :=
  w.slots.find? (fun e => e.2.handle == h)

/-- The wave with a registration slot rewritten. -/
def Wave.setReg (w : Wave) (i : Nat) (r : Option Registration) : Wave :=
  { w with slots := match r with
    | some r => Map.set w.slots i r
    | none => Map.del w.slots i }

/-- The lowest free registration slot, of eight. -/
def Wave.freeSlot (w : Wave) : Option Nat := (List.range 8).find? (fun i => (Map.get? w.slots i).isNone)

/-- A wave's registrations dropped as it ends (R334, R360). -/
def State.dropRegs (s : State) (id : WaveId) : State :=
  let w := s.wave id
  let s1 := w.slots.foldl (fun t e =>
    let k := phRef e.2.handle
    if phRemote id.core k || t.phDead k (some w.ident.grid) || t.recordPoisoned k then t
    else t.setPhaser k ((t.phaserAt k).drop e.2 w.pts)) s
  s1.setWave id { (s1.wave id) with slots := [] }

/-! ## Byte counts from copies (R336) -/

/-- A record of class SYNC for an add that is discarded. -/
def State.discardAdd (s : State) (a : ByteAdd) : State := s.logError (dieOf a.core) 4 4 false a.dom (a.core % 2048) 0 0

/-- A byte count on its way to its phaser, at the engine of a cluster whose cores have written the bytes. -/
def State.queueAdd (s : State) (k : Nat) (a : ByteAdd) : State :=
  s.setCluster k { (s.cluster k) with adds := (s.cluster k).adds ++ [a] }

/-- The MSG that carries an add to another cluster: OPX 24, to core 0, ring 0 (R336). -/
def addPacket (a : ByteAdd) (cluster obj gen : Nat) : Packet :=
  let addr := cluster / 128 * 2 ^ 14 + cluster % 128 * 2 ^ 7
  { ty := .msg, port := 0, slice := relaySlice addr, seq := 0, dom := a.dom, key := 0, mark := false, trim := false,
    rpl := false, retry := 0, len := 16, opx := 24, mgrp := 0, mcast := 0, addr := addr, ts := a.ts.getD 0, ld := 0,
    mt2 := false, watch := false, again := false, born := 0
    data := leBytes 16 (obj % 128 + 2 ^ 8 * (gen % 256) + 2 ^ 32 * (a.bytes % 2 ^ 32) + 2 ^ 64 * (a.ts.getD 0 % 2 ^ 64)) }

/-- An add applied at the engine of a cluster, sent on, or discarded (R336). `a.core` is the core whose copy it counts. -/
def State.applyAdd (s : State) (cluster : Nat) (a : ByteAdd) : State :=
  let r := phRef (BitVec.ofNat 32 a.handle)
  match r with
  | .hardware c o g _ =>
    if c = cluster then
      if s.phDead r none then s.discardAdd a else s.setPhaser r ((s.phaserAt r).addBytes a.bytes a.ts)
    else if (s.domOf a.dom).clusters.contains c then s.portQueue (portOf (16 * cluster)) (addPacket a c o g) .byteAdd
    else s.discardAdd a
  | .fallback k _ _ =>
    if k != a.core || s.recordPoisoned r || s.phDead r none then s.discardAdd a
    else s.setPhaser r ((s.phaserAt r).addBytes a.bytes a.ts)

/-- PHASER_BYTE_ADD: add `i` of a cluster reaches its phaser (R336, R333). -/
def execPhaserByteAdd (cluster i : Nat) (s : State) : Out :=
  let c := s.cluster cluster
  .next (match c.adds[i]? with
  | none => s
  | some a => (s.setCluster cluster { c with adds := dropAt c.adds i }).applyAdd cluster a)

end Sys2Proof.Machine
end

