-- ==== Sys2Proof/Machine/Sync.lean ====
section
/-! DEFINITION. The sync group (R341-R355): phasers, BAR, RWAIT and the stream queues; and the descriptor of a ring
(R123, R160), which the network interface reads too. All take the uniform guard. -/

namespace Sys2Proof.Machine

/-- Cause code of SYNC_FAULT (R403). -/
def cSync : Nat := 0x35

/-- A SYNC_FAULT at the instruction (R342). -/
def State.syncFault (s : State) (code : Nat) : State := s.trapAll cSync code

/-- The state with a uniform result written and the wave past the instruction. -/
def State.uniResult (s : State) (f : InsT) (v : Nat) : State := (s.mapWv (fun w => w.putS f.d 32 v)).advance (lenT f)

/-- The handle in operand A. -/
def State.handleA (s : State) (f : InsT) : Word := BitVec.ofNat 32 (s.srcU none 32 f.a)

/-- Whether what R337 releases has completed: package writes and core-scope accesses. -/
def State.syncReleased (s : State) : Bool := s.writesDone && s.coreScopeDone

/-- An instruction that names a phaser: REMOTE before DEAD (R342); a poisoned record halts the wave (R170, R414); a
fallback record is a core-scope access, which an acquiring access holds (R146), and which follows the wave's earlier ones (R153). -/
def State.withPhaser (s : State) (f : InsT) (body : State → Word → PhRef → Phaser → State) : State :=
  let h := s.handleA f
  let r := phRef h
  if phRemote s.cur.core r then s.syncFault 2
  else if h.getLsbD 31 && (s.acquirePending || !s.coreScopeDone) then s.wait 5
  else if s.recordPoisoned r then s.halt 1
  else if s.phDead r (some s.wv.ident.grid) then s.syncFault 1
  else body s h r (s.phaserAt r)

/-- The lowest-numbered free phaser object of a cluster. -/
def Cluster.freePhaser (c : Cluster) : Option Nat :=
  (List.range 128).find? (fun i => !(Map.getD c.phasers i Phaser.reset).live)

/-- PHNEW (R343). -/
def execPhnew (f : InsT) (s : State) : Out :=
  guarded f.g (lenT f) (fun s =>
    let fb := f.fn == 1
    let a := s.srcU none 32 f.a % 2 ^ 17
    let (base, size) := s.spadRange
    if fb && (a % 64 != 0 || decide (size < a + 64)) then s.syncFault 7
    else
      let k := clusterOf s.cur.core
      match (s.cluster k).freePhaser with
      | some i =>
        let p := Phaser.fresh (Map.getD (s.cluster k).phasers i Phaser.reset) s.wv.ident.grid
        (s.setPhaser (.hardware k i p.gen true) p).uniResult f (phHandle k i p.gen).toNat
      | none =>
        if fb then
          if s.acquirePending || !s.coreScopeDone then s.wait 5
          else (s.setPhaser (.fallback s.cur.core (base + a) true) (Phaser.reset.fresh 0)).uniResult f
            (fbHandle s.cur.core (base + a)).toNat
        else s.uniResult f 0) s

/-- PHFREE (R344). -/
def execPhfree (f : InsT) (s : State) : Out :=
  guarded f.g (lenT f) (fun s => s.withPhaser f (fun s h r p =>
    if p.regs ≠ 0 then s.syncFault 6
    else (s.setPhaser r (if h.getLsbD 31 then { p with live := false } else p.freed)).advance (lenT f))) s

/-- PHREG (R345, R334, R335). -/
def execPhreg (f : InsT) (s : State) : Out :=
  guarded f.g (lenT f) (fun s => s.withPhaser f (fun s h r p =>
    match s.wv.freeSlot with
    | none => s.syncFault 4
    | some i =>
      if (s.wv.regSlot h).isSome then s.syncFault 5
      else
        let j := p.join f.fn.toNat
        ((s.setPhaser r j.1).mapWv (fun w => w.setReg i (some ⟨h, f.fn.toNat, j.2⟩))).advance (lenT f))) s

/-- PHDROP (R345, R335). -/
def execPhdrop (f : InsT) (s : State) : Out :=
  guarded f.g (lenT f) (fun s => s.withPhaser f (fun s h r p =>
    match s.wv.regSlot h with
    | none => s.syncFault 3
    | some (i, g) =>
      if p.dropArrives g && !s.syncReleased then s.wait 6
      else ((s.setPhaser r (p.drop g s.wv.pts)).mapWv (fun w => w.setReg i none)).advance (lenT f))) s

/-- PHSIG (R346, R337). -/
def execPhsig (f : InsT) (s : State) : Out :=
  guarded f.g (lenT f) (fun s => s.withPhaser f (fun s h r p =>
    match s.wv.regSlot h with
    | none => s.syncFault 3
    | some (i, g) =>
      if g.mode = 2 then s.syncFault 3
      else if !s.syncReleased || p.phase != g.sph then s.wait 6
      else ((s.setPhaser r (p.arrive (s.srcU none 32 f.b) s.wv.pts)).mapWv (fun w =>
        w.setReg i (some { g with sph := (g.sph + 1) % 2 ^ 16 }))).advance (lenT f))) s

/-- PHEXP (R346). -/
def execPhexp (f : InsT) (s : State) : Out :=
  guarded f.g (lenT f) (fun s => s.withPhaser f (fun s _ r p =>
    (s.setPhaser r (Phaser.test { p with exp := (p.exp + s.srcU none 32 f.b) % 2 ^ 32 })).advance (lenT f))) s

/-- Whether phase `b` is complete (R347). -/
def Phaser.done (p : Phaser) (b : Nat) : Bool :=
  let n := (p.phase + 2 ^ 16 - b % 2 ^ 16) % 2 ^ 16
  decide (1 ≤ n) && decide (n ≤ 32767)

/-- The status word of PHWAIT and PHSW (R347). -/
def phStatus (fb done : Bool) (p : Phaser) : Nat := p.phase + 2 ^ 16 * done.toNat + 2 ^ 17 * p.overrun.toNat + 2 ^ 18 * fb.toNat

/-- The status written, and with the phase complete its observation (R338). -/
def State.observe (s : State) (f : InsT) (fb done : Bool) (p : Phaser) : State :=
  let s1 := s.mapWv (fun w => { w with
    pts := if done then max w.pts p.lts else w.pts
    waits := { w.waits with polls := 0, pollAt := 0 } })
  s1.uniResult f (phStatus fb done p)

/-- The membership that PHWAIT and PHSW need (R342). -/
def Wave.mayWait (w : Wave) (h : Word) : Bool :=
  match w.regSlot h with
  | some (_, g) => g.mode != 1
  | none => false

/-- PHSW (R347). -/
def execPhsw (f : InsT) (s : State) : Out :=
  guarded f.g (lenT f) (fun s => s.withPhaser f (fun s h _ p =>
    if !s.wv.mayWait h then s.syncFault 3
    else s.observe f (h.getLsbD 31) (p.done (s.srcU none 32 f.b)) p)) s

/-- The interval after poll `n` of a fallback record (R340). -/
def pollInterval (n : Nat) : Nat := min 4096 (64 * 2 ^ (n - 1))

/-- PHWAIT (R347): on a fallback handle it polls, at issue and then as FALLBACK_POLL brings it back, 16 times (R340). -/
def execPhwait (f : InsT) (s : State) : Out :=
  guarded f.g (lenT f) (fun s =>
    let w := s.wv
    if w.waits.polls ≠ 0 ∧ s.now < w.waits.pollAt then s.wait 6
    else s.withPhaser f (fun s h _ p =>
      let fb := h.getLsbD 31
      let done := p.done (s.srcU none 32 f.b)
      if !s.wv.mayWait h then s.syncFault 3
      else if done then s.observe f fb true p
      else if !fb then s.wait 6
      else if 15 ≤ w.waits.polls then s.observe f fb false p
      else (s.mapWv (fun w => { w with waits := { w.waits with
        polls := w.waits.polls + 1, pollAt := s.now + pollInterval (w.waits.polls + 1) } })).wait 6)) s

/-- FALLBACK_POLL: a wave whose PHWAIT polls issues it again once the interval has passed (R340). -/
def execFallbackPoll (id : WaveId) (s : State) : Out :=
  let w := s.wave id
  .next (if w.sched.live && w.halt.isNone && !s.stopped w && w.waits.polls != 0 && decide (w.waits.pollAt ≤ s.now) && !s.issuing.contains id then
      { s with issuing := id :: s.issuing }
    else s)

/-! ## BAR (R348) -/

/-- The waves of the block of the wave in hand that count at a barrier: those that have not exited or been halted (R348). -/
def State.barWaves (s : State) : List WaveId :=
  match s.myBlock? with
  | some b => (b.waves.map (fun i => (⟨s.cur.core, i⟩ : WaveId))).filter (fun id => (s.wave id).halt.isNone && !(s.wave id).waits.ending)
  | none => [s.cur]

/-- The barrier's release: every waiting wave stands past its BAR with the ABANDONED status in q0. -/
def State.barRelease (s : State) : State :=
  let bad := match s.myBlock? with
    | some b => b.abandoned
    | none => false
  s.barWaves.foldl (fun t id => t.setWave id (((t.wave id).setQ 0 bad).advance 8 |> fun w =>
    { w with waits := { w.waits with barrier := false, stall := none } })) s

/-- BAR (R348, R152). -/
def execBar (f : InsT) (s : State) : Out :=
  guarded f.g (lenT f) (fun s =>
    if !s.coreScopeDone then s.wait 8
    else
      let s1 := s.mapWv (fun w => { w with waits := { w.waits with barrier := true } })
      if s1.barWaves.all (fun id => (s1.wave id).waits.barrier) then s1.barRelease else s1.wait 8) s

/-! ## Rings (R123, R160, R352) -/

/-- A ring's descriptor (R123). -/
structure Ring where
  entry : Nat
  logn : Nat
  base : Nat
  head : Nat
  tail : Nat
  deriving DecidableEq, Repr

/-- The ring owner of a core: the block whose allocation begins at core address 0 and holds 128 bytes (R160). -/
def Core.ringOwner (c : Core) : Option Block := c.blocks.find? (fun b => b.sb == 0 && decide (128 ≤ b.spad))

/-- A 32-bit word of a core's SPAD. -/
def Core.spadWord (c : Core) (a : Nat) : Nat := leNat (c.spad.read a 4)

/-- The descriptor of a ring, if the ring exists and the descriptor is well-formed (R123, R160). -/
def Core.ring (c : Core) (n : Nat) : Option Ring :=
  match c.ringOwner with
  | none => none
  | some b =>
    let w0 := c.spadWord (16 * n)
    let w1 := c.spadWord (16 * n + 4)
    let w2 := c.spadWord (16 * n + 8)
    let entry := 16 * 2 ^ bitsOf 21 2 w0
    let logn := bitsOf 17 4 w0
    let base := bitsOf 0 17 w0
    let size := 2 ^ logn * entry
    let head := w1 % 2 ^ 17
    let tail := w2 % 2 ^ 17
    if w0.testBit 31 && bitsOf 23 8 w0 == 0 && w1 / 2 ^ 17 == 0 && w2 / 2 ^ 17 == 0 && c.spadWord (16 * n + 12) == 0 &&
        base % size == 0 && decide (base + size ≤ b.spad) && head % 4 == 0 && tail % 4 == 0 &&
        decide (head + 4 ≤ b.spad) && decide (tail + 4 ≤ b.spad) then
      some ⟨entry, logn, base, head, tail⟩
    else none

/-- Whether the descriptor of a ring holds a poisoned word. -/
def Core.ringPoisoned (c : Core) (n : Nat) : Bool := c.ringOwner.isSome && c.spad.poisoned (16 * n) 16

/-- RWAIT (R352): a read at core scope, after the wave's earlier ones (R153). -/
def execRwait (f : InsT) (s : State) : Out :=
  guarded f.g (lenT f) (fun s =>
    let n := s.srcU none 32 f.a % 8
    let c := s.myCore
    if s.acquirePending || !s.coreScopeDone then s.wait 5
    else if c.ringPoisoned n then s.halt 1
    else
      match c.ring n with
      | none => s.syncFault 8
      | some r =>
        if c.spad.poisoned r.tail 4 then s.halt 1
        else
          let t := c.spadWord r.tail
          if t = s.srcU none 32 f.b then s.wait 6
          else (s.mapWv (fun w => { w with pts := max w.pts (c.rt.getD n 0) })).uniResult f t) s

/-! ## Stream queues (R353-R355) -/

/-- A stream queue of a cluster. -/
def Cluster.stream (c : Cluster) (n : Nat) : Stream := Map.getD c.streams n Stream.reset

/-- The state with the entries of a stream queue of the wave's cluster replaced. -/
def State.setEntries (s : State) (n : Nat) (es : List StreamEntry) : State :=
  let k := clusterOf s.cur.core
  let c := s.cluster k
  s.setCluster k { c with streams := Map.set c.streams n { c.stream n with entries := es } }

/-- An instruction that names a stream queue: NOQUEUE where the grid's mask does not hold it (R342, R353). -/
def State.withQueue (s : State) (f : InsT) (body : State → Nat → List StreamEntry → State) : State :=
  let n := s.srcU none 32 f.a % 32
  let mask := match Map.get? s.fe.grids s.wv.ident.grid with
    | some g => g.sqmask
    | none => 0
  if mask.getLsbD n then body s n ((s.cluster (clusterOf s.cur.core)).stream n).entries else s.syncFault 9

/-- An entry appended, after the release of R337 (R355). -/
def State.push (s : State) (f : InsT) (n : Nat) (es : List StreamEntry) (value : Word) (marker : Bool) : State :=
  if !s.syncReleased then s.wait 6
  else if 64 ≤ es.length then s.wait 7
  else (s.setEntries n (es ++ [⟨value, marker, s.wv.pts⟩])).advance (lenT f)

/-- QPUSH (R355). -/
def execQpush (f : InsT) (s : State) : Out :=
  guarded f.g (lenT f) (fun s => s.withQueue f (fun s n es => s.push f n es (BitVec.ofNat 32 (s.srcU none 32 f.b)) false)) s

/-- QMARK (R355). -/
def execQmark (f : InsT) (s : State) : Out :=
  guarded f.g (lenT f) (fun s => s.withQueue f (fun s n es => s.push f n es (BitVec.ofNat 32 (s.srcU none 32 f.b % 8)) true)) s

/-- QPOP (R355). -/
def execQpop (f : InsT) (s : State) : Out :=
  guarded f.g (lenT f) (fun s => s.withQueue f (fun s n es =>
    match es with
    | [] => s.wait 7
    | e :: rest =>
      ((s.setEntries n rest).mapWv (fun w =>
        { (w.setQ f.c.toNat e.marker) with pts := max w.pts e.ts })).uniResult f e.value.toNat)) s

/-- QSTAT (R355). -/
def execQstat (f : InsT) (s : State) : Out :=
  guarded f.g (lenT f) (fun s => s.withQueue f (fun s _ es =>
    let head := match es with
      | e :: _ => if e.marker then 2 ^ 7 + 2 ^ 8 * (e.value.toNat % 8) else 0
      | [] => 0
    s.uniResult f (es.length + head))) s

end Sys2Proof.Machine
end

