-- ==== Sys2Proof/Machine/Gangs.lean ====
section
/-! DEFINITION. Gangs and bonds: their shape and their cores (R16, R17, R292, R293), the lease (R297, R312), and the
activation runs of ABUF (R295). -/

namespace Sys2Proof.Machine

/-- The cluster across the seam from one (R16, R17). -/
def seamPartner (cluster : Nat) : Nat := if cluster < 128 then cluster + 121 else cluster - 121

/-- The cores of a bond in the order of its positions, rows first (R16, R17, R292): the origin is core `origin` of cluster
`home`. -/
def shapeCores (home origin rlog clog : Nat) (seam : Bool) : List Nat :=
  let at' := fun (r c : Nat) =>
    if c < 4 ∨ !seam then 16 * home + 4 * (origin / 4 + r) + origin % 4 + c
    else 16 * seamPartner home + 4 * (origin / 4 + r) + (c - 4)
  (List.range (2 ^ rlog)).flatMap (fun r => (List.range (2 ^ clog * if seam then 2 else 1)).map (at' r))

/-- The rows of a gang. -/
def Gang.rows (g : Gang) : Nat := 2 ^ g.rlog

/-- The columns of a gang (R300). -/
def Gang.cols (g : Gang) : Nat := 2 ^ g.clog * if g.seam then 2 else 1

/-- The core at a bond position (R292). -/
def Gang.coreAt (g : Gang) (r c : Nat) : Nat := g.cores.getD (r * g.cols + c) 0

/-- The west column (R293). -/
def Gang.west (g : Gang) : List Nat := (List.range g.rows).map (fun r => g.coreAt r 0)

/-- The south row (R293). -/
def Gang.south (g : Gang) : List Nat := (List.range g.cols).map (fun c => g.coreAt (g.rows - 1) c)

/-- The home cluster (R292). -/
def Gang.home (g : Gang) : Nat := clusterOf (g.coreAt 0 0)

/-- The gang of a block. -/
def State.gangOf (s : State) (b : Block) : Option Gang :=
  match b.gang with
  | some n => Map.get? s.gangs n
  | none => none

/-- The block of a wave slot. -/
def State.blockAt (s : State) (id : WaveId) : Option Block := (s.core id.core).blockOf? (s.wave id)

/-- The gang of a wave slot. -/
def State.gangAt (s : State) (id : WaveId) : Option Gang :=
  match s.blockAt id with
  | some b => s.gangOf b
  | none => none

/-- The cluster whose residency table a wave's handles name (R299): the home of its bond, or its own. -/
def State.tableOf (s : State) (id : WaveId) : Nat :=
  match s.gangAt id with
  | some g => g.home
  | none => clusterOf id.core

/-- The state with a gang changed. -/
def State.mapGang (s : State) (n : Nat) (f : Gang → Gang) : State :=
  match Map.get? s.gangs n with
  | some g => { s with gangs := Map.set s.gangs n (f g) }
  | none => s

/-- A block leaves its gang, by UNBOND or by retiring: the lease ends, or is never granted (R312). -/
def State.leaveGang (s : State) (core : Nat) (b : Block) : State :=
  match b.gang with
  | some n => (s.setCore core ((s.core core).mapBlock b.grid b.b (fun x => { x with left := true }))).mapGang n
      (fun g => { g with lease := false, barred := true })
  | none => s

/-! ## Activation runs (R295) -/

/-- Bytes of a K-unit (R290). -/
def bytesPerUnit (fmt : Nat) : Nat := if fmt = 3 ∨ fmt = 4 then 2 else 1

/-- RL: the bytes of a row of the run of an MLOOP with W1 `w1` on a bond of `rows` rows. -/
def runRow (w1 rows : Nat) : Nat := 32 * rows * (w1 / 2 ^ 15 % 64) * bytesPerUnit (w1 / 2 ^ 21 % 8)

/-- The slots of the run. -/
def runSlots (w1 rows : Nat) : List Nat :=
  (List.range ((32 * runRow w1 rows + 2047) / 2048)).map (fun i => w1 % 32 + i)

end Sys2Proof.Machine
end

