-- ==== Sys2Proof/Machine/Network.lean ====
section
/-! DEFINITION. The butterflies (R98-R100): packets on the wires between switch outputs, trimming and marking at an
output (R109, R110), a network cycle of a link (R100), and the fork of multicast replies with their residue copies
(R120). -/

namespace Sys2Proof.Machine

/-- A 48-bit counter after one event (R127). -/
def bump48 (n : Nat) : Nat := (n + 1) % 2 ^ 48

/-- The payload flits of a packet (R101). -/
def Packet.flits (p : Packet) : Nat := (p.data.length + 15) / 16

/-- A packet with its payload cut off (R110). -/
def Packet.trimmed (p : Packet) : Packet := { p with trim := true, data := [] }

/-- Whether a packet crosses the request butterfly (R104). -/
def PType.isRequest : PType → Bool
  | .rd | .wr | .atom | .red | .msg | .cprdm | .wack | .mack | .mnak | .migrate | .release => true
  | .rdata | .wdone | .ares | .pull | .redirect | .mdata | .winv | .msgd | .mdone => false

/-- The flits in a payload queue. -/
def queueFlits (q : List Flight) : Nat := (q.map (fun f => f.pkt.flits)).foldl (· + ·) 0

/-- The payload flits that an output's queue still holds: the link may have carried part of its first packet. -/
def SwitchOut.load (o : SwitchOut) : Nat := queueFlits o.queue - (o.done - 1)

/-- A switch output or seam lane. -/
def State.out (s : State) (k : Nat) : SwitchOut := Map.getD s.net.outs k SwitchOut.reset

/-- The state with a switch output replaced. -/
def State.setOut (s : State) (k : Nat) (o : SwitchOut) : State :=
  { s with net := { s.net with outs := Map.set s.net.outs k o } }

/-- The state with the packets on the wires replaced. -/
def State.setWires (s : State) (w : List Flight) : State := { s with net := { s.net with wires := w } }

/-- Two untrimmed requests of one port to one slice, which keep their order (R98, R116). -/
def sameFlow (a b : Packet) : Bool :=
  a.ty.isRequest && b.ty.isRequest && a.port == b.port && a.slice == b.slice && !a.trim && !b.trim

/-- A packet entering an output (R109, R110): into the payload queue if its payload fits, with a mark where the queue
holds 24 flits or more; its header alone into the header lane if not. A request without payload enters the payload
queue only behind requests that it may not pass (R116). -/
def SwitchOut.enqueue (o : SwitchOut) (f : Flight) : SwitchOut :=
  let p := f.pkt
  if p.data.isEmpty then
    if o.queue.any (fun g => sameFlow g.pkt p) then { o with queue := o.queue ++ [f] }
    else { o with header := o.header ++ [f] }
  else if o.load + p.flits ≤ 64 then
    let hot := decide (24 ≤ o.load)
    { o with queue := o.queue ++ [{ f with pkt := { p with mark := p.mark || hot } }]
             marks := if hot then bump48 o.marks else o.marks }
  else { o with header := o.header ++ [{ f with pkt := p.trimmed }], trims := bump48 o.trims }

/-- Whether a packet on a wire must let another pass first: a link brings its packets in the order in which they
entered it (R98, R130). -/
def wireBehind (g f : Flight) : Bool :=
  if f.last = 0 then
    g.last == 0 && f.pkt.dom == g.pkt.dom && f.pkt.ty.isRequest == g.pkt.ty.isRequest &&
      (if f.pkt.ty.isRequest then f.pkt.port == g.pkt.port else f.pkt.slice == g.pkt.slice)
  else g.last == f.last

/-! ## Arrival at a slice or a port (R104, R110) -/

/-- Whether a slice belongs to a domain (R128). -/
def Dom.ownsSlice (d : Dom) (slice : Nat) : Bool :=
  (d.plan.spanning || slice / 256 == d.plan.die) && decide (256 * d.plan.k / d.plan.n ≤ slice % 256) &&
    decide (slice % 256 < 256 * (d.plan.k + 1) / d.plan.n)

/-- Whether a port takes a domain's packets: a service port any domain's (R130). -/
def Dom.ownsPort (d : Dom) (port : Nat) : Bool :=
  decide (512 ≤ port) || d.clusters.contains (128 * (port / 256) + port % 256 / 2)

/-- A packet that a unit discards, with its record of class NETWORK (R104); reason code 0, since no code is given. -/
def State.discardPacket (s : State) (die unit dom : Nat) : State := s.logError die 3 4 false dom unit 0 0

/-- The payload flits that wait at a slice's input. -/
def Slice.inputFlits (x : Slice) : Nat := (x.inbox.map Packet.flits).foldl (· + ·) 0

/-- A packet arriving at a slice: its input holds 64 flits of payload, as a switch output does (R110). -/
def State.arriveSlice (s : State) (p : Packet) : State :=
  let x := s.slice p.slice
  if !(match s.dom? p.dom with
      | some d => d.ownsSlice p.slice
      | none => false) then s.discardPacket (p.slice / 256) (p.slice % 256) p.dom
  else if p.data.isEmpty || decide (x.inputFlits + p.flits ≤ 64) then
    s.setSlice p.slice { x with inbox := x.inbox ++ [p] }
  else s.setSlice p.slice { x with inbox := x.inbox ++ [p.trimmed], cnt := { x.cnt with trims := bump48 x.cnt.trims } }

/-- A packet arriving at a port. -/
def State.arrivePort (s : State) (port : Nat) (p : Packet) : State :=
  if !(match s.dom? p.dom with
      | some d => d.ownsPort port
      | none => false) then s.discardPacket (portDie port) (port % 512) p.dom
  else
    let x := s.port port
    s.setPort port { x with inbox := x.inbox ++ [p] }

/-- The outputs still ahead of a copy of an MDATA on its way to one port. -/
def Flight.ahead (d : Dom) (f : Flight) (port : Nat) : List Nat := (replyPath d f.pkt.slice port).drop f.path.length

/-- Whether a copy of an MDATA has passed its last output. -/
def Flight.arrived (d : Dom) (f : Flight) : Bool := f.targets.all (fun t => (f.ahead d t).isEmpty)

/-! ## Multicast (R120) -/

/-- The stage of an output: 5 is a seam lane. -/
def outStage (k : Nat) : Nat := k / 256 % 8

/-- Whether an output belongs to a domain's sub-butterfly (R128-R130). -/
def Dom.ownsOut (d : Dom) (k : Nat) : Bool :=
  let width := if outStage k = 5 then 16 else 256
  (d.plan.spanning || (k / 2048 % 2 == d.plan.die && outStage k != 5)) && decide (width * d.plan.k / d.plan.n ≤ k % 256) &&
    decide (k % 256 < width * (d.plan.k + 1) / d.plan.n)

/-- The switch of the reply network whose output is `k`, for a packet that came by `last` (R98): the outputs of a radix-4
switch differ in the two bits of the line that its stage replaces; a seam lane belongs to the die-select switch of the line
before it. -/
def replySwitch (last k : Nat) : Nat :=
  let st := outStage k
  if st = 5 then switchId 1 (k / 2048 % 2) 0 (last % 256)
  else if st = 0 then k
  else k - (k % 256 &&& (stageMask 1 st - stageMask 1 (st - 1)))

/-- The number of a reply switch's residue buffer: each domain has its own (R130). -/
def residueKey (last k dom : Nat) : Nat := 16 * replySwitch last k + dom

/-- A residue buffer. -/
def State.residue (s : State) (sw : Nat) : ResidueBuf := Map.getD s.net.residues sw ResidueBuf.reset

/-- The state with a residue buffer replaced. -/
def State.setResidue (s : State) (sw : Nat) (b : ResidueBuf) : State :=
  { s with net := { s.net with residues := Map.set s.net.residues sw b } }

/-- A multicast copy that takes an output. -/
def Flight.through (f : Flight) (k : Nat) (pkt : Packet) : Flight :=
  { f with pkt := pkt, last := k, path := f.path ++ [k] }

/-- The next outputs of a copy's targets, each with the targets behind it. -/
def forkOutputs (d : Dom) (f : Flight) : List (Nat × List Nat) :=
  let ks := (f.targets.filterMap (fun t => (f.ahead d t).head?)).eraseDups
  ks.map (fun k => (k, f.targets.filter (fun t => (f.ahead d t).head? == some k)))

/-- One branch of a fork: the copy is sent down it if it has room; otherwise it becomes a residue copy, or with 16 in
the switch's buffer is trimmed at once. A copy already trimmed, and a header without payload, go on as headers. -/
def State.forkBranch (s : State) (f : Flight) (b : Nat × List Nat) : State :=
  let g : Flight := { f with targets := b.2 }
  let k := b.1
  let o := s.out k
  let sw := residueKey f.last k f.pkt.dom
  let buf := s.residue sw
  if !(s.domOf f.pkt.dom).ownsOut k then s.discardPacket (k / 2048 % 2) (k % 2048) f.pkt.dom
  else if f.pkt.data.isEmpty || decide (o.load + f.pkt.flits ≤ 64) then s.setOut k (o.enqueue (g.through k f.pkt))
  else if buf.held.length < 16 then s.setResidue sw { buf with held := buf.held ++ [(g, k, s.netNow)] }
  else
    (s.setOut k (o.enqueue (g.through k f.pkt.trimmed))).setResidue sw { buf with restrims := bump48 buf.restrims }

/-- The fork of a multicast packet at a reply switch. -/
def State.fork (s : State) (f : Flight) : State := (forkOutputs (s.domOf f.pkt.dom) f).foldl (fun t b => t.forkBranch f b) s

/-- SWITCH_OUTPUT_ENQUEUE: the packet that is number `i` on the wires reaches the next output on its path, or its slice
or port; an output of another domain discards it (R104). A packet behind another of its link that it may not pass stays
where it is; so does an MDATA that a reply switch must fork (R120). A WINV, a header without payload, forks at once. -/
def execSwitchOutputEnqueue (i : Nat) (s : State) : Out :=
  .next (match s.net.wires[i]? with
  | none => s
  | some f =>
    if (s.net.wires.take i).any (fun g => wireBehind g f) then s
    else
      let s1 := s.setWires (dropAt s.net.wires i)
      if f.pkt.ty == .mdata || f.pkt.ty == .winv then
        if f.arrived (s.domOf f.pkt.dom) then
          f.targets.foldl (fun t p => t.arrivePort p (if f.pkt.ty == .winv then { f.pkt with port := p } else f.pkt)) s1
        else if f.pkt.ty == .winv then s1.fork f
        else s
      else
        match f.path with
        | k :: rest =>
          if (s.domOf f.pkt.dom).ownsOut k then s1.setOut k ((s1.out k).enqueue { f with last := k, path := rest })
          else s1.discardPacket (k / 2048 % 2) (k % 2048) f.pkt.dom
        | [] => if f.pkt.ty.isRequest then s1.arriveSlice f.pkt else s1.arrivePort f.pkt.port f.pkt)

/-- REPLY_SWITCH_MDATA: the MDATA that is number `i` on the wires reaches a reply switch, which forks it (R120). -/
def execReplySwitchMdata (i : Nat) (s : State) : Out :=
  .next (match s.net.wires[i]? with
  | none => s
  | some f =>
    if f.pkt.ty != .mdata || f.arrived (s.domOf f.pkt.dom) || (s.net.wires.take i).any (fun g => wireBehind g f) then s
    else (s.setWires (dropAt s.net.wires i)).fork f)

/-! ## Links (R99, R100) -/

/-- The packets of a payload queue whose last flit a link carries in `n` flits, with `done` flits of the first carried
before; what stays, and how much of its first packet has gone. -/
def carry (n done : Nat) : List Flight → List Flight × List Flight × Nat
  | [] => ([], [], 0)
  | f :: q =>
    let need := 1 + f.pkt.flits - done
    if need ≤ n then
      let r := carry (n - need) 0 q
      (f :: r.1, r.2)
    else ([], f :: q, done + n)

/-- What a link of `n` flits a network cycle takes from an output: header-lane packets first, one flit each, and from the
payload queue with what they leave (R99, R100). -/
def SwitchOut.carried (o : SwitchOut) (n : Nat) : SwitchOut × List Flight :=
  let h := o.header.take n
  let r := carry (n - h.length) o.done o.queue
  ({ o with header := o.header.drop n, queue := r.2.1, done := r.2.2 }, h ++ r.1)

/-- The residue copies of a buffer that wait for output `k`, have waited less than 256 network cycles and now find room,
sent in full (R120). -/
def admitResidue (k now : Nat) : List (Flight × Nat × Nat) → SwitchOut → List (Flight × Nat × Nat) × SwitchOut
  | [], o => ([], o)
  | (f, j, t) :: rest, o =>
    if j = k ∧ o.load + f.pkt.flits ≤ 64 ∧ now < t + 256 then admitResidue k now rest (o.enqueue (f.through k f.pkt))
    else
      let r := admitResidue k now rest o
      ((f, j, t) :: r.1, r.2)

/-- The residue buffers whose copies wait for an output. -/
def State.waitingSwitches (s : State) (k : Nat) : List Nat :=
  (s.net.residues.filter (fun e => e.2.held.any (fun h => h.2.1 == k))).map (fun e => e.1)

/-- SWITCH_OUTPUT_LINK_SLOT: one network cycle of an output's link: 8 flits, or 2 on a seam lane; the header lane
first, then the payload queue (R99, R100); then residue copies that wait for the output enter it (R120). -/
def execSwitchOutputLinkSlot (k : Nat) (s : State) : Out :=
  let r := (s.out k).carried (if outStage k = 5 then 2 else 8)
  let s1 := (s.setOut k r.1).setWires (s.net.wires ++ r.2)
  .next ((s1.waitingSwitches k).foldl (fun t sw =>
    let r := admitResidue k s.netNow (t.residue sw).held (t.out k)
    (t.setResidue sw { t.residue sw with held := r.1 }).setOut k r.2) s1)

/-- RESIDUE_TIMEOUT: copy `i` of a residue buffer has waited 256 network cycles and goes on as a header (R120). -/
def execResidueTimeout (sw i : Nat) (s : State) : Out :=
  let b := s.residue sw
  .next (match b.held[i]? with
  | none => s
  | some (f, k, t) =>
    if t + 256 ≤ s.netNow then
      (s.setResidue sw { b with held := dropAt b.held i, restrims := bump48 b.restrims }).setOut k
        ((s.out k).enqueue (f.through k f.pkt.trimmed))
    else s)

end Sys2Proof.Machine
end

