-- ==== Sys2Proof/Machine/Slices.lean ====
section
/-! DEFINITION. What an L2 slice does with the packets at its input: holes, waiting payloads and PULLs (R112-R117), the
accesses themselves (R135), exactly-once atomics (R118), multicast reads (R119), messages on their way to a ring
(R122-R126), watch acknowledgements (R96), and migration (R85-R88). -/

namespace Sys2Proof.Machine

/-! ## Order of one port's requests to one line (R116) -/

/-- Whether two requests of one port stand in one order: to one line, or messages to one ring (R116, R126). -/
def sameTarget (a b : Packet) : Bool :=
  a.port == b.port && (a.ty == .msg) == (b.ty == .msg) &&
    (if a.ty == .msg then a.addr % 2 ^ 15 == b.addr % 2 ^ 15 else a.addr / 128 == b.addr / 128)

/-- Whether sequence number `a` precedes `b` (R106). -/
def seqBefore (a b : Nat) : Bool :=
  let n := (b + 1024 - a) % 1024
  decide (0 < n) && decide (n < 512)

/-- Whether a request must wait at its slice: for a hole, or for an earlier request that itself waits (R116). -/
def Slice.behind (x : Slice) (p : Packet) : Bool :=
  x.holes.any (fun h => sameTarget h.pkt p && seqBefore h.pkt.seq p.seq) ||
    x.waiting.any (fun w => sameTarget w p && seqBefore w.seq p.seq)

/-- The hole that a re-sent payload fills. -/
def Slice.holeOf (x : Slice) (p : Packet) : Option Hole :=
  x.holes.find? (fun h => h.pkt.port == p.port && h.pkt.seq == p.seq && sameTarget h.pkt p)

/-- The slice with a hole for a trimmed header: a new one, or the one that the header's packet already has (R112). -/
def Slice.openHole (x : Slice) (p : Packet) : Slice :=
  match x.holeOf p with
  | some _ => { x with holes := x.holes.map (fun h =>
      if h.pkt.port == p.port && h.pkt.seq == p.seq && sameTarget h.pkt p then ⟨p, false⟩ else h) }
  | none => { x with holes := x.holes ++ [⟨p, false⟩], cnt := { x.cnt with holes := bump48 x.cnt.holes } }

/-- The slice with a request that must wait: in the wait buffer of 64, or trimmed by the slice itself (R117). -/
def Slice.park (x : Slice) (p : Packet) : Slice :=
  if x.waiting.length < 64 then { x with waiting := x.waiting ++ [p], cnt := { x.cnt with waits := bump48 x.cnt.waits } }
  else ({ x with cnt := { x.cnt with trims := bump48 x.cnt.trims } }).openHole p.trimmed

/-! ## Replies -/

/-- A reply to a packet, with its mark (R109). -/
def Packet.answer (p : Packet) (ty : PType) (opx ts ld : Nat) (data : List Byte) : Packet :=
  { p with ty := ty, trim := false, rpl := false, again := false, watch := false, retry := 0, opx := opx, mgrp := 0, mcast := 0, ts := ts, ld := ld,
           data := data }

/-- The result kept for a replay (R118). -/
def Slice.cached (x : Slice) (p : Packet) : Option CachedResult :=
  x.results.find? (fun r => r.port == p.port && r.seq == p.seq)

/-- The slice with an atomic's result kept: the last 64 of each port (R118). -/
def Slice.keepResult (x : Slice) (r : CachedResult) : Slice :=
  let mine := x.results.filter (fun v => v.port == r.port && v.seq != r.seq)
  let others := x.results.filter (fun v => v.port != r.port)
  { x with results := others ++ mine.drop (mine.length - 63) ++ [r] }

/-- A replay answered from the result cache (R118). -/
def State.replay (s : State) (p : Packet) (r : CachedResult) : State := s.sendReply (p.answer .ares r.opx r.ts 0 r.result)

/-! ## Multicast reads (R119) -/

/-- A 16-bit mask without the clusters outside a domain, and whether it named one. -/
def clearMask (d : Dom) (grp mask : Nat) : Nat × Bool :=
  let ok := fun i => d.clusters.contains (128 * (grp / 8) + 16 * (grp % 8) + i)
  ((List.range 16).foldl (fun m i => if mask.testBit i && ok i then m + 2 ^ i else m) 0,
    (List.range 16).any (fun i => mask.testBit i && !ok i))

/-- The ports of the clusters that a group and mask name (R119). -/
def mdataPorts (grp mask : Nat) : List Nat :=
  ((List.range 16).filter (fun i => mask.testBit i)).map (fun i => 256 * (grp / 8) + 2 * (16 * (grp % 8) + i))

/-- An MDATA sent towards some ports. -/
def State.sendMulticast (s : State) (p : Packet) (ports : List Nat) : State :=
  { s with net := { s.net with wires := s.net.wires ++ [⟨{ p with born := s.now }, 0, [], ports⟩] } }

/-- The MDATA packets of a multicast read: one for each target still named, and one that names none where none would
reach the requesting port. The copy's own fields travel in the packet's `ld`, with what the request's own `ld` held above
them. -/
def State.multicast (s : State) (d : Dom) (p : Packet) (a : HomeAnswer) : State :=
  let w := leNat p.data
  let t0 := clearMask d (w / 2 ^ 16 % 16) (w % 2 ^ 16)
  let t1 := clearMask d (w / 2 ^ 36 % 16) (w / 2 ^ 20 % 2 ^ 16)
  let note := fun (b : Bool) (v : State) => if b then v.discardPacket (p.slice / 256) (p.slice % 256) p.dom else v
  let out := { p.answer .mdata a.opx a.ts (w / 2 ^ 40 + 2 ^ 88 * p.ld) a.data with len := p.len }
  let send := fun (g m : Nat) (v : State) =>
    if m = 0 then v else v.sendMulticast { out with mgrp := g, mcast := m } (mdataPorts g m)
  let s1 := send (w / 2 ^ 36 % 16) t1.1 (send (w / 2 ^ 16 % 16) t0.1 (note t1.2 (note t0.2 s)))
  let reached := (mdataPorts (w / 2 ^ 16 % 16) t0.1 ++ mdataPorts (w / 2 ^ 36 % 16) t1.1).contains p.port
  if reached then s1 else s1.sendMulticast out [p.port]

/-! ## Messages (R122-R126) -/

/-- The MSGD that offers a message to its core's port. -/
def offerPacket (p : Packet) : Packet := { p with ty := .msgd, trim := false, rpl := false, retry := 0, mark := false }

/-- The outcome of a message sent to its sender, with the timestamp of the MSG (R463). -/
def State.msgDone (s : State) (p : Packet) (status : Nat) : State :=
  (s.sendReply (p.answer .mdone status p.ts 0 []))

/-- The slice with one held message changed. -/
def Slice.mapMsg (x : Slice) (i : Nat) (f : HeldMsg → HeldMsg) : Slice := { x with msgs := modAt f x.msgs i }

/-- The place of the first message held for a ring (R126). -/
def Slice.firstFor (x : Slice) (ring : Nat) : Option Nat := x.msgs.findIdx? (fun m => m.pkt.addr % 2 ^ 15 == ring)

/-- A held message offered to its core (R122): its next offer falls 64 network cycles on where it has been refused
(R125), and from this moment otherwise. -/
def State.offer (s : State) (slice i : Nat) : State :=
  let x := s.slice slice
  match x.msgs[i]? with
  | none => s
  | some m =>
    let o := offerPacket m.pkt
    let next := if m.refusedAt.isSome then m.nextOffer + 64 else s.netNow
    (s.setSlice slice (x.mapMsg i (fun m => { m with offered := true, offers := m.offers + 1, nextOffer := next }))).sendReply
      { o with port := portOf (msgCore m.pkt.addr) }

/-- The first message of a ring offered, if it has not been. -/
def State.offerFirst (s : State) (slice ring : Nat) : State :=
  match (s.slice slice).firstFor ring with
  | none => s
  | some i =>
    match (s.slice slice).msgs[i]? with
    | some m => if m.offered || m.offers != 0 then s else s.offer slice i
    | none => s

/-- A message that leaves its slice, with the next of its ring offered (R126). -/
def State.dropMsg (s : State) (slice i ring : Nat) : State :=
  let x := s.slice slice
  (s.setSlice slice { x with msgs := dropAt x.msgs i }).offerFirst slice ring

/-! ## Applying a request (R135) -/

/-- Whether a request changes its line. -/
def PType.writes : PType → Bool
  | .wr | .atom | .red => true
  | _ => false

/-- The new bytes of an atomic or a reduction (R182, R183). -/
def rmwBytes (p : Packet) (old : List Byte) : List Byte :=
  let n := p.len
  let b := leNat p.data
  if p.ty == .red && p.opx == 6 then leBytes n (redFadd n (leNat old) b) else leBytes n (atomNew p.opx n (leNat old) b)

/-- Whether a slice has a place for one more message among its 32, with those whose payload it has asked for (R126,
assumption 112). -/
def Slice.msgRoom (x : Slice) : Bool :=
  decide (x.msgs.length + (x.holes.filter (fun h => h.pkt.ty == .msg && h.pulled)).length < 32)

/-- A write's completion: sent, or held until the WACKs of its WINV have come (R96); the WINV carries the write's timestamp
(R463). -/
def State.complete (s : State) (p : Packet) (a : HomeAnswer) (reply : Packet) : State :=
  if a.watched then s.startWinv p.slice p.dom (p.addr / 128) p.ts (some reply) else s.sendReply reply

/-- The slice without a line read for one access to a page with MT = 2 (R95). -/
def State.dropLoose (s : State) (p : Packet) : State :=
  let x := s.slice p.slice
  if p.mt2 && !x.loose.isEmpty then s.setSlice p.slice { x with loose := x.loose.filter (fun e => e != (p.addr / 128, p.key)) } else s

/-- A request with the key slot under which its home applies it: that of the packet, or for the host interface, which names
none, that of the line (R156, assumption 49). -/
def State.keyed (s : State) (p : Packet) : Packet := if p.port = hostPort then { p with key := s.hostKey p.addr } else p

/-- The highest WTS of a host write, once its home has applied it (R156, R385). -/
def State.noteHost (s : State) (p : Packet) (a : HomeAnswer) : State :=
  if p.port = hostPort ∧ a.opx % 2 = 0 then s.withFe { s.fe with hostTs := max s.fe.hostTs a.ts } else s

/-- A request applied at its slice, in one step, and answered (R135, R118, R119, R122). A residency load's read of a line
sets its watch bit; the line is then kept in its way even where its page has MT = 2, since the bit stands in the way's tag
(R95, R303, assumption 75). -/
def State.applyRequest (s0 : State) (p0 : Packet) : State :=
  let p := s0.keyed p0
  let s := s0.dropLoose p
  let d := s.domOf p.dom
  match p.ty with
  | .rd =>
    let r := s.homeRead d p.key p.addr p.len p.ts (p.mt2 && !p.watch)
    (if p.watch then r.1.watchLine d p.addr else r.1).sendReply
      { p.answer .rdata r.2.opx r.2.ts r.2.ld r.2.data with olds := r.1.recentAt d p.addr p.len }
  | .cprdm =>
    let r := s.homeRead d p.key p.addr p.len p.ts p.mt2
    let b := r.1.engineBytes (r.1.recentAt d p.addr p.len) p.addr p.len p.ts r.2.data
    b.1.multicast d p { r.2 with data := b.2 }
  | .wr =>
    let r := s.homeWrite d p.key p.addr p.len p.ts p.mt2 false (fun _ => p.data) p.cuts
    (r.1.noteHost p r.2).complete p r.2 (p.answer .wdone r.2.opx r.2.ts 0 [])
  | .red =>
    let r := s.homeWrite d p.key p.addr p.len p.ts p.mt2 true (rmwBytes p)
    r.1.complete p r.2 (p.answer .wdone r.2.opx r.2.ts 0 [])
  | .atom =>
    let r := s.homeWrite d p.key p.addr p.len p.ts p.mt2 true (rmwBytes p)
    let x := r.1.slice p.slice
    let s1 := r.1.setSlice p.slice (x.keepResult ⟨p.port, p.seq, r.2.data, r.2.opx, r.2.ts⟩)
    s1.complete p r.2 (p.answer .ares r.2.opx r.2.ts 0 r.2.data)
  | .msg =>
    let x := s.slice p.slice
    (s.setSlice p.slice { x with msgs := x.msgs ++ [⟨p, false, 0, none, 0⟩] }).offerFirst p.slice (p.addr % 2 ^ 15)
  | _ => s

/-- Whether a request would start a WINV operation beyond the 64 that a slice has (R96). -/
def State.winvFull (s : State) (p : Packet) : Bool :=
  p.ty != .msg && s.winvBlocked (s.domOf p.dom) p.addr (p.mt2 && !p.watch) p.ty.writes

/-- Whether a line must first be read from HBM4 for a request (R90, R135): its key slot may be used, no way holds it, and
it has not been read for an access to a page with MT = 2. -/
def State.needsFill (s : State) (p0 : Packet) : Bool :=
  let p := s.keyed p0
  let d := s.domOf p.dom
  let x := s.slice p.slice
  p.ty != .msg && s.keyUsable p.key p.dom && !x.present (d.set p.addr) (p.addr / 128) p.key &&
    !(p.mt2 && !p.watch && x.loose.contains (p.addr / 128, p.key))

/-- The place of the first waiting request that need wait no longer, and that request. -/
def State.nextWaiting (s : State) (slice : Nat) : Option (Nat × Packet) :=
  let x := s.slice slice
  (x.waiting.zipIdx.find? (fun e => !x.behind e.1 && !s.winvFull e.1 &&
    !(e.1.ty == .msg && !x.msgRoom))).map (fun e => (e.2, e.1))

/-- Waiting requests applied in SEQ order while one may be (R116). -/
def State.releaseWaiting (slice : Nat) : Nat → State → State
  | 0, s => s
  | n + 1, s =>
    match s.nextWaiting slice with
    | none => s
    | some (i, p) =>
      let x := s.slice slice
      State.releaseWaiting slice n ((s.setSlice slice { x with waiting := dropAt x.waiting i }).applyRequest p)

/-! ## Migration (R85-R88) -/

/-- The lines of a range that have their home in a slice; a line outside the domain's range has none (R74). -/
def Dom.linesAt (d : Dom) (slice base len : Nat) : List Nat :=
  ((List.range (len / 128)).map (fun i => base / 128 + i)).filter (fun l => d.holds (128 * l) && d.home (128 * l) == slice)

/-- One line of a migrating range copied to its new home (R85, R88): read under the page's key slot, written as a write
of the migration, with its poison, and the WINV of a watched line, whose watch bit is cleared; over a link to a peer's
frame. A line of a fenced slice goes as poison (R437). None where R96, for the WINVs of both homes together, or a full link
make it wait. -/
def State.copyLine (s : State) (d : Dom) (slice : Nat) (m : Migrating) (line : Nat) : Option State :=
  let a := 128 * line
  let b := m.new + (a - m.base)
  let x := s.slice slice
  let w := x.way? (d.set a) line
  let watched := (w.map (fun w => w.watch)).getD false
  let ts := (w.map (fun w => w.rts)).getD x.mts
  let bad := (chunksOf a 128).filter (fun c => s.chunkPoisoned c || s.lineLost d a || x.fenced)
  let bs := s.bytesUnder m.key a 128
  let mapM := fun (t : State) (f : Migrating → Migrating) =>
    let y := t.slice slice
    t.setSlice slice { y with migrating := y.migrating.map (fun v => if v.base == m.base then f v else v) }
  let tell := fun (t : State) =>
    if watched then
      let y := t.slice slice
      (t.setSlice slice (match y.way? (d.set a) line with
        | some w => y.putWay (d.set a) { w with watch := false }
        | none => y)).startWinv slice d.plan.num line ts none
    else t
  if watched && decide (64 ≤ x.winvs.length) then none
  else if b / 2 ^ 50 = 0 then
    if s.winvBlocked d b m.mt2 true ||
        (watched && d.home b == slice && decide (63 ≤ x.winvs.length) && s.winvNeeded d b m.mt2 true) then none
    else
      let s1 := (s.engineWrite d m.key b ts m.mt2 bs).1
      some (tell (s1.withMs { s1.ms with poison := s1.ms.poison ++ bad.map (fun c => b / 64 + (c - a / 64)) }))
  else if !bad.isEmpty then some (mapM s (fun v => { v with failed := true }))
  else if s.linkFull b then none
  else
    let p : Packet := { winvPacket slice 0 d.plan.num ts 0 with
      ty := .wr, port := 0, key := m.key, mgrp := 0, mcast := 0, addr := b, data := bs }
    match s.sendSystem p (.migrate slice m.base) with
    | some s1 => some (tell (mapM s1 (fun v => { v with flying := v.flying + 1 })))
    | none => some (mapM s (fun v => { v with failed := true }))

/-- The drain of a range is over: no hole, waiting request or WACK of it is outstanding (R85). -/
def Slice.drained (x : Slice) (m : Migrating) : Bool :=
  let inside := fun (pa : Nat) => decide (m.base ≤ pa) && decide (pa < m.base + m.len)
  !(x.holes.any (fun h => h.pkt.ty != .msg && inside h.pkt.addr)) && !(x.waiting.any (fun p => p.ty != .msg && inside p.addr)) &&
    !(x.winvs.any (fun w => inside (128 * w.line)))

/-- Lines of a range copied in turn, as far as they can be now; how many are left to a later event. -/
def State.copyLines (d : Dom) (slice : Nat) (m : Migrating) : List Nat → State → State × Nat
  | [], s => (s, 0)
  | l :: ls, s =>
    match s.copyLine d slice m l with
    | some s1 => State.copyLines d slice m ls s1
    | none => (s, ls.length + 1)

/-- The ranges of a slice that have drained copied (R85); under a revoked key slot the migration stays as it is (R88).
`next` counts the lines copied. -/
def State.copyDrained (s : State) (slice dom : Nat) : State :=
  let d := s.domOf dom
  (s.slice slice).migrating.foldl (fun t m =>
    if m.copied || m.failed || (m.next == 0 && !(t.slice slice).drained m) || !t.keyUsable m.key dom then t
    else
      let lines := (d.linesAt slice m.base m.len).drop m.next
      let r := State.copyLines d slice m lines t
      let x := r.1.slice slice
      r.1.setSlice slice { x with migrating := x.migrating.map (fun v =>
        if v.base == m.base then { v with next := m.next + (lines.length - r.2), copied := r.2 == 0 } else v) }) s

/-- Whether a slice's part of a migration is over: every line copied, the peer's answers in, and every WACK of its
lines and of the lines written at their new homes (R85, R96). -/
def State.migrated (s : State) (slice : Nat) (m : Migrating) : Bool :=
  let inside := fun (lo : Nat) (w : WinvOp) => decide (lo ≤ 128 * w.line) && decide (128 * w.line < lo + m.len)
  m.copied && m.flying == 0 && !((s.slice slice).winvs.any (inside m.base)) &&
    !(s.net.slices.any (fun e => e.2.winvs.any (inside m.new)))

/-- A peer's answer to a line written over a link (R85, R445). -/
def State.migrateAnswer (s : State) (slice base : Nat) (bad : Bool) : State :=
  let x := s.slice slice
  s.setSlice slice { x with migrating := x.migrating.map (fun v =>
    if v.base == base then { v with flying := v.flying - 1, failed := v.failed || bad } else v) }

/-- What follows a change at a slice: waiting requests, then drained ranges. -/
def State.settleSlice (s : State) (slice dom : Nat) : State :=
  (State.releaseWaiting slice (s.slice slice).waiting.length s).copyDrained slice dom

/-! ## The input of a slice -/

/-- Whether a packet names a line that its request reads or writes. -/
def PType.touchesLine : PType → Bool
  | .rd | .wr | .atom | .red | .cprdm => true
  | _ => false

/-- Whether an earlier packet at a slice's input holds a packet back: of its port and target with a lower SEQ (R116), or a
request for the same line, or a message for the same ring, that became applicable before it (R126, R141). A packet that
waits for a hole, and a trimmed one, hold no other back. -/
def Slice.inputBlocked (x : Slice) (i : Nat) (p : Packet) : Bool :=
  !p.trim && (x.inbox.take i).any (fun e =>
    (sameTarget e p && seqBefore e.seq p.seq) ||
      (!e.trim && !x.behind e && ((e.ty.touchesLine && p.ty.touchesLine && e.addr / 128 == p.addr / 128) ||
        (e.ty == .msg && p.ty == .msg && e.addr % 2 ^ 15 == p.addr % 2 ^ 15))))

/-- A request that arrives in a range after its drain point (R87). -/
def State.redirect (s : State) (p : Packet) : State :=
  match (if p.ty == .atom && p.rpl then (s.slice p.slice).cached p else none) with
  | some r => s.replay p r
  | none => s.sendReply (p.answer .redirect 0 p.ts 0 [])

/-- A new or trimmed request taken from a slice's input (R107): redirected, replayed, parked, or applied; it stays at the
input while its line is filled, and where R96 makes it wait. A message behind a hole is parked, whatever the slice holds
(assumption 113). -/
def State.takeRequest (s : State) (slice i : Nat) (p : Packet) : State :=
  let x := s.slice slice
  let x1 := { x with inbox := dropAt x.inbox i }
  let x2 := if p.rpl || p.again then { x1 with cnt := { x1.cnt with rereqs := bump48 x1.cnt.rereqs } } else x1
  let hit := if p.ty == .atom && p.rpl then x.cached p else none
  if p.ty != .msg && x.frozen p.addr && (x.holeOf p).isNone then (s.setSlice slice x2).redirect p
  else
    match hit with
    | some r => (s.setSlice slice x2).replay p r
    | none =>
      if p.trim then s.setSlice slice (x2.openHole p)
      else if x.behind p then s.setSlice slice (x2.park p)
      else if p.ty == .msg && !x.msgRoom then s.setSlice slice (x2.openHole p.trimmed)
      else if s.needsFill p then
        let f := (p.addr / 128, (s.keyed p).key, p.mt2 && !p.watch)
        s.setSlice slice { x with fills := if x.fills.contains f then x.fills else x.fills ++ [f] }
      else if s.winvFull p then s
      else ((s.setSlice slice x2).applyRequest p).settleSlice slice p.dom

/-- A request of a type taken from place `i` of a slice's input; a re-sent payload is not taken here (R107). -/
def State.sliceTake (s : State) (slice i : Nat) (ty : PType) : State :=
  let x := s.slice slice
  match x.inbox[i]? with
  | none => s
  | some p =>
    if p.ty != ty || (p.retry != 0 && !p.trim && (x.holeOf p).isSome) || x.inputBlocked i p then s
    else s.takeRequest slice i p

/-- SLICE_RD (R135). -/
def execSliceRd (slice i : Nat) (s : State) : Out := .next (s.sliceTake slice i .rd)

/-- SLICE_WR (R135). -/
def execSliceWr (slice i : Nat) (s : State) : Out := .next (s.sliceTake slice i .wr)

/-- SLICE_ATOM (R118, R135). -/
def execSliceAtom (slice i : Nat) (s : State) : Out := .next (s.sliceTake slice i .atom)

/-- SLICE_RED (R135). -/
def execSliceRed (slice i : Nat) (s : State) : Out := .next (s.sliceTake slice i .red)

/-- SLICE_CPRDM (R119). -/
def execSliceCprdm (slice i : Nat) (s : State) : Out := .next (s.sliceTake slice i .cprdm)

/-- SLICE_MSG (R122, R126). -/
def execSliceMsg (slice i : Nat) (s : State) : Out := .next (s.sliceTake slice i .msg)

/-- SLICE_RESENT_PAYLOAD: a re-sent payload fills its hole; the requests that waited for it follow in SEQ order (R112,
R116). A message that finds 32 held is trimmed again, to be pulled when a place frees (R126). -/
def execSliceResentPayload (slice i : Nat) (s : State) : Out :=
  let x := s.slice slice
  .next (match x.inbox[i]? with
  | none => s
  | some p =>
    if p.retry = 0 || p.trim || (x.holeOf p).isNone || x.inputBlocked i p || s.winvFull p then s
    else
      let x0 := { x with inbox := dropAt x.inbox i, cnt := { x.cnt with rereqs := bump48 x.cnt.rereqs } }
      if p.ty == .msg && decide (32 ≤ x.msgs.length) then s.setSlice slice (x0.openHole p.trimmed)
      else
        let x1 := { x0 with holes := x.holes.filter (fun h => !(h.pkt.port == p.port && h.pkt.seq == p.seq && sameTarget h.pkt p)) }
        let s1 := s.setSlice slice (if x1.behind p then x1.park p else x1)
        (if x1.behind p then s1 else s1.applyRequest p).settleSlice slice p.dom)

/-- The spacing of PULLs for a header re-sent `k` times (R113). -/
def pullSpacing (k : Nat) : Nat := min 1024 (32 * 2 ^ k)

/-- PULL_SEND: the PULL of hole `i` of a slice goes out once its spacing has passed (R113); a message's waits for a
place among the 32 (R126). -/
def execPullSend (slice i : Nat) (s : State) : Out :=
  let x := s.slice slice
  .next (match x.holes[i]? with
  | none => s
  | some h =>
    let due := match Map.get? x.lastPull h.pkt.port with
      | some t => decide (t + pullSpacing h.pkt.retry ≤ s.netNow)
      | none => true
    if h.pulled || !due || (h.pkt.ty == .msg && !x.msgRoom) then s
    else
      (s.setSlice slice { x with
        holes := modAt (fun h => { h with pulled := true }) x.holes i
        lastPull := Map.set x.lastPull h.pkt.port s.netNow
        cnt := { x.cnt with pulls := bump48 x.cnt.pulls } }).sendReply
        { h.pkt.answer .pull 0 h.pkt.ts 0 [] with retry := h.pkt.retry })

/-! ## Acknowledgements -/

/-- The packet of a type at place `i` of a slice's input. -/
def Slice.inboxAs (x : Slice) (i : Nat) (ty : PType) : Option Packet :=
  match x.inbox[i]? with
  | some p => if p.ty == ty then some p else none
  | none => none

/-- SLICE_WACK: a cluster's acknowledgement is counted; after the last the write's completion goes out (R96). -/
def execSliceWack (slice i : Nat) (s : State) : Out :=
  let x := s.slice slice
  .next (match x.inboxAs i .wack with
  | none => s
  | some p =>
    let c := 128 * portDie p.port + p.port % 256 / 2
    let x1 := { x with inbox := dropAt x.inbox i }
    match x.winvs.findIdx? (fun w => w.line == p.addr / 128 && w.clusters.contains c) with
    | none => s.setSlice slice x1
    | some k =>
      let ops := modAt (fun w => { w with clusters := w.clusters.filter (fun v => v != c) }) x.winvs k
      match ops[k]? with
      | none => s
      | some w =>
        if w.clusters.isEmpty then
          let s1 := s.setSlice slice { x1 with winvs := dropAt ops k }
          (match w.reply with
            | some r => s1.sendReply r
            | none => s1).settleSlice slice p.dom
        else s.setSlice slice { x1 with winvs := ops })

/-- A message's answer taken from the input: its place among the held messages. -/
def Slice.offeredFor (x : Slice) (ring : Nat) : Option (Nat × HeldMsg) :=
  (x.msgs.zipIdx.find? (fun e => e.1.offered && e.1.pkt.addr % 2 ^ 15 == ring)).map (fun e => (e.2, e.1))

/-- Whether an offer that an interface answered at core cycle `born` comes too late: 1,024 network cycles after the first
refusal of its message (R125). -/
def HeldMsg.late (m : HeldMsg) (born : Nat) : Bool :=
  match m.refusedAt with
  | some t => decide (t + 1024 ≤ born / 2)
  | none => false

/-- SLICE_MACK: the message has been appended; its sender learns OK (R122), or FULL where the offer was accepted too late
(R125, assumption 105). -/
def execSliceMack (slice i : Nat) (s : State) : Out :=
  let x := s.slice slice
  .next (match x.inboxAs i .mack with
  | none => s
  | some p =>
    let s1 := s.setSlice slice { x with inbox := dropAt x.inbox i }
    match x.offeredFor (p.addr % 2 ^ 15) with
    | none => s1
    | some (k, m) => ((s1.msgDone m.pkt (m.late p.born).toNat).dropMsg slice k (p.addr % 2 ^ 15)).settleSlice slice p.dom)

/-- SLICE_MNAK: a refusal. Reason 0 starts the re-offers of R125, reason 1 paces the next offer, the others end the
message with the status that they name (R124). -/
def execSliceMnak (slice i : Nat) (s : State) : Out :=
  let x := s.slice slice
  .next (match x.inboxAs i .mnak with
  | none => s
  | some p =>
    let x1 := { x with inbox := dropAt x.inbox i }
    match x.offeredFor (p.addr % 2 ^ 15) with
    | none => s.setSlice slice x1
    | some (k, m) =>
      if p.opx = 0 then
        s.setSlice slice (({ x1 with cnt := { x1.cnt with ringfull := bump48 x1.cnt.ringfull } }).mapMsg k (fun m =>
          { m with
            offered := false
            refusedAt := some (m.refusedAt.getD s.netNow)
            nextOffer := if m.refusedAt.isSome then m.nextOffer else s.netNow + 64 }))
      else if p.opx = 1 then
        let pace := pullSpacing (m.offers - 1)
        s.setSlice slice (x1.mapMsg k (fun m =>
          { m with
            offered := false
            nextOffer := if m.refusedAt.isSome then max m.nextOffer (m.nextOffer - 64 + pace) else m.nextOffer + pace }))
      else (((s.setSlice slice x1).msgDone m.pkt p.opx).dropMsg slice k (p.addr % 2 ^ 15)).settleSlice slice p.dom)

/-- MSGD_REOFFER: held message `i` is offered again once its time has come (R124), and not later than 1,024 network cycles
after its first refusal (R125). -/
def execMsgdReoffer (slice i : Nat) (s : State) : Out :=
  .next (match (s.slice slice).msgs[i]? with
  | none => s
  | some m => if !m.offered && m.offers != 0 && decide (m.nextOffer ≤ s.netNow) &&
      (match m.refusedAt with
        | some t => decide (s.netNow < t + 1024)
        | none => true) then s.offer slice i else s)

/-- MSG_OFFER_TIMEOUT: 1,024 network cycles after the first refusal the message is dropped, and its sender learns FULL
(R125); an offer on its way decides first, by the time at which the interface answered it. -/
def execMsgOfferTimeout (slice i : Nat) (s : State) : Out :=
  .next (match (s.slice slice).msgs[i]? with
  | none => s
  | some m =>
    match m.refusedAt with
    | some t =>
      if !m.offered && decide (t + 1024 ≤ s.netNow) then
        ((s.msgDone m.pkt 1).dropMsg slice i (m.pkt.addr % 2 ^ 15)).settleSlice slice m.pkt.dom
      else s
    | none => s)

/-! ## MIGRATE and RELEASE at the old home -/

/-- SLICE_MIGRATE: the slice's drain point for a range (R85). The packet names the range in ADDR; the model carries its
length in `len`, the new place in `ld`, the page's key slot in `key` and whether its MT is 2 in `mt2`. -/
def execSliceMigrate (slice i : Nat) (s : State) : Out :=
  let x := s.slice slice
  .next (match x.inboxAs i .migrate with
  | none => s
  | some p =>
    (s.setSlice slice { x with
      inbox := dropAt x.inbox i
      migrating := x.migrating ++ [⟨p.addr, p.len, p.ld, p.key, 0, 0, false, false, p.mt2⟩] }).copyDrained slice p.dom)

/-- SLICE_RELEASE: the slice drops the range (R85). -/
def execSliceRelease (slice i : Nat) (s : State) : Out :=
  let x := s.slice slice
  .next (match x.inboxAs i .release with
  | none => s
  | some p =>
    let inside := fun (w : Way) => decide (p.addr ≤ 128 * w.line) && decide (128 * w.line < p.addr + p.len)
    s.setSlice slice { x with
      inbox := dropAt x.inbox i
      migrating := x.migrating.filter (fun m => m.base != p.addr)
      sets := x.sets.map (fun e => (e.1, e.2.filter (fun w => !inside w)))
      mts := x.sets.foldl (fun t e => e.2.foldl (fun t w => if inside w then max t w.rts else t) t) x.mts })

/-! ## Fills and scrubbing (R135, R431) -/

/-- Chunks of a line found beyond correction (R431, R464), with a record. -/
def State.lineBad (s : State) (die cls dom unit index : Nat) (cs : List Nat) : State :=
  (s.withMs { s.ms with poison := s.ms.poison ++ cs.filter (fun c => !s.ms.poison.contains c) }).logError die cls 2 false dom unit index 0

/-- HBM_FILL_COMPLETE: a line that a request waits for arrives from HBM4 under the request's key slot (R90, R95, R135); for
a page with MT = 2 it takes no way. The code of HBM4 corrects it, or finds one chunk or both beyond correction (R431):
which of them, no rule fixes. A fill that would evict a watched line waits for a place among the 64 WINVs (R96). -/
def execHbmFillComplete (slice i : Nat) (s : State) : Out :=
  let x := s.slice slice
  .next (match x.fills[i]? with
  | none => s
  | some (line, key, mt2) =>
    let s1 := s.setSlice slice { x with fills := dropAt x.fills i }
    match s.ms.doms.find? (fun e => e.2.holds (128 * line) && e.2.home (128 * line) == slice) with
    | none => s1
    | some (_, d) =>
      if s.winvBlocked d (128 * line) mt2 false then s
      else
        let s2 := (if mt2 then s1.setSlice slice { (s1.slice slice) with loose := (s1.slice slice).loose ++ [(line, key)] }
          else s1.ensureLine d (128 * line) key).drawn
        let unit := slice % 256 / 4
        let bad := s2.lineBad (slice / 256) 2 d.plan.num unit (line % 2 ^ 23)
        match s1.pick 5 with
        | 1 => s2.corrected (slice / 256) 2 0 d.plan.num 2 unit (line % 2 ^ 23)
        | 2 => bad [2 * line]
        | 3 => bad [2 * line + 1]
        | 4 => bad [2 * line, 2 * line + 1]
        | _ => s2)

/-- SLICE_SCRUB: valid line `i` of a slice is scrubbed (R431): found good, corrected (a double error in DEC-TED mode only,
R432), or beyond correction, which poisons one chunk of it or both (R464); each error is recorded with its set and way. An
error beyond correction may be a fault of the slice, which fences it (R437). -/
def execSliceScrub (slice i : Nat) (s : State) : Out :=
  .next (match ((s.slice slice).sets.flatMap (fun e => e.2.map (fun w => (e.1, w))))[i]? with
  | none => s
  | some (set, w) =>
    let dom := ((s.ms.doms.find? (fun e => e.2.ownsSlice slice)).map (fun e => e.1)).getD 0
    let die := slice / 256
    let place := 16 * set + w.way
    let bad := fun (v : State) (cs : List Nat) => v.lineBad die 1 dom (slice % 256) place cs
    match s.pick 7 with
    | 1 => (s.corrected die 1 0 dom 1 (slice % 256) place).drawn
    | 2 => (if (s.slice slice).swept.contains set then s.corrected die 1 1 dom 1 (slice % 256) place else s).drawn
    | 3 => (bad s [2 * w.line]).drawn
    | 4 => (bad s [2 * w.line + 1]).drawn
    | 5 => (bad s [2 * w.line, 2 * w.line + 1]).drawn
    | 6 => (bad (s.setSlice slice { (s.slice slice) with fenced := true }) []).drawn
    | _ => s.drawn)

end Sys2Proof.Machine
end

