-- ==== Sys2Proof/Machine/CopyOps.lean ====
section
/-! DEFINITION. The parts of a tensor copy: the shape record (R191, R192), which byte goes where (R194, R195), the checks
made before any byte moves (R196, R204, R207), chunks landing in a core's memories with their outliers (R206, R207), and
the ends of a copy (R202, R208). -/

namespace Sys2Proof.Machine

/-! ## Shape records (R191, R192) -/

/-- A shape record's fields; EXT and STR of dimensions at or above RANK are not listed. `str` starts at dimension 1. -/
structure Shape where
  esz : Nat
  rank : Nat
  swz : Nat
  fmt : Nat
  base : Nat
  ext : List Nat
  str : List Int
  deriving DecidableEq, Repr

/-- A signed 32-bit field. -/
def signed32 (v : Nat) : Int := if 2 ^ 31 ≤ v then (v : Int) - 2 ^ 32 else v

/-- The fields of a record. -/
def shapeOf (b : BitVec 512) : Shape :=
  let n := b.toNat
  let rank := bitsOf 3 3 n
  { esz := bitsOf 0 3 n, rank := rank, swz := bitsOf 6 3 n, fmt := bitsOf 10 3 n, base := bitsOf 64 57 n
    ext := (List.range rank).map (fun d => bitsOf (128 + 32 * d) 32 n)
    str := (List.range (rank - 1)).map (fun d => signed32 (bitsOf (288 + 32 * d) 32 n)) }

/-- Whether a record's bits are malformed (R192), its own address apart. -/
def shapeBad (b : BitVec 512) : Bool :=
  let n := b.toNat
  let r := shapeOf b
  decide (4 < r.esz) || r.rank == 0 || decide (5 < r.rank) || decide (5 ≤ r.fmt) || bitsOf 416 96 n != 0 ||
    bitsOf 13 51 n != 0 || bitsOf 9 1 n != 0 || bitsOf 121 7 n != 0 || r.base % 2 ^ r.esz != 0 ||
    r.str.any (fun x => x % (2 ^ r.esz : Int) != 0)

/-- N, the bytes that a copy moves (R194). -/
def Shape.bytes (r : Shape) : Nat := 2 ^ r.esz * r.ext.foldl (· * ·) 1

/-- The bytes of one row: a run of dimension 0. -/
def Shape.rowBytes (r : Shape) : Nat := 2 ^ r.esz * r.ext.headD 0

/-- The rows of a copy, each one combination of the indices above dimension 0. -/
def Shape.rows (r : Shape) : Nat := if r.bytes = 0 then 0 else r.ext.tail.foldl (· * ·) 1

/-- The address offset of a row, whose number is taken apart index by index, the lowest dimension first (R194). -/
def rowOffset : Nat → List Nat → List Int → Int
  | _, [], _ => 0
  | _, _, [] => 0
  | n, x :: xs, y :: ys => (n % max 1 x : Nat) * y + rowOffset (n / max 1 x) xs ys

/-- The global address of a row's first element (R194). -/
def Shape.rowBase (r : Shape) (n : Nat) : Nat := wrapTo 57 ((r.base : Int) + rowOffset n r.ext.tail r.str)

/-- The swizzle (R195). -/
def swizzle (z a : Nat) : Nat :=
  if z = 0 then a
  else
    let g := bitsOf 4 z a ^^^ (a / (16 * 2 ^ z) % 2 ^ z)
    a - 16 * bitsOf 4 z a + 16 * g

/-- The bytes of one row in an aligned 64-byte chunk of the global side: place in the chunk, and place in the dense
block. -/
def Shape.rowChunk (r : Shape) (chunk row : Nat) : List (Nat × Nat) :=
  (List.range 64).filterMap (fun j =>
    let o := (chunk + j + 2 ^ 57 - r.rowBase row) % 2 ^ 57
    if o < r.rowBytes then some (j, row * r.rowBytes + o) else none)

/-- All the bytes of a copy in one chunk of the global side. -/
def Shape.chunkBytes (r : Shape) (chunk : Nat) : List (Nat × Nat) := (List.range r.rows).flatMap (fun n => r.rowChunk chunk n)

/-! ## Directions (R190) -/

/-- The direction of an entry; TCOPYM is a .G2A copy. -/
def CopyEntry.dir (e : CopyEntry) : Nat := e.fn % 8

/-- Whether the copy is multicast. -/
def CopyEntry.multi (e : CopyEntry) : Bool := e.op == .tcopym

/-- Whether the copy writes memory (.S2G, .C2G). -/
def CopyEntry.outward (e : CopyEntry) : Bool := !e.multi && (e.dir == 1 || e.dir == 3)

/-- .PH and .OL (R210). -/
def CopyEntry.ph (e : CopyEntry) : Bool := e.fn.testBit 3
def CopyEntry.ol (e : CopyEntry) : Bool := e.fn.testBit 4

/-- The tag, the residency handle and the core masks (R210). -/
def CopyEntry.tag (e : CopyEntry) : Nat := e.w1 % 64
def CopyEntry.hnd (e : CopyEntry) : Nat := bitsOf 40 16 e.w1
def CopyEntry.cmask0 (e : CopyEntry) : Nat := bitsOf 8 16 e.w1
def CopyEntry.cmask1 (e : CopyEntry) : Nat := bitsOf 24 16 e.w1

/-- The record that the copy bound. -/
def CopyEntry.shape (e : CopyEntry) : Shape := shapeOf (e.bound.getD 0)

/-- The virtual address of a block of the copy: a multicast copy names its chunks by their dense places, any other by the
address itself. -/
def CopyEntry.chunkVa (e : CopyEntry) (at' : Nat) : Nat :=
  if e.multi then
    let w := max 1 e.shape.rowBytes
    (e.shape.rowBase (at' / w) + at' % w) % 2 ^ 57
  else at'

/-- The cores that a multicast copy names, from core `core` (R204). -/
def CopyEntry.targets (e : CopyEntry) (core : Nat) : List Nat :=
  let k := clusterOf core
  let pick := fun (k m : Nat) => ((List.range 16).filter (fun i => m.testBit i)).map (fun i => 16 * k + i)
  pick k e.cmask0 ++ pick (seamPartner k) e.cmask1

/-- The bytes that the phaser expects: N, or N for each named core (R206, R208). -/
def CopyEntry.count (e : CopyEntry) (core : Nat) : Nat := e.total * (if e.multi then (e.targets core).length else 1)

/-- The block of an entry on a core. -/
def Core.blockNum (c : Core) (grid num : Nat) : Option Block := c.blocks.find? (fun b => b.grid == grid && b.b == num)

/-! ## Checks before any byte moves -/

/-- The units of a size that a range touches. -/
def unitsTouched (size lo n : Nat) : List Nat :=
  if n = 0 then [] else (List.range ((lo + n - 1) / size - lo / size + 1)).map (fun i => lo / size + i)

/-- Whether a block holds ABUF slots, alone or through its gang (R166). -/
def Core.holdsSlots (c : Core) (b : Block) (slots : List Nat) : Bool :=
  slots.all (fun i => b.amask.getLsbD i ||
    (b.gang.isSome && c.blocks.any (fun x => x.gang == b.gang && x.grid == b.grid && x.amask.getLsbD i)))

/-- N of R196: rounded up to a whole span. -/
def Shape.spanned (r : Shape) : Nat := if r.swz = 0 then r.bytes else (r.bytes + 16 * 2 ^ r.swz - 1) / (16 * 2 ^ r.swz) * (16 * 2 ^ r.swz)

/-- The core side's checks on one core (R196); an empty range must end within the allocation too (assumption 118). -/
def Core.rangeOk (c : Core) (e : CopyEntry) (b : Block) (r : Shape) : Bool :=
  let n := r.spanned
  decide (e.b < 2 ^ (if e.multi || 2 ≤ e.dir then 16 else 17)) && (r.swz == 0 || e.b % (16 * 2 ^ r.swz) == 0) &&
    (if e.multi || e.dir == 2 then c.holdsSlots b (unitsTouched 2048 e.b n)
     else if e.dir == 3 then (unitsTouched 4096 e.b n).all (fun i => b.cmask.getLsbD i)
     else decide (e.b + n ≤ b.spad))

/-- A residency descriptor of a cluster. -/
def Cluster.residency (c : Cluster) (i : Nat) : Residency := Map.getD c.residencies i Residency.reset

/-- Whether a residency handle is dead for a context (R299). -/
def Residency.deadFor (r : Residency) (h : Nat) (ctx : Context) : Bool :=
  r.st == .free || r.gen != h / 256 % 256 || r.dom != ctx.dom || r.key != ctx.key

/-- The outlier list of a residency that a copy names (R207): a handle of another generation names one that is FREE. The
list is read as each chunk lands; R207 does not say when (assumption 83). -/
def outlierList (c : Cluster) (h : Nat) : Option (List Nat) :=
  let r := c.residency (h % 256)
  if r.st == .free || r.gen != h / 256 % 256 || r.st == .revoked then none else some (r.outk.take r.nout)

/-- The first check that a copy fails once its record is bound: RANGE, MCALIGN or OUTLIER (R196, R204, R207). -/
def State.copyCheck (s : State) (core : Nat) (e : CopyEntry) : Option Nat :=
  let r := e.shape
  let c := s.core core
  match c.blockNum e.grid e.block with
  | none => some 0x21
  | some b =>
    let here := !e.multi && c.rangeOk e b r
    let gang := match b.gang with
      | some g => Map.get? s.gangs g
      | none => none
    let there := e.multi && e.targets core != [] && (e.targets core).all (fun k =>
      (match gang with
        | some g => g.cores.contains k && (e.cmask1 == 0 || g.seam)
        | none => false) &&
      (match (s.core k).blocks.find? (fun x => x.gang == b.gang && x.gang.isSome && x.grid == b.grid) with
        | some x => (s.core k).rangeOk e x r
        | none => false))
    if !here && !there then some 0x21
    else if e.multi && (r.base % 64 != 0 || r.rowBytes % 64 != 0 || r.str.any (fun x => x % 64 != 0)) then some 0x24
    else if e.ol && (r.fmt == 0 || r.esz != 0 || decide (65536 < r.ext.headD 0) ||
        (outlierList (s.cluster (clusterOf core)) e.hnd).isNone) then some 0x23
    else none

/-! ## Outliers (R207) -/

/-- The BF16 of an element of FMT 1-4, which is exact (R207). -/
def outlierBf16 (fmt v : Nat) : Nat :=
  match fmt with
  | 1 => (fpFinish 1 0 0 false false (fpDecode 4 v)).1
  | 2 => (fpFinish 1 0 0 false false (fpDecode 5 v)).1
  | 3 =>
    let x := valOf true 8 v
    (fpRound 1 0 0 false false (decide (x < 0)) x.natAbs 0).1
  | _ => (fpRound 1 0 0 false false false v 0).1

/-- The place in the side store of outlier `j` of slot row `row` of a slot (R294). -/
def sidePlace (slot row j : Nat) : Nat := 1024 * slot + 32 * (row % 32) + 2 * j

/-- A core with the outliers of some bytes of one row written: `bytes` gives K index and value. Rows that share a slot row
write one side vector (assumption 116). -/
def Core.sideRow (c : Core) (ks : List Nat) (fmt slot row : Nat) (bytes : List (Nat × Byte)) : Core :=
  { c with sideStore := ks.zipIdx.foldl (fun st k =>
      match bytes.find? (fun e => e.1 == k.1) with
      | some e => st.write (sidePlace slot row k.2) (leBytes 2 (outlierBf16 fmt e.2.toNat))
      | none => st) c.sideStore }

/-- A core with the side vectors of every row of a copy zero, as its entries without an outlier end (R207). -/
def Core.clearSides (c : Core) (e : CopyEntry) (r : Shape) : Core :=
  (List.range r.rows).foldl (fun c n =>
    let slot := (e.b + n * r.rowBytes) / 2048 % 32
    { c with sideStore := c.sideStore.write (sidePlace slot n 0) (List.replicate 32 0) }) c

/-! ## A chunk in the core's memories -/

/-- Single bytes written into a core memory; a word of which every byte is among them loses its poison (R170). -/
def Store.writeEach (st : Store) (bs : List (Nat × Byte)) : Store :=
  let st1 := bs.foldl (fun st b => st.write b.1 [b.2]) st
  { st1 with poison := st1.poison.filter (fun w => !([0, 1, 2, 3].all (fun i => bs.any (fun b => b.1 == 4 * w + i)))) }

/-- Where a byte of the dense block stands on the core side (R194, R195). -/
def CopyEntry.placed (e : CopyEntry) (k : Nat) : Nat := swizzle e.shape.swz (e.b + k)

/-- The bytes of a copy in the aligned 64-byte chunk number `c` of its core side: address and dense place. The swizzle is
its own inverse. -/
def CopyEntry.sideChunk (e : CopyEntry) (c : Nat) : List (Nat × Nat) :=
  (List.range 64).filterMap (fun i =>
    let a := swizzle e.shape.swz (64 * c + i)
    if e.b ≤ a ∧ a < e.b + e.total then some (64 * c + i, a - e.b) else none)

/-- The chunks of the core side that some dense places lie in. -/
def CopyEntry.sideChunks (e : CopyEntry) (ks : List Nat) : List Nat := (ks.map (fun k => e.placed k / 64)).eraseDups

/-- One chunk of the core side written in one step (R149), with the outliers of its rows, each in the side store of the
slot that holds its row's first byte (R207). -/
def Core.landChunk (c : Core) (e : CopyEntry) (sb : Nat) (ks : List Nat) (bs : List (Nat × Nat × Byte)) : Core :=
  let r := e.shape
  let c1 := if e.dir = 0 then { c with spad := c.spad.writeEach (bs.map (fun b => (sb + b.1, b.2.2))) }
    else { c with abuf := c.abuf.writeEach (bs.map (fun b => (b.1, b.2.2))) }
  let w := max 1 r.rowBytes
  if e.ol then
    ((bs.map (fun b => b.2.1 / w)).eraseDups).foldl (fun c n =>
      c.sideRow ks r.fmt ((e.b + n * r.rowBytes) / 2048 % 32) n
        ((bs.filter (fun b => b.2.1 / w == n)).map (fun b => (b.2.1 % w, b.2.2)))) c1
  else c1

/-! ## Ends of a copy (R202, R208) -/

/-- A core with a copy entry changed. -/
def Core.mapCopy (c : Core) (id : Nat) (f : CopyEntry → CopyEntry) : Core :=
  { c with copies := c.copies.map (fun e => if e.id == id then f e else e) }

/-- The state with a copy entry changed. -/
def State.mapCopy (s : State) (core id : Nat) (f : CopyEntry → CopyEntry) : State := s.setCore core ((s.core core).mapCopy id f)

/-- A copy that has met its first error (R208): it moves nothing more, and COPY_STOP ends it. -/
def State.failCopy (s : State) (core id code level : Nat) : State :=
  s.mapCopy core id (fun e => if e.err.isSome then e else { e with err := some (code, level) })

/-- A block of a copy done: it is on its way no longer, and its bytes count. -/
def State.blockDone (s : State) (core id at' bytes : Nat) : State :=
  s.mapCopy core id (fun e => { e with
    flying := e.flying.filter (fun a => a != at')
    chunks := e.chunks ++ [at']
    moved := e.moved + bytes })

/-- The bytes of a copy in one chunk of the global side, without those that it moved before a pre-emption (R428). -/
def CopyEntry.due (e : CopyEntry) (chunk : Nat) : List (Nat × Nat) :=
  (e.shape.chunkBytes chunk).filter (fun p => decide (e.base ≤ p.2))

/-- The bytes that a block of an outward copy moves, counted by element where elements share a byte (R197). -/
def CopyEntry.blockBytes (e : CopyEntry) (at' n : Nat) : Nat :=
  ((e.due (at' / 64 * 64)).filter (fun p => decide (at' % 64 ≤ p.1) && decide (p.1 < at' % 64 + n))).length

/-- A block of a copy that did not happen: it may be tried again. -/
def State.blockBack (s : State) (core id at' : Nat) : State :=
  s.mapCopy core id (fun e => { e with flying := e.flying.filter (fun a => a != at') })

/-- Whether a copy that core `core` runs may touch an ABUF slot of core `k` (R209); until its record is bound it may touch
any slot of the cores it names. -/
def CopyEntry.usesSlot (e : CopyEntry) (core k slot : Nat) : Bool :=
  (e.multi || e.dir == 2) && (if e.multi then (e.targets core).contains k else core == k) &&
    (e.bound.isNone || (unitsTouched 2048 e.b e.shape.spanned).contains slot)

/-- Whether an MLOOP in a core's queue reads a slot of that core (R293, R295). -/
def State.loopReads (s : State) (k slot : Nat) : Bool :=
  (s.core k).tiles.any (fun e => e.op == .mloop && (match s.gangAt ⟨e.core, e.slot⟩ with
    | some g => g.west.contains k && (runSlots e.w1 g.rows).contains slot
    | none => false))

/-- Whether a copy that has not ended may touch an ABUF slot of core `k` (R209). -/
def State.slotCopied (s : State) (k slot : Nat) : Bool :=
  s.cores.any (fun c => c.2.copies.any (fun e => e.usesSlot c.1 k slot))

/-- Whether a slot of a core must wait for its release (R209, R313). -/
def State.slotBusy (s : State) (k slot : Nat) : Bool :=
  s.loopReads k slot || s.slotCopied k slot

/-- An ABUF slot released: its bytes and its side store are undefined for the next holder of the domain (R161, R294). -/
def Core.dropSlot (c : Core) (draw slot : Nat) : Core :=
  { c with abuf := c.abuf.fill (2048 * slot) 2048 (some draw), sideStore := c.sideStore.fill (1024 * slot) 1024 (some draw) }

/-- A part of a core's memories or frames taken by a domain: what another domain has left there is filled with zeros (R161,
R218); `zero` does so. -/
def Core.take (c : Core) (dom part : Nat) (zero : Core → Core) : Core :=
  let c1 := match Map.get? c.users part with
    | some d => if d = dom then c else zero c
    | none => c
  { c1 with users := Map.set c1.users part dom }

/-- An ABUF slot, with its side store, taken by a domain (R161). -/
def Core.takeSlot (c : Core) (dom i : Nat) : Core :=
  c.take dom (512 + i) (fun c => { c with
    abuf := c.abuf.fill (2048 * i) 2048 none, sideStore := c.sideStore.fill (1024 * i) 1024 none })

/-- A CBUF tile, with its side vector, taken by a domain (R161). -/
def Core.takeTile (c : Core) (dom i : Nat) : Core :=
  c.take dom (544 + i) (fun c => { c with
    cbuf := c.cbuf.fill (4096 * i) 4096 none, sideVec := c.sideVec.fill (128 * i) 128 none })

/-- A range of SPAD taken by a domain, in units of 256 bytes (R161). -/
def Core.takeSpad (c : Core) (dom lo n : Nat) : Core :=
  (unitsTouched 256 lo n).foldl (fun c u => c.take dom u (fun c => { c with spad := c.spad.fill (256 * u) 256 none })) c

/-- The slots of a block whose release waits, released where nothing uses them any more (R209, R313). -/
def State.freeSlots (s : State) (k : Nat) (b : Block) : State :=
  let go := (List.range 32).filter (fun i => b.freeing.getLsbD i && !s.slotBusy k i)
  let m := go.foldl (fun m i => m ||| (1#32 <<< i)) 0#32
  if m = 0 then s
  else
    let c := go.foldl (fun c i => c.dropSlot s.draws i) (s.core k)
    (s.setCore k (c.mapBlock b.grid b.b (fun x => { x with amask := x.amask &&& ~~~m, freeing := x.freeing &&& ~~~m }))).drawn

/-- The slots of a core that retired blocks have left to a copy, released once no copy uses them (R209). -/
def State.freeKept (s : State) (k : Nat) : State :=
  let go := (List.range 32).filter (fun i => (s.core k).kept.getLsbD i && !s.slotCopied k i)
  if go.isEmpty then s
  else
    let c := go.foldl (fun c i => c.dropSlot s.draws i) (s.core k)
    (s.setCore k { c with kept := go.foldl (fun m i => m &&& ~~~(1#32 <<< i)) c.kept }).drawn

/-- Every release that waits, looked at again: a copy or an MLOOP has ended. -/
def State.settleFrees (s : State) : State :=
  s.cores.foldl (fun t c =>
    let u := c.2.blocks.foldl (fun t b => if b.freeing = 0 then t else t.freeSlots c.1 b) t
    if c.2.kept = 0 then u else u.freeKept c.1) s

/-- The entry gone, its tag set, the wave's cp counter down, and the bytes added to the phaser, in one step (R202, R208). -/
def State.endCopy (s : State) (core : Nat) (e : CopyEntry) (tag : Tag) (bytes : Option Nat) : State :=
  let c := s.core core
  let s1 := s.setCore core { c with copies := c.copies.filter (fun x => x.id != e.id), tags := Map.set c.tags e.tag tag }
  let id : WaveId := ⟨core, e.slot⟩
  let w := s1.wave id
  let s2 := s1.setWave id { w.countDown .cp with copyTs := max w.copyTs (e.wts.getD 0) }
  let s3 := s2.settleFrees
  match bytes with
  | some n => s3.applyAdd (clusterOf core) ⟨e.c, n, e.wts, core, e.ctx.dom⟩
  | none => s3

/-- The scratchpad base of a copy's block where it runs, on a core (R167). -/
def CopyEntry.sbOn (e : CopyEntry) (s : State) (core : Nat) : Nat :=
  match (s.core core).blockNum e.grid e.block with
  | some b => b.sb
  | none => 0

/-- One chunk of the core side of a copy written, if every byte of it that the copy still has to write has come (R149, R428). -/
def State.landSide (s : State) (core id c : Nat) : State :=
  match (s.core core).copies.find? (fun e => e.id == id) with
  | none => s
  | some e =>
    let ps := (e.sideChunk c).filter (fun p => decide (e.base ≤ p.2) || (Map.get? e.arrived p.2).isSome)
    if ps.all (fun p => (Map.get? e.arrived p.2).isSome) then
      let s := s.usePort core (if e.dir = 0 then 0 else 1) copyUser
      let ks := if e.ol then (outlierList (s.cluster (clusterOf core)) e.hnd).getD [] else []
      (s.setCore core ((s.core core).landChunk e (e.sbOn s core) ks (ps.map (fun p => (p.1, p.2, Map.getD e.arrived p.2 0))))).mapCopy core id
        (fun x => { x with
          arrived := x.arrived.filter (fun a => !(ps.any (fun p => p.2 == a.1)))
          moved := x.moved + ps.length })
    else s

/-- A chunk read from the global side: its bytes are kept, and the chunks of the core side that they make whole are
written (R149), until the copy has stopped (R208, assumption 114). -/
def State.landRead (s : State) (core id chunk : Nat) (data : List Byte) : State :=
  match (s.core core).copies.find? (fun e => e.id == id) with
  | none => s
  | some e =>
    let ps := e.due chunk
    let s1 := s.mapCopy core id (fun e => { e with
      flying := e.flying.filter (fun a => a != chunk)
      chunks := e.chunks ++ [chunk]
      arrived := ps.foldl (fun m p => Map.set m p.2 (data.getD p.1 0)) e.arrived })
    (e.sideChunks (ps.map (fun p => p.2))).foldl (fun t c => t.landSide core id c) s1

/-! ## Multicast chunks (R205, R206) -/

/-- The payload flit of the CPRDM for a chunk whose first byte lies at dense place `at'` (R205); OFF drops
the low bits of an address that is no multiple of 16 (assumption 117). -/
def cprdmPayload (core : Nat) (e : CopyEntry) (r : Shape) (at' : Nat) : Nat :=
  let k := clusterOf core
  let p := seamPartner k
  let grp := fun (k : Nat) => 8 * (k / 128) + k % 128 / 16
  let a := e.b + at'
  let row := at' / max 1 r.rowBytes
  2 ^ (k % 16) + 2 ^ 16 * grp k + (if e.cmask1 = 0 then 0 else 2 ^ 20 * 2 ^ (p % 16) + 2 ^ 36 * grp p) +
    2 ^ 40 * e.cmask0 + 2 ^ 56 * e.cmask1 + 2 ^ 72 * (a / 2048 % 32) + 2 ^ 77 * (a % 2048 / 16) + 2 ^ 84 * (row % 32) +
    2 ^ 89 * (at' % max 1 r.rowBytes / 2 ^ r.esz % 2 ^ 16) + 2 ^ 105 * (if e.ol then e.hnd else 0) + 2 ^ 121 * e.ol.toNat +
    2 ^ 122 * r.fmt + 2 ^ 125 * r.swz

/-- The copy's own fields of an MDATA (R205), bit `i` of the payload flit, counted from 40 as the packet keeps them. -/
def mdataField (p : Packet) (i n : Nat) : Nat := bitsOf (i - 40) n p.ld

/-- Sixty-four bytes of a multicast chunk written on one core: into SLOT at OFF, swizzled, with the outliers of K0 and the
elements after it in the slot that holds the row's first byte (R206, R207). -/
def Core.landMdata (c : Core) (p : Packet) (ks : List Nat) (data : List Byte) : Core :=
  let slot := mdataField p 72 5
  let z := mdataField p 125 3
  let a := 2048 * slot + 16 * mdataField p 77 7
  let k0 := mdataField p 89 16
  let st := (List.range 4).foldl (fun st i => st.write (swizzle z (a + 16 * i)) ((data.drop (16 * i)).take 16)) c.abuf
  let c1 := { c with abuf := st }
  if mdataField p 121 1 = 1 then
    c1.sideRow ks (mdataField p 122 3) ((a - k0) / 2048) (mdataField p 84 5) (data.zipIdx.map (fun b => (k0 + b.2, b.1)))
  else c1

/-- What the model's packets carry above the payload flit's fields for a multicast chunk: the phaser (0, or 1 and the
handle), the context's address-space record, the chunk's virtual address, its dense place, the issuing core and its
copy. -/
def chunkTag (ph : Option Nat) (asr va place core id : Nat) : Nat :=
  let h := match ph with
    | some h => 1 + 2 * (h % 2 ^ 32)
    | none => 0
  h + 2 ^ 40 * (asr + 2 ^ 16 * (va + 2 ^ 64 * (place + 2 ^ 64 * (core + 2 ^ 16 * id))))

/-- The parts of that tag. -/
def Packet.tagPhaser (p : Packet) : Option Nat := if mdataField p 128 1 = 1 then some (mdataField p 129 32) else none
def Packet.tagAsr (p : Packet) : Nat := mdataField p 168 16
def Packet.tagVa (p : Packet) : Nat := mdataField p 184 64
def Packet.tagPlace (p : Packet) : Nat := mdataField p 248 64
def Packet.tagCore (p : Packet) : Nat := mdataField p 312 16
def Packet.tagCopy (p : Packet) : Nat := p.ld / 2 ^ 288

/-- A multicast chunk landing in a cluster: every core that the cluster's mask names writes it and, with .PH, adds 64
bytes to the phaser (R206). The outlier list is that of the issuing cluster's table (R207). -/
def State.landCluster (s : State) (cluster : Nat) (p : Packet) (data : List Byte) : State :=
  let own := 128 * portDie p.port + p.port % 256 / 2
  let mask := if cluster = own then mdataField p 40 16 else mdataField p 56 16
  let ks := (outlierList (s.cluster own) (mdataField p 105 16)).getD []
  let named := (List.range 16).filter (fun i => mask.testBit i)
  let s1 := named.foldl (fun t i =>
    let k := 16 * cluster + i
    let t0 := t.usePort k 1 copyUser
    let t1 := t0.setCore k ((t0.core k).landMdata p ks data)
    match p.tagPhaser with
    | some h => t1.queueAdd cluster ⟨h, 64, none, p.tagCore, p.dom⟩
    | none => t1) s
  s1.mapCopy p.tagCore p.tagCopy (fun e => { e with added := e.added + 64 * named.length })

/-! ## The record cache and the record stage's end (R198, R212) -/

/-- The record cache without a record (R198). -/
def Core.dropRecord (c : Core) (asn va : Nat) : Core :=
  { c with recs := c.recs.filter (fun r => !(r.asn == asn && r.va == va)) }

/-- The record cache with a record: 16 entries, the least recently used goes (R198). -/
def Core.installRecord (c : Core) (asn va : Nat) (b : BitVec 512) : Core :=
  { c with recs := ⟨asn, va, b⟩ :: (c.dropRecord asn va).recs.take 15 }

/-- What the read of a record gives. -/
inductive RecRead where
  | ok (b : BitVec 512)
  | malformed
  | walk (code level : Nat)
  | poison
  | later
  deriving DecidableEq, Repr

/-- A record's bytes judged (R192). -/
def recordRead (opx : Nat) (bs : List Byte) : RecRead :=
  let b := BitVec.ofNat 512 (leNat bs)
  if opx % 2 = 1 then .poison else if shapeBad b then .malformed else .ok b

/-- A copy that binds a record: its size, its checks, and for .OL its side vectors cleared (R196, R204, R207,
assumption 115). -/
def State.bindRecord (s : State) (core : Nat) (e : CopyEntry) (b : BitVec 512) (ts : Nat) : State :=
  let e1 := { e with bound := some b, ts := ts, total := (shapeOf b).bytes }
  let s1 := s.mapCopy core e.id (fun _ => e1)
  match s1.copyCheck core e1 with
  | some code => s1.failCopy core e.id code 0
  | none =>
    if e.ol then
      (if e.multi then e1.targets core else [core]).foldl (fun t k => t.setCore k ((t.core k).clearSides e1 e1.shape)) s1
    else s1

/-- The end of a TSHAPE: the cache changed, the status written, the entry gone (R212). A wave that has ended meanwhile
takes no status. -/
def State.endShape (s : State) (core : Nat) (e : CopyEntry) (found : Option (BitVec 512)) (status : Nat) : State :=
  let c := s.core core
  let c1 := match found with
    | some b => c.installRecord e.ctx.asn (e.a / 64) b
    | none => c.dropRecord e.ctx.asn (e.a / 64)
  let s1 := s.setCore core { c1 with copies := c1.copies.filter (fun x => x.id != e.id) }
  let id : WaveId := ⟨core, e.slot⟩
  let w := s1.wave id
  if w.sb.any (fun r => r.2 == e.id) then s1.setWave id ((w.putSs (e.dst - 0x20) status 1).release e.id) else s1

/-- What a record's read does for the entry that asked for it (R198, R208, R212). -/
def State.recordCame (s : State) (core : Nat) (e0 : CopyEntry) (r : RecRead) : State :=
  let e := { e0 with reading := false }
  match e.op, r with
  | _, .later => s
  | .tshape, .ok b => s.endShape core e (some b) 0
  | .tshape, .malformed => s.endShape core e none 1
  | .tshape, .walk c _ => s.endShape core e none (2 + 2 ^ 8 * c)
  | .tshape, .poison => s.endShape core e none 3
  | _, .ok b => (s.setCore core ((s.core core).installRecord e.ctx.asn (e.a / 64) b)).bindRecord core e b e.ts
  | _, .malformed => (s.mapCopy core e.id (fun _ => e)).failCopy core e.id 0x20 0
  | _, .walk c l => (s.mapCopy core e.id (fun _ => e)).failCopy core e.id c l
  | _, .poison => (s.mapCopy core e.id (fun _ => e)).failCopy core e.id 0x22 0

/-- The answer to a record's read. -/
def State.answerRecord (s : State) (core id opx : Nat) (bs : List Byte) : State :=
  match (s.core core).copies.find? (fun e => e.id == id && e.reading) with
  | none => s
  | some e => s.recordCame core e (recordRead opx bs)

end Sys2Proof.Machine
end

