-- ==== Sys2Proof/Machine/TensorCopy.lean ====
section
/-! DEFINITION. The tensor-copy instructions (R210-R215) and the copy engine at work (R189, R198, R202, R208): the record
stage, one block of a copy, completion and stop. -/

namespace Sys2Proof.Machine

/-- Codes of R403. -/
def cCopyFault : Nat := 0x30
def cTagBusy : Nat := 0x31

/-! ## Issue (R211-R213) -/

/-- A command as the copy queue takes it. -/
def State.copyEntry (s : State) (op : OpT) (f : InsT) : CopyEntry :=
  { id := s.nextOp, op := op, a := s.srcU none 64 f.a % 2 ^ 57, b := s.srcU none 32 f.b, c := s.srcU none 32 f.c
    fn := f.fn.toNat, w1 := w1Of f, dst := f.d.toNat, slot := s.cur.slot, grid := s.wv.ident.grid, block := s.wv.ident.block
    ctx := s.wv.ctx, before := s.nextOp, bound := none, ts := 0, total := 0, moved := 0, chunks := [], flying := []
    wts := none, err := none, stop := false, reading := false, far := [], added := 0, source := [], arrived := [], base := 0 }

/-- A command in the copy queue (R189). -/
def State.enqueueCopy (s : State) (e : CopyEntry) : State :=
  let c := s.myCore
  { (s.setMyCore { c with copies := c.copies ++ [e] }) with nextOp := s.nextOp + 1 }

/-- Whether the copy queue is full (R189). -/
def State.copyQueueFull (s : State) : Bool := decide (16 ≤ s.myCore.copies.length)

/-- TCOPY and TCOPYM at issue (R211). -/
def State.issueCopy (s : State) (op : OpT) (f : InsT) : State :=
  let t := w1Of f % 64
  if s.acquirePending then s.wait 5
  else if s.copyQueueFull then s.wait 4
  else if Map.getD s.myCore.tags t Tag.free != .free then s.trapAll cTagBusy (2 ^ 16 * t)
  else
    let c := s.myCore
    let s1 := s.setMyCore { c with tags := Map.set c.tags t .busy }
    ((s1.enqueueCopy (s.copyEntry op f)).mapWv (fun w => w.countUp .cp)).advance (lenT f)

/-- TCOPY (R211). -/
def execTcopy (f : InsT) (s : State) : Out := guarded f.g (lenT f) (fun s => s.issueCopy .tcopy f) s

/-- TCOPYM (R211, R204). -/
def execTcopym (f : InsT) (s : State) : Out := guarded f.g (lenT f) (fun s => s.issueCopy .tcopym f) s

/-- TSHAPE: its status register is scoreboarded until the record stage (R212). -/
def execTshape (f : InsT) (s : State) : Out :=
  guarded f.g (lenT f) (fun s =>
    if s.copyQueueFull then s.wait 4
    else ((s.enqueueCopy (s.copyEntry .tshape f)).mapWv (fun w =>
      { w with sb := w.sb ++ (sbUni f.d.toNat 32).map (fun r => (r, s.nextOp)) })).advance (lenT f)) s

/-- TSFENCE (R213). -/
def execTsfence (f : InsT) (s : State) : Out :=
  guarded f.g (lenT f) (fun s =>
    if s.copyQueueFull then s.wait 4 else (s.enqueueCopy (s.copyEntry .tsfence f)).advance (lenT f)) s

/-! ## Tags (R214, R215) -/

/-- The tags of a mask, in ascending order. -/
def maskTags (m : Nat) : List Nat := (List.range 64).filter (fun i => m.testBit i)

/-- The state of a tag of the wave's core. -/
def State.tag (s : State) (i : Nat) : Tag := Map.getD s.myCore.tags i Tag.free

/-- Whether a tag is DONE or ERROR. -/
def Tag.ready : Tag → Bool
  | .done _ => true
  | .error _ _ => true
  | _ => false

/-- TRAPINFO of COPY_FAULT for the first tag of a set that is in ERROR (R208). -/
def State.tagFault (s : State) (ts : List Nat) : Option Nat :=
  ts.findSome? (fun i => match s.tag i with
    | .error c l => some (c + (if c ≤ 7 then 2 ^ 8 * l else 0) + 4 * 2 ^ 11 + 2 ^ 16 * i)
    | _ => none)

/-- The pts of a wave that acquires the copies of a set of tags (R150, R151). -/
def State.tagTs (s : State) (ts : List Nat) : Nat :=
  ts.foldl (fun m i => match s.tag i with
    | .done t => max m t
    | _ => m) s.wv.pts

/-- The return of a tag wait: a fault of the returned set, or the acquisition and the result (R214). -/
def State.tagReturn (s : State) (f : InsT) (set : List Nat) (write : Wave → Wave) : State :=
  match s.tagFault set with
  | some i => s.trapAll cCopyFault i
  | none => (s.mapWv (fun w => { (write w) with pts := s.tagTs set })).advance (lenT f)

/-- The 64-bit set of some tags. -/
def tagSet (ts : List Nat) : Nat := ts.foldl (fun m i => m + 2 ^ i) 0

/-- TWALL (R214). -/
def execTwall (f : InsT) (s : State) : Out :=
  guarded f.g (lenT f) (fun s =>
    let m := maskTags (s.srcU none 64 f.a)
    if m.any (fun i => s.tag i == .busy) then s.wait 5 else s.tagReturn f m (fun w => w)) s

/-- The tags of a mask that are ready, where TWANY and TFIRST may return (R214). -/
def State.readyTags (s : State) (f : InsT) : Option (List Nat) :=
  let m := maskTags (s.srcU none 64 f.a)
  let r := m.filter (fun i => (s.tag i).ready)
  if r.isEmpty && m.any (fun i => s.tag i == .busy) then none else some r

/-- TWANY (R214). -/
def execTwany (f : InsT) (s : State) : Out :=
  guarded f.g (lenT f) (fun s =>
    match s.readyTags f with
    | none => s.wait 5
    | some r => s.tagReturn f r (fun w => w.putS f.d 64 (tagSet r))) s

/-- TFIRST (R214). -/
def execTfirst (f : InsT) (s : State) : Out :=
  guarded f.g (lenT f) (fun s =>
    match s.readyTags f with
    | none => s.wait 5
    | some r => s.tagReturn f (r.take 1) (fun w => w.putS f.d 32 (r.headD 64))) s

/-- TCLR (R215). -/
def execTclr (f : InsT) (s : State) : Out :=
  guarded f.g (lenT f) (fun s =>
    let m := maskTags (s.srcU none 64 f.a)
    let c := s.myCore
    let tags := m.foldl (fun t i => if (Map.getD t i Tag.free).ready then Map.set t i Tag.free else t) c.tags
    (s.setMyCore { c with tags := tags }).advance (lenT f)) s

/-! ## The record stage (R198, R199, R212, R213) -/

/-- A request of an engine for a 64-byte chunk. -/
def chunkRead (ty : PType) (dom key pa ts : Nat) : Packet :=
  { ty := ty, port := 0, slice := 0, seq := 0, dom := dom, key := key, mark := false, trim := false, rpl := false, retry := 0,
    len := 64, opx := 0, mgrp := 0, mcast := 0, addr := pa, ts := ts, ld := 0, mt2 := false, watch := false, again := false,
    born := 0, data := [] }

/-- What an engine's request comes to: sent, or what keeps it from being sent. -/
inductive EngineSend where
  | sent
  | window (w : Nat)
  | fault (code level : Nat)
  | poison
  | later
  deriving DecidableEq, Repr

/-- An engine's request for a translated block sent to its home through the core's port, or to the host or a peer where
`out` admits another window (R97, R190). It waits for a place at its port. -/
def State.enginePost (s : State) (core dom pa : Nat) (out : Bool) (c : Client) (p : Packet) : State × EngineSend :=
  if pa / 2 ^ 50 = 0 then
    match s.homeOf dom pa with
    | none => (s, .fault 5 0)
    | some (_, h) =>
      if (s.port (portOf core)).hasRoom then (s.portSend (portOf core) { p with slice := h } c, .sent) else (s, .later)
  else if !out then (s, .window (pa / 2 ^ 50))
  else if s.linkFull pa then (s, .later)
  else
    match s.sendSystem p c with
    | some s1 => (s1, .sent)
    | none => (s, .poison)

/-- An engine's request for an aligned block: translated (kind 4 or 5), which may wait for a walk, and sent. -/
def State.engineSend (s : State) (core : Nat) (ctx : Context) (va kind ts : Nat) (out : Bool) (c : Client)
    (p : Nat → Nat → Packet) : State × EngineSend :=
  match s.engineFind core ctx va kind ts with
  | (s1, .fault c l) => (s1, .fault c l)
  | (s1, .poison) => (s1, .poison)
  | (s1, .wait) => (s1, .later)
  | (s1, .ok pa key mt) => s1.enginePost core ctx.dom pa out c { p key pa with mt2 := mt == 2 }

/-- The record stage of a TCOPY, TCOPYM or TSHAPE (R192, R198, R199, R212): a misaligned address is malformed; a copy binds
a cached record; otherwise the record is read. -/
def State.stageRecord (s : State) (core : Nat) (e0 : CopyEntry) (ts : Nat) : State :=
  let e := { e0 with ts := ts }
  let c := s.core core
  let mine := fun (r : RecEntry) => r.asn == e.ctx.asn && r.va == e.a / 64
  if e.a % 64 ≠ 0 then s.recordCame core e .malformed
  else
    match (if e.op == .tshape then none else c.recs.find? mine) with
    | some r => (s.setCore core { c with recs := touch mine c.recs }).bindRecord core e r.bits ts
    | none =>
      match s.engineSend core e.ctx e.a 4 ts false (.record core e.id) (fun key pa => chunkRead .rd e.ctx.dom key pa ts) with
      | (s1, .sent) => s1.mapCopy core e.id (fun _ => { e with reading := true })
      | (s1, .window _) => s1.recordCame core e .malformed
      | (s1, .fault c l) => s1.recordCame core e (.walk c l)
      | (s1, .poison) => s1.recordCame core e .poison
      | (s1, .later) => s1

/-- Whether a write that the wave issued before a command is still to complete (R149, R198). -/
def Core.writesBefore (c : Core) (slot before : Nat) : Bool :=
  c.ops.any (fun o => o.slot == slot && (o.kind.writes || o.kind == .coreStore || o.kind == .coreAtom) && decide (o.id < before))

/-- COPY_RECORD_STAGE: the oldest entry that has not passed the record stage passes it (R189, R198). -/
def execCopyRecordStage (core : Nat) (s : State) : Out :=
  let c := s.core core
  .next (match c.copies.find? (fun e => e.bound.isNone && e.err.isNone) with
  | none => s
  | some e =>
    if e.stop || e.reading then s
    else if e.op == .tsfence then
      let c1 := if e.fn = 0 then { c with recs := [] } else c.dropRecord e.ctx.asn (e.a / 64)
      s.setCore core { c1 with copies := c1.copies.filter (fun x => x.id != e.id) }
    else if c.writesBefore e.slot e.before then s
    else s.stageRecord core e (s.wave ⟨core, e.slot⟩).pts)

/-! ## Blocks of a running copy (R149, R194, R205) -/

/-- The copies that run: the four oldest that have bound a record and met no error (R189). -/
def Core.running (c : Core) : List CopyEntry := (c.copies.filter (fun e => e.bound.isSome && e.err.isNone)).take 4

/-- The size of the aligned block that starts at byte `j` of a chunk, where the bytes `js` are to be written: the largest
that they fill, 0 where a larger one holds it (R149). -/
def outBlock (js : List Nat) (j : Nat) : Nat → Nat
  | 0 => if js.contains j then (if j % 2 = 0 ∧ js.contains (j + 1) ∨ j % 2 = 1 ∧ js.contains (j - 1) then 0 else 1) else 0
  | k + 1 =>
    let full := fun (lo n : Nat) => (List.range n).all (fun i => js.contains (lo + i))
    let n := 2 ^ (k + 1)
    if j % n = 0 ∧ full j n then (if n < 64 ∧ full (j / (2 * n) * (2 * n)) (2 * n) then 0 else n) else outBlock js j k

/-- A list turned so that it begins at place `n`. -/
def rotate {α : Type} (n : Nat) (l : List α) : List α := l.drop n ++ l.take n

/-- The aligned 64-byte chunks of the core side of an outward copy that some dense places lie in, read where they have not
been, each once and whole (R149). -/
def State.readSource (s : State) (core : Nat) (e : CopyEntry) (ks : List Nat) : CopyEntry :=
  let c := s.core core
  let sb := e.sbOn s core
  let st := if e.dir = 1 then c.spad else c.cbuf
  (e.sideChunks ks).foldl (fun e i =>
    if (Map.get? e.source i).isSome then e
    else { e with source := Map.set e.source i (st.read (64 * i + if e.dir = 1 then sb else 0) 64) }) e

/-- Whether a chunk of the core side that a copy still has to read holds a poisoned word of the copy (R170, R208). -/
def State.sourcePoisoned (s : State) (core : Nat) (e : CopyEntry) (ks : List Nat) : Bool :=
  let c := s.core core
  let sb := e.sbOn s core
  let st := if e.dir = 1 then c.spad else c.cbuf
  (e.sideChunks ks).any (fun i => (Map.get? e.source i).isNone &&
    (e.sideChunk i).any (fun p => st.poisoned (p.1 + if e.dir = 1 then sb else 0) 1))

/-- One block of a copy into memory, at address `at'`, from the chunks of the core side as they were read; of two elements
that name one byte either may stay (R149, R197). -/
def State.copyOut (s : State) (core : Nat) (e : CopyEntry) (at' : Nat) : State :=
  let all := e.due (at' / 64 * 64)
  let n := outBlock (all.map (fun p => p.1)) (at' % 64) 6
  let mine := all.filter (fun p => decide (at' % 64 ≤ p.1) && decide (p.1 < at' % 64 + n))
  let turned := rotate (s.pick mine.length) mine
  let ks := mine.map (fun p => p.2)
  let unread := (e.sideChunks ks).filter (fun i => (Map.get? e.source i).isNone)
  let s := if n = 0 then s else unread.foldl (fun t _ => t.usePort core (if e.dir = 1 then 0 else 2) copyUser) s
  if n = 0 then s
  else if s.sourcePoisoned core e ks then s.failCopy core e.id 0x22 0
  else
    let e1 := s.readSource core e ks
    let s0 := (s.mapCopy core e.id (fun _ => e1)).drawn
    let bs := (List.range n).map (fun i => match turned.find? (fun p => p.1 == at' % 64 + i) with
      | some p => (Map.getD e1.source (e1.placed p.2 / 64) []).getD (e1.placed p.2 % 64) 0
      | none => 0)
    match s0.engineSend core e.ctx at' 5 e.ts true (.chunk core e.id at')
        (fun key pa => { chunkRead .wr e.ctx.dom key pa e.ts with len := n, data := bs }) with
    | (s1, .sent) => s1.mapCopy core e.id (fun x => { x with flying := x.flying ++ [at'] })
    | (s1, .fault c l) => s1.failCopy core e.id c l
    | (s1, .poison) => s1.failCopy core e.id 0x22 0
    | (s1, _) => s1

/-- One chunk of a copy into SPAD or ABUF, at address `at'`, asked for (R149). -/
def State.copyIn (s : State) (core : Nat) (e : CopyEntry) (at' : Nat) : State :=
  if at' % 64 ≠ 0 ∨ (e.due at').isEmpty then s
  else
    match s.engineSend core e.ctx at' 4 e.ts true (.chunk core e.id at') (fun key pa => chunkRead .rd e.ctx.dom key pa e.ts) with
    | (s1, .sent) => s1.mapCopy core e.id (fun x => { x with flying := x.flying ++ [at'] })
    | (s1, .fault c l) => s1.failCopy core e.id c l
    | (s1, .poison) => s1.failCopy core e.id 0x22 0
    | (s1, _) => s1

/-- One chunk of a multicast copy, at dense place `at'`: a CPRDM through port 2 x cluster + 0 (R204, R205). -/
def State.copyMulti (s : State) (core : Nat) (e : CopyEntry) (at' : Nat) : State :=
  if at' % 64 ≠ 0 ∨ e.total ≤ at' then s
  else
    let va := e.chunkVa at'
    match s.engineFind core e.ctx va 4 e.ts with
    | (s1, .fault c l) => s1.failCopy core e.id c l
    | (s1, .poison) => s1.failCopy core e.id 0x22 0
    | (s1, .wait) => s1
    | (s1, .ok pa key mt) =>
      if pa / 2 ^ 50 ≠ 0 then s1.failCopy core e.id 0x21 0
      else
        match s1.homeOf e.ctx.dom pa with
        | none => s1.failCopy core e.id 5 0
        | some (_, h) =>
          let p := { chunkRead .cprdm e.ctx.dom key pa e.ts with
            slice := h, mt2 := mt == 2
            ld := chunkTag (if e.ph then some e.c else none) e.ctx.asr va at' core e.id
            data := leBytes 16 (cprdmPayload core e e.shape at') }
          (s1.mapCopy core e.id (fun x => { x with
            flying := x.flying ++ [at'], far := if e.cmask1 = 0 then x.far else x.far ++ [at'] })).portQueue
            (256 * dieOf core + 2 * (clusterOf core % 128)) p (.chunk core e.id at')

/-- The dense places that a block of a copy moves (R194). -/
def CopyEntry.blockPlaces (e : CopyEntry) (at' : Nat) : List Nat :=
  if e.multi then (List.range 64).map (fun i => at' + i)
  else
    let all := e.due (at' / 64 * 64)
    let n := if e.outward then outBlock (all.map (fun p => p.1)) (at' % 64) 6 else 64
    (all.filter (fun p => decide (at' % 64 ≤ p.1) && decide (p.1 < at' % 64 + n))).map (fun p => p.2)

/-- The lowest dense place that a block moves, if it moves any. -/
def CopyEntry.blockStart (e : CopyEntry) (at' : Nat) : Option Nat := (e.blockPlaces at').min?

/-- The next 4 KiB boundary of a copy's byte count: past the start of every block begun (R419). -/
def CopyEntry.boundary (e : CopyEntry) : Nat :=
  ((e.chunks ++ e.flying).foldl (fun m a => match e.blockStart a with
    | some p => max m (p + 1)
    | none => m) e.base + 4095) / 4096 * 4096

/-- Whether a pre-emption of a copy's context, or of its block alone, is under way (R418, R419). -/
def State.copyStopped (s : State) (e : CopyEntry) : Bool :=
  (s.ctx e.ctx.asr).stopping || (s.ctx (blockUnit e.grid e.block)).stopping

/-- Whether a block of a copy may begin: once Mantis stops the context, only one that starts below the boundary (R419). -/
def State.mayBegin (s : State) (e : CopyEntry) (at' : Nat) : Bool :=
  !s.copyStopped e || (match e.blockStart at' with
    | some p => decide (p < e.boundary)
    | none => false)

/-- COPY_CHUNK: one block of copy `i` of a core is read or written (R149). Once Mantis stops the context, no block beyond
the next 4 KiB boundary begins (R419). -/
def execCopyChunk (core i at' : Nat) (s : State) : Out :=
  let c := s.core core
  .next (match c.copies[i]? with
  | none => s
  | some e =>
    if e.stop || !(c.running.any (fun x => x.id == e.id)) || e.chunks.contains at' || e.flying.contains at' ||
        decide (2 ^ 57 ≤ at') || !s.mayBegin e at' then s
    else if e.multi then s.copyMulti core e at'
    else if e.outward then s.copyOut core e at'
    else s.copyIn core e at')

/-! ## The end of a copy (R202, R208) -/

/-- COPY_COMPLETE: copy `i` of a core has moved every byte (R202, R206). -/
def execCopyComplete (core i : Nat) (s : State) : Out :=
  .next (match (s.core core).copies[i]? with
  | none => s
  | some e =>
    if e.bound.isSome && e.err.isNone && e.moved == e.total && e.flying.isEmpty then
      s.endCopy core e (.done (e.wts.getD 0)) (if e.ph && !e.multi then some e.total else none)
    else s)

/-- COPY_STOP: copy `i` of a core, which has met an error, stops once nothing of it is on its way;
with .PH its phaser receives the bytes not yet added (R208). -/
def execCopyStop (core i : Nat) (s : State) : Out :=
  .next (match (s.core core).copies[i]? with
  | none => s
  | some e =>
    match e.err with
    | none => s
    | some (c, l) =>
      if e.flying.isEmpty && e.far.isEmpty && !e.reading then
        s.endCopy core e (.error c l) (if e.ph && e.bound.isSome then some (e.count core - e.added) else none)
      else s)

end Sys2Proof.Machine
end

