-- ==== Sys2Proof/Machine/Residencies.lean ====
section
/-! DEFINITION. Bonds, leases and weight residencies (R297-R306, R311-R317): BOND, UNBOND, ACLAIM, AFREE, WALLOC, WPIN,
WUNPIN, WREVOKE and WQUERY, the planes of WBUF, and the queues of the matrix sequencers (R327). -/

namespace Sys2Proof.Machine

/-- Cause codes of R403. -/
def cBond : Nat := 0x32
def cResidency : Nat := 0x33
def cStale : Nat := 0x34
def cBufRange : Nat := 0x16

/-! ## BOND and UNBOND (R312) -/

/-- The block of the wave in hand changed. -/
def State.mapMyBlock (s : State) (f : Block → Block) : State :=
  s.setMyCore (s.myCore.mapBlock s.wv.ident.grid s.wv.ident.block f)

/-- Whether every block of a gang has bonded, or the gang can have no lease any more. -/
def Gang.settled (g : Gang) : Bool := g.barred || g.cores.all (fun k => g.bonded.contains k)

/-- BOND's wait: past it once every block has bonded, or the gang is barred. -/
def State.bondWait (s : State) (f : InsT) (n : Nat) : State :=
  match Map.get? s.gangs n with
  | some g =>
    if g.settled then (s.mapWv (fun w => { w with waits := { w.waits with bond := false } })).advance (lenT f)
    else (s.mapWv (fun w => { w with waits := { w.waits with bond := true } })).wait 8
  | none => s.advance (lenT f)

/-- A gang in which one more block has bonded; the last one brings the lease (R297). -/
def Gang.join (g : Gang) (core : Nat) : Gang :=
  let g1 := { g with bonded := g.bonded ++ [core] }
  { g1 with lease := !g.barred && g.cores.all (fun k => g1.bonded.contains k) }

/-- BOND (R312). -/
def execBond (f : InsT) (s : State) : Out :=
  guarded f.g (lenT f) (fun s =>
    match s.myBlock? with
    | none => s.trapAll cBond 1
    | some b =>
      match b.gang with
      | none => s.trapAll cBond 1
      | some n =>
        if s.wv.waits.bond then s.bondWait f n
        else if b.bonded then s.trapAll cBond 2
        else ((s.mapMyBlock (fun x => { x with bonded := true })).mapGang n (fun g => g.join s.cur.core)).bondWait f n) s

/-- UNBOND (R312): before every block has bonded it bars the gang from its lease, after that it ends the lease. -/
def execUnbond (f : InsT) (s : State) : Out :=
  guarded f.g (lenT f) (fun s =>
    match s.myBlock? with
    | none => s.advance (lenT f)
    | some b => (s.leaveGang s.cur.core b).advance (lenT f)) s

/-- An instruction that needs the lease and the origin block: NOLEASE, then ORIGIN (R311). -/
def State.withLease (s : State) (body : State → Gang → State) : State :=
  match s.myBlock? with
  | none => s.trapAll cBond 3
  | some b =>
    match s.gangOf b with
    | none => s.trapAll cBond 3
    | some g =>
      if !g.lease then s.trapAll cBond 3
      else if b.rho ≠ 0 ∨ b.gamma ≠ 0 then s.trapAll cBond 4
      else body s g

/-! ## ACLAIM and AFREE (R313) -/

/-- The bits set in a mask. -/
def countBits {w : Nat} (m : BitVec w) : Nat := ((List.range w).filter (fun i => m.getLsbD i)).length

/-- ACLAIM: a slot whose release still waits counts as held, and the claim keeps it; a slot that another domain has left is
filled with zeros (R161). -/
def execAclaim (f : InsT) (s : State) : Out :=
  guarded f.g (lenT f) (fun s =>
    let m := BitVec.ofNat 32 (s.srcU none 32 f.a)
    match s.myBlock? with
    | none => s.uniResult f 2
    | some b =>
      if s.myCore.kept &&& m ≠ 0 ∨ s.myCore.blocks.any (fun x => !(x.grid == b.grid && x.b == b.b) && (x.amask &&& m) != 0) then
        s.uniResult f 1
      else if b.amax < countBits (b.amask ||| m) then s.uniResult f 2
      else
        let new := (List.range 32).filter (fun i => (m &&& ~~~b.amask).getLsbD i)
        let s1 := s.setMyCore (new.foldl (fun c i => c.takeSlot s.wv.ctx.dom i) s.myCore)
        (s1.mapMyBlock (fun x => { x with amask := x.amask ||| m, freeing := x.freeing &&& ~~~m })).uniResult f 0) s

/-- AFREE: the wave goes on, and the release waits for the copies and MLOOPs that use the slots. -/
def execAfree (f : InsT) (s : State) : Out :=
  guarded f.g (lenT f) (fun s =>
    let m := BitVec.ofNat 32 (s.srcU none 32 f.a)
    ((s.mapMyBlock (fun x => { x with freeing := x.freeing ||| (x.amask &&& m) })).settleFrees).advance (lenT f)) s

/-! ## Planes of WBUF (R305, R306) -/

/-- The state with a residency changed. -/
def State.mapResidency (s : State) (k i : Nat) (f : Residency → Residency) : State :=
  let c := s.cluster k
  s.setCluster k { c with residencies := Map.set c.residencies i (f (c.residency i)) }

/-- The planes that a residency holds on a core, its side plane last. -/
def Residency.planesOn (r : Residency) (core : Nat) : List Nat :=
  Map.getD r.planes core [] ++ (match Map.get? r.sidePlane core with
    | some p => [p]
    | none => [])

/-- The cores of a residency whose table is that of cluster `k`. -/
def Residency.cores (r : Residency) (k : Nat) : List Nat := shapeCores k r.origin r.rlog r.clog r.seam

/-- A core with some planes zero. -/
def Core.zeroPlanes (c : Core) (ps : List Nat) : Core :=
  ps.foldl (fun c p => { c with wbuf := c.wbuf.fill (1024 * p) 1024 none }) c

/-- The planes of residency `i` of cluster `k` zero, and kept (R302). -/
def State.zeroise (s : State) (k i : Nat) : State :=
  let r := (s.cluster k).residency i
  (r.cores k).foldl (fun t n => t.setCore n ((t.core n).zeroPlanes (r.planesOn n))) s

/-- The planes of residency `i` of cluster `k` zero and free (R302, R305). -/
def State.freePlanes (s : State) (k i : Nat) : State :=
  let r := (s.cluster k).residency i
  let s1 := (r.cores k).foldl (fun t n =>
    let c := (t.core n).zeroPlanes (r.planesOn n)
    t.setCore n { c with wowner := c.wowner.filter (fun e => e.2 != 256 * k + i) }) s
  s1.mapResidency k i (fun r => { r with planes := [], sidePlane := [] })

/-- The planes of a core that no residency holds. -/
def Core.freeList (c : Core) : List Nat := (List.range 32).filter (fun p => (Map.get? c.wowner p).isNone)

/-- The residency that an owner number of a plane names. -/
def State.owner (s : State) (n : Nat) : Residency := (s.cluster (n / 256)).residency (n % 256)

/-- The planes of a domain's residencies on a cluster's cores (R306). -/
def State.quotaUsed (s : State) (k dom : Nat) : Nat :=
  ((List.range 16).map (fun i => ((s.core (16 * k + i)).wowner.filter (fun e => (s.owner e.2).dom == dom)).length)).foldl (· + ·) 0

/-- A cluster's quota for a domain: 512 unless set (R306). -/
def Cluster.quotaOf (c : Cluster) (dom : Nat) : Nat := Map.getD c.quota dom 512

/-- What a residency needs on a core of its shape: P planes, and a side plane on the south row (R314). -/
def planesNeeded (cores : List Nat) (rows cols p nout core : Nat) : Nat :=
  p + if 0 < nout ∧ (cores.drop ((rows - 1) * cols)).contains core then 1 else 0

/-- The residencies that an allocation for a domain may evict from a core, the least recently used by MLOOP alone (R306);
`self` never. -/
def State.evictable (s : State) (core dom self : Nat) : List Nat :=
  let all := ((s.core core).wowner.map (fun e => e.2)).eraseDups.filter (fun n =>
    let r := s.owner n
    n != self && r.dom == dom && (r.st == .ready || r.st == .stale || r.st == .evicted))
  let least := all.foldl (fun (m : Option Nat) n => match m with
    | none => some (s.owner n).lastUse
    | some x => some (min x (s.owner n).lastUse)) none
  all.filter (fun n => some (s.owner n).lastUse == least)

/-- Residencies evicted from a core until `n` planes are free there, or none can be had; of two used equally long ago
either may go. -/
def State.makeRoom (s : State) (core dom self n : Nat) : Nat → Option State
  | 0 => if n ≤ (s.core core).freeList.length then some s else none
  | fuel + 1 =>
    if n ≤ (s.core core).freeList.length then some s
    else
      let c := s.evictable core dom self
      match (c.drop (s.pick c.length)).head? with
      | none => none
      | some v =>
        State.makeRoom (((s.freePlanes (v / 256) (v % 256)).mapResidency (v / 256) (v % 256)
          (fun r => { r with st := .evicted })).drawn) core dom self n fuel

/-- Planes taken for residency `i` of cluster `k` on the cores of a shape: all of them, or none (R306, R314). -/
def State.takePlanes (s : State) (k i dom p nout rows cols : Nat) (cores : List Nat) : List Nat → Option State
  | [] => some s
  | core :: rest =>
    let n := planesNeeded cores rows cols p nout core
    match s.makeRoom core dom (256 * k + i) n 32 with
    | none => none
    | some s1 =>
      let c := s1.core core
      let ps := c.freeList.take n
      let own := ps.foldl (fun m q => Map.set m q (256 * k + i)) c.wowner
      let s2 := (s1.setCore core { c with wowner := own }).mapResidency k i (fun r =>
        { r with
          planes := Map.set r.planes core (ps.take p)
          sidePlane := if p < n then Map.set r.sidePlane core (ps.getD p 0) else r.sidePlane })
      State.takePlanes s2 k i dom p nout rows cols cores rest

/-- Whether the quota of every cluster of a shape has room for its planes (R306). -/
def State.quotaRoom (s : State) (dom p nout rows cols : Nat) (cores : List Nat) : Bool :=
  (cores.map clusterOf).eraseDups.all (fun k =>
    decide (s.quotaUsed k dom + ((cores.filter (fun n => clusterOf n == k)).map (planesNeeded cores rows cols p nout)).foldl (· + ·) 0
      ≤ (s.cluster k).quotaOf dom))

/-! ## WALLOC (R314) -/

/-- A residency's handle (R299). -/
def handleOf (i gen : Nat) : Nat := i + 256 * gen

/-- A FREE entry's successor: its GEN rises, from 255 to 1 (R299). -/
def Residency.released (r : Residency) : Residency := { Residency.reset with gen := r.gen % 255 + 1 }

/-- WALLOC under the lease. -/
def State.walloc (s : State) (f : InsT) (g : Gang) : State :=
  let w1 := w1Of f
  let nstep := w1 % 64
  let fmt := w1 / 2 ^ 6 % 8
  let nout := w1 / 2 ^ 10 % 32
  let p := nstep * bytesPerUnit fmt
  let ctx := s.wv.ctx
  let k := g.home
  if 32 < p + (if 0 < nout then 1 else 0) then s.uniResult f (4 * 2 ^ 16)
  else if !s.quotaRoom ctx.dom p nout g.rows g.cols g.cores then s.uniResult f (2 ^ 16)
  else
    match (List.range 256).find? (fun i => ((s.cluster k).residency i).st == .free) with
    | none => s.uniResult f (3 * 2 ^ 16)
    | some i =>
      let s1 := s.mapResidency k i (fun r => { r with planes := [], sidePlane := [] })
      match s1.takePlanes k i ctx.dom p nout g.rows g.cols g.cores g.cores with
      | none => s.uniResult f (2 * 2 ^ 16)
      | some s2 =>
        let gen := ((s.cluster k).residency i).gen
        let s3 := s2.mapResidency k i (fun r =>
          { Residency.reset with
            st := .evicted, gen := gen, fmt := fmt, smode := f.fn.getLsbD 0, rlog := g.rlog, clog := g.clog, seam := g.seam,
            origin := g.coreAt 0 0 % 16, nstep := nstep, nout := nout, dom := ctx.dom, key := ctx.key,
            planes := r.planes, sidePlane := r.sidePlane })
        s3.uniResult f (handleOf i gen)

/-- WALLOC (R314): D holds a handle, or a status in its upper half. -/
def execWalloc (f : InsT) (s : State) : Out := guarded f.g (lenT f) (fun s => s.withLease (fun s g => s.walloc f g)) s

/-! ## WPIN, WUNPIN and WREVOKE (R316) -/

/-- A RESIDENCY_FAULT at the instruction (R311). -/
def State.residencyFault (s : State) (code : Nat) : State := s.trapAll cResidency code

/-- An instruction on a residency: DEAD first (R311). The body takes the cluster of the table, the entry and the
descriptor. -/
def State.withResidency (s : State) (h : Nat) (body : State → Nat → Nat → Residency → State) : State :=
  let k := s.tableOf s.cur
  let r := (s.cluster k).residency (h % 256)
  if r.deadFor h s.wv.ctx || decide (2 ^ 16 ≤ h) then s.residencyFault 0x20 else body s k (h % 256) r

/-- WPIN (R316). -/
def execWpin (f : InsT) (s : State) : Out :=
  guarded f.g (lenT f) (fun s => s.withResidency (s.srcU none 32 f.a) (fun s k i r =>
    if r.st = .revoked then s.residencyFault 0x21
    else (s.mapResidency k i (fun r => { r with pin := true, st := if r.st = .ready then .pinned else r.st })).advance (lenT f))) s

/-- WUNPIN (R316). -/
def execWunpin (f : InsT) (s : State) : Out :=
  guarded f.g (lenT f) (fun s => s.withResidency (s.srcU none 32 f.a) (fun s k i r =>
    if r.st = .revoked then s.residencyFault 0x21
    else (s.mapResidency k i (fun r => { r with pin := false, st := if r.st = .pinned then .ready else r.st })).advance (lenT f))) s

/-- Whether an MLOOP in a queue of the table's cluster uses entry `i` (R316). -/
def State.loopUses (s : State) (k i : Nat) : Bool :=
  (List.range 16).any (fun n => (s.core (16 * k + n)).tiles.any (fun e => e.op == .mloop && e.handle % 256 == i &&
    e.table == k))

/-- WREVOKE (R316). -/
def execWrevoke (f : InsT) (s : State) : Out :=
  guarded f.g (lenT f) (fun s => s.withResidency (s.srcU none 32 f.a) (fun s k i r =>
    if r.st = .loading then s.residencyFault 0x21
    else if s.loopUses k i then s.wait 4
    else ((s.freePlanes k i).mapResidency k i Residency.released).advance (lenT f))) s

/-! ## WQUERY (R317) -/

/-- The code of a state (R300). -/
def ResState.code : ResState → Nat
  | .free => 0
  | .loading => 1
  | .ready => 2
  | .pinned => 3
  | .stale => 4
  | .evicted => 5
  | .revoked => 6

/-- A descriptor's bits (R300). -/
def Residency.bits (r : Residency) : Nat :=
  r.st.code + 2 ^ 4 * r.fmt + 2 ^ 13 * r.smode.toNat + 2 ^ 14 * r.pin.toNat + 2 ^ 15 * r.rlog + 2 ^ 17 * r.clog +
    2 ^ 19 * r.seam.toNat + 2 ^ 20 * r.origin + 2 ^ 24 * r.nstep + 2 ^ 32 * r.nout + 2 ^ 40 * r.gen + 2 ^ 48 * r.dom +
    2 ^ 52 * r.key + 2 ^ 64 * r.wzp + 2 ^ 128 * r.back +
    ((List.range 16).map (fun j => 2 ^ (256 + 16 * j) * r.outk.getD j 0)).foldl (· + ·) 0

/-- The columns of a residency. -/
def Residency.cols (r : Residency) : Nat := 2 ^ r.clog * if r.seam then 2 else 1

/-- Whether the sum stores hold the loaded sums: READY or PINNED (R317). -/
def Residency.loaded (r : Residency) : Bool := r.st == .ready || r.st == .pinned

/-- Word `w` of what WQUERY reads (R317). -/
def Residency.word (r : Residency) (w : Nat) : Nat :=
  if w < 8 then bitsOf (64 * w) 64 r.bits
  else if w < 8 + 32 * r.cols ∧ r.loaded then
    if r.smode then r.uscale.getD (w - 8) 0
    else (r.csum.getD (w - 8) 0).toNat + 2 ^ 32 * (r.osum.getD (w - 8) 0).toNat
  else 0

/-- WQUERY (R317): a dead handle reads 0. -/
def execWquery (f : InsT) (s : State) : Out :=
  guarded f.g (lenT f) (fun s =>
    let h := s.srcU none 32 f.a
    let r := (s.cluster (s.tableOf s.cur)).residency (h % 256)
    let v := if r.deadFor h s.wv.ctx || decide (2 ^ 16 ≤ h) then 0 else r.word (s.srcU none 32 f.b)
    (s.mapWv (fun w => w.putS f.d 64 v)).advance (lenT f)) s

/-! ## Sequencer queues (R327, R328) -/

/-- A tile operation of the wave in hand as the queue takes it. -/
def State.seqEntry (s : State) (op : OpT) (f : InsT) (handle a b fn : Nat) : SeqEntry :=
  { id := s.nextOp, op := op, handle := handle, a := a, b := b, fn := fn, w1 := w1Of f, core := s.cur.core
    table := s.tableOf s.cur, back := 0, slot := s.cur.slot
    block := s.wv.ident.block, order := s.wv.tlIssued + 1, before := s.nextOp, ts := 0, steps := 0, loading := false
    lines := [], flying := [], image := [], first := true, stop := false }

/-- An operation entered in the queues of some cores; a full queue makes the instruction wait (R327). -/
def State.enqueueTile (s : State) (f : InsT) (e : SeqEntry) (cores : List Nat) (also : State → State) : State :=
  if cores.any (fun k => decide (8 ≤ (s.core k).tiles.length)) then s.wait 4
  else
    let s1 := cores.foldl (fun t k => t.setCore k { (t.core k) with tiles := (t.core k).tiles ++ [e] }) s
    let s2 := ({ s1 with nextOp := s1.nextOp + 1 }).mapWv (fun w => { (w.countUp .tl) with tlIssued := w.tlIssued + 1 })
    (also s2).advance (lenT f)

/-- The cores in whose queues an operation stands. -/
def State.entryCores (s : State) (e : SeqEntry) : List Nat :=
  if e.op == .mloop || e.op == .wload then
    match s.gangAt ⟨e.core, e.slot⟩ with
    | some g => g.cores
    | none => [e.core]
  else [e.core]

/-- The tiles that an operation names (R327). -/
def SeqEntry.tilesNamed (e : SeqEntry) : List Nat :=
  match e.op with
  | .mloop => [e.w1 / 2 ^ 5 % 16]
  | .mzero => (List.range 16).filter (fun i => e.a.testBit i)
  | .mepi => [e.w1 % 16, e.w1 / 2 ^ 4 % 16] ++ if e.w1.testBit 12 then [e.w1 / 2 ^ 8 % 16] else []
  | .mcorr => [e.fn % 16]
  | _ => []

/-- The ABUF slots that an operation names. -/
def State.slotsNamed (s : State) (e : SeqEntry) : List Nat :=
  match e.op, s.gangAt ⟨e.core, e.slot⟩ with
  | .mloop, some g => runSlots e.w1 g.rows
  | _, _ => []

/-- The residency that an operation names. -/
def SeqEntry.residency (e : SeqEntry) : Option Nat :=
  match e.op with
  | .mloop => some (e.handle % 256)
  | .wload => some (e.handle % 256)
  | .mcorr => some (e.handle % 256)
  | _ => none

/-- Whether two operations must be applied in queue order: they come from one wave, or name a common tile, slot or
residency (R327). -/
def State.ordered (s : State) (x e : SeqEntry) : Bool :=
  (x.core == e.core && x.slot == e.slot) || x.tilesNamed.any (fun t => e.tilesNamed.contains t) ||
    (s.slotsNamed x).any (fun t => (s.slotsNamed e).contains t) || (x.residency.isSome && x.residency == e.residency)

/-- Whether an operation may run: no earlier one that must come first stands in any of its queues. -/
def State.turnOf (s : State) (e : SeqEntry) : Bool :=
  !e.stop && (s.entryCores e).all (fun k => ((s.core k).tiles.takeWhile (fun x => x.id != e.id)).all (fun x => !s.ordered x e))

/-- The first operation of a kind in a core's own queue that may run. -/
def State.nextTile (s : State) (core : Nat) (op : OpT) : Option SeqEntry :=
  (s.core core).tiles.find? (fun e => e.op == op && e.core == core && s.turnOf e)

/-- The state with an operation changed in every queue. -/
def State.mapTile (s : State) (e : SeqEntry) (f : SeqEntry → SeqEntry) : State :=
  (s.entryCores e).foldl (fun t k => t.setCore k { (t.core k) with
    tiles := (t.core k).tiles.map (fun x => if x.id == e.id then f x else x) }) s

/-- An operation completed: gone from the queues, its class counter down, and the slots it read free to go (R328). -/
def State.finishTile (s : State) (e : SeqEntry) : State :=
  let s1 := (s.entryCores e).foldl (fun t k => t.setCore k { (t.core k) with
    tiles := (t.core k).tiles.filter (fun x => x.id != e.id) }) s
  let id : WaveId := ⟨e.core, e.slot⟩
  (s1.setWave id ((s1.wave id).countDown .tl)).settleFrees

/-- An operation that faults: its fault is pending, unless one is already, and it completes (R311, R412). -/
def State.pendTile (s : State) (e : SeqEntry) (cause info steps : Nat) : State :=
  let id : WaveId := ⟨e.core, e.slot⟩
  let w := s.wave id
  let p : PendTile := ⟨BitVec.ofNat 8 cause, BitVec.ofNat 22 (info % 2 ^ 16 + 2 ^ 16 * steps), e.order⟩
  (s.setWave id { w with tile := if w.tile.isSome then w.tile else some p }).finishTile e

end Sys2Proof.Machine
end

