-- ==== Sys2Proof/Machine/Loads.lean ====
section
/-! DEFINITION. Loading a residency (R301-R303, R315, R319): WLOAD, the reads of the backing image with their watch bits
(R96), and what a load writes into the planes and sum stores when it ends. -/

namespace Sys2Proof.Machine

/-! ## WLOAD at issue (R315) -/

/-- Whether a residency stands on other cores than a gang, or in another shape (PLACE of R311). -/
def Residency.elsewhere (r : Residency) (g : Gang) : Bool :=
  !(r.origin == g.coreAt 0 0 % 16 && r.rlog == g.rlog && r.clog == g.clog && r.seam == g.seam)

/-- WLOAD (R315). -/
def execWload (f : InsT) (s : State) : Out :=
  guarded f.g (lenT f) (fun s =>
    let h := s.srcU none 32 f.a
    let b := s.srcU none 64 f.b % 2 ^ 57
    if s.acquirePending then s.wait 5
    else s.withLease (fun s g => s.withResidency h (fun s k i r =>
      if r.st = .loading ∨ r.st = .revoked then s.residencyFault 0x21
      else if r.elsewhere g then s.residencyFault 0x22
      else if b % 128 ≠ 0 then s.residencyFault 0x23
      else s.enqueueTile f { (s.seqEntry .wload f h h b 0) with back := r.back } g.cores (fun t =>
        t.mapResidency k i (fun r => { r with prior := r.st, st := .loading, back := b }))))) s

/-! ## The image (R301) -/

/-- The rows and the columns of the array that a residency fills, and its K-units. -/
def Residency.rows (r : Residency) : Nat := 2 ^ r.rlog
def Residency.units (r : Residency) : Nat := 32 * r.rows * r.nstep

/-- The place in the image of the outlier weights. -/
def Residency.sideAt (r : Residency) : Nat := 128 + r.units * (32 * r.cols) * bytesPerUnit r.fmt

/-- The place in the image of the column scales. -/
def Residency.scaleAt (r : Residency) : Nat := r.sideAt + 2 * r.nout * (32 * r.cols)

/-- The 64-byte chunks of the image's lines. -/
def Residency.chunks (r : Residency) : Nat :=
  2 * ((r.scaleAt + (if r.smode then 32 * r.cols else 0) + 127) / 128)

/-- `n` bytes of an image as a number. -/
def imageField (m : List Host.Cell) (a n : Nat) : Nat := leNat (Memory.read m a n)

/-- The outlier indices that the header holds. -/
def imageOutk (m : List Host.Cell) : List Nat := (List.range 16).map (fun j => imageField m (32 + 2 * j) 2)

/-- Whether some numbers rise strictly. -/
def rising : List Nat → Bool
  | [] => true
  | [_] => true
  | a :: b :: l => decide (a < b) && rising (b :: l)

/-- Whether the header is that of the residency (R301). -/
def Residency.headerOk (r : Residency) (m : List Host.Cell) : Bool :=
  let ks := imageOutk m
  imageField m 0 2 == r.nout && (imageField m 2 1 == 0 || decide (5 ≤ r.fmt)) && imageField m 3 29 == 0 &&
    rising (ks.take r.nout) && (ks.take r.nout).all (fun k => decide (k < r.units)) && (ks.drop r.nout).all (· == 0) &&
    imageField m 64 64 == 0

/-- The bytes of the plane unit of a K-unit and a column; an outlier's row is zero (R301). -/
def Residency.unitAt (r : Residency) (m : List Host.Cell) (ks : List Nat) (k n : Nat) : Nat :=
  if ks.contains k then 0
  else imageField m (128 + (k * (32 * r.cols) + n) * bytesPerUnit r.fmt) (bytesPerUnit r.fmt)

/-- The outlier weight v(j, n) of the image. -/
def Residency.outlierAt (r : Residency) (m : List Host.Cell) (j n : Nat) : Nat :=
  imageField m (r.sideAt + 2 * (j * (32 * r.cols) + n)) 2

/-- The value of an I8 or N8 code. -/
def codeVal (fmt b : Nat) : Int := valOf (fmt == 5) 8 b

/-- rint of an exact sum, with its values for sums that are not finite (R303). -/
def rintSum (v : FpVal) : Int :=
  match v with
  | .nan _ => 0
  | .inf neg => if neg then -(2 ^ 31) else 2 ^ 31 - 1
  | .fin neg m e => (intRound 0 0 neg m e).1

/-- The column sums c(n) (R303). -/
def Residency.columnSum (r : Residency) (m : List Host.Cell) (ks : List Nat) (n : Nat) : Word :=
  if r.fmt < 5 then 0
  else BitVec.ofInt 32 (((List.range r.units).map (fun k => codeVal r.fmt (r.unitAt m ks k n))).foldl (· + ·) 0)

/-- The outlier sums o(n) (R303). -/
def Residency.outlierSum (r : Residency) (m : List Host.Cell) (n : Nat) : Word :=
  if r.fmt < 5 then 0
  else BitVec.ofInt 32 (rintSum (fpSum 0 ((List.range r.nout).map (fun j => fpDecode 1 (r.outlierAt m j n)))).1)

/-! ## The load under way -/

/-- Whether a WLOAD of the same residency stands behind an operation (R318). -/
def State.loadBehind (s : State) (e : SeqEntry) : Option SeqEntry :=
  if e.op == .wload then none
  else (s.core e.core).tiles.find? (fun x => x.op == .wload && x.handle % 256 == e.handle % 256 && decide (e.id < x.id))

/-- The state of a residency as an operation reads it: before a WLOAD that stands behind the operation (R318). -/
def Residency.seen (r : Residency) (behind : Bool) : ResState := if behind && r.st == .loading then r.prior else r.st

/-- A residency whose state an operation changes, in the same reading. -/
def Residency.become (r : Residency) (behind : Bool) (st : ResState) : Residency :=
  if behind && r.st == .loading then { r with prior := st } else { r with st := st }

/-- The image's address for the load of an operation: BACK, or the BACK before a WLOAD behind it (R318, R319). -/
def State.imageBase (s : State) (e : SeqEntry) (r : Residency) : Nat :=
  match s.loadBehind e with
  | some x => x.back
  | none => r.back

/-- The residency of an operation. -/
def State.entryResidency (s : State) (e : SeqEntry) : Residency := (s.cluster e.table).residency (e.handle % 256)

/-- What bars an operation of a gang from its residency before any of its work, by the sub-code of R311: a dead handle, PLACE
where a restore has put the gang on other cores (R322, R429), or a residency that has become REVOKED (R315, R321). The
handle comes first, as it does at issue (assumption 92). -/
def State.entryBar (s : State) (e : SeqEntry) (g : Gang) (r : Residency) (st : ResState) : Option Nat :=
  if r.deadFor e.handle (s.wave ⟨e.core, e.slot⟩).ctx then some 0x20
  else if e.table ≠ g.home ∨ r.elsewhere g then some 0x22
  else if st = .revoked then some 0x27
  else none

/-- A load that fails: the residency EVICTED with zero planes, or REVOKED as it stands; the fault pending (R302, R315,
R319). -/
def State.failLoad (s : State) (e : SeqEntry) (info : Nat) : State :=
  let k := e.table
  let i := e.handle % 256
  let behind := (s.loadBehind e).isSome
  let s1 := if (s.entryResidency e).seen behind = .loading then
      (s.zeroise k i).mapResidency k i (fun r => r.become behind .evicted)
    else s
  s1.pendTile e cResidency info (if e.op == .mloop then e.steps else 0)

/-- A load begun, once the wave's earlier writes have completed (R303): the planes that an eviction freed regained, the
state LOADING, the header's chunks to be read first. The lines of an earlier load of the same image stay among those that
back the residency: their watch bits may still be set (R96). -/
def State.beginLoad (s : State) (e : SeqEntry) : State :=
  if (s.core e.core).writesBefore e.slot e.before || !e.flying.isEmpty then s
  else
    let k := e.table
    let i := e.handle % 256
    let r := s.entryResidency e
    let behind := (s.loadBehind e).isSome
    let cores := r.cores k
    let p := r.nstep * bytesPerUnit r.fmt
    let ready := if !r.planes.isEmpty then some s
      else if s.quotaRoom r.dom p r.nout r.rows r.cols cores then s.takePlanes k i r.dom p r.nout r.rows r.cols cores cores
      else none
    match ready with
    | none => (s.mapResidency k i (fun r => r.become behind .loading)).failLoad e 0x24
    | some s1 =>
      let kept := if e.op == .wload && e.back != r.back then [] else r.lines
      let s2 := s1.mapResidency k i (fun r => { (r.become behind .loading) with winv := false, lines := kept })
      s2.mapTile e (fun x => { x with
        loading := true, lines := [0, 1], image := [], ts := (s.wave ⟨e.core, e.slot⟩).pts
        back := if e.op == .wload then r.back else x.back })

/-- A chunk of the image taken; with the header read, it is checked and the other chunks are due (R303). -/
def State.takeChunk (s : State) (e : SeqEntry) (chunk : Nat) (bs : List Byte) : State :=
  let r := s.entryResidency e
  let image := Memory.write e.image (64 * chunk) bs
  let left := e.lines.filter (fun c => c != chunk)
  let done := fun (ls : List Nat) => s.mapTile e (fun x => { x with
    image := image, lines := ls, flying := x.flying.filter (fun c => c != chunk) })
  if chunk < 2 ∧ left = [] then
    if r.headerOk image then done ((List.range r.chunks).drop 2) else s.failLoad e 0x23
  else done left

/-- The answer to the read of a chunk of an image: a poisoned one fails the load (R303, R311). -/
def State.imageCame (s : State) (core id chunk opx : Nat) (bs : List Byte) : State :=
  match (s.core core).tiles.find? (fun e => e.id == id && e.flying.contains chunk) with
  | none => s
  | some e => if opx % 2 = 1 then s.failLoad e 0x26 else s.takeChunk e chunk bs

/-- A chunk of an image whose read was redirected: it is asked for again (R87). -/
def State.imageBack (s : State) (core id chunk : Nat) : State :=
  match (s.core core).tiles.find? (fun e => e.id == id) with
  | none => s
  | some e =>
    let ctx := (s.wave ⟨e.core, e.slot⟩).ctx
    (s.setCore core ((s.core core).dropTlb ctx.asn ((s.imageBase e (s.entryResidency e) + 64 * chunk) % 2 ^ 57))).mapTile e
      (fun x => { x with flying := x.flying.filter (fun c => c != chunk) })

/-- One 64-byte chunk of the image asked of its home, which sets the watch bit of its line in the step that reads it
(R96, R303); the line is among those that back the residency from then on. -/
def State.readChunk (s : State) (e : SeqEntry) (chunk : Nat) : State :=
  let ctx := (s.wave ⟨e.core, e.slot⟩).ctx
  let r := s.entryResidency e
  let va := (s.imageBase e r + 64 * chunk) % 2 ^ 57
  match s.engineFind e.core ctx va 4 e.ts with
  | (s1, .fault c l) => s1.failLoad e (faultInfo c l 4)
  | (s1, .poison) => s1.failLoad e 0x26
  | (s1, .wait) => s1
  | (s1, .ok pa key mt) =>
    if pa / 2 ^ 50 ≠ 0 then s1.failLoad e 0x23
    else if key ≠ r.key then s1.failLoad e (faultInfo 6 0 4)
    else
      match s1.enginePost e.core ctx.dom pa false (.image e.core e.id chunk)
          { chunkRead .rd ctx.dom key pa e.ts with mt2 := mt == 2, watch := true } with
      | (s2, .sent) =>
        (s2.mapResidency e.table (e.handle % 256) (fun r => { r with
          lines := if r.lines.contains (pa / 128) then r.lines else r.lines ++ [pa / 128] })).mapTile e
            (fun x => { x with flying := x.flying ++ [chunk] })
      | (s2, .fault c l) => s2.failLoad e (faultInfo c l 4)
      | (s2, _) => s2

/-- A WLOAD that has its turn: its load begins, unless its residency bars it; a load that fails leaves EVICTED (R315). -/
def State.wloadTurn (s : State) (e : SeqEntry) (g : Gang) : State :=
  let r := s.entryResidency e
  match s.entryBar e g r r.st with
  | some c =>
    if !(s.turnOf e || c = 0x27) then s
    else if c = 0x20 then s.pendTile e cResidency c 0
    else s.failLoad e c
  | none => if s.turnOf e then s.beginLoad e else s

/-- RESIDENCY_LOAD: the load of operation `i` in a core's queue begins, or reads chunk `line` of its image (R303). -/
def execResidencyLoad (core i line : Nat) (s : State) : Out :=
  .next (match (s.core core).tiles[i]? with
  | none => s
  | some e =>
    if e.core != core || e.stop || s.stopped (s.wave ⟨e.core, e.slot⟩) then s
    else if e.loading then
      if (s.entryResidency e).seen (s.loadBehind e).isSome ≠ .loading then s.failLoad e 0x27
      else if e.lines.contains line && !e.flying.contains line then s.readChunk e line
      else s
    else if e.op == .wload then
      match s.gangAt ⟨e.core, e.slot⟩ with
      | some g => s.wloadTurn e g
      | none => s
    else s)

/-! ## The end of a load -/

/-- The bytes of one plane: PE(k, n) at byte 32 k + n (R290). -/
def Residency.planeBytes (r : Residency) (m : List Host.Cell) (ks : List Nat) (row col plane : Nat) : List Byte :=
  let bpk := bytesPerUnit r.fmt
  let k0 := 32 * r.rows * (plane / bpk) + 32 * row
  (List.range 1024).map (fun x => BitVec.ofNat 8 (r.unitAt m ks (k0 + x / 32) (32 * col + x % 32) / 2 ^ (8 * (plane % bpk))))

/-- The bytes of the side plane of a south-row core: v(j, n) at byte 64 j + 2 n. -/
def Residency.sideBytes (r : Residency) (m : List Host.Cell) (col : Nat) : List Byte :=
  (List.range (32 * r.nout)).flatMap (fun x => leBytes 2 (r.outlierAt m (x / 32) (32 * col + x % 32)))

/-- The planes of one core written from an image. -/
def Core.loadPlanes (c : Core) (r : Residency) (m : List Host.Cell) (ks : List Nat) (core row col : Nat) : Core :=
  let w1 := (Map.getD r.planes core []).zipIdx.foldl (fun st p => st.write (1024 * p.1) (r.planeBytes m ks row col p.2)) c.wbuf
  match Map.get? r.sidePlane core with
  | some p => { c with wbuf := w1.write (1024 * p) (r.sideBytes m col) }
  | none => { c with wbuf := w1 }

/-- The planes of every core of a residency written. -/
def State.loadAll (s : State) (r : Residency) (m : List Host.Cell) (ks : List Nat) (cores : List Nat) : State :=
  cores.zipIdx.foldl (fun t e => t.setCore e.1 ((t.core e.1).loadPlanes r m ks e.1 (e.2 / r.cols) (e.2 % r.cols))) s

/-- A residency with what its image gives, in the state that a load leaves (R300, R302-R304). -/
def Residency.filled (r : Residency) (m : List Host.Cell) (behind : Bool) : Residency :=
  let outk := imageOutk m
  let ks := outk.take r.nout
  let ns := List.range (32 * r.cols)
  { (r.become behind (if r.winv then .stale else if r.pin then .pinned else .ready)) with
    winv := false, judge := false, outk := outk, wzp := imageField m 2 1
    csum := ns.map (r.columnSum m ks), osum := ns.map (r.outlierSum m)
    uscale := if r.smode then ns.map (fun n => imageField m (r.scaleAt + n) 1) else [] }

/-- RESIDENCY_LOAD_COMPLETE: the load of operation `i` in a core's queue has read every chunk (R302, R303). -/
def execResidencyLoadComplete (core i : Nat) (s : State) : Out :=
  .next (match (s.core core).tiles[i]? with
  | none => s
  | some e =>
    if e.core != core || e.stop || !e.loading || !e.lines.isEmpty || s.stopped (s.wave ⟨e.core, e.slot⟩) then s
    else
      let k := e.table
      let r := s.entryResidency e
      let behind := (s.loadBehind e).isSome
      if r.seen behind ≠ .loading then s.failLoad e 0x27
      else
        let s1 := s.loadAll r e.image ((imageOutk e.image).take r.nout) (r.cores k)
        let s2 := s1.mapResidency k (e.handle % 256) (fun r => r.filled e.image behind)
        if e.op == .wload then s2.finishTile e
        else s2.mapTile e (fun x => { x with loading := false, image := [] }))

end Sys2Proof.Machine
end

