-- ==== Sys2Proof/Machine/Quant.lean ====
section
/-! DEFINITION. Quantisation and ternary weights (R284-R288): VQNT, VDQNT, VPACK, VUNPK, VAMAX, VUNP3 and VTDOT4, with the
counts %qsat and %qunder (R270). Narrow formats are numbered by R69. -/

namespace Sys2Proof.Machine

/-- The width of an element of a narrow format (R286). -/
def elemWidth (narrow : Nat) : Nat := if narrow = 2 ∨ narrow = 6 then 4 else 8

/-- The floating format of a narrow code 0-2 (R69). -/
def narrowFmt (narrow : Nat) : Nat := if narrow = 0 then 4 else if narrow = 1 then 5 else 8

/-- The range of an integer narrow format (R260). -/
def narrowRange (narrow : Nat) : Int × Int :=
  if narrow = 4 then (-128, 127) else if narrow = 5 then (0, 255) else (-8, 7)

/-- What a quantisation delivers for one element: the code, its flags, and whether it counts in %qsat and %qunder. -/
structure Quantised where
  bits : Nat
  fl : BitVec 8
  under : Bool
  deriving DecidableEq, Repr

/-- Whether a delivered element counts in %qsat: it saturated or clamped (R270). -/
def Quantised.sat (q : Quantised) : Bool := q.fl &&& flSAT != 0

/-- A finite value to a floating element (R284, R270). -/
def quantFloat (narrow mode r : Nat) (satf neg : Bool) (mag : Nat) (exp : Int) : Quantised :=
  let fmt := narrowFmt narrow
  let q := fpRound fmt mode r false satf neg mag exp
  ⟨q.1, q.2, mag != 0 && q.1 % signBit fmt == 0⟩

/-- A magnitude to an E8M0 scale (R284, R266); code 0x00, which stands for 2^-127 (R258), differs from a zero. -/
def quantScale (mode mag : Nat) (exp : Int) : Quantised :=
  if mag = 0 then ⟨0, flNX, false⟩
  else
    let lo := (Nat.log2 mag : Int) + exp
    let exact := 2 ^ Nat.log2 mag == mag
    let e := if mode = 2 && !exact then lo + 1 else lo
    if lo < -127 then ⟨0, flUF ||| flNX, true⟩
    else if 127 < e then ⟨0xFE, flSAT ||| flNX, false⟩
    else ⟨(e + 127).toNat, if exact then 0 else flNX, false⟩

/-- An integer clamped to a narrow range, with SAT and NX for a clamp (R263). -/
def quantClamp (narrow : Nat) (x : Int) (fl : BitVec 8) (under : Bool) : Quantised :=
  let r := narrowRange narrow
  ⟨wrapTo (elemWidth narrow) (max r.1 (min r.2 x)),
    fl ||| (if x < r.1 ∨ r.2 < x then flSAT ||| flNX else 0), under⟩

/-- One element of VQNT: the product `y`, with IV where it is invalid or a source signals, and the zero point. -/
def quantise (narrow mode r : Nat) (satf : Bool) (y : FpVal) (iv : Bool) (c : Int) : Quantised :=
  if narrow = 3 then
    match y with
    | .nan _ => ⟨0xFF, flIV, false⟩
    | .inf _ => ⟨0xFE, flSAT ||| flNX, false⟩
    | .fin _ m e => quantScale mode m e
  else if narrow < 3 then
    match y with
    | .nan _ => if narrow = 2 then ⟨0, flIV, false⟩ else ⟨defaultNan (narrowFmt narrow), ivFlag iv, false⟩
    | .inf n =>
      if narrow = 2 then ⟨if n then 0xF else 7, flSAT ||| flNX, false⟩
      else
        let q := cvtFloat (narrowFmt narrow) mode r false satf (.inf n)
        ⟨q.1, q.2, false⟩
    | .fin n m e => quantFloat narrow mode r satf n m e
  else
    match y with
    | .nan _ => quantClamp narrow c flIV false
    | .inf n => quantClamp narrow (if n then -(2 ^ 40) else 2 ^ 40) 0 false
    | .fin n m e =>
      let k := intRound mode r n m e
      quantClamp narrow (k.1 + c) (if k.2 then flNX else 0) (m != 0 && k.1 == 0)

/-- The wave with its quantisation counts raised by the elements of the active visible threads (R270). -/
def Wave.countQuant (w : Wave) (g : Guard) (q : Nat → Quantised) : Wave :=
  let ts := (List.range 64).filter (fun t => w.active g t)
  let count := fun (p : Quantised → Bool) => (ts.filter (fun t => p (q (w.lane t)))).length
  { w with csr := { w.csr with
      qsat := w.csr.qsat + BitVec.ofNat 32 (count Quantised.sat)
      qunder := w.csr.qunder + BitVec.ofNat 32 (count Quantised.under) } }

/-- A quantisation instruction: each active thread's element, its flags and the counts (R269, R270). -/
def vecQuant (f : InsA) (sr : State → Bool) (op : State → Nat → Nat → Quantised) (s : State) : Out :=
  vecDo (lenA f) (fun s =>
    let act := s.wv.activeLane f.g
    let d := s.drawsFor (sr s) f.g
    let q := fun l => op s l (Map.getD d.2 (s.wv.visible l) 0)
    { ((s.wv.putV act f.d 32 (fun l => (q l).bits)).raise (flagsOver act (fun l => (q l).fl))).countQuant f.g q with
      gens := d.1 }) s

/-- The rounding mode of VQNT: SR is no mode of E8M0 (R284). -/
def State.quantMode (s : State) (f : InsA) : Nat := s.rmode f (fnLo f.fn != 3)

/-- VQNT (R284). -/
def execVqnt (f : InsA) (s : State) : Out :=
  let narrow := fnLo f.fn
  vecQuant f (fun s => s.quantMode f == 5) (fun s l r =>
    let a := s.fA f (fnHi f.fn) l
    let b := s.fsrc f 2 f.b false false l
    let y := fpMul a b
    let c := valOf true 32 (s.src f.lit (.bits 32) f.c l)
    let q := quantise narrow (s.quantMode f) r f.sat y.1 (y.2 || a.isSig || b.isSig) (if 4 ≤ narrow then c else 0)
    { q with fl := q.fl ||| ivFlag (y.2 || a.isSig || b.isSig) }) s

/-- The value of an element (R258, R260, R285): a NaN for E8M0's 0xFF. -/
def elemValue (narrow x : Nat) : FpVal :=
  if narrow = 3 then (if x = 0xFF then .nan false else .fin false 1 ((x : Int) - 127))
  else if narrow < 3 then
    match fpDecode (narrowFmt narrow) x with
    | .nan _ => .nan false
    | v => v
  else
    let v := valOf (narrow != 5) (elemWidth narrow) x
    .fin (decide (v < 0)) v.natAbs 0

/-- The element less its zero point, exactly (R285). -/
def elemLess (v : FpVal) (c : Int) : FpVal :=
  match v with
  | .fin n m _ =>
    let x := (if n then -(m : Int) else m) - c
    .fin (decide (x < 0)) x.natAbs 0
  | v => v

/-- VDQNT (R285). -/
def execVdqnt (f : InsA) (s : State) : Out :=
  let narrow := fnLo f.fn
  let wide := fnHi f.fn
  vecFloat f 32 (fun _ => false) (fun s l _ =>
    let e := elemValue narrow (s.src f.lit (.bits 32) f.a l % 2 ^ elemWidth narrow)
    let x := if 4 ≤ narrow then elemLess e (valOf true 32 (s.src f.lit (.bits 32) f.c l)) else e
    let b := s.fsrc f 2 f.b false false l
    let y := fpMul x b
    let r := fpFinish wide (s.rmode f false) 0 s.wv.csr.ftz false y.1
    (r.1, r.2 ||| ivFlag (y.2 || b.isSig))) s

/-- The element index of VPACK and VUNPK (R286). -/
def elemIndex (narrow b : Nat) : Nat := if elemWidth narrow = 4 then b % 8 else b % 4

/-- VPACK (R286). -/
def execVpack (f : InsA) (s : State) : Out :=
  let narrow := fnLo f.fn
  let ew := elemWidth narrow
  vecQuant f (fun _ => false) (fun s l _ =>
    let a := s.src f.lit (.bits 32) f.a l
    let i := elemIndex narrow (s.src f.lit (.bits 32) f.b l)
    let c := s.src f.lit (.bits 32) f.c l
    let r := narrowRange narrow
    let v := valOf true 32 a
    let clamped := f.sat && (decide (v < r.1) || decide (r.2 < v))
    let e := if f.sat then wrapTo ew (max r.1 (min r.2 v)) else a % 2 ^ ew
    ⟨c - bitsOf (ew * i) ew c * 2 ^ (ew * i) + e * 2 ^ (ew * i), if clamped then flSAT ||| flNX else 0, false⟩) s

/-- VUNPK (R286). -/
def execVunpk (f : InsA) (s : State) : Out :=
  let narrow := fnLo f.fn
  let ew := elemWidth narrow
  vecFloat f 32 (fun _ => false) (fun s l _ =>
    let i := elemIndex narrow (s.src f.lit (.bits 32) f.b l)
    let e := bitsOf (ew * i) ew (s.src f.lit (.bits 32) f.a l)
    ((fpFinish (fnHi f.fn) 0 0 false false (elemValue narrow e)).1, 0)) s

/-- VAMAX writes a uniform register when at least one thread is active (R287). -/
def execVamax (f : InsA) (s : State) : Out :=
  vecDo (lenA f) (fun s =>
    let ts := (List.range 64).filter (fun t => s.wv.active f.g t)
    if ts.isEmpty then s.wv
    else
      let xs := s.src f.lit (.fp 2) f.c 0 :: ts.map (fun t => s.src f.lit (.fp 2) f.a (s.wv.lane t))
      if xs.any (fun x => (fpDecode 2 x).isNan) then (s.wv.putS f.d 32 0x7FC00000).raise flIV
      else s.wv.putS f.d 32 (xs.foldl (fun m x => max m (x % 2 ^ 31)) 0)) s

/-- Trit `i` of a T5 code (R260). -/
def tritOf (code i : Nat) : Int := ((code / 3 ^ i % 3 : Nat) : Int) - 1

/-- The byte of a trit as INT8. -/
def tritByte (code i : Nat) : Nat := wrapTo 8 (tritOf code i)

/-- VUNP3 (R288). -/
def execVunp3 (f : InsA) (s : State) : Out :=
  vecFloat f 64 (fun _ => false) (fun s l _ =>
    let i := s.src f.lit (.bits 32) f.b l % 4
    let x := bitsOf (8 * i) 8 (s.src f.lit (.bits 32) f.a l)
    if 242 < x then (0, flILL3)
    else (tritByte x 0 + 2 ^ 8 * tritByte x 1 + 2 ^ 16 * tritByte x 2 + 2 ^ 24 * tritByte x 3 + 2 ^ 32 * tritByte x 4, 0)) s

/-- VTDOT4 (R288). -/
def execVtdot4 (f : InsA) (s : State) : Out :=
  vecFloat f 32 (fun _ => false) (fun s l _ =>
    let x := s.src f.lit (.bits 32) f.a l % 256
    let b := s.src f.lit (.bits 32) f.b l
    let c := valOf true 32 (s.src f.lit (.bits 32) f.c l)
    let el := fun i => valOf (fnLo f.fn == 4) 8 (bitsOf (8 * i) 8 b)
    let sum := if 242 < x then c
      else if fnHi f.fn = 0 then c + tritOf x 0 * el 0 + tritOf x 1 * el 1 + tritOf x 2 * el 2 + tritOf x 3 * el 3
      else c + tritOf x 4 * el 0
    let r := finishInt f.sat true 32 sum
    (r.1, satFlag r.2 ||| (if 242 < x then flILL3 else 0))) s

end Sys2Proof.Machine
end

