-- ==== Sys2Proof/Machine/SpecialFn.lean ====
section
/-! DEFINITION. The special functions (R281-R283): the exact results, the correctly rounded square root, and for the others
an enclosure of the exact value in fixed point, from which the result is one of the representable values within the
bound; which one is a free choice. -/

namespace Sys2Proof.Machine

/-! ## Fixed point with 640 fraction bits -/

/-- One in fixed point. -/
def fxOne : Nat := 2 ^ 640

/-- Pi in fixed point, rounded down. -/
def fxPi : Nat := 0x3243f6a8885a308d313198a2e03707344a4093822299f31d0082efa98ec4e6c89452821e638d01377be5466cf34e90c6cc0ac29b7c97c50dd3f84d5b5b54709179216d5d98979fb1bd1310ba698dfb5ac

/-- The natural logarithm of 2 in fixed point, rounded down. -/
def fxLn2 : Nat := 0xb17217f7d1cf79abc9e3b39803f2f6af40f343267298b62d8a0d175b8baafa2be7b876206debac98559552fb4afa1b10ed2eae35c138214427573b291169b8253e96ca16224ae8c51acbda11317c387e

/-- A finite value in fixed point, rounded down. -/
def fxOf (neg : Bool) (mag : Nat) (exp : Int) : Int :=
  let x : Int := if -640 ≤ exp then ((mag * 2 ^ (exp + 640).toNat : Nat) : Int) else ((mag / 2 ^ (-640 - exp).toNat : Nat) : Int)
  if neg then -x else x

/-- The sum of t^k / k! up to k = 120, from the highest term down. -/
def fxExp (t : Int) : Int := (List.range 120).foldr (fun i acc => (fxOne : Int) + t * acc / (((i : Int) + 1) * fxOne)) (fxOne : Int)

/-- sin t for |t| below 1. -/
def fxSin (t : Int) : Int :=
  let q := t * t / fxOne
  let sum := (List.range 64).foldr (fun i acc => (fxOne : Int) - q * acc / ((2 * (i : Int) + 2) * (2 * i + 3) * fxOne)) (fxOne : Int)
  t * sum / fxOne

/-- cos t for |t| below 1. -/
def fxCos (t : Int) : Int :=
  let q := t * t / fxOne
  (List.range 64).foldr (fun i acc => (fxOne : Int) - q * acc / ((2 * (i : Int) + 1) * (2 * i + 2) * fxOne)) (fxOne : Int)

/-- The logarithm to base 2 of m / 2^(log2 m), by the series of the inverse hyperbolic tangent. -/
def fxLog2Frac (mag : Nat) : Nat :=
  let m := mag * fxOne / 2 ^ Nat.log2 mag
  let z := (m - fxOne) * fxOne / (m + fxOne)
  let q := z * z / fxOne
  let sum := (List.range 220).foldr (fun i acc => fxOne / (2 * i + 1) + q * acc / fxOne) 0
  2 * z * sum / fxLn2

/-! ## Enclosures -/

/-- An enclosure of an exact value that is not zero: lo x 2^exp ≤ |value| ≤ hi x 2^exp, with lo = hi where the value is a
binary fraction that fits. It is narrower than the distance of any other value from the points that decide a result. -/
structure Enclosure where
  neg : Bool
  lo : Nat
  hi : Nat
  exp : Int
  deriving DecidableEq, Repr

/-- The enclosure of a fixed-point value known to within `slack` units, times 2^shift. -/
def enclose (x : Int) (slack : Nat) (shift : Int) : Enclosure :=
  ⟨decide (x < 0), max 1 (x.natAbs - slack), x.natAbs + slack, shift - 640⟩

/-- The integer square root, bit by bit from bit `k` down. -/
def isqrtBits (n : Nat) : Nat → Nat → Nat
  | 0, r => r
  | k + 1, r => if (r + 2 ^ k) * (r + 2 ^ k) ≤ n then isqrtBits n k (r + 2 ^ k) else isqrtBits n k r

/-- The integer square root, rounded down. -/
def isqrt (n : Nat) : Nat := isqrtBits n (Nat.log2 n / 2 + 1) 0

/-- A magnitude with an even exponent. -/
def evenExp (mag : Nat) (exp : Int) : Nat × Int := if exp % 2 = 0 then (mag, exp) else (2 * mag, exp - 1)

/-- 1 / x. -/
def encRcp (neg : Bool) (mag : Nat) (exp : Int) : Enclosure :=
  ⟨neg, 2 ^ 200 / mag, (2 ^ 200 + mag - 1) / mag, -200 - exp⟩

/-- 1 / sqrt x. -/
def encRsq (mag : Nat) (exp : Int) : Enclosure :=
  let m := evenExp mag exp
  let r := isqrt (2 ^ 400 / m.1)
  ⟨false, r, if r * r * m.1 = 2 ^ 400 then r else r + 1, -200 - m.2 / 2⟩

/-- 2^x for |x| below 1,100, or an exponent cut to that. -/
def encExp2 (neg : Bool) (mag : Nat) (exp : Int) : Enclosure :=
  let x := if 12 ≤ (Nat.log2 mag : Int) + exp then (if neg then -(4096 : Int) else 4096) * fxOne else fxOf neg mag exp
  let n := x / fxOne
  enclose (fxExp (x % fxOne * fxLn2 / fxOne)) (2 ^ 20) n

/-- log2 x. -/
def encLog2 (mag : Nat) (exp : Int) : Enclosure :=
  enclose (((Nat.log2 mag : Int) + exp) * fxOne + fxLog2Frac mag) (2 ^ 20) 0

/-- sin or cos of q x pi / 2 + r. -/
def quadrant (q : Int) (r : Int) : Int :=
  match (q % 4).toNat with
  | 0 => fxSin r
  | 1 => fxCos r
  | 2 => -fxSin r
  | _ => -fxCos r

/-- sin x, or cos x = sin(x + pi / 2), for |x| below 2^22 (R283). -/
def encSin (isCos neg : Bool) (mag : Nat) (exp : Int) : Enclosure :=
  let x := fxOf neg mag exp
  let half : Int := (fxPi / 2 : Nat)
  let q := (2 * x + half) / (2 * half)
  enclose (quadrant (if isCos then q + 1 else q) (x - q * half)) (2 ^ 30) 0

/-- sin pi x, or cos pi x (R283). -/
def encSinPi (isCos neg : Bool) (mag : Nat) (exp : Int) : Enclosure :=
  let x := fxOf neg mag exp % (2 * fxOne)
  let q := (4 * x + fxOne) / (2 * fxOne)
  let r := (x - q * (fxOne / 2 : Nat)) * fxPi / fxOne
  enclose (quadrant (if isCos then q + 1 else q) r) (2 ^ 30) 0

/-- tanh x. -/
def encTanh (neg : Bool) (mag : Nat) (exp : Int) : Enclosure :=
  if 6 ≤ (Nat.log2 mag : Int) + exp then ⟨neg, 2 ^ 180 - 1, 2 ^ 180, -180⟩
  else
    let x := (fxOf false mag exp).toNat
    let n := 2 * x / fxLn2
    let e := (fxExp ((2 * x - n * fxLn2 : Nat) : Int)).toNat * 2 ^ n
    let t := (e - fxOne) * fxOne / (e + fxOne)
    enclose (if neg then -(t : Int) else t) (2 ^ 30) 0

/-! ## Choosing a representable value within the bound (R281) -/

/-- The value of a positive encoding, with the range continued above the largest finite value. -/
def idxVal (fmt i : Nat) : Nat × Int :=
  let mb := (fpShape fmt).2.1
  let bias := (fpShape fmt).2.2
  let e := i / 2 ^ mb
  if e = 0 then (i, 1 - (bias : Int) - mb) else (2 ^ mb + i % 2 ^ mb, (e : Int) - bias - mb)

/-- Whether the value of signed index `j` lies within `b` units in the last place of the enclosed value, wherever in its
enclosure that value lies. -/
def withinBound (fmt b : Nat) (x : Enclosure) (q : Int) (j : Int) : Bool :=
  let v := idxVal fmt j.natAbs
  let c := min (min x.exp q) v.2
  let sc := fun (m : Nat) (e : Int) => m * 2 ^ (e - c).toNat
  let m := sc v.1 v.2
  if j < 0 then m + sc x.hi x.exp ≤ sc b q
  else sc x.hi x.exp ≤ m + sc b q && m ≤ sc x.lo x.exp + sc b q

/-- The signed indices within the bound, around the value. -/
def boundChoices (fmt b : Nat) (x : Enclosure) : List Int :=
  let mb := (fpShape fmt).2.1
  let bias := (fpShape fmt).2.2
  let q := max ((Nat.log2 x.lo : Int) + x.exp - mb) (1 - (bias : Int) - mb)
  let n := (roundGrid 1 false 0 x.lo x.exp q).1
  let i := fpEncode fmt false n q
  ((List.range (3 * b + 5)).map (fun (k : Nat) => (i : Int) - (2 * b + 2) + k)).filter (withinBound fmt b x q)

/-- Whether an enclosed value is tiny in a format (R266): below its smallest normal number. -/
def Enclosure.tiny (x : Enclosure) (fmt : Nat) : Bool := dyLt x.hi x.exp 1 (1 - ((fpShape fmt).2.2 : Int))

/-- Whether an enclosed value exceeds the largest finite value of a format. -/
def Enclosure.tooLarge (x : Enclosure) (fmt : Nat) : Bool := dyLt (maxVal fmt).1 (maxVal fmt).2 x.lo x.exp

/-- The values that may be delivered for an exact value that does not overflow, and is not a tiny one under FTZ: the finite ones
within the bound, which FTZ leaves as they are. -/
def deliverable (fmt b : Nat) (x : Enclosure) (flush : Bool) : List Int :=
  (boundChoices fmt b x).filter (fun j =>
    decide (j.natAbs < infBits fmt false) && (!flush || decide (2 ^ (fpShape fmt).2.1 ≤ j.natAbs)))

/-- The delivered result, as the exact value has it (R281): beyond the largest finite value infinity with OF, a tiny one zero
of its sign under FTZ, any other a choice within the bound. -/
def deliver (fmt b : Nat) (x : Enclosure) (ftz : Bool) (choice : Nat) : Nat × BitVec 8 :=
  let flush := ftz && decide (fmt ≤ 2)
  if x.tooLarge fmt then (infBits fmt x.neg, flOF)
  else if flush && x.tiny fmt then (x.neg.toNat * signBit fmt, 0)
  else
    let cs := deliverable fmt b x flush
    let j := cs.getD (choice % cs.length) 0
    ((xor x.neg (decide (j < 0))).toNat * signBit fmt + j.natAbs, 0)

/-- The result of a special function whose exact value is enclosed: in FP32 and FP64 within the bound; FP16 and BF16
round an FP32 result once (R281). -/
def special (fmt b : Nat) (x : Enclosure) (ftz : Bool) (choice : Nat) : Nat × BitVec 8 :=
  if 2 ≤ fmt then deliver fmt b x ftz choice
  else if ftz && x.tiny fmt then (x.neg.toNat * signBit fmt, 0)
  else
    let r := deliver 2 b x false choice
    let v := fpFinish fmt 0 0 false false (fpDecode 2 r.1)
    (v.1, (v.2 ||| r.2) &&& flOF)

/-! ## Exact results and the instructions (R282) -/

/-- Whether a magnitude times 2^exp is an integer, and that integer. -/
def asInteger (mag : Nat) (exp : Int) : Option Nat :=
  if 0 ≤ exp then some (mag * 2 ^ exp.toNat)
  else if mag % 2 ^ (-exp).toNat = 0 then some (mag / 2 ^ (-exp).toNat) else none

/-- One or minus one in a format. -/
def oneIn (fmt : Nat) (neg : Bool) : Nat := fpEncode fmt neg (2 ^ (fpShape fmt).2.1) (-((fpShape fmt).2.1 : Int))

/-- A special function instruction: each thread's A, and a choice of its own. -/
def vecSpecial (f : InsA) (op : Nat → Bool → FpVal → Nat → Nat × BitVec 8) (s : State) : Out :=
  vecFloat f (fmtWidth (fmtOf f)) (fun _ => false) (fun s l _ =>
    match s.fA f (fmtOf f) l with
    | .nan sig => (defaultNan (fmtOf f), ivFlag sig)
    | v => op (fmtOf f) s.wv.csr.ftz v (Config.choice (s.draws - 64 + s.wv.visible l)))
    { s with draws := s.draws + 64 }

/-- An invalid operation's result. -/
def invalidOp (fmt : Nat) : Nat × BitVec 8 := (defaultNan fmt, flIV)

/-- 1 / x (R281, R282). -/
def sfRcp (fmt : Nat) (ftz : Bool) (v : FpVal) (ch : Nat) : Nat × BitVec 8 :=
  match v with
  | .nan _ => (defaultNan fmt, 0)
  | .inf n => (n.toNat * signBit fmt, 0)
  | .fin n m e => if m = 0 then (infBits fmt n, flDZ) else special fmt 1 (encRcp n m e) ftz ch

/-- 1 / sqrt x (R281, R282). -/
def sfRsq (fmt : Nat) (ftz : Bool) (v : FpVal) (ch : Nat) : Nat × BitVec 8 :=
  match v with
  | .nan _ => (defaultNan fmt, 0)
  | .inf n => if n then invalidOp fmt else (0, 0)
  | .fin n m e =>
    if m = 0 then (infBits fmt n, flDZ) else if n then invalidOp fmt else special fmt 1 (encRsq m e) ftz ch

/-- 2^x (R281, R282). -/
def sfExp2 (fmt : Nat) (ftz : Bool) (v : FpVal) (ch : Nat) : Nat × BitVec 8 :=
  match v with
  | .nan _ => (defaultNan fmt, 0)
  | .inf n => if n then (0, 0) else (infBits fmt false, 0)
  | .fin n m e =>
    match asInteger m e with
    | some k =>
      -- an integer power: exact, infinity, or zero
      let r := fpRound fmt 1 0 ftz false false 1 (if n then -(min k 5000 : Int) else (min k 5000 : Int))
      if !n && dyLt (maxVal fmt).1 (maxVal fmt).2 1 (min k 5000 : Int) then (infBits fmt false, flOF) else (r.1, 0)
    | none => special fmt 2 (encExp2 n m e) ftz ch

/-- log2 x (R281, R282). -/
def sfLog2 (fmt : Nat) (ftz : Bool) (v : FpVal) (ch : Nat) : Nat × BitVec 8 :=
  match v with
  | .nan _ => (defaultNan fmt, 0)
  | .inf n => if n then invalidOp fmt else (infBits fmt false, 0)
  | .fin n m e =>
    if m = 0 then (infBits fmt true, flDZ)
    else if n then invalidOp fmt
    else if 2 ^ Nat.log2 m = m then
      let k := (Nat.log2 m : Int) + e
      ((fpRound fmt 0 0 false false (decide (k < 0)) k.natAbs 0).1, 0)
    else special fmt 2 (encLog2 m e) ftz ch

/-- sin x and cos x (R281-R283). -/
def sfSin (isCos : Bool) (fmt : Nat) (ftz : Bool) (v : FpVal) (ch : Nat) : Nat × BitVec 8 :=
  match v with
  | .nan _ => (defaultNan fmt, 0)
  | .inf _ => invalidOp fmt
  | .fin n m e =>
    if m = 0 then (if isCos then oneIn fmt false else n.toNat * signBit fmt, 0)
    else if 22 ≤ (Nat.log2 m : Int) + e then
      ((match fmt with
        | 0 => 0x7E2A
        | 1 => 0x7FEA
        | _ => 0x7FC0002A), flRNG)
    else special fmt 2 (encSin isCos n m e) ftz ch

/-- sin pi x and cos pi x (R281-R283). -/
def sfSinPi (isCos : Bool) (fmt : Nat) (ftz : Bool) (v : FpVal) (ch : Nat) : Nat × BitVec 8 :=
  match v with
  | .nan _ => (defaultNan fmt, 0)
  | .inf _ => invalidOp fmt
  | .fin n m e =>
    match asInteger m e, asInteger m (e + 1) with
    | some k, _ => (if isCos then oneIn fmt (k % 2 == 1) else n.toNat * signBit fmt, 0)
    | none, some k => (if isCos then 0 else oneIn fmt (xor n (k % 4 == 3)), 0)
    | none, none => special fmt 1 (encSinPi isCos n m e) ftz ch

/-- tanh x (R281, R282). -/
def sfTanh (fmt : Nat) (ftz : Bool) (v : FpVal) (ch : Nat) : Nat × BitVec 8 :=
  match v with
  | .nan _ => (defaultNan fmt, 0)
  | .inf n => (oneIn fmt n, 0)
  | .fin n m e => if m = 0 then (n.toNat * signBit fmt, 0) else special fmt 2 (encTanh n m e) ftz ch

/-- VRCP (R281, R282). -/
def execVrcp (f : InsA) (s : State) : Out := vecSpecial f sfRcp s
/-- VRSQ (R281, R282). -/
def execVrsq (f : InsA) (s : State) : Out := vecSpecial f sfRsq s
/-- VEXP2 (R281, R282). -/
def execVexp2 (f : InsA) (s : State) : Out := vecSpecial f sfExp2 s
/-- VLOG2 (R281, R282). -/
def execVlog2 (f : InsA) (s : State) : Out := vecSpecial f sfLog2 s
/-- VSIN (R281-R283). -/
def execVsin (f : InsA) (s : State) : Out := vecSpecial f (sfSin false) s
/-- VCOS (R281-R283). -/
def execVcos (f : InsA) (s : State) : Out := vecSpecial f (sfSin true) s
/-- VSINPI (R281-R283). -/
def execVsinpi (f : InsA) (s : State) : Out := vecSpecial f (sfSinPi false) s
/-- VCOSPI (R281-R283). -/
def execVcospi (f : InsA) (s : State) : Out := vecSpecial f (sfSinPi true) s
/-- VTANH (R281, R282). -/
def execVtanh (f : InsA) (s : State) : Out := vecSpecial f sfTanh s

/-- The square root of a positive value with a sticky bit, exact enough for one rounding in any format. -/
def sqrtSticky (mag : Nat) (exp : Int) : Nat × Int :=
  let m := evenExp mag exp
  let n := m.1 * 2 ^ 160
  let r := isqrt n
  (2 * r + (if r * r = n then 0 else 1), m.2 / 2 - 81)

/-- sqrt x, correctly rounded (R281, R282). -/
def fpSqrt (fmt mode : Nat) (ftz : Bool) (v : FpVal) : Nat × BitVec 8 :=
  match v with
  | .nan sig => (defaultNan fmt, ivFlag sig)
  | .inf n => if n then invalidOp fmt else (infBits fmt false, 0)
  | .fin n m e =>
    if m = 0 then (n.toNat * signBit fmt, 0)
    else if n then invalidOp fmt
    else
      let r := sqrtSticky m e
      fpRound fmt mode 0 ftz false false r.1 r.2

/-- VSQRT (R281, R282). -/
def execVsqrt (f : InsA) (s : State) : Out :=
  vecFloat f (fmtWidth (fmtOf f)) (fun _ => false) (fun s l _ =>
    fpSqrt (fmtOf f) (s.rmode f false) s.wv.csr.ftz (s.fA f (fmtOf f) l)) s

end Sys2Proof.Machine
end

