-- ==== Sys2Proof/Machine/Matrix.lean ====
section
/-! DEFINITION. The bonded array (R290-R296, R304, R307-R309, R318-R326): MLOOP and its K-steps, MZERO, MEPI and MCORR,
and their runs in the sequencer. -/

namespace Sys2Proof.Machine

/-! ## Elements (R290) -/

/-- The values of a K-unit of a floating format: one element, or the two of an E2M1 byte. -/
def unitVals (fmt b : Nat) : List FpVal :=
  match fmt with
  | 0 => [fpDecode 4 b]
  | 1 => [fpDecode 5 b]
  | 2 => [fpDecode 8 (b % 16), fpDecode 8 (b / 16)]
  | 3 => [fpDecode 1 b]
  | _ => [fpDecode 0 b]

/-- What an MLOOP works with: its gang, its residency, W1 and FN, and the K-step in hand, counted from KS0. -/
structure Loop where
  g : Gang
  r : Residency
  w1 : Nat
  zp : Bool
  step : Nat
  deriving DecidableEq, Repr

/-- The fields of W1 (R310). -/
def Loop.a0 (x : Loop) : Nat := x.w1 % 32
def Loop.tile (x : Loop) : Nat := x.w1 / 2 ^ 5 % 16
def Loop.ks0 (x : Loop) : Nat := x.w1 / 2 ^ 9 % 64
def Loop.ns (x : Loop) : Nat := x.w1 / 2 ^ 15 % 64
def Loop.afmt (x : Loop) : Nat := x.w1 / 2 ^ 21 % 8

/-- The residency's K-step. -/
def Loop.kstep (x : Loop) : Nat := x.ks0 + x.step

/-- The address in ABUF of K-unit `k` of core row `row` in row `m` of the run (R295). -/
def Loop.actAt (x : Loop) (m row k : Nat) : Nat :=
  2048 * x.a0 + m * runRow x.w1 x.g.rows + (x.step * (32 * x.g.rows) + 32 * row + k) * bytesPerUnit x.afmt

/-- The code of an activation. -/
def Loop.act (x : Loop) (s : State) (m row k : Nat) : Nat :=
  leNat ((s.core (x.g.coreAt row 0)).abuf.read (x.actAt m row k) (bytesPerUnit x.afmt))

/-- The code of a weight: PE(k, n) of bond position (row, col), over the planes of the K-step (R290). -/
def Loop.weight (x : Loop) (s : State) (row col k n : Nat) : Nat :=
  let core := x.g.coreAt row col
  let bpk := bytesPerUnit x.r.fmt
  let ps := ((Map.getD x.r.planes core []).drop (x.kstep * bpk)).take bpk
  leNat (ps.flatMap (fun p => (s.core core).wbuf.read (1024 * p + 32 * k + n) 1))

/-- The outliers of the K-step: the index j, with the K-unit's place in the step. -/
def Loop.outliers (x : Loop) : List (Nat × Nat) :=
  let lo := 32 * x.g.rows * x.kstep
  ((x.r.outk.take x.r.nout).zipIdx.filter (fun e => decide (lo ≤ e.1) && decide (e.1 < lo + 32 * x.g.rows))).map
    (fun e => (e.2, e.1 - lo))

/-- aside(m, j): from the side store of the slot in which row m begins, on the core whose row the outlier's K-unit enters
(R294, R295). -/
def Loop.sideAt (x : Loop) (m j : Nat) : Nat := sidePlace ((x.a0 + m * runRow x.w1 x.g.rows / 2048) % 32) m j

/-- aside(m, j). -/
def Loop.aside (x : Loop) (s : State) (m : Nat) (o : Nat × Nat) : FpVal :=
  fpDecode 1 (leNat ((s.core (x.g.coreAt (o.2 / 32) 0)).sideStore.read (x.sideAt m o.1) 2))

/-- v(j, n) of a column of a south-row core. -/
def Loop.sideWeight (x : Loop) (s : State) (col n : Nat) (o : Nat × Nat) : FpVal :=
  let core := x.g.coreAt (x.g.rows - 1) col
  fpDecode 1 (leNat ((s.core core).wbuf.read (1024 * (Map.getD x.r.sidePlane core 0) + 64 * o.1 + 2 * n) 2))

/-! ## The sums (R307, R308) -/

/-- The exact sum of terms rounded to FP32, RNE: a NaN gives 0x7FC00000. -/
def roundSum (ts : List FpVal) : Nat := (fpFinish 2 0 0 false false (fpSum 0 ts).1).1

/-- The products of row `row` of the bond for output row `m` and column `n` of position `col`. -/
def Loop.products (x : Loop) (s : State) (m row col n : Nat) : List FpVal :=
  (List.range 32).flatMap (fun k =>
    ((unitVals x.afmt (x.act s m row k)).zip (unitVals x.r.fmt (x.weight s row col k n))).map (fun p => (fpMul p.1 p.2).1))

/-- The products of the outliers. -/
def Loop.sideProducts (x : Loop) (s : State) (m col n : Nat) : List FpVal :=
  x.outliers.map (fun o => (fpMul (x.aside s m o) (x.sideWeight s col n o)).1)

/-- One boundary rounding after another, north to south (R307). -/
def boundary (x : Nat) : List (List FpVal) → Nat
  | [] => x
  | p :: ps => boundary (roundSum (fpDecode 2 x :: p)) ps

/-- The floating-point update of a tile element (R307). -/
def Loop.updateFp (x : Loop) (s : State) (t m col n : Nat) : Nat :=
  let p := fun row => x.products s m row col n
  let rows := x.g.rows
  let t1 :=
    if rows = 1 then roundSum (fpDecode 2 t :: p 0)
    else
      let y := boundary (roundSum (p 0)) ((List.range (rows - 2)).map (fun i => p (i + 1)))
      roundSum (fpDecode 2 t :: fpDecode 2 y :: p (rows - 1))
  if 0 < x.r.nout then roundSum (fpDecode 2 t1 :: x.sideProducts s m col n) else t1

/-- The exact sum of the integer products of every row. -/
def Loop.intSum (x : Loop) (s : State) (m col n : Nat) : Int :=
  ((List.range (32 * x.g.rows)).map (fun k =>
    codeVal x.afmt (x.act s m (k / 32) (k % 32)) * codeVal x.r.fmt (x.weight s (k / 32) col (k % 32) n))).foldl (· + ·) 0

/-- The integer update of a tile element (R308). -/
def Loop.updateInt (x : Loop) (s : State) (t m col n : Nat) : Nat :=
  let side := if 0 < x.r.nout then rintSum (fpSum 0 (x.sideProducts s m col n)).1 else 0
  wrapTo 32 ((t : Int) + x.intSum s m col n + side)

/-- The row sum that .ZP adds: the activations of row m but for outliers (R308). -/
def Loop.rowSum (x : Loop) (s : State) (m : Nat) : Int :=
  ((List.range (32 * x.g.rows)).map (fun k =>
    if x.outliers.any (fun o => o.2 == k) then 0 else codeVal x.afmt (x.act s m (k / 32) (k % 32)))).foldl (· + ·) 0

/-- A word of a core memory. -/
def Store.word (st : Store) (a : Nat) : Nat := leNat (st.read a 4)

/-- The bytes of 32 x 32 words, row by row. -/
def tileBytes (f : Nat → Nat → Nat) : List Byte := (List.range 1024).flatMap (fun i => leBytes 4 (f (i / 32) (i % 32)))

/-- Word `i` of the side vector of the destination tile after the K-step (R304, R308). -/
def Loop.sideWord (x : Loop) (s : State) (old i col : Nat) : Nat :=
  let v := if x.zp then wrapTo 32 ((old : Int) + x.rowSum s i) else old
  if x.r.smode then v - 2 ^ 8 * bitsOf 8 8 v + 2 ^ 8 * (x.r.uscale.getD (32 * col + i) 0 % 256) else v

/-- A south-row core after the K-step, all operands as `s` holds them (R305). -/
def Loop.coreAfter (x : Loop) (s : State) (col : Nat) (c : Core) : Core :=
  let old := fun i j => c.cbuf.word (4096 * x.tile + 128 * i + 4 * j)
  let new := fun i j => if 5 ≤ x.r.fmt then x.updateInt s (old i j) i col j else x.updateFp s (old i j) i col j
  let side := (List.range 32).flatMap (fun i => leBytes 4 (x.sideWord s (c.sideVec.word (128 * x.tile + 4 * i)) i col))
  let bit := 1#16 <<< x.tile
  { c with
    cbuf := c.cbuf.write (4096 * x.tile) (tileBytes new)
    sideVec := c.sideVec.write (128 * x.tile) side
    scaled := if x.r.smode then c.scaled ||| bit else c.scaled &&& ~~~bit }

/-- One K-step over every south-row core (R291). -/
def Loop.run (x : Loop) (s : State) : State :=
  (List.range x.g.cols).foldl (fun t col =>
    let k := x.g.coreAt (x.g.rows - 1) col
    t.setCore k (x.coreAfter s col (t.core k))) s

/-- Whether the K-step reads a poisoned word of ABUF, CBUF or a side vector (R170, R414). -/
def Loop.poisoned (x : Loop) (s : State) : Bool :=
  (List.range x.g.rows).any (fun row =>
    (List.range 32).any (fun m =>
      (s.core (x.g.coreAt row 0)).abuf.poisoned (x.actAt m row 0) (32 * bytesPerUnit x.afmt) ||
        x.outliers.any (fun o => o.2 / 32 == row && (s.core (x.g.coreAt row 0)).sideStore.poisoned (x.sideAt m o.1) 2))) ||
  x.g.south.any (fun k => (s.core k).cbuf.poisoned (4096 * x.tile) 4096 || (s.core k).sideVec.poisoned (128 * x.tile) 128)

/-! ## MLOOP (R318-R322) -/

/-- Whether an activation format agrees with a weight format (R320). -/
def afmtOk (fmt afmt : Nat) : Bool :=
  match fmt with
  | 0 => decide (afmt ≤ 1)
  | 1 => decide (afmt ≤ 1)
  | 5 => decide (5 ≤ afmt)
  | 6 => decide (5 ≤ afmt)
  | _ => afmt == fmt

/-- Whether MLOOP's formats and steps are admitted (FORMAT of R311). -/
def Loop.formatOk (x : Loop) : Bool :=
  afmtOk x.r.fmt x.afmt && (!x.zp || decide (5 ≤ x.r.fmt)) && decide (x.ks0 + x.ns ≤ x.r.nstep)

/-- Whether the block of a gang on a core holds what MLOOP names there (R166, R318). -/
def Loop.held (x : Loop) (s : State) (n grid k : Nat) : Bool :=
  match (s.core k).blocks.find? (fun b => b.gang == some n && b.grid == grid) with
  | none => false
  | some b =>
    (!x.g.west.contains k || (s.core k).holdsSlots b (runSlots x.w1 x.g.rows)) &&
      (!x.g.south.contains k || b.cmask.getLsbD x.tile)

/-- STALE_RESIDENCY's sub-code for a state that stops an MLOOP (R321). -/
def ResState.staleCode : ResState → Nat
  | .evicted => 2
  | _ => 1

/-- MLOOP (R318). -/
def execMloop (f : InsT) (s : State) : Out :=
  guarded f.g (lenT f) (fun s =>
    let h := s.srcU none 32 f.a
    if s.acquirePending then s.wait 5
    else s.withLease (fun s g => s.withResidency h (fun s _ _ r =>
      let x : Loop := ⟨g, r, w1Of f, f.fn.getLsbD 1, 0⟩
      if r.st = .revoked then s.residencyFault 0x21
      else if r.elsewhere g then s.residencyFault 0x22
      else if !x.formatOk then s.residencyFault 0x25
      else if !(g.cores.all (fun k => x.held s g.num g.grid k)) then s.trapAll cBufRange 0
      else if (r.st = .stale ∨ r.st = .evicted) ∧ !f.fn.getLsbD 0 then s.trapAll cStale r.st.staleCode
      else s.enqueueTile f (s.seqEntry .mloop f h 0 0 f.fn.toNat) g.cores (fun t => t)))) s

/-- An MLOOP that stops before a K-step because of its residency (R321, R322): barred, stale or evicted. -/
def State.stopLoop (s : State) (e : SeqEntry) (g : Gang) (r : Residency) (st : ResState) : Option (Nat × Nat) :=
  match s.entryBar e g r st with
  | some c => some (cResidency, c)
  | none =>
    match st with
    | .stale => some (cStale, 1)
    | .evicted => some (cStale, 2)
    | _ => none

/-- The core of a bond in whose planes an error has arisen, by a free value. -/
def State.planeCore (s : State) (g : Gang) (e : SeqEntry) : Nat :=
  g.cores.getD (Config.choice s.draws / 4 % max 1 g.cores.length) e.core

/-- The plane word of a residency on a core in which an error has arisen, by a free value: 256 x plane + word (R435). -/
def State.planeWord (s : State) (e : SeqEntry) (core : Nat) : Nat :=
  let ps := (s.entryResidency e).planesOn core
  let c := Config.choice (s.draws + 1)
  256 * ps.getD (c % ps.length) 0 + c / ps.length % 256

/-- An uncorrectable error in a plane word of the residency on a core of the bond as the K-step uses it (R431, R302). -/
def State.planeError (s : State) (e : SeqEntry) (core word : Nat) : State :=
  let k := e.table
  let i := e.handle % 256
  let behind := (s.loadBehind e).isSome
  let s1 := ((s.freePlanes k i).mapResidency k i (fun r => r.become behind .evicted)).logError (dieOf core) 1 2 false
    (s.entryResidency e).dom (core % 2048) word 0
  s1.pendTile e cResidency 0x26 e.steps

/-- The K-step itself, with the use of the residency noted, and the end of the MLOOP after its last step. -/
def State.doStep (s : State) (e : SeqEntry) (x : Loop) : State :=
  let s1 := ((x.run s).mapResidency e.table (e.handle % 256) (fun r => { r with lastUse := s.nextOp })).mapTile e
    (fun y => { y with steps := y.steps + 1, first := false })
  { (if x.ns ≤ e.steps + 1 then s1.finishTile e else s1) with nextOp := s.nextOp + 1 }

/-- One K-step of an MLOOP, its reload, or its stop (R319, R321). An error may arise in the planes that it reads on any core of
the bond (R431); one beyond correction may be a fault of that core, which fences it (R437). -/
def State.loopStep (s : State) (e : SeqEntry) (g : Gang) : State :=
  let r := s.entryResidency e
  let st := r.seen (s.loadBehind e).isSome
  let x : Loop := ⟨g, r, e.w1, e.fn.testBit 1, e.steps⟩
  match s.stopLoop e g r st with
  | some (c, i) =>
    if c = cStale ∧ e.first ∧ e.fn.testBit 0 then s.beginLoad e else s.pendTile e c i e.steps
  | none =>
    if st ≠ .ready ∧ st ≠ .pinned then s
    else if x.poisoned s then s.pendTile e cResidency 0x26 e.steps
    else
      let core := s.planeCore g e
      let word := s.planeWord e core
      let s1 := s.drawn.drawn
      match s.pick 4 with
      | 0 => s1.doStep e x
      | 1 => (s1.corrected (dieOf core) 1 0 r.dom 0 (core % 2048) word).doStep e x
      | 2 => s1.planeError e core word
      | _ => (s1.setCore core { (s.core core) with fenced := true }).planeError e core word

/-- K_STEP: the first MLOOP of an origin core whose turn it is (R307, R321); once Mantis stops the context, no K-step
begins (R419). -/
def execKStep (core : Nat) (s : State) : Out :=
  .next (match s.nextTile core .mloop with
  | none => s
  | some e =>
    match s.gangAt ⟨e.core, e.slot⟩ with
    | none => s
    | some g => if e.loading || s.stopped (s.wave ⟨e.core, e.slot⟩) then s else (s.useBuffers g.cores).loopStep e g)

/-! ## MZERO (R324) -/

/-- Whether the block of the wave in hand holds some tiles (R166). -/
def State.tilesHeld (s : State) (ts : List Nat) : Bool :=
  match s.myBlock? with
  | some b => ts.all (fun t => b.cmask.getLsbD t)
  | none => false

/-- MZERO (R324). -/
def execMzero (f : InsT) (s : State) : Out :=
  guarded f.g (lenT f) (fun s =>
    let m := s.srcU none 32 f.a % 2 ^ 16
    if s.acquirePending then s.wait 5
    else if !s.tilesHeld ((List.range 16).filter (fun i => m.testBit i)) then s.trapAll cBufRange 0
    else s.enqueueTile f (s.seqEntry .mzero f 0 m 0 0) [s.cur.core] (fun t => t)) s

/-- A core with one tile and its side vector zero. -/
def Core.zeroTile (c : Core) (t : Nat) : Core :=
  { c with
    cbuf := c.cbuf.write (4096 * t) (List.replicate 4096 0)
    sideVec := c.sideVec.write (128 * t) (List.replicate 128 0)
    scaled := c.scaled &&& ~~~(1#16 <<< t) }

/-- MZERO_RUN (R324). -/
def execMzeroRun (core : Nat) (s : State) : Out :=
  .next (match s.nextTile core .mzero with
  | none => s
  | some e =>
    let s := s.useBuffers [core]
    (s.setCore core (e.tilesNamed.foldl Core.zeroTile (s.core core))).finishTile e)

/-! ## MEPI (R325) -/

/-- MEPI: the scale, the zero point and the rounding mode are those at issue. -/
def execMepi (f : InsT) (s : State) : Out :=
  guarded f.g (lenT f) (fun s =>
    let w1 := w1Of f
    let rm := w1 / 2 ^ 19 % 8
    if s.acquirePending then s.wait 5
    else if !s.tilesHeld [w1 % 16, w1 / 2 ^ 4 % 16, w1 / 2 ^ 8 % 16] then s.trapAll cBufRange 0
    else s.enqueueTile f (s.seqEntry .mepi f 0 (s.src none (.fp 2) f.a 0) (s.srcU none 32 f.b)
      (if rm = 6 then s.wv.csr.rm.toNat else rm)) [s.cur.core] (fun t => t)) s

/-- A value times a power of two. -/
def scaleBy (v : FpVal) (k : Int) : FpVal :=
  match v with
  | .fin n m e => .fin n m (e + k)
  | v => v

/-- The element of the source tile, with its block scales (R325). -/
def mepiSource (itype bs : Bool) (t si sj : Nat) : FpVal :=
  let x := if itype then (let v := valOf true 32 t; .fin (decide (v < 0)) v.natAbs 0) else fpDecode 2 t
  if bs then
    if si % 256 = 0xFF ∨ bitsOf 8 8 sj = 0xFF then .nan false
    else scaleBy x (((si % 256 : Nat) : Int) + (bitsOf 8 8 sj : Nat) - 254)
  else x

/-- The activation function (R325); `ch` chooses within the bound of VTANH (R281). -/
def mepiAct (act y ch : Nat) : Nat :=
  if act = 1 then
    match fpDecode 2 y with
    | .nan _ => y
    | .inf neg => if neg then 0 else y
    | .fin neg m _ => if neg ∨ m = 0 then 0 else y
  else if act = 2 then (sfTanh 2 false (fpDecode 2 y) ch).1
  else y

/-- The bytes of an output element. -/
def outBytes (ofmt : Nat) : Nat :=
  match ofmt with
  | 0 => 4
  | 1 => 2
  | 2 => 2
  | _ => 1

/-- The output conversion (R325): rounding in the format's own rules, as VQNT for the narrow formats. -/
def mepiOut (ofmt rm : Nat) (satf : Bool) (zp : Int) (y : Nat) : Quantised :=
  let v := fpDecode 2 y
  match ofmt with
  | 0 => ⟨y, 0, false⟩
  | 1 => let q := cvtFloat 1 rm 0 false false v; ⟨q.1, q.2, false⟩
  | 2 => let q := cvtFloat 0 rm 0 false false v; ⟨q.1, q.2, false⟩
  | 3 => quantise 0 rm 0 satf v false 0
  | 4 => quantise 1 rm 0 satf v false 0
  | 5 => quantise 4 rm 0 satf v false zp
  | _ => quantise 5 rm 0 satf v false zp

/-- One element of MEPI: the output code with the flags of both roundings. -/
def mepiElement (e : SeqEntry) (x bias : FpVal) (ch : Nat) : Quantised :=
  let scale := fpDecode 2 e.a
  let bs := if e.w1.testBit 12 then [bias] else [.fin false 0 0]
  let y := fpSumOp 2 0 0 false [(x, scale)] bs ([x, scale] ++ if e.w1.testBit 12 then [bias] else [])
  let q := mepiOut (e.w1 / 2 ^ 14 % 8) e.fn (e.w1.testBit 22) (valOf true 32 e.b) (mepiAct (e.w1 / 2 ^ 17 % 4) y.1 ch)
  { q with fl := y.2 ||| q.fl }

/-- All the elements of MEPI, row by row; each takes a choice of its own. -/
def mepiElements (e : SeqEntry) (c : Core) (draw : Nat) : List Quantised :=
  let ts := e.w1 % 16
  let side := fun t i => c.sideVec.word (128 * t + 4 * i)
  (List.range 1024).map (fun n =>
    let i := n / 32
    let j := n % 32
    let x := mepiSource (e.w1.testBit 23) (e.w1.testBit 13) (c.cbuf.word (4096 * ts + 4 * n)) (side ts i) (side ts j)
    mepiElement e x (fpDecode 2 (side (e.w1 / 2 ^ 8 % 16) j)) (Config.choice (draw + n)))

/-- A wave's FLAGS and counts after a MEPI (R270, R325). -/
def Wave.tookQuant (w : Wave) (qs : List Quantised) : Wave :=
  let w1 := w.raise (qs.foldl (fun m q => m ||| q.fl) 0)
  { w1 with csr := { w1.csr with
      qsat := w1.csr.qsat + BitVec.ofNat 32 (qs.filter Quantised.sat).length
      qunder := w1.csr.qunder + BitVec.ofNat 32 (qs.filter (fun q => q.under)).length } }

/-- Whether MEPI reads a poisoned word (R170, R414). -/
def SeqEntry.mepiPoisoned (e : SeqEntry) (c : Core) : Bool :=
  c.cbuf.poisoned (4096 * (e.w1 % 16)) 4096 || c.sideVec.poisoned (128 * (e.w1 % 16)) 128 ||
    (e.w1.testBit 12 && c.sideVec.poisoned (128 * (e.w1 / 2 ^ 8 % 16)) 128)

/-- MEPI_RUN (R325). -/
def execMepiRun (core : Nat) (s : State) : Out :=
  .next (match s.nextTile core .mepi with
  | none => s
  | some e =>
    let s := s.useBuffers [core]
    let c := s.core core
    let td := e.w1 / 2 ^ 4 % 16
    if e.w1.testBit 13 != c.scaled.getLsbD (e.w1 % 16) then s.pendTile e cResidency 0x25 0
    else if e.mepiPoisoned c then s.pendTile e cResidency 0x26 0
    else
      let qs := mepiElements e c s.draws
      let bytes := qs.flatMap (fun q => leBytes (outBytes (e.w1 / 2 ^ 14 % 8)) q.bits)
      let id : WaveId := ⟨core, e.slot⟩
      let s1 := s.setCore core { c with cbuf := c.cbuf.write (4096 * td) bytes, scaled := c.scaled &&& ~~~(1#16 <<< td) }
      let s2 := s1.setWave id ((s1.wave id).tookQuant qs)
      { s2 with draws := s2.draws + 1024 }.finishTile e)

/-! ## MCORR (R326, R309) -/

/-- The bond column of a core in the south row of a residency, if it stands there. -/
def Residency.southColumn (r : Residency) (table core : Nat) : Option Nat :=
  ((r.cores table).drop ((r.rows - 1) * r.cols)).findIdx? (fun k => k == core)

/-- MCORR (R326). -/
def execMcorr (f : InsT) (s : State) : Out :=
  guarded f.g (lenT f) (fun s =>
    let h := s.srcU none 32 f.a
    if s.acquirePending then s.wait 5
    else s.withResidency h (fun s k _ r =>
      if r.st = .stale ∨ r.st = .evicted then s.trapAll cStale r.st.staleCode
      else if !r.loaded then s.residencyFault 0x21
      else if r.fmt < 5 then s.residencyFault 0x25
      else if (r.southColumn k s.cur.core).isNone then s.residencyFault 0x22
      else if !s.tilesHeld [f.fn.toNat % 16] then s.trapAll cBufRange 0
      else s.enqueueTile f (s.seqEntry .mcorr f h 0 (s.srcU none 32 f.b) f.fn.toNat) [s.cur.core] (fun t => t))) s

/-- The corrected element (R309). -/
def correct (r : Residency) (za : Int) (t sm n : Nat) : Nat :=
  let zw := codeVal r.fmt r.wzp
  let k : Int := (r.units : Int) - r.nout
  wrapTo 32 ((t : Int) - zw * sm - za * ((r.csum.getD n 0).toNat + (r.osum.getD n 0).toNat) + k * za * zw)

/-- What bars an MCORR when it runs, by cause and sub-code (R326): the handle and the state are read again; a core of
another cluster after a restore is no place of the residency (R311, R429). -/
def State.mcorrBar (s : State) (e : SeqEntry) (r : Residency) : Option (Nat × Nat) :=
  if r.deadFor e.handle (s.wave ⟨e.core, e.slot⟩).ctx then some (cResidency, 0x20)
  else if e.table ≠ s.tableOf ⟨e.core, e.slot⟩ ∨ (r.southColumn e.table e.core).isNone then some (cResidency, 0x22)
  else
    match r.st with
    | .revoked => some (cResidency, 0x27)
    | .stale => some (cStale, 1)
    | .evicted => some (cStale, 2)
    | _ => none

/-- A core whose tile MCORR has corrected for bond column `col` (R309). -/
def Core.corrected (c : Core) (r : Residency) (za : Int) (tile col : Nat) : Core :=
  let new := fun i j => correct r za (c.cbuf.word (4096 * tile + 128 * i + 4 * j)) (c.sideVec.word (128 * tile + 4 * i))
    (32 * col + j)
  { c with cbuf := c.cbuf.write (4096 * tile) (tileBytes new), scaled := c.scaled &&& ~~~(1#16 <<< tile) }

/-- MCORR_RUN (R326): a residency that a WLOAD behind it has made LOADING leaves nothing to write and no fault. -/
def execMcorrRun (core : Nat) (s : State) : Out :=
  .next (match s.nextTile core .mcorr with
  | none => s
  | some e =>
    let s := s.useBuffers [core]
    let c := s.core core
    let r := s.entryResidency e
    let tile := e.fn % 16
    match s.mcorrBar e r with
    | some (cause, code) => s.pendTile e cause code 0
    | none =>
      if !r.loaded then s.finishTile e
      else if c.cbuf.poisoned (4096 * tile) 4096 || c.sideVec.poisoned (128 * tile) 128 then s.pendTile e cResidency 0x26 0
      else (s.setCore core (c.corrected r (valOf true 32 e.b) tile ((r.southColumn e.table core).getD 0))).finishTile e)

end Sys2Proof.Machine
end

