-- ==== Sys2Proof/Machine/SpillFill.lean ====
section
/-! DEFINITION. SPILLF and FILLF (R225-R229). -/

namespace Sys2Proof.Machine

/-- The address of a logical frame's slot (R225). -/
def Wave.frameSlot (w : Wave) (f : Nat) : Nat := (w.csr.spill.toNat + 4224 * f) % 2 ^ 57

/-- The 33 lines of a slot as pieces (R227). -/
def slotPieces (va : Nat) : List Piece := (List.range 33).map (fun i => ⟨0, (va + 128 * i) % 2 ^ 57, 0, 128, 128 * i, 0, 0⟩)

/-- A slot that translates to a window other than 00 raises PROT_FAULT, PHYS_RANGE (R228), with the level of the leaf that
says so (R84); a fault of the walk comes first (assumption 120). -/
def State.slotWindow (s : State) (kind : Nat) : Checked → Checked
  | .ok ps =>
    match ps.find? (fun p => decide (2 ^ 50 ≤ p.pa)) with
    | none => .ok ps
    | some p => .fault 0x11 (faultInfo 5 (match (s.find p.va kind).1 with
      | .ok e => e.level
      | _ => 0) kind)
  | c => c

/-- The bytes of a frame in its slot (R225). -/
def Frame.bytes (fr : Frame) : List Byte :=
  leBytes 8 (fr.link.toNat % 2 ^ 57) ++ List.replicate 120 0 ++ 
    ((List.range 16).flatMap (fun r => (List.range 64).flatMap (fun t => leBytes 4 (fr.word r t).toNat)))

/-- The common part of SPILLF and FILLF: the slot translated whole, then the effect. -/
def State.withSlot (s : State) (n kind f : Nat) (act : State → List Piece → State) : State :=
  if s.acquireSysPending then s.wait 5
  else
    let r0 := s.checkPieces kind (slotPieces (s.wv.frameSlot f))
    let r := (r0.1.oneRefusal s.wv.waits.rejects, r0.2)
    match r.1.slotWindow kind r.2 with
    | .wait => r.1.wait 3
    | .fault c i => r.1.dropAnswers.trapAll c i
    | .ok ps => ((act r.1.dropAnswers ps).advance n).progress s.cur.core

/-- An operation of format T with the fields that every kind sets. -/
def slotOp (kind : OpKind) (cls : Cls) (frame : Nat) (reqs : List Request) : MemOp :=
  { id := 0, slot := 0, kind := kind, cls := some cls, dst := none, frame := frame, uni := true, size := 4224,
    sign := false, so := 0, scope := 0, opx := 0, threads := 1, reqs := reqs }

/-- SPILLF (R227); the frame is free from its issue on (R228, assumption 119). -/
def execSpillf (f : InsT) (s : State) : Out :=
  guarded f.g (lenT f) (fun s =>
    let w := s.wv.win
    if w.cur < w.lo + 2 then s.trapAll cFrameFault 1
    else if s.wv.frameBusy w.lo then s.wait 2
    else s.withSlot (lenT f) 1 w.lo (fun s ps =>
      let bytes := (w.frame (w.phys w.lo)).bytes
      let reqs := ps.map (fun p => pieceRequest p ((bytes.drop p.off).take 128))
      (s.mapWv (fun v => { v with win := { v.win with place := Map.del v.win.place w.lo, lo := w.lo + 1 } })).issueOp
        (slotOp .spill .st w.lo reqs) [])) s

/-- FILLF (R227). -/
def execFillf (f : InsT) (s : State) : Out :=
  guarded f.g (lenT f) (fun s =>
    let w := s.wv.win
    if w.lo = 0 then s.trapAll cFrameFault 3
    else if w.cur + 2 - w.lo = w.nf then s.trapAll cFrameFault 2
    else s.withSlot (lenT f) 0 (w.lo - 1) (fun s ps =>
      let free := w.freeFrames
      let i := free.getD (s.pick free.length) 0
      let s1 := if free.length ≤ 1 then s else s.drawn
      let reqs := ps.map (fun p => pieceRequest p [])
      (s1.mapWv (fun v => { v with win := { v.win with place := Map.set v.win.place (w.lo - 1) i, lo := w.lo - 1 } })).issueOp
        (slotOp .fill .ld (w.lo - 1) reqs) ((List.range 16).map (fun r => SbReg.v (w.lo - 1) r)))) s

end Sys2Proof.Machine
end

