-- ==== Sys2Proof/Machine/Attempt.lean ====
section
/-! DEFINITION. What an instruction of a wave would do if it issued now, which tells whether a wait of its own holds it
(R364, R365). -/

namespace Sys2Proof.Machine

/-- The outcome of an instruction in a state, without issuing it; an event of the device is no instruction of a wave. -/
def attempt (i : Instr) (s : State) : Out :=
  match i with
  | .nop f => execNop f s
  | .bra f => execBra f s
  | .brq f => execBrq f s
  | .brv f => execBrv f s
  | .brx f => execBrx f s
  | .call f => execCall f s
  | .callx f => execCallx f s
  | .ret f => execRet f s
  | .jenrol f => execJenrol f s
  | .jpark f => execJpark f s
  | .jstrike f => execJstrike f s
  | .exit f => execExit f s
  | .waitc f => execWaitc f s
  | .sleep f => execSleep f s
  | .yield f => execYield f s
  | .etrig f => execEtrig f s
  | .enq f => execEnq f s
  | .trap f => execTrap f s
  | .eret f => execEret f s
  | .bkpt f => execBkpt f s
  | .bond f => execBond f s
  | .unbond f => execUnbond f s
  | .csrr f => execCsrr f s
  | .csrw f => execCsrw f s
  | .smov f => execSmov f s
  | .sadd f => execSadd f s
  | .ssub f => execSsub f s
  | .smul f => execSmul f s
  | .smulhi f => execSmulhi f s
  | .smad f => execSmad f s
  | .smin f => execSmin f s
  | .smax f => execSmax f s
  | .slop3 f => execSlop3 f s
  | .sshl f => execSshl f s
  | .sshr f => execSshr f s
  | .sbfe f => execSbfe f s
  | .sbfi f => execSbfi f s
  | .spopc f => execSpopc f s
  | .sclz f => execSclz f s
  | .scmp f => execScmp f s
  | .ssel f => execSsel f s
  | .qlop f => execQlop f s
  | .vmov f => execVmov f s
  | .vadd f => execVadd f s
  | .vsub f => execVsub f s
  | .vmul f => execVmul f s
  | .vmulhi f => execVmulhi f s
  | .vmad f => execVmad f s
  | .vmin f => execVmin f s
  | .vmax f => execVmax f s
  | .vabs f => execVabs f s
  | .vlop3 f => execVlop3 f s
  | .vshl f => execVshl f s
  | .vshr f => execVshr f s
  | .vshf f => execVshf f s
  | .vbfe f => execVbfe f s
  | .vbfi f => execVbfi f s
  | .vpopc f => execVpopc f s
  | .vclz f => execVclz f s
  | .vbrev f => execVbrev f s
  | .vcmp f => execVcmp f s
  | .vsel f => execVsel f s
  | .plop f => execPlop f s
  | .vdot4 f => execVdot4 f s
  | .vcvti f => execVcvti f s
  | .vshfl f => execVshfl f s
  | .vrdlane f => execVrdlane f s
  | .vwrlane f => execVwrlane f s
  | .vballot f => execVballot f s
  | .vredux f => execVredux f s
  | .vscan f => execVscan f s
  | .vfadd f => execVfadd f s
  | .vfmul f => execVfmul f s
  | .vfma f => execVfma f s
  | .vfmin f => execVfmin f s
  | .vfmax f => execVfmax f s
  | .vfcmp f => execVfcmp f s
  | .vfrnd f => execVfrnd f s
  | .vfclass f => execVfclass f s
  | .vcvt f => execVcvt f s
  | .vfma2 f => execVfma2 f s
  | .vfdot2 f => execVfdot2 f s
  | .vfldexp f => execVfldexp f s
  | .vrcp f => execVrcp f s
  | .vrsq f => execVrsq f s
  | .vsqrt f => execVsqrt f s
  | .vexp2 f => execVexp2 f s
  | .vlog2 f => execVlog2 f s
  | .vsin f => execVsin f s
  | .vcos f => execVcos f s
  | .vsinpi f => execVsinpi f s
  | .vcospi f => execVcospi f s
  | .vtanh f => execVtanh f s
  | .vqnt f => execVqnt f s
  | .vdqnt f => execVdqnt f s
  | .vpack f => execVpack f s
  | .vunpk f => execVunpk f s
  | .vamax f => execVamax f s
  | .vunp3 f => execVunp3 f s
  | .vtdot4 f => execVtdot4 f s
  | .ld f => execLd f s
  | .st f => execSt f s
  | .lds f => execLds f s
  | .sts f => execSts f s
  | .ldu f => execLdu f s
  | .stu f => execStu f s
  | .atom f => execAtom f s
  | .red f => execRed f s
  | .atoms f => execAtoms f s
  | .fence f => execFence f s
  | .cctl f => execCctl f s
  | .ldb f => execLdb f s
  | .stb f => execStb f s
  | .msend f => execMsend f s
  | .tcopy f => execTcopy f s
  | .tcopym f => execTcopym f s
  | .tshape f => execTshape f s
  | .tsfence f => execTsfence f s
  | .twany f => execTwany f s
  | .twall f => execTwall f s
  | .tfirst f => execTfirst f s
  | .tclr f => execTclr f s
  | .aclaim f => execAclaim f s
  | .afree f => execAfree f s
  | .walloc f => execWalloc f s
  | .wload f => execWload f s
  | .wpin f => execWpin f s
  | .wunpin f => execWunpin f s
  | .wrevoke f => execWrevoke f s
  | .wquery f => execWquery f s
  | .mloop f => execMloop f s
  | .mzero f => execMzero f s
  | .mepi f => execMepi f s
  | .mcorr f => execMcorr f s
  | .phnew f => execPhnew f s
  | .phfree f => execPhfree f s
  | .phreg f => execPhreg f s
  | .phdrop f => execPhdrop f s
  | .phsig f => execPhsig f s
  | .phwait f => execPhwait f s
  | .phsw f => execPhsw f s
  | .phexp f => execPhexp f s
  | .bar f => execBar f s
  | .rwait f => execRwait f s
  | .qpush f => execQpush f s
  | .qpop f => execQpop f s
  | .qmark f => execQmark f s
  | .qstat f => execQstat f s
  | .spillf f => execSpillf f s
  | .fillf f => execFillf f s
  | _ => .next s

/-- The reason for which the wave in hand waits at its next instruction, where issuing it would do nothing but wait. -/
def State.heldBy (s : State) : Option Nat :=
  match s.fetchDecode with
  | (s1, none) =>
    match s1.wv.waits.stall with
    | some k => if s1 = s.wait k then some k else none
    | none => none
  | (s1, some i) =>
    match attempt i s1 with
    | .next t =>
      match t.wv.waits.stall with
      | some k => if t = s1.wait k then some k else none
      | none => none
    | _ => none

end Sys2Proof.Machine
end

