-- ==== Sys2Proof/Machine/Issue.lean ====
section
/-! DEFINITION. Issue (R63-R65, R230, R363-R365, R377): which wave of a core's active scheduling set issues in a core
cycle, and the counts that follow; the waves that leave the set and those that enter it. -/

namespace Sys2Proof.Machine

/-! ## Readiness (R364, R365) -/

/-- Whether a register waits for a result: of an operation, or of an instruction that has issued (R65). -/
def Wave.awaited (w : Wave) (r : SbReg) : Bool := w.sb.any (fun e => e.1 == r) || w.pend.any (fun p => p.regs.contains r)

/-- Why the wave in hand is not ready now: the first stall code of R365 that holds, or none where it is ready;
`awake` leaves the drowsy wake out of the question (R363). -/
def State.stallNow (s : State) (awake : Bool) : Option Nat :=
  let w := s.wv
  if w.waits.ending || w.halt.isSome then some 5
  else if s.engine.contains s.cur then some 6
  else if s.now < w.sched.notBefore then some 0
  else if w.impKey.isSome || w.impMixed.isSome then none
  else if w.waits.polls ≠ 0 then some 6
  else
    match s.fetchDecode with
    | (_, none) => s.heldBy
    | (_, some i) =>
      let rs := viewRegs w.win i.view
      let full := match viewClass i.view with
        | some k => decide (63 ≤ w.cnt.of k)
        | none => false
      if w.sched.drowsy && !awake && touchesVector rs then some 1
      else if rs.any w.awaited then some 2
      else
        match s.heldBy with
        | some 2 => some 2
        | some 3 => some 3
        | h =>
          if s.myCore.rejected s.cur.slot then some 3
          else if s.now < s.myCore.pipes.getD (viewPipe i.view) 0 || full then some 4
          else h

/-- The stall of a wave slot. -/
def State.stallOf (s : State) (id : WaveId) (awake : Bool) : Option Nat := (s.focus id).stallNow awake

/-- A wave's scheduling state changed. -/
def Wave.mapSched (w : Wave) (f : Sched → Sched) : Wave := { w with sched := f w.sched }

/-- A wave slot's scheduling state changed. -/
def State.mapSched (s : State) (id : WaveId) (f : Sched → Sched) : State := s.setWave id ((s.wave id).mapSched f)

/-- The waves on a core. -/
def State.wavesOn (s : State) (core : Nat) : List WaveId :=
  ((List.range 8).map (fun i => (⟨core, i⟩ : WaveId))).filter (fun id => (s.wave id).sched.live)

/-- The waves of a core's active scheduling set. -/
def State.setOn (s : State) (core : Nat) : List WaveId := (s.wavesOn core).filter (fun id => (s.wave id).sched.inSet)

/-- The oldest of some waves: the one placed first, the lower slot among equals (R363). -/
def State.oldest (s : State) : List WaveId → Option WaveId
  | [] => none
  | id :: ids =>
    match State.oldest s ids with
    | none => some id
    | some x => if (s.wave x).sched.age < (s.wave id).sched.age then some x else some id

/-- The youngest of some waves. -/
def State.youngest (s : State) : List WaveId → Option WaveId
  | [] => none
  | id :: ids =>
    match State.youngest s ids with
    | none => some id
    | some x => if (s.wave id).sched.age ≤ (s.wave x).sched.age then some x else some id

/-- Whether a wave outside the set is ready (R363): awake and with nothing to wait for but the drowsy wake. -/
def State.readyOutside (s : State) (id : WaveId) : Bool :=
  let w := s.wave id
  !w.sched.inSet && decide (w.sched.sleepUntil ≤ s.now) && (s.stallOf id true).isNone

/-- A wave entering the set. -/
def Sched.enter (x : Sched) : Sched := { x with inSet := true, idle := 0, readyOut := 0, sleepUntil := 0 }

/-- A wave leaving the set; its frames are drowsy from then on (R230). -/
def Sched.exit (x : Sched) : Sched := { x with inSet := false, idle := 0, readyOut := 0, drowsy := true }

/-- The free places of a core's set given to the oldest ready waves outside; a wave that has just left by YIELD or woken
comes after the others (R363, R377). -/
def State.refill (core : Nat) : Nat → State → State
  | 0, s => s
  | n + 1, s =>
    if 4 ≤ (s.setOn core).length then s
    else
      let out := (s.wavesOn core).filter (fun id => s.readyOutside id)
      let first := out.filter (fun id => (s.wave id).sched.sleepUntil == 0)
      match s.oldest (if first.isEmpty then out else first) with
      | none => s
      | some id => State.refill core n (s.mapSched id Sched.enter)

/-! ## One core cycle (R364, R365) -/

/-- The wave of a core that issues: the oldest of those passed over 32 times, else the oldest ready wave. -/
def State.chosen (s : State) (ready : List WaveId) : Option WaveId :=
  let late := ready.filter (fun id => decide (32 ≤ (s.wave id).sched.passed))
  s.oldest (if late.isEmpty then ready else late)

/-- A stall counter raised. -/
def Sched.count (x : Sched) (code : Nat) : Sched := { x with stalls := modAt (· + 1) x.stalls code }

/-- A wave's counts after a cycle in which `stall` is its stall, `won` tells whether it issued and `other` whether another wave
did. -/
def Sched.tick (x : Sched) (stall : Option Nat) (won other readyOut : Bool) : Sched :=
  if !x.inSet then { (x.count 10) with readyOut := if readyOut then x.readyOut + 1 else 0 }
  else
    match stall with
    | some k => { (x.count k) with idle := x.idle + 1, drowsy := x.drowsy && k != 1 }
    | none =>
      if won then { x with passed := 0, idle := 0 }
      else if other then { (x.count 9) with passed := x.passed + 1, idle := 0 }
      else { x with idle := 0 }

/-- The events that a wave's counts make due (R363, R377). -/
def dueEvents (id : WaveId) (x : Sched) (now : Nat) : List Instr :=
  (if x.inSet && x.idle == 64 then [Instr.activeSetIdleExit id] else []) ++
    (if !x.inSet && x.readyOut == 256 then [Instr.activeSetLongWait id] else []) ++
    (if !x.inSet && x.sleepUntil != 0 && decide (x.sleepUntil ≤ now) then [Instr.sleepExpiry id] else [])

/-- Whether an instruction of the wave in hand acts: its guard holds, or that of an active thread; VBALLOT writes its
destination without one (R255). -/
def Wave.acts (w : Wave) (v : View) : Bool :=
  if viewLane v then w.activeMask (viewGuard v) != 0 || v.op == some (.a .vballot) else w.guardUni (viewGuard v)

/-- The registers that an instruction writes as it issues, in the state that finds it (R65): none where its guard stops it,
where it waits or traps, or where its result comes later. -/
def State.resultRegs (s : State) (i : Instr) : List SbReg :=
  if viewLate i.view || !s.wv.acts i.view then []
  else
    match attempt i s with
    | .next t => if t.wv.waits.handler || t.wv.waits.stall.isSome || t.wv.halt.isSome then [] else viewDests s.wv.win i.view
    | _ => []

/-- Whether an imprecise trap of a wave is pending (R404). -/
def Wave.imprecise (w : Wave) : Bool := w.impKey.isSome || w.impMixed.isSome

/-- An instruction picked to issue: its pipe is held from this cycle on (R63), and the registers that it writes are scoreboarded
until the result is there, a number of core cycles that no rule gives (R65). A wave that takes an imprecise trap instead
issues no instruction and holds no pipe (R404). -/
def State.pickFor (s : State) (id : WaveId) : State :=
  let r := (s.focus id).fetchDecode
  match if (s.wave id).imprecise then none else r.2 with
  | none => s
  | some i =>
    let c := s.core id.core
    let s1 := s.setCore id.core { c with pipes := c.pipes.set (viewPipe i.view) (s.now + i.view.hold) }
    match r.1.resultRegs i with
    | [] => s1
    | regs =>
      let w := s1.wave id
      (s1.setWave id { w with pend := w.pend ++ [⟨s.now + 1 + Config.choice s.draws, regs, viewMayFlag i.view⟩] }).drawn

/-- The wave with the results that have come by a core cycle: their registers clear (R65). -/
def Wave.expire (w : Wave) (now : Nat) : Wave := { w with pend := w.pend.filter (fun p => decide (now < p.ends)) }

/-- The results that have come on a core. -/
def State.expire (s : State) (core : Nat) : State :=
  (s.wavesOn core).foldl (fun t id => if (t.wave id).pend.isEmpty then t else t.setWave id ((t.wave id).expire s.now)) s

/-- One core in one cycle: the results that have come, refused requests tried again (R172), the set filled, one wave picked,
of those whose context Mantis does not stop (R420), and the counts of every wave. -/
def State.cycleCore (s : State) (core : Nat) : State :=
  let s0 := State.refill core 4 ((s.expire core).retry core)
  let ws := s0.wavesOn core
  let stalls := ws.map (fun id => (id, s0.stallOf id false))
  let ready := (stalls.filter (fun e => (s0.wave e.1).sched.inSet && e.2.isNone && !s0.stopped (s0.wave e.1))).map (fun e => e.1)
  let pick := s0.chosen ready
  let s1 := stalls.foldl (fun t e =>
    t.mapSched e.1 (fun x => x.tick e.2 (some e.1 == pick) pick.isSome (s0.readyOutside e.1))) s0
  let due := ws.flatMap (fun id => dueEvents id (s1.wave id).sched s1.now)
  let s2 := { s1 with agenda := s1.agenda ++ due }
  match pick with
  | none => s2
  | some id => { (s2.pickFor id) with issuing := s2.issuing ++ [id] }

/-- A wave put into a list that ascends by core and slot. -/
def placeWave (id : WaveId) : List WaveId → List WaveId
  | [] => [id]
  | x :: xs => if 8 * id.core + id.slot ≤ 8 * x.core + x.slot then id :: x :: xs else x :: placeWave id xs

/-- The operations that have gone to the synchronisation engines (R330): those of a network cycle's first core cycle are kept
for its second, where all that the network cycle brought take effect in ascending order of core and slot (assumption 108). -/
def State.engineOrder (s : State) : State :=
  if s.now % 2 = 0 then
    let ops := s.issuing.filter (fun id => match (s.focus id).fetchDecode.2 with
      | some i => viewEngine i.view
      | none => false)
    { s with issuing := s.issuing.filter (fun id => !ops.contains id), engine := s.engine ++ ops }
  else { s with issuing := s.engine.foldr placeWave s.issuing, engine := [] }

/-- ISSUE_CYCLE: the next core cycle, in which each core picks one ready wave (R364). -/
def execIssueCycle (s : State) : Out :=
  let t := s.cores.foldl (fun t c => t.cycleCore c.1) { s with now := s.now + 1 }
  .next t.engineOrder

/-- ACTIVE_SET_IDLE_EXIT: a wave without an issuable instruction for 64 core cycles leaves the set, and the oldest ready
wave outside takes its place (R363). -/
def execActiveSetIdleExit (id : WaveId) (s : State) : Out :=
  let x := (s.wave id).sched
  .next (if x.live && x.inSet && decide (64 ≤ x.idle) then State.refill id.core 1 (s.mapSched id Sched.exit) else s)

/-- ACTIVE_SET_LONG_WAIT: a wave that has been ready outside for 256 core cycles replaces the youngest of the set
(R363). -/
def execActiveSetLongWait (id : WaveId) (s : State) : Out :=
  let x := (s.wave id).sched
  .next (if x.live && !x.inSet && decide (256 ≤ x.readyOut) then
      match s.youngest (s.setOn id.core) with
      | some y => (s.mapSched y Sched.exit).mapSched id Sched.enter
      | none => s.mapSched id Sched.enter
    else s)

/-- SLEEP_EXPIRY: a sleeping wave whose count has run out is ready again, and takes a free place (R377). -/
def execSleepExpiry (id : WaveId) (s : State) : Out :=
  let x := (s.wave id).sched
  .next (if x.live && !x.inSet && x.sleepUntil != 0 && decide (x.sleepUntil ≤ s.now) then
      State.refill id.core 4 (s.mapSched id (fun x => { x with sleepUntil := 0 }))
    else s)

end Sys2Proof.Machine
end

