-- ==== Sys2Proof/Machine/Dispatcher.lean ====
section
/-! DEFINITION. Blocks and waves (R218, R297, R354-R362, R393): how a wave ends and a block retires, and how a cluster
dispatcher places the next block or gang of a grid. -/

namespace Sys2Proof.Machine

/-! ## Retiring (R359, R360) -/

/-- The core with a block's buffers and scratchpad left undefined for the next holder of the domain (R161). -/
def Core.dropBlock (c : Core) (b : Block) (draw : Nat) : Core :=
  let tiles := (List.range 16).filter (fun i => b.cmask.getLsbD i)
  let slots := (List.range 32).filter (fun i => b.amask.getLsbD i)
  let c1 := { c with
    blocks := c.blocks.filter (fun x => !(x.grid == b.grid && x.b == b.b))
    spad := if b.spad = 0 then c.spad else c.spad.fill b.sb b.spad (some draw)
    cbuf := tiles.foldl (fun st i => st.fill (4096 * i) 4096 (some draw)) c.cbuf
    sideVec := tiles.foldl (fun st i => st.fill (128 * i) 128 (some draw)) c.sideVec
    scaled := c.scaled &&& ~~~b.cmask }
  slots.foldl (fun c i => c.dropSlot draw i) c1

/-- The cores of a cluster. -/
def coresOf (cluster : Nat) : List Nat := (List.range 16).map (fun i => 16 * cluster + i)

/-- Whether a grid holds a block on a cluster, running or saved (R354). -/
def State.gridOn (s : State) (grid cluster : Nat) : Bool :=
  (coresOf cluster).any (fun k => (s.core k).blocks.any (fun b => b.grid == grid)) ||
    s.ctxs.any (fun c => c.2.saved.any (fun v => clusterOf v.core == cluster && v.body.blocks.any (fun b => b.grid == grid)))

/-- The stream queues of a grid on a cluster released, once it holds no block there (R354). -/
def State.releaseStreams (s : State) (grid cluster : Nat) : State :=
  if s.gridOn grid cluster then s
  else
    let c := s.cluster cluster
    s.setCluster cluster { c with
      streams := c.streams.map (fun e => if e.2.owner == some grid then (e.1, Stream.reset) else e) }

/-- The spawn-tree counter of a grid's seed launch lowered (R358). -/
def State.lowerSeed (s : State) (grid n : Nat) : State :=
  match Map.get? s.fe.grids grid with
  | none => s
  | some g =>
    match g.seed with
    | none => s
    | some i =>
      match Map.get? s.fe.seeds i with
      | none => s
      | some l => s.withFe { s.fe with seeds := Map.set s.fe.seeds i { l with counter := l.counter - n } }

/-- A block retired (R360); its ABUF slots in which a copy of another core still lands are released when that copy has
ended (R209). -/
def State.retireBlock (s : State) (core : Nat) (b : Block) : State :=
  let s1 := (s.blockTriggered core b.grid b.b).leaveGang core b
  let b1 := ((s1.core core).blocks.find? (fun x => x.grid == b.grid && x.b == b.b)).getD b
  let held := (List.range 32).foldl (fun m i => if b1.amask.getLsbD i && s1.slotCopied core i then m ||| (1#32 <<< i) else m) 0#32
  let c := (s1.core core).dropBlock { b1 with amask := b1.amask &&& ~~~held } s1.draws
  let s2 := (s1.setCore core { c with kept := c.kept ||| held }).drawn
  let s3 := s2.mapGrid b.grid (fun g => { g with retired := g.retired + 1, finalTs := max g.finalTs b1.finalTs })
  let s4 := match b1.gang with
    | some n => if s3.cores.any (fun c => c.2.blocks.any (fun x => x.gang == some n)) then s3
        else { s3 with gangs := Map.del s3.gangs n }
    | none => s3
  (s4.releaseStreams b.grid (clusterOf core)).lowerSeed b.grid 1

/-- A wave whose last operation has completed ends: registrations dropped, slot and frames free, the block retired with
its last wave (R360). Its final pts covers its copies, as a release would (R145, R157). -/
def State.endWave (s : State) (id : WaveId) : State :=
  let w := (s.wave id).released
  let s1 := (s.setWave id w).dropRegs id
  let s2 := if w.trig.isSome then s1 else s1.waveTriggered id w.pts
  let g := w.ident.grid
  let n := w.ident.block
  let s3 := s2.setCore id.core ((s2.core id.core).mapBlock g n (fun b => { b with
    waves := b.waves.filter (fun i => i != id.slot), finalTs := max b.finalTs w.pts }))
  let k := clusterOf id.core
  let c := s3.cluster k
  let s4 := s3.setCluster k { c with walks := c.walks.map (fun x =>
    { x with waiters := x.waiters.filter (fun m => !(m.1 == id.core && m.2.1 == id.slot)) }) }
  let s5 := s4.setWave id { Wave.reset with sched := { Wave.reset.sched with stalls := w.sched.stalls } }
  match (s5.core id.core).blocks.find? (fun b => b.grid == g && b.b == n) with
  | some b => if b.waves.isEmpty then s5.retireBlock id.core b else s5
  | none => s5

/-- WAVE_END (R360): with its counters at 0 and no ENQ unanswered, a wave takes its pending tile fault, or ends. -/
def execWaveEnd (id : WaveId) (s : State) : Out :=
  let w := s.wave id
  .next (if !(w.sched.live && w.waits.ending) || w.cnt != ⟨0, 0, 0, 0, 0⟩ || w.waits.enq != 0 || s.stopped w then s
    else
      match w.tile, w.halt with
      | some t, none => (s.focus id).takeTile t
      | _, _ => State.refill id.core 1 (s.endWave id))

/-! ## What fits (R361) -/

/-- The waves of a core that hold frames, and the physical frames that they hold (R219). -/
def State.framesUsed (s : State) (core : Nat) : Nat :=
  ((s.wavesOn core).map (fun id => (s.wave id).win.nf)).foldl (· + ·) 0

/-- The free wave slots of a core. -/
def State.freeSlotsOn (s : State) (core : Nat) : List Nat :=
  (List.range 8).filter (fun i => !(s.wave ⟨core, i⟩).sched.live)

/-- Whether a range of SPAD is free of every block's allocation. -/
def Core.spadFree (c : Core) (lo n : Nat) : Bool :=
  c.blocks.all (fun b => b.spad == 0 || decide (lo + n ≤ b.sb) || decide (b.sb + b.spad ≤ lo))

/-- The lowest place of a scratchpad allocation (R159). -/
def Core.spadPlace (c : Core) (n : Nat) : Option Nat :=
  if n = 0 then some 0
  else ((List.range 512).map (fun i => 256 * i)).find? (fun lo => decide (lo + n ≤ 2 ^ 17) && c.spadFree lo n)

/-- The CBUF tiles that no block holds. -/
def Core.freeTiles (c : Core) : List Nat := (List.range 16).filter (fun i => !(c.blocks.any (fun b => b.cmask.getLsbD i)))

/-- Whether the stream queues that a grid takes on a cluster are free for it (R354). -/
def State.streamsFree (s : State) (gid cluster : Nat) (g : Grid) : Bool :=
  (List.range 32).all (fun i => !g.sqmask.getLsbD i || (match ((s.cluster cluster).stream i).owner with
    | some o => o == gid
    | none => true))

/-- Whether a block of a kernel fits a core (R361). -/
def State.fits (s : State) (gid core : Nat) (g : Grid) : Bool :=
  let h := g.hdr
  let c := s.core core
  !c.fenced && decide (h.waves ≤ (s.freeSlotsOn core).length) && decide (s.framesUsed core + h.waves * h.frames ≤ 32) &&
    (c.spadPlace h.spad).isSome && decide ((c.blocks.map (fun b => b.amax)).foldl (· + ·) 0 + countBits c.kept + h.aslots ≤ 32) &&
    decide (h.ctiles ≤ c.freeTiles.length) && decide (h.wplanes ≤ c.freeList.length) &&
    s.streamsFree gid (clusterOf core) g

/-- The rows and columns of a kernel's gang. -/
def Header.rows (h : Header) : Nat := 2 ^ h.rlog
def Header.cols (h : Header) : Nat := 2 ^ h.clog * if h.seam then 2 else 1

/-- Whether a cluster and its partner form a seam pair of a domain, the cluster being the west one (R17, R129). -/
def Dom.seamPair (d : Dom) (cluster : Nat) : Bool :=
  decide (cluster < 128) && cluster % 8 == 7 && d.clusters.contains cluster && d.clusters.contains (seamPartner cluster)

/-- Whether a kernel fits an empty core, or its gang an empty cluster or seam pair of the domain (R361). -/
def Dom.canFit (d : Dom) (h : Header) : Bool :=
  decide (h.waves ≤ 8) && decide (h.waves * h.frames ≤ 32) && decide (h.spad ≤ 2 ^ 17) && decide (h.aslots ≤ 32) &&
    decide (h.ctiles ≤ 16) && decide (h.wplanes ≤ 32) &&
    (!h.bonded || (if h.seam then d.clusters.any d.seamPair else decide (h.rows ≤ 4) && decide (h.cols ≤ 4)))

/-- The aligned origins of a shape in a cluster, in row-major order (R292, R361). -/
def origins (h : Header) : List Nat :=
  (List.range 16).filter (fun o => o / 4 % h.rows == 0 && (h.seam || o % 4 % h.cols == 0) && (!h.seam || o == 0))

/-- The cores of the first place in a cluster where every block of a gang fits, or of the first core where a block does. -/
def State.placeFor (s : State) (gid cluster : Nat) (g : Grid) : Option (List Nat) :=
  let d := s.domOf g.ctx.dom
  if g.hdr.bonded then
    if g.hdr.seam && !d.seamPair cluster then none
    else
      (origins g.hdr).findSome? (fun o =>
        let cs := shapeCores cluster o g.hdr.rlog g.hdr.clog g.hdr.seam
        if cs.all (fun k => s.fits gid k g) then some cs else none)
  else ((coresOf cluster).find? (fun k => s.fits gid k g)).map (fun k => [k])

/-! ## Starting waves (R218, R356, R393) -/

/-- Fields 1 to 5 of the work identifier (R356): wave `i` of block `b`. -/
def workId (ws : List Nat) (i b : Nat) : BitVec 64 :=
  let w := fun k => ws.getD k 0
  let f2 := b % 2 ^ w 1
  let f3 := b / 2 ^ w 1 % 2 ^ w 2
  let f4 := b / 2 ^ (w 1 + w 2) % 2 ^ w 3
  let f5 := b / 2 ^ (w 1 + w 2 + w 3) % 2 ^ w 4
  BitVec.ofNat 64 (2 ^ 6 * (i % 2 ^ w 0) + 2 ^ (6 + w 0) * f2 + 2 ^ (6 + w 0 + w 1) * f3 +
    2 ^ (6 + w 0 + w 1 + w 2) * f4 + 2 ^ (6 + w 0 + w 1 + w 2 + w 3) * f5)

/-- A fresh physical frame: zero after another domain, undefined otherwise (R218). -/
def freshFrame (zero : Bool) (draw : Nat) : Frame :=
  if zero then Frame.zero
  else ⟨0, (List.range 16).map (fun r => (r, (List.range 64).map (fun l => Config.freeWord draw r l)))⟩

/-- A wave as a launch starts it (R218, R393), in the frames `held` of its core, of which `zero` tells whether another domain
has left them. -/
def startWave (gid b i : Nat) (g : Grid) (args : List Word) (held : List Nat) (zero : Nat → Bool) (draw age : Nat) : Wave :=
  let h := g.hdr
  let w0 : Wave := { Wave.reset with
    ctl := { Wave.reset.ctl with
      pc := BitVec.ofNat 57 g.codeBase
      exec := if h.prot then BitVec.ofNat 64 (2 ^ 32 - 1) else BitVec.allOnes 64 }
    win := { cur := 0, lo := 0, nf := h.frames, held := held, mirrors := [], place := [(0, 0), (1, 1)]
             frames := (List.range h.frames).map (fun k => (k, freshFrame (zero (held.getD k 0)) (draw + k))) }
    s := args.zipIdx.map (fun e => (e.2, e.1))
    csr := { Csrs.reset with prot := h.prot, tvOff := BitVec.ofNat 30 h.tvoff, spill := BitVec.ofNat 57 g.spill }
    ctx := g.ctx
    ident := ⟨gid, b, i, h.waves, h.scalars, workId h.widths i b, BitVec.ofNat 57 g.codeBase⟩
    pts := g.startTs
    sched := { Wave.reset.sched with live := true, age := age } }
  w0.seeded g.seedVal

/-! ## The argument words (R393) -/

/-- The die whose Cicada reads a grid's arguments: that of its queue's record, if the domain has lanes there (assumption 95). -/
def State.argsDie (s : State) (g : Grid) : Nat :=
  let p := (s.domOf g.ctx.dom).plan
  if p.spanning then g.queue % 2 else p.die

/-- The words of some bytes. -/
def wordsOf : List Byte → List Word
  | a :: b :: c :: d :: bs => BitVec.ofNat 32 (leNat [a, b, c, d]) :: wordsOf bs
  | _ => []

/-- Argument words read, each aligned 64-byte chunk as one (R149, R393), or still on their way; a word whose read faults or
returns poison has no value that the spec states. -/
def State.readArgs (die owner : Nat) (g : Grid) : Nat → State → Nat → Nat → State × Option (List Word)
  | 0, s, _, _ => (s, some [])
  | k + 1, s, va, n =>
    if n = 0 then (s, some [])
    else
      let m := pieceLen va n
      let next := fun (t : State) (ws : List Word) =>
        match State.readArgs die owner g k t ((va + m) % 2 ^ 57) (n - m) with
        | (t1, some vs) => (t1, some (ws ++ vs))
        | r => r
      match s.feLoad die owner g.ctx va m g.startTs with
      | (s1, .later) => (s1, none)
      | (s1, .done bs) => next s1 (wordsOf bs)
      | (s1, .fail) => next s1.drawn ((List.range (m / 4)).map (fun i => Config.freeWord s1.draws va i))

/-- The argument words of some blocks of a grid, each block's read once, if all have come. -/
def State.argsOf (s : State) (gid : Nat) (g : Grid) : List Nat → State × Option (List (List Word))
  | [] => (s, some [])
  | b :: bs =>
    match State.readArgs (s.argsDie g) (argsOwner gid b) g 16 s (g.args % 2 ^ 57) (4 * g.hdr.narg) with
    | (s1, none) => (s1, none)
    | (s1, some ws) =>
      match State.argsOf s1 gid g bs with
      | (s2, some vs) => (s2, some (ws :: vs))
      | r => r

/-- What the front end has read for some blocks forgotten, as they are placed. -/
def State.forgetArgs (s : State) (gid : Nat) (bs : List Nat) : State := bs.foldl (fun t b => t.feForget (argsOwner gid b)) s

/-- The pinned residencies left by a pre-emption on a core, judged as a block of a context comes to it (step 4 of
R298). -/
def State.judgeCore (s : State) (core dom key : Nat) : State :=
  ((s.core core).wowner.map (fun e => e.2)).eraseDups.foldl (fun t n =>
    let r := t.owner n
    if r.judge && r.st == .pinned && !(r.dom == dom && r.key == key) then
      (t.zeroise (n / 256) (n % 256)).mapResidency (n / 256) (n % 256) (fun r => { r with st := .evicted, judge := false })
    else t) s

/-- The record cache as a block of an address space comes to the core: empty where it holds another's records (R200). -/
def Core.recordsFor (c : Core) (asn : Nat) : Core := if c.recs.any (fun r => r.asn != asn) then { c with recs := [] } else c

/-! ## Frames and their mirrors (R361, R433) -/

/-- The frames of a core that no wave holds, not as a mirror either, of which a placement takes any. -/
def State.freeFrames (s : State) (core : Nat) : List Nat :=
  let used := (s.wavesOn core).flatMap (fun id => (s.wave id).win.held ++ (s.wave id).win.mirrors)
  let free := (List.range 32).filter (fun f => !used.contains f)
  let k := s.pick free.length
  free.drop k ++ free.take k

/-- A wave without its mirrors. -/
def Wave.unmirrored (w : Wave) : Wave :=
  { w with win := { w.win with mirrors := [] }, parity := w.parity.filter (fun m => !m.2.2) }

/-- The mirrors of the most recently placed mirrored waves released until a core has some free frames (R433). -/
def State.releaseMirrors (core need : Nat) : Nat → State → State
  | 0, s => s
  | k + 1, s =>
    if need ≤ (s.freeFrames core).length then s
    else
      match s.youngest ((s.wavesOn core).filter (fun id => !(s.wave id).win.mirrors.isEmpty)) with
      | none => s
      | some id => State.releaseMirrors core need k (s.setWave id (s.wave id).unmirrored)

/-- A core's frames taken by a domain (R218). -/
def Core.takeFrames (c : Core) (dom : Nat) (fs : List Nat) : Core := fs.foldl (fun c f => c.take dom (560 + f) id) c

/-- Whether another domain has left a frame of a core (R218). -/
def Core.foreignFrame (c : Core) (dom f : Nat) : Bool :=
  match Map.get? c.users (560 + f) with
  | some d => d != dom
  | none => false

/-- The waves of a block mirrored, where the frames of their core that waves hold number 16 or fewer (R433). -/
def State.mirrorWaves (s : State) (core dom : Nat) (slots : List Nat) : State :=
  if 16 < s.framesUsed core then s
  else
    slots.foldl (fun t slot =>
      let id : WaveId := ⟨core, slot⟩
      let w := t.wave id
      let fs := (t.freeFrames core).take w.win.nf
      (t.setCore core ((t.core core).takeFrames dom fs)).setWave id { w with win := { w.win with mirrors := fs } }) s

/-- The waves of a block started in the free slots of its core; the first of them enter the set where it has room
(R363), and the frames of the others are drowsy (R230). -/
def State.startWaves (s : State) (core gid b : Nat) (g : Grid) (args : List Word) : List (Nat × Nat) → State
  | [] => s
  | (i, slot) :: rest =>
    let id : WaveId := ⟨core, slot⟩
    let fs := (s.freeFrames core).take g.hdr.frames
    let c := s.core core
    let w := startWave gid b i g args fs (c.foreignFrame g.ctx.dom) (s.draws + 1) s.nextOp
    let room := decide ((s.setOn core).length < 4)
    let s1 := (s.setCore core (c.takeFrames g.ctx.dom fs)).setWave id (w.mapSched (fun x => { x with inSet := room, drowsy := !room }))
    State.startWaves { s1 with draws := s1.draws + g.hdr.frames + 1, nextOp := s1.nextOp + (if rest.isEmpty then 1 else 0) }
      core gid b g args rest

/-- Block `b` of a grid placed on a core at a bond position, with its argument words (R361). -/
def State.placeBlock (s : State) (gid core b : Nat) (g : Grid) (args : List Word) (gang : Option Nat) (rho gamma : Nat) : State :=
  let h := g.hdr
  let s0 := State.releaseMirrors core (h.waves * h.frames) 8 s
  let c0 := (s0.core core).recordsFor g.ctx.asn
  let slots := (s0.freeSlotsOn core).take h.waves
  let tiles := c0.freeTiles.take h.ctiles
  let sb := (c0.spadPlace h.spad).getD 0
  let c := tiles.foldl (fun c i => c.takeTile g.ctx.dom i) (c0.takeSpad g.ctx.dom sb h.spad)
  let blk : Block := {
    grid := gid, b := b, gang := gang, rho := rho, gamma := gamma, sb := sb, spad := h.spad
    amax := h.aslots, amask := 0, freeing := 0, cmask := tiles.foldl (fun m i => m ||| (1#16 <<< i)) 0, waves := slots
    trig := [], trigd := false, trigTs := 0, finalTs := 0, nwaves := h.waves, bonded := false, left := false
    abandoned := false, dom := g.ctx.dom, asn := g.ctx.asn }
  let s1 := (s0.setCore core { c with blocks := c.blocks ++ [blk] }).judgeCore core g.ctx.dom g.ctx.key
  (s1.startWaves core gid b g args (slots.zipIdx.map (fun e => (e.2, e.1)))).mirrorWaves core g.ctx.dom slots

/-- The stream queues of a grid taken on a cluster with its first block there, empty (R354). -/
def State.takeStreams (s : State) (gid cluster : Nat) (g : Grid) : State :=
  let c := s.cluster cluster
  s.setCluster cluster { c with streams := (List.range 32).foldl (fun m i =>
    if g.sqmask.getLsbD i && ((c.stream i).owner != some gid) then Map.set m i ⟨some gid, []⟩ else m) c.streams }

/-- The blocks of a gang placed on their cores, in the order of the bond positions. -/
def State.placeAll (s : State) (gid b0 cols : Nat) (g : Grid) (args : List (List Word)) (gang : Option Nat) (cores : List Nat) : State :=
  cores.zipIdx.foldl (fun t e => t.placeBlock gid e.1 (b0 + e.2) g (args.getD e.2 []) gang (e.2 / cols) (e.2 % cols)) s

/-- The blocks that the next placement of a grid takes. -/
def Grid.nextBlocks (g : Grid) (n : Nat) : List Nat := (List.range n).map (fun i => g.placed + i)

/-- The next blocks of a grid placed on some cores with their argument words (R361). -/
def State.placeNext (s : State) (gid : Nat) (g : Grid) (cores : List Nat) (args : List (List Word)) : State :=
  let s1 := ((cores.map clusterOf).eraseDups).foldl (fun t k => t.takeStreams gid k g) s
  let s2 :=
    if g.hdr.bonded then
      let n := 2 ^ 40 * gid + g.placed / cores.length
      let gang : Gang := ⟨gid, n, cores, g.hdr.rlog, g.hdr.clog, g.hdr.seam, [], false, false⟩
      { s1 with gangs := Map.set s1.gangs n gang }.placeAll gid g.placed g.hdr.cols g args (some n) cores
    else s1.placeAll gid g.placed 1 g args none cores
  s2.mapGrid gid (fun g => { g with placed := g.placed + cores.length })

/-- DISPATCH_BLOCK: a cluster's dispatcher places the next block, or gang of blocks, of a grid where it fits there
(R361), once its argument words have been read (R393). -/
def execDispatchBlock (gid cluster : Nat) (s : State) : Out :=
  .next (match Map.get? s.fe.grids gid with
  | none => s
  | some g =>
    if g.count ≤ g.placed || !((s.domOf g.ctx.dom).clusters.contains cluster) || (s.ctx g.ctx.asr).stopping then s
    else
      match s.placeFor gid cluster g with
      | none => s
      | some cores =>
        let bs := g.nextBlocks cores.length
        match s.argsOf gid g bs with
        | (s1, none) => s1
        | (s1, some args) => (s1.forgetArgs gid bs).placeNext gid g cores args)

end Sys2Proof.Machine
end

