-- ==== Sys2Proof/Machine/FrontEnd.lean ====
section
/-! DEFINITION. Cicada (R380-R388): queue records and their owners, doorbells, lanes, the step that executes packets by
type, how Cicada reaches memory, and how a packet retires. -/

namespace Sys2Proof.Machine

/-! ## Queue records (R383, R384) -/

/-- A launch counted as completed and triggered at a timestamp, for its queue's record (R390, R392). -/
def QueueRec.ended (q : QueueRec) (seq ts : Nat) : QueueRec :=
  { q with fins := q.fins ++ [(seq, ts)], trigs := q.trigs ++ [(seq, ts)] }

/-- A change of a queue's record that changes nothing yet. -/
def QueueChange.blank (n : Nat) : QueueChange := ⟨n, false, none, false, none, none, false, none, none⟩

/-- The completion, or the trigger, of a launch noted for its queue's record (R390). -/
def QueueRec.noted (q : QueueRec) (x : Bool × Nat × Nat) : QueueRec :=
  if x.1 then { q with trigs := q.trigs ++ [x.2] } else { q with fins := q.fins ++ [x.2] }

/-- The firmware fields of a queue record in bits [95:0]. -/
def QueueRec.withFields (q : QueueRec) (v : Nat) : QueueRec :=
  { q with base := bitsOf 0 57 v, logn := bitsOf 64 4 v, enable := v.testBit 68, prio := bitsOf 70 3 v, priv := v.testBit 73
           dom := bitsOf 80 4 v, asr := bitsOf 84 12 v }

/-- The record that a lane's change leaves at the owner (R384): a packet's retirement, with what it brings, is one. -/
def QueueRec.taking (q : QueueRec) (c : QueueChange) : QueueRec :=
  let q1 := match c.ended with
    | some ts => q.ended (q.nextseq + 1).toNat ts
    | none => q
  let q2 := if c.seq then { q1 with nextseq := q1.nextseq + 1 } else q1
  let q3 := match c.fields with
    | some v => q2.withFields v
    | none => q2
  { q3 with head := if c.pop then q3.head + 1 else q3.head, halt := q3.halt && !(c.resume && q3.pend.isEmpty) }

/-- A doorbell as the owner applies it (R385); `ts` is the highest WTS of the host writes that came before it. -/
def State.applyBell (s : State) (n : Nat) (tail : BitVec 32) (ts : Nat) : State :=
  let q := s.queue n
  let refused := decide (2 ^ q.logn < (tail - q.head).toNat) || decide ((tail - q.head).toNat < (q.tail - q.head).toNat)
  if !q.enable then s.logError (n % 2) 9 4 true 0 0 n 0
  else if refused then
    let r := s.queueError n qBadBell q
    if r.2 = q then r.1 else r.1.setQueue n r.2
  else s.setQueue n { q with tail := tail, hts := max q.hts ts }

/-- A completion or trigger as the owner takes it: a change of the record where it is the next in turn (R390). -/
def State.applyNote (s : State) (n : Nat) (x : Bool × Nat × Nat) : State :=
  let q := (s.queue n).noted x
  if q.counted == q then s.withFe { s.fe with queues := Map.set s.fe.queues n q } else s.setQueue n q.counted

/-- A change as the owner applies it to the record (R384). -/
def State.applyChange (s : State) (c : QueueChange) : State :=
  match c.bell, c.note with
  | some b, _ => s.applyBell c.queue b.1 b.2
  | none, some x => s.applyNote c.queue x
  | none, none =>
    let q := (s.queue c.queue).taking c
    let r := match c.err with
      | some e => s.queueError c.queue e q
      | none => (s, q)
    r.1.setQueue c.queue r.2

/-- A change that comes to the owner: made at once, or after those that came before it (R384). -/
def State.submit (s : State) (c : QueueChange) : State :=
  if s.recordBusy c.queue then s.withFe { s.fe with changes := s.fe.changes ++ [c] } else s.applyChange c

/-- QUEUE_RECORD_CHANGE: with the last change acknowledged, a launch that is next in turn is counted; with none, the owner makes
the change that came first (R384, R390). -/
def execQueueRecordChange (n : Nat) (s : State) : Out :=
  let q := s.queue n
  .next (if q.inval then s
    else if q.counted != q then s.setQueue n q.counted
    else
      match s.fe.changes.find? (fun c => c.queue == n) with
      | some c => (s.withFe { s.fe with changes := s.fe.changes.eraseP (fun c => c.queue == n) }).applyChange c
      | none => s)

/-- REPLICA_INVAL_ACK: the other die's replica is invalid, and the owner may make the next change (R384). -/
def execReplicaInvalAck (n : Nat) (s : State) : Out :=
  .next (match Map.get? s.fe.queues n with
  | some q => s.withFe { s.fe with
      queues := Map.set s.fe.queues n { q with inval := false }, replicas := Map.del s.fe.replicas n }
  | none => s)

/-- A queue's record as a die holds it: the owner's own, or the other die's replica. -/
def State.queueAt (s : State) (die n : Nat) : QueueRec :=
  if die % 2 = n % 2 then s.queue n else Map.getD s.fe.replicas n (s.queue n)

/-- Whether a die holds a current record of a queue. -/
def State.current (s : State) (die n : Nat) : Bool := die % 2 == n % 2 || (Map.get? s.fe.replicas n).isSome

/-- A die's replica of a record fetched again, if it is invalid; not before a change that the die itself has sent. -/
def State.refetch (s : State) (die n : Nat) : State :=
  if s.current die n || s.changing n then s else s.withFe { s.fe with replicas := Map.set s.fe.replicas n (s.queue n) }

/-- Whether a lane of a die may act on a queue: its record is current and no change is on its way; at the owner, every change
that came before has been made. -/
def State.mayChange (s : State) (die n : Nat) : Bool :=
  s.current die n && !s.changing n && (die % 2 != n % 2 || !s.recordBusy n)

/-! ## Doorbells (R385) -/

/-- DOORBELL (R385): a change of the record in its turn (R384), with the HTS of its arrival. -/
def execDoorbell (n : Nat) (tail : BitVec 32) (s : State) : Out :=
  .next (if 4096 ≤ n then s else s.submit { QueueChange.blank n with bell := some (tail, s.fe.hostTs) })

/-! ## Lanes (R380, R381) -/

/-- The lane of a number. -/
def State.lane (s : State) (i : Nat) : Lane := Map.getD s.fe.lanes i Lane.reset

/-- The state with a lane replaced. -/
def State.setLane (s : State) (i : Nat) (l : Lane) : State := s.withFe { s.fe with lanes := Map.set s.fe.lanes i l }

/-- The domain to which a lane of a die belongs (R128, R380). -/
def State.laneDomain (s : State) (die lane : Nat) : Option Nat :=
  (s.ms.doms.find? (fun e => (e.2.plan.spanning || e.2.plan.die == die) && decide (32 * e.2.plan.k / e.2.plan.n ≤ lane) &&
    decide (lane < 32 * (e.2.plan.k + 1) / e.2.plan.n))).map (fun e => e.1)

/-- The lane that holds a queue. -/
def State.holder (s : State) (n : Nat) : Option Nat := (s.fe.lanes.find? (fun e => e.2.queue == some n)).map (fun e => e.1)

/-- Whether a queue is ready for a lane of a die (R381); one whose context stops is not bound (R420). -/
def State.queueReady (s : State) (die n : Nat) : Bool :=
  let q := s.queueAt die n
  q.enable && !q.halt && q.head != q.tail && s.mayChange die n && (s.holder n).isNone && !(s.ctx q.asr).stopping

/-- The queue that a free lane of a domain binds: the highest PRIO, then the next in round-robin order (R381). -/
def State.nextQueue (s : State) (die dom : Nat) : Option Nat :=
  let ready := (s.fe.queues.map (fun e => e.1)).filter (fun n => (s.queueAt die n).dom == dom && s.queueReady die n)
  let top := ready.foldl (fun m n => max m (s.queueAt die n).prio) 0
  let best := ready.filter (fun n => (s.queueAt die n).prio == top)
  let last := Map.getD s.fe.rr dom 4095
  match best.find? (fun n => decide (last < n)) with
  | some n => some n
  | none => best.head?

/-- LANE_BIND (R381): the die's replicas of its domain's records are fetched again before they are read (R384). -/
def execLaneBind (die lane : Nat) (s : State) : Out :=
  .next (if s.box.dark.contains die ∨ 2 ≤ die ∨ 32 ≤ lane ∨ (s.lane (32 * die + lane)).queue.isSome then s
    else
      match s.laneDomain die lane with
      | none => s
      | some d =>
        let s1 := (s.fe.queues.filter (fun e => e.2.dom == d)).foldl (fun t e => t.refetch die e.1) s
        match s1.nextQueue die d with
        | none => s1
        | some n =>
          let s2 := s1.setLane (32 * die + lane) ⟨some n, 0⟩
          s2.withFe { s2.fe with rr := Map.set s2.fe.rr d n })

/-- What Cicada has read for a queue forgotten, as its packet ends or its lane lets it go. -/
def State.feClear (s : State) (n : Nat) : State :=
  s.withFe { s.fe with
    reads := s.fe.reads.filter (fun r => decide (4 ≤ r.owner % 8) || r.owner / 8 != n)
    retries := s.fe.retries.filter (fun r => decide (4 ≤ r.1 % 8) || r.1 / 8 != n)
    walks := s.fe.walks.filter (fun w => decide (4 ≤ w.owner % 8) || w.owner / 8 != n) }

/-- A packet in progress forgotten; a SIGNAL or a COPY is kept with what it has done, a WAIT starts again (R419). -/
def State.dropPoll (s : State) (n : Nat) (all : Bool) : State :=
  let goes := fun (pkt : List Byte) => all || !(pkt.headD 0 == 2 || pkt.headD 0 == 6)
  let keep := fun (h : Option (List Byte)) => (h.filter (fun p => !goes p)).isSome
  s.withFe { s.fe with
    polls := if keep ((Map.get? s.fe.polls n).map (fun e => e.2)) then s.fe.polls else Map.del s.fe.polls n
    hands := if keep (Map.get? s.fe.hands n) then s.fe.hands else Map.del s.fe.hands n }

/-- A packet that has to wait for what a pre-emption would hold up goes from the lane's hand: it is read again (R419). -/
def State.putBack (s : State) (n : Nat) : State := s.withFe { s.fe with hands := Map.del s.fe.hands n }

/-- A queue's lane free again. -/
def State.unbind (s : State) (n : Nat) : State :=
  match s.holder n with
  | some i => ((s.setLane i Lane.reset).dropPoll n false).feClear n
  | none => s

/-! ## The packet of a queue (R387, R388) -/

/-- An unsigned field of a packet. -/
def pktField (b : List Byte) (off n : Nat) : Nat := leNat ((b.drop off).take n)

/-- The packet types (R388). -/
def tWait : Nat := 1
def tSignal : Nat := 2
def tLaunch : Nat := 3
def tSeed : Nat := 4
def tIndirect : Nat := 5
def tCopy : Nat := 6
def tResidency : Nat := 7
def tMgmt : Nat := 8

/-- TYPE, NWAIT and EVT of a packet. -/
def pktType (b : List Byte) : Nat := pktField b 0 1
def pktWaits (b : List Byte) : Nat := pktField b 1 1 % 4
def pktEvt (b : List Byte) : Bool := (pktField b 1 1).testBit 2

/-- A wait entry: queue, E and SEQ (R387). -/
def pktEntry (b : List Byte) (i : Nat) : Nat × Bool × Nat :=
  let e := pktField b (8 + 8 * i) 8
  (e % 4096, e.testBit 12, e / 2 ^ 32)

/-- The wait entries of a packet. -/
def pktEntries (b : List Byte) : List (Nat × Bool × Nat) := (List.range (pktWaits b)).map (pktEntry b)

/-- Whether a packet is a launch. -/
def isLaunch (ty : Nat) : Bool := ty == tLaunch || ty == tSeed || ty == tIndirect

/-- The body fields of a type: offset and size (R388, R389, R398). -/
def bodyFields (ty : Nat) : List (Nat × Nat) :=
  if ty = tWait ∨ ty = tSignal then [(24, 16)]
  else if ty = tLaunch then [(24, 12), (40, 24)]
  else if ty = tSeed then [(24, 8), (40, 24)]
  else if ty = tIndirect then [(24, 40)]
  else if ty = tCopy then [(24, 20)]
  else if ty = tResidency then [(24, 1), (26, 4)]
  else [(24, 1), (32, 24)]

/-- Whether a body field of a packet lies outside the limit of its rule (R388). -/
def bodyOut (b : List Byte) : Bool :=
  let ty := pktType b
  if ty = tWait then pktField b 24 8 % 8 != 0
  else if isLaunch ty then pktField b 48 8 % 4 != 0 || pktField b 56 8 % 128 != 0
  else if ty = tCopy then
    let n := pktField b 40 4
    decide (n < 4) || decide (4096 < n) || n % 4 != 0 || pktField b 24 8 % 4 != 0 || pktField b 32 8 % 4 != 0
  else if ty = tResidency then decide (1 < pktField b 24 1) || decide (255 < pktField b 26 2) || decide (512 < pktField b 28 2)
  else if ty = tMgmt then pktField b 24 1 == 0 || decide (10 < pktField b 24 1)
  else false

/-- Whether a packet breaks the format (R387, R388). -/
def packetBad (b : List Byte) : Bool :=
  let ty := pktType b
  let inBody := fun (i : Nat) => (bodyFields ty).any (fun f => decide (f.1 ≤ i) && decide (i < f.1 + f.2))
  ty == 0 || decide (8 < ty) || decide (8 ≤ pktField b 1 1) || pktWaits b == 3 || pktField b 2 6 != 0 ||
    (List.range 2).any (fun i =>
      let e := pktField b (8 + 8 * i) 8
      if pktWaits b ≤ i then e != 0
      else bitsOf 13 19 e != 0 || (e.testBit 12 && !isLaunch ty)) ||
    (List.range 40).any (fun i => !inBody (24 + i) && pktField b (24 + i) 1 != 0) || bodyOut b

/-- Whether a wait entry names a queue of another domain, as a lane of a die reads its record (R384, R387). -/
def State.entryBad (s : State) (die dom : Nat) (e : Nat × Bool × Nat) : Bool := (s.queueAt die e.1).dom != dom

/-- Whether a wait entry is satisfied, as a lane of a die reads it (R384, R387). -/
def State.entryMet (s : State) (die : Nat) (e : Nat × Bool × Nat) : Bool :=
  let q := s.queueAt die e.1
  decide (((if e.2.1 then q.trig else q.done) - BitVec.ofNat 32 e.2.2).toNat < 2 ^ 31)

/-- The die of the lane that holds a queue, or its owner's. -/
def State.laneDie (s : State) (n : Nat) : Nat :=
  match s.holder n with
  | some i => i / 32
  | none => n % 2

/-- A queue's record as the lane that holds it reads it (R384). -/
def State.laneQueue (s : State) (n : Nat) : QueueRec := s.queueAt (s.laneDie n) n

/-- The context of a queue (R394). -/
def State.queueContext (s : State) (n : Nat) : Context := s.asrContext (s.laneQueue n).asr

/-- The start timestamp of a launch packet (R390). -/
def State.startTs (s : State) (die n : Nat) (b : List Byte) : Nat :=
  (pktEntries b).foldl (fun t e => max t (if e.2.1 then (s.queueAt die e.1).tts else (s.queueAt die e.1).dts)) (s.queueAt die n).hts

/-! ## Retiring (R381, R384, R401) -/

/-- The packet at the head of a queue retired: the change of the record made by a lane of the owner, or sent to the owner,
when the lane's own replica is current no longer (R384). -/
def State.retirePacket (s : State) (c : QueueChange) : State :=
  let n := c.queue
  let s1 := if s.laneDie n % 2 = n % 2 then s.applyChange c
    else s.withFe { s.fe with changes := s.fe.changes ++ [c], replicas := Map.del s.fe.replicas n }
  let s2 := (s1.dropPoll n true).feClear n
  match s2.holder n with
  | some i => s2.setLane i { (s2.lane i) with retired := (s2.lane i).retired + 1 }
  | none => s2

/-- A packet retired without more. -/
def State.retired (s : State) (n : Nat) : State := s.retirePacket { QueueChange.blank n with pop := true }

/-- A packet retired with an error. -/
def State.retiredWith (s : State) (n code : Nat) : State := s.retirePacket { QueueChange.blank n with pop := true, err := some code }

/-- A launch packet retired that takes its sequence number and counts as completed and triggered (R388, R392), with an
error or none. -/
def State.launchEnded (s : State) (n ts : Nat) (err : Option Nat) : State :=
  s.retirePacket { QueueChange.blank n with pop := true, err := err, seq := true, ended := some ts }

/-! ## The step (R382) -/

/-- A packet ready to execute, added to the step's list in ascending order of TYPE, after those of its own type. -/
def insertTodo (x : Nat × List Byte) : List (Nat × List Byte) → List (Nat × List Byte)
  | [] => [x]
  | y :: ys => if pktType x.2 < pktType y.2 then x :: y :: ys else y :: insertTodo x ys

/-- The row of the table that executes a packet; a DOMAINCUT comes with its layout. -/
def packetRow (layout : List DomainPlan) (n : Nat) (b : List Byte) : Instr :=
  match pktType b with
  | 1 => .waitPacket n
  | 2 => .signalPacket n
  | 3 => .launchPacket n
  | 4 => .seedlaunchPacket n
  | 5 => .indirectPacket n
  | 6 => .copyPacket n
  | 7 => if pktField b 24 1 = 0 then .setquota n else .revokeall n
  | _ =>
    match pktField b 24 1 with
    | 1 => .inval n
    | 2 => .invalkey n
    | 3 => .keyload n
    | 4 => .keyrevoke n
    | 5 => .migrate n
    | 6 => .resume n
    | 7 => .counters n
    | 8 => .setq n
    | 9 => .setasr n
    | _ => .domaincut n layout

/-- The layout that a row carries. -/
def rowLayout (i : Instr) : List DomainPlan :=
  match i with
  | .domaincut _ l => l
  | _ => []

/-- A packet read and judged sound (R387), in the lane's hand from now on, and ready for this step. -/
def State.takeInHand (s : State) (n : Nat) (b : List Byte) : State :=
  let s1 := (s.feForget (feOwner n 0)).feForget (feOwner n 1)
  s1.withFe { s1.fe with todo := insertTodo (n, b) s1.fe.todo, hands := Map.set s1.fe.hands n b }

/-- The packet of a bound queue read and judged (R387, R388, R394): retired with an error, left waiting, or ready. A launch
whose start timestamp is above HTS is read again at that timestamp, once its entries are known and met (R380, R390,
assumption 93). -/
def State.parse (s : State) (die n : Nat) : State :=
  let q := s.queueAt die n
  let ctx := s.asrContext q.asr
  let va := q.base + 64 * (q.head.toNat % 2 ^ q.logn)
  if ctx.dom ≠ q.dom then s.retiredWith n qBadPkt
  else
    match s.feLoad die (feOwner n 0) ctx va 64 q.hts with
    | (s1, .later) => s1
    | (s1, .fail) => s1.retiredWith n qPktFault
    | (s1, .done b) =>
      let bad := fun (t : State) => if isLaunch (pktType b) then t.launchEnded n q.hts (some qBadPkt) else t.retiredWith n qBadPkt
      if packetBad b then bad s1
      else
        match (pktEntries b).find? (fun e => !s1.current die e.1) with
        | some e => s1.refetch die e.1
        | none =>
          if (pktEntries b).any (s1.entryBad die q.dom) then bad s1
          else if !((pktEntries b).all (s1.entryMet die)) then s1.unbind n
          else if !isLaunch (pktType b) ∨ s1.startTs die n b ≤ q.hts then s1.takeInHand n b
          else
            match s1.feLoad die (feOwner n 1) ctx va 64 (s1.startTs die n b) with
            | (s2, .later) => s2
            | (s2, .fail) => s2.retiredWith n qPktFault
            | (s2, .done b2) => if b2 = b then s2.takeInHand n b else s2.feClear n

/-- What a step does with one lane (R381): a packet in hand goes on, otherwise the next is read. -/
def State.serveLane (s : State) (die i : Nat) : State :=
  match (s.lane i).queue with
  | none => s
  | some n =>
    let q := s.queueAt die n
    let busy := ((Map.get? s.fe.hands n).filter (fun b => pktType b != tWait)).isSome || (Map.get? s.fe.migs n).isSome
    if !s.current die n then s.refetch die n
    else if !s.mayChange die n || ((s.ctx q.asr).stopping && !busy) then s
    else if !q.enable || q.halt || q.head == q.tail || decide (16 ≤ (s.lane i).retired) then s.unbind n
    else
      match Map.get? s.fe.hands n with
      | some b => if pktType b = tWait ∧ (Map.get? s.fe.polls n).isSome then s else s.takeInHand n b
      | none => s.parse die n

/-- CICADA_STEP (R382): the bound lanes of a die read their packets; those ready execute next, by type. -/
def execCicadaStep (die : Nat) (s : State) : Out :=
  .next (if s.box.dark.contains die ∨ 2 ≤ die ∨ !s.fe.todo.isEmpty then s
    else
      let s1 := (List.range 32).foldl (fun t i => t.serveLane die (32 * die + i)) s
      { s1.drawn with agenda := s1.fe.todo.map (fun e => packetRow (Config.layout (s1.draws + e.1)) e.1 e.2) ++ s1.agenda })

/-- A packet row's act: the packet that this step executes next, if it is of the row's kind; `die` is that of its lane. One
whose record the lane may not change now (R384) is left for a later step. -/
def State.withPacket (s : State) (n : Nat) (row : Instr) (body : State → Nat → List Byte → State) : State :=
  match s.fe.todo with
  | [] => s
  | (k, b) :: rest =>
    if k ≠ n ∨ packetRow (rowLayout row) k b ≠ row then s
    else
      let s1 := s.withFe { s.fe with todo := rest }
      match s1.holder n with
      | some i => if s1.mayChange (i / 32) n then body s1 (i / 32) b else s1
      | none => s1

/-! ## WAIT, SIGNAL and COPY (R396) -/

/-- One microsecond in network cycles (R3). -/
def microsecond : Nat := 2000

/-- WAIT_PACKET (R396): with ADDR = 0 it retires; otherwise it begins to poll. -/
def execWaitPacket (n : Nat) (s : State) : Out :=
  .next (s.withPacket n (.waitPacket n) (fun s _ b =>
    if pktField b 24 8 = 0 then s.retired n
    else s.withFe { s.fe with polls := Map.set s.fe.polls n (s.netNow, b) }))

/-- WAIT_POLL (R396): a poll that is due loads the 8 bytes; the packet retires when they have reached VALUE. -/
def execWaitPoll (n : Nat) (s : State) : Out :=
  .next (match Map.get? s.fe.polls n, s.holder n with
  | some (t, b), some i =>
    let q := s.queueAt (i / 32) n
    if pktType b ≠ tWait ∨ s.netNow < t ∨ !s.mayChange (i / 32) n ∨ q.halt then s
    else
      match s.feLoad (i / 32) (feOwner n 2) (s.queueContext n) (pktField b 24 8) 8 q.hts with
      | (s1, .later) => s1
      | (s1, .fail) => s1.retiredWith n qPktFault
      | (s1, .done v) =>
        if pktField b 32 8 ≤ leNat v then s1.retired n
        else
          let s2 := s1.feForget (feOwner n 2)
          s2.withFe { s2.fe with polls := Map.set s2.fe.polls n (s.netNow + microsecond, b) }
  | _, _ => s)

/-- A SIGNAL whose store has completed: its event is posted as soon as the ring has room, and it retires (R396). -/
def State.signalEnd (s : State) (n : Nat) (b : List Byte) : State :=
  let q := s.laneQueue n
  if !pktEvt b then s.retired n
  else if (s.ring q.dom).room = 0 then s.putBack n
  else (s.putEvent q.dom (eventRecord s.netNow q.nextseq.toNat n evSignal)).retired n

/-- SIGNAL_PACKET (R396). -/
def execSignalPacket (n : Nat) (s : State) : Out :=
  .next (s.withPacket n (.signalPacket n) (fun s die b =>
    let q := s.queueAt die n
    if q.done ≠ q.nextseq then s.putBack n
    else if (Map.get? s.fe.polls n).isSome then s.signalEnd n b
    else
      let r := if pktField b 24 8 = 0 then (s, FeAnswer.done [])
        else s.feStore die (feOwner n 2) (s.queueContext n) (pktField b 24 8) (max q.hts q.dts) ((b.drop 32).take 8)
      match r with
      | (s1, .later) => s1
      | (s1, .fail) => s1.retiredWith n qPktFault
      | (s1, .done _) => (s1.withFe { s1.fe with polls := Map.set s1.fe.polls n (0, b) }).signalEnd n b))

/-- The window of a packet's address (R73), or why it has none yet. -/
def State.feWindow (s : State) (die n : Nat) (ctx : Context) (va : Nat) (write : Bool) : State × FeAnswer × Nat :=
  match s.feWalk die (feOwner n 3) (2 * (va % 2 ^ 57) + write.toNat) ctx (va % 2 ^ 57) 0 write with
  | (s1, none) => (s1, .later, 0)
  | (s1, some none) => (s1, .fail, 0)
  | (s1, some (some e)) => (s1, .done [], e.phys (va % 2 ^ 57) / 2 ^ 50)

/-- A COPY from the bytes moved so far, in chunks of the destination in ascending order (R396, R156). -/
def State.copyOn (die n : Nat) (ctx : Context) (src dst len : Nat) (b : List Byte) : Nat → State → Nat → State
  | 0, s, _ => s
  | k + 1, s, done =>
    if len ≤ done then s.retired n
    else
      let m := pieceLen (dst + done) (len - done)
      let stay := fun (t : State) => t.withFe { t.fe with polls := Map.set t.fe.polls n (done, b) }
      match s.feLoad die (feOwner n 3) ctx (src + done) m 0 with
      | (s1, .later) => stay s1
      | (s1, .fail) => s1.retiredWith n qPktFault
      | (s1, .done bs) =>
        match s1.feStore die (feOwner n 3) ctx (dst + done) 0 bs with
        | (s2, .later) => stay s2
        | (s2, .fail) => s2.retiredWith n qPktFault
        | (s2, .done _) => State.copyOn die n ctx src dst len b k (s2.feForget (feOwner n 3)) (done + m)

/-- COPY_PACKET (R396, R388). -/
def execCopyPacket (n : Nat) (s : State) : Out :=
  .next (s.withPacket n (.copyPacket n) (fun s die b =>
    let ctx := s.queueContext n
    let src := pktField b 24 8
    let dst := pktField b 32 8
    let len := pktField b 40 4
    match Map.get? s.fe.polls n with
    | some (done, _) => State.copyOn die n ctx src dst len b 70 s done
    | none =>
      match s.feWindow die n ctx src false with
      | (s1, .later, _) => s1
      | (s1, .fail, _) => s1.retiredWith n qPktFault
      | (s1, .done _, x) =>
        match s1.feWindow die n ctx dst true with
        | (s2, .later, _) => s2
        | (s2, .fail, _) => s2.retiredWith n qPktFault
        | (s2, .done _, y) =>
          if x ≠ 2 ∧ y ≠ 2 then s2.retiredWith n qBadPkt else State.copyOn die n ctx src dst len b 70 s2 0))

end Sys2Proof.Machine
end

