-- ==== Sys2Proof/Machine/HostPort.lean ====
section
/-! DEFINITION. The host interface (R97, R155, R156): the host's accesses to package memory as packets of port 513, chunk by
chunk in the order received, and to BAR0 (R385, R386, R439). -/

namespace Sys2Proof.Machine

/-! ## BAR0 (R385, R439) -/

/-- The commands of the mailbox (R439). -/
def commandRow (cmd : Nat) : Option Instr :=
  match cmd with
  | 1 => some .session
  | 2 => some .getreport
  | 3 => some .setring
  | 4 => some .setslice
  | 5 => some .readlog
  | 6 => some .fwload
  | 7 => some .route
  | 8 => some .qread
  | _ => none

/-- The state with the mailbox replaced. -/
def State.withBox (s : State) (b : Mailbox) : State := { s with box := b }

/-- A write to CMD: STATUS reads 0 while the command runs; without firmware only FWLOAD is accepted (R439, R440). -/
def State.startCommand (s : State) (cmd : Nat) : State :=
  match commandRow cmd with
  | none => s.withBox { s.box with cmd := cmd, status := 2 }
  | some row =>
    if !s.box.dark.isEmpty && cmd != 6 then s.withBox { s.box with cmd := cmd, status := 2 }
    else { s.withBox { s.box with cmd := cmd, status := 0 } with agenda := s.agenda ++ [row] }

/-- A host write to BAR0 at an offset. -/
def State.barWrite (s : State) (off : Nat) (bs : List Byte) : State :=
  let v := leNat (bs.take 4)
  if off < 0x8000 then
    if off % 8 = 0 then { s with agenda := s.agenda ++ [.doorbell (off / 8) (BitVec.ofNat 32 v)] } else s
  else if off < 0x8080 then
    if off % 8 = 0 then { s with agenda := s.agenda ++ [.eventHeadWrite ((off - 0x8000) / 8) (BitVec.ofNat 32 v)] } else s
  else if off = 0x8080 then s.startCommand (leNat (bs.take 8))
  else if 0x8100 ≤ off ∧ off + bs.length ≤ 0x10000 then
    s.withBox { s.box with buf := Memory.write s.box.buf (off - 0x8100) bs }
  else s

/-- The eight bytes that a read of BAR0 at an offset returns (R386). -/
def State.barRead (s : State) (off : Nat) : List Byte :=
  if off < 0x8000 then
    let q := s.queue (off / 8)
    if q.enable then leBytes 8 (q.head.toNat + 2 ^ 32 * q.done.toNat) else leBytes 8 0
  else if off < 0x8080 then
    let r := s.ring ((off - 0x8000) / 8)
    leBytes 8 (r.head.toNat + 2 ^ 32 * r.tail.toNat)
  else if off = 0x8080 then leBytes 8 s.box.cmd
  else if off = 0x8088 then leBytes 8 s.box.status
  else if 0x8100 ≤ off ∧ off + 8 ≤ 0x10000 then Memory.read s.box.buf (off - 0x8100) 8
  else leBytes 8 0

/-! ## Chunks (R156) -/

/-- The domain whose range holds a package address, and the line's home. -/
def State.placeOf (s : State) (pa : Nat) : Option (Dom × Nat) :=
  (s.ms.doms.find? (fun e => e.2.holds pa)).map (fun e => (e.2, e.2.home pa))

/-- A host access of `n` bytes from `pa` on in aligned 64-byte chunks (R156); `addr` is where the access begins. -/
def hostSplit (addr : Nat) (write : Bool) : Nat → Nat → Nat → List Byte → List HostChunk
  | 0, _, _, _ => []
  | k + 1, pa, n, bs =>
    if n = 0 then []
    else
      let m := pieceLen pa n
      ⟨addr, pa, m, if write then some (bs.take m) else none, m == n⟩ :: hostSplit addr write k (pa + m) (n - m) (bs.drop m)

/-- The packet of a chunk: a write of its bytes, or a read of the aligned block that holds them (assumption 107). The
interface names no key slot and no page; its TS is 0 (R463). -/
def hostPacket (c : HostChunk) (dom slice : Nat) : Packet :=
  let b := coverBlock c.pa c.len
  match c.data with
  | some bs => { fePacket .wr dom 0 c.pa c.len 0 bs with slice := slice }
  | none => { fePacket .rd dom 0 b.1 b.2 0 [] with slice := slice }

/-- The first chunk answered, with its bytes and whether it met an error; after its last chunk an access is answered to the
host. -/
def State.hostAnswer (s : State) (c : HostChunk) (bs : List Byte) (bad : Bool) : State :=
  let h := s.host
  let data := h.data ++ bs
  let error := h.error || bad
  let h1 : HostIf := { h with queue := h.queue.drop 1, sent := false }
  if c.last then { s with host := { h1 with data := [], error := false }, hostReply := some ⟨c.addr, c.data.isSome, data, error⟩ }
  else { s with host := { h1 with data := data, error := error } }

/-- The chunks of the host performed in the order received (R156): accesses to BAR0 at once, a chunk outside every domain's
range answered with an error, the others sent to their homes one after another. -/
def State.hostPump : Nat → State → State
  | 0, s => s
  | n + 1, s =>
    match s.host.queue with
    | [] => s
    | c :: _ =>
      if s.host.sent then s
      else if c.addr / 2 ^ 50 = 1 then
        State.hostPump n (match c.data with
          | some bs => (s.barWrite (c.pa % 2 ^ 50) bs).hostAnswer c [] false
          | none => s.hostAnswer c (s.barRead (8 * (c.pa % 2 ^ 50 / 8))) false)
      else
        match s.placeOf c.pa with
        | none => State.hostPump n (s.hostAnswer c (if c.data.isSome then [] else List.replicate c.len 0) true)
        | some (d, h) => ({ s with host := { s.host with sent := true } }).portQueue hostPort (hostPacket c d.plan.num h) .host

/-- A home's answer to the chunk on its way. -/
def State.hostCame (s : State) (p : Packet) : State :=
  match s.host.queue with
  | [] => s
  | c :: _ =>
    if !s.host.sent then s
    else
      (s.hostAnswer c (if c.data.isSome then [] else (p.data.drop (c.pa - p.addr)).take c.len) (p.opx % 2 == 1)).hostPump
        s.host.queue.length

/-- The chunk on its way sent anew, since its home redirected it (R87). -/
def State.hostAgain (s : State) : State := ({ s with host := { s.host with sent := false } }).hostPump s.host.queue.length

end Sys2Proof.Machine
end

