-- ==== Sys2Proof/Machine/PortEvents.lean ====
section
/-! DEFINITION. What a port does with the replies it receives (R105-R115, R121): the answer given to the operation, copy
or peer that asked, re-issues, re-sends and redirections (R87); the host interface's own port as a core's access to the
host window sees it (R155); and the end of an L1 line's life (R136). -/

namespace Sys2Proof.Machine

/-! ## Answers -/

/-- The L1 after the fill of a line that a load, or a prefetch into the L1, asked for (R136, R169, R187). Its life counts
from its home's answer (R139, assumption 86); nothing is filled under a key slot that is not loaded any more (R92). -/
def State.fillLine (s : State) (core : Nat) (o : MemOp) (r : Request) (p : Packet) : State :=
  if (o.kind == .load || (o.kind == .prefetch && o.dst.isSome)) && r.len == 128 && p.opx % 2 == 0 &&
      (s.key r.key).st == .loaded then
    s.setCore core ((s.core core).l1Fill ⟨r.pa / 128, p.data, p.ts, p.ts + p.ld, p.born, s.now, r.key, 0, p.olds⟩)
  else s

/-- A reply's answer to a request of an operation, and what may follow it (R134, R137, R177). -/
def State.answerOp (s : State) (core id i : Nat) (p : Packet) : State :=
  match (s.core core).ops.find? (fun o => o.id == id) with
  | none => s
  | some o =>
    match o.reqs[i]? with
    | none => s
    | some r => ((s.fillLine core o r p).answerReq core id i p.data p.opx p.ts p.ld p.olds).progress core

/-- The cluster of a port. -/
def portCluster (port : Nat) : Nat := 128 * portDie port + port % 256 / 2

/-- A multicast chunk that has come to a cluster, for the copy it belongs to: at the issuing cluster its block is done;
with an error the copy fails (R206, R208). -/
def State.chunkCame (s : State) (port : Nat) (p : Packet) (err : Option (Nat × Nat)) : State :=
  let own := portCluster port = portCluster p.port
  let gone := fun (t : State) => t.mapCopy p.tagCore p.tagCopy (fun e => { e with far := e.far.filter (fun a => a != p.tagPlace) })
  match err with
  | none => if own then s.blockDone p.tagCore p.tagCopy p.tagPlace 64 else gone s
  | some (c, l) => (if own then s.blockBack p.tagCore p.tagCopy p.tagPlace else gone s).failCopy p.tagCore p.tagCopy c l

/-- A block of an outward copy written: its bytes count, and the WTS of a write of window 00 is among the copy's (R149). -/
def State.chunkWritten (s : State) (core id chunk : Nat) (p : Packet) : State :=
  match (s.core core).copies.find? (fun e => e.id == id) with
  | some e =>
    (s.blockDone core id chunk (e.blockBytes chunk p.len)).mapCopy core id (fun e =>
      { e with wts := if p.addr / 2 ^ 50 = 0 then some (max (e.wts.getD 0) p.ts) else e.wts })
  | none => s

/-- The results of a peer's atomics that a Nopel port keeps: the last 256 of each package (R444). -/
def keepPeerResult (l : List (Nat × CachedResult)) (pkg : Nat) (r : CachedResult) : List (Nat × CachedResult) :=
  let mine := l.filter (fun e => e.1 == pkg && !(e.2.port == r.port && e.2.seq == r.seq))
  l.filter (fun e => e.1 != pkg) ++ mine.drop (mine.length - 255) ++ [(pkg, r)]

/-- A reply sent to a peer over Nopel port `j`, for the request `q` that came from package `q.ld` (R442, R444). -/
def State.peerReply (s : State) (j : Nat) (q p : Packet) : State :=
  let n := s.nport j
  if !n.up then s
  else
    let n1 := if p.ty == .ares then { n with results := keepPeerResult n.results q.ld ⟨q.port, q.seq, p.data, p.opx, 0⟩ } else n
    (s.setNport j n1).nopelSend j (linkFlits q.ld { p with addr := q.addr, len := q.len, dom := q.dom, key := q.key, mark := false } q.port q.seq)

/-- An answer to an access of Cicada kept for the agent that asked, unless its queue has left its lane or its block is placed; the WTS of a COPY's
write counts as a host write's (R156, R385). -/
def State.cicadaCame (s : State) (owner key : Nat) (p : Packet) : State :=
  if owner % 8 < 4 ∧ !(s.fe.lanes.any (fun e => e.2.queue == some (owner / 8))) then s
  else if owner % 8 = 5 ∧ (s.argsGrid owner).isNone then s
  else
    let counts := owner % 8 == 3 && key % 2 == 1 && p.addr / 2 ^ 50 == 0 && p.opx % 2 == 0
    s.withFe { s.fe with
      reads := s.fe.reads ++ [⟨owner, key, p.opx, p.data⟩], hostTs := if counts then max s.fe.hostTs p.ts else s.fe.hostTs }

/-- A reply with the bytes that its client takes from it: an engine's read may meet writes in mixed size (R143, R149); a wave's
chooses as its register is written (MemOp.chosen), and instruction fetches and the host take the current ones (R156). -/
def State.readReply (s : State) (c : Client) (q p : Packet) : State × Packet :=
  let mixed := s.engineBytes p.olds p.addr p.len q.ts p.data
  match c with
  | .chunk _ _ _ | .record _ _ | .image _ _ _ | .cicada _ _ | .refetch _ => (mixed.1, { p with data := mixed.2 })
  | _ => (s, p)

/-- The answer of a final reply to whoever asked. -/
def State.answerClient (s : State) (port : Nat) (c : Client) (p : Packet) : State :=
  match c with
  | .op core id i => s.answerOp core id i p
  | .chunk core id chunk =>
    if p.opx % 2 = 1 then (s.blockBack core id chunk).failCopy core id 0x22 0
    else if p.ty == .rdata then s.landRead core id chunk p.data
    else s.chunkWritten core id chunk p
  | .record core id => s.answerRecord core id p.opx p.data
  | .image core id chunk => s.imageCame core id chunk p.opx p.data
  | .fetch core line key _ _ => s.fillIcache core line key p.opx p.data
  | .cicada owner key => s.cicadaCame owner key p
  | .host => s.hostCame p
  | .migrate slice base => s.migrateAnswer slice base (p.opx % 2 == 1)
  | .refetch q =>
    if p.opx % 2 = 1 then s.chunkCame port q (some (0x22, 0))
    else (s.landCluster (portCluster port) q p.data).chunkCame port q none
  | .byteAdd => s
  | .peer j q => s.peerReply j q p
  | .none => s

/-- The reply of a type at place `i` of a port's input, with the request it answers. -/
def State.replyAt (s : State) (port i : Nat) (ty : PType) : Option (Packet × Option Outstanding) :=
  let x := s.port port
  match x.inbox[i]? with
  | some p => if p.ty == ty then some (p, x.find p.slice p.seq) else none
  | none => none

/-- The port without the packet at place `i` of its input. -/
def State.takeReply (s : State) (port i : Nat) : State :=
  let x := s.port port
  s.setPort port { x with inbox := dropAt x.inbox i }

/-! ## The host window (R73, R155, R183) -/

/-- The access of a core to the host window at place `i` of the host interface, if the port is its port. -/
def State.hostAccess (s : State) (port i : Nat) : Option (Packet × Client) :=
  if port = hostPort then s.host.accesses[i]? else none

/-- The place in a port's input that an event names: behind the accesses to the host window at the host interface. -/
def State.inputPlace (s : State) (port i : Nat) : Nat := if port = hostPort then i - s.host.accesses.length else i

/-- An access to the host window performed, and answered at system scope: the wave's pts does not rise. -/
def State.hostServe (s : State) (i : Nat) (ty : PType) (p : Packet) (c : Client) : State :=
  let old := Memory.read s.ms.mem p.addr p.len
  let mem := match p.ty with
    | .wr => Memory.write s.ms.mem p.addr p.data
    | .atom | .red => Memory.write s.ms.mem p.addr (rmwBytes p old)
    | _ => s.ms.mem
  let s1 := ({ s with host := { s.host with accesses := dropAt s.host.accesses i } }).withMs { s.ms with mem := mem }
  s1.answerClient hostPort c { p with ty := ty, opx := 0, ts := 0, ld := 0, data := if ty == .wdone then [] else old }

/-! ## PORT_* -/

/-- PORT_RDATA (R105, R108, R114): a trimmed one ends its request, and the read is issued again as a new one. -/
def execPortRdata (port i : Nat) (s : State) : Out :=
  .next (match s.hostAccess port i with
  | some e => if e.1.ty == .rd then s.hostServe i .rdata e.1 e.2 else s
  | none =>
    let i := s.inputPlace port i
    match s.replyAt port i .rdata with
    | none => s
    | some (_, none) => s.takeReply port i
    | some (p, some o) =>
      let s1 := (s.takeReply port i).portFinal port o p.mark
      if p.trim then s1.portQueue port { o.pkt with again := true, retry := 0 } o.client
      else (s1.readReply o.client o.pkt p).1.answerClient port o.client (s1.readReply o.client o.pkt p).2)

/-- PORT_WDONE (R105, R108, R111). -/
def execPortWdone (port i : Nat) (s : State) : Out :=
  .next (match s.hostAccess port i with
  | some e => if e.1.ty == .wr || e.1.ty == .red then s.hostServe i .wdone e.1 e.2 else s
  | none =>
    let i := s.inputPlace port i
    match s.replyAt port i .wdone with
    | none => s
    | some (_, none) => s.takeReply port i
    | some (p, some o) => ((s.takeReply port i).portFinal port o p.mark).answerClient port o.client p)

/-- PORT_ARES (R115, R118): a trimmed one is not final, and the ATOM is sent again as a replay, with RETRY 0
(assumption 111). -/
def execPortAres (port i : Nat) (s : State) : Out :=
  .next (match s.hostAccess port i with
  | some e => if e.1.ty == .atom then s.hostServe i .ares e.1 e.2 else s
  | none =>
    let i := s.inputPlace port i
    match s.replyAt port i .ares with
    | none => s
    | some (_, none) => s.takeReply port i
    | some (p, some o) =>
      if p.trim then (s.takeReply port i).sendRequest { o.pkt with rpl := true, retry := 0 }
      else ((s.takeReply port i).portFinal port o p.mark).answerClient port o.client p)

/-- The port with the packet of an outstanding request changed in its retransmit buffer. -/
def Port.mapPkt (x : Port) (slice seq : Nat) (f : Packet → Packet) : Port :=
  { x with outstanding := x.outstanding.map (fun o => if o.slice == slice && o.seq == seq then { o with pkt := f o.pkt } else o) }

/-- PORT_PULL: the payload is sent again with RETRY one higher (R112); a payload that a Nopel port trimmed is asked of the
peer (R444). -/
def execPortPull (port i : Nat) (s : State) : Out :=
  .next (match s.replyAt port i .pull with
  | none => s
  | some (_, none) => s.takeReply port i
  | some (p, some o) =>
    let up := fun (q : Packet) => { q with retry := min 15 (p.retry + 1) }
    let s1 := s.takeReply port i
    match o.client, o.pkt.trim with
    | .peer j q, true => s1.peerReply j q p
    | _, _ => (s1.setPort port ((s1.port port).mapPkt o.slice o.seq up)).sendRequest (up o.pkt))

/-- PORT_MDONE: the outcome of a message (R351, R185). -/
def execPortMdone (port i : Nat) (s : State) : Out :=
  .next (match s.replyAt port i .mdone with
  | none => s
  | some (_, none) => s.takeReply port i
  | some (p, some o) =>
    ((s.takeReply port i).portFinal port o p.mark).answerClient port o.client
      { p with opx := 0, data := leBytes 8 p.opx })

/-! ## Redirection (R87) -/

/-- A redirected request of an operation: the page leaves the L1 TLB, and the request walks again. -/
def State.redirectOp (s : State) (core id i : Nat) : State :=
  match (s.core core).ops.find? (fun o => o.id == id) with
  | none => s
  | some o =>
    let va := match o.reqs[i]? with
      | some r => (r.pieces.headD ⟨0, 0, 0, 0, 0, 0, 0⟩).va
      | none => 0
    let c := (s.core core).dropTlb (s.wave ⟨core, o.slot⟩).ctx.asn va
    (s.setCore core (c.mapReq id i (fun r => { r with st := .rewalk }))).progress core

/-- A redirected read of a multicast chunk by a cluster (R121), with its walk, which its first core makes; the reply waits
while the walk does. -/
def State.redirectFetch (s : State) (i port : Nat) (q p : Packet) (o : Outstanding) : State :=
  let core := 16 * portCluster port
  let done := fun (t : State) => (t.takeReply port i).portFinal port o p.mark
  let x := s.asrContext q.tagAsr
  match (s.setCore core ((s.core core).dropTlb x.asn q.tagVa)).engineFind core x q.tagVa 4 q.ts with
  | (s1, .wait) => s1
  | (s1, .fault c l) => (done s1).chunkCame port q (some (c, l))
  | (s1, .poison) => (done s1).chunkCame port q (some (0x22, 0))
  | (s1, .ok pa key _) =>
    match s1.homeOf q.dom pa with
    | some h => (done s1).portQueue port { o.pkt with addr := pa, slice := h.2, key := key } o.client
    | none => (done s1).chunkCame port q (some (0x21, 0))

/-- A core whose L1 TLB has no translation of a physical line. -/
def Core.dropFrame (c : Core) (line : Nat) : Core :=
  { c with tlb := c.tlb.filter (fun e => !(decide (e.frame ≤ 128 * line) && decide (128 * line < e.frame + 2 ^ e.size))) }

/-- A redirected request of a copy taken back: its page leaves the L1 TLB, and it is made again from its walk. -/
def State.redirectCopy (s : State) (core id : Nat) (va : CopyEntry → Nat) (f : CopyEntry → CopyEntry) : State :=
  match (s.core core).copies.find? (fun e => e.id == id) with
  | some e => (s.setCore core ((s.core core).dropTlb e.ctx.asn (va e))).mapCopy core id f
  | none => s

/-- A redirected request of a core's agents taken back, to be made again from its walk (R87). -/
def State.redirectClient (s : State) (c : Client) : State :=
  match c with
  | .op core id k => s.redirectOp core id k
  | .chunk core id chunk => s.redirectCopy core id (fun e => e.chunkVa chunk) (fun e => { e with
      flying := e.flying.filter (fun a => a != chunk), far := e.far.filter (fun a => a != chunk) })
  | .record core id => s.redirectCopy core id (fun e => e.a) (fun e => { e with reading := false })
  | .image core id chunk => s.imageBack core id chunk
  | .fetch core line _ _ _ => s.setCore core ((s.core core).dropFrame line)
  | .host => s.hostAgain
  | _ => s

/-- PORT_REDIRECT (R87, R106). -/
def execPortRedirect (port i : Nat) (s : State) : Out :=
  .next (match s.replyAt port i .redirect with
  | none => s
  | some (_, none) => s.takeReply port i
  | some (p, some o) =>
    let s1 := (s.takeReply port i).portFinal port o p.mark
    match o.client with
    | .refetch q => s.redirectFetch i port q p o
    | .peer j q => s1.peerReply j q p
    | c => s1.redirectClient c)

/-! ## Multicast data at a cluster (R105, R119, R121, R206) -/

/-- The unicast read that a cluster issues for a trimmed MDATA (R121). -/
def refetchPacket (p : Packet) (port : Nat) : Packet :=
  { p with ty := .rd, port := port, mark := false, trim := false, rpl := false, again := true, retry := 0, opx := 0,
           mgrp := 0, mcast := 0, data := [] }

/-- CLUSTER_MDATA: a cluster receives multicast data; at the requesting port it is the request's final reply. -/
def execClusterMdata (port i : Nat) (s : State) : Out :=
  .next (match s.replyAt port i .mdata with
  | none => s
  | some (p, o) =>
    let s1 := s.takeReply port i
    let s2 := match o with
      | some o => if port = p.port then s1.portFinal port o p.mark else s1
      | none => s1
    if p.mcast = 0 then s2.chunkCame port p (if p.opx % 2 = 1 then some (0x22, 0) else none)
    else if p.trim then s2.portQueue port (refetchPacket p port) (.refetch p)
    else if p.opx % 2 = 1 then s2.chunkCame port p (some (0x22, 0))
    else (s2.landCluster (portCluster port) p p.data).chunkCame port p none)

/-! ## The L1 (R136) -/

/-- L1_LINE_EXPIRY: line `i` of a core's L1 is dropped 2,048 core cycles after its fill. -/
def execL1LineExpiry (core i : Nat) (s : State) : Out :=
  let c := s.core core
  .next (match c.l1[i]? with
  | some l => if l.filled + 2048 ≤ s.now then s.setCore core { c with l1 := dropAt c.l1 i } else s
  | none => s)

end Sys2Proof.Machine
end

