-- ==== Sys2Proof/Machine/Interface.lean ====
section
/-! DEFINITION. The network interface of a core: messages appended to rings (R124, R160), remote ATOMS applied by the bank
units (R185), byte counts for phasers (R336); and the watch invalidations that a cluster's residency table answers
(R96, R302). -/

namespace Sys2Proof.Machine

/-- The answer of an interface to a packet: a request without payload that takes no place in the window. -/
def State.answerSlice (s : State) (port : Nat) (p : Packet) (ty : PType) (reason : Nat) : State :=
  s.sendRequest { p with ty := ty, port := port, mark := false, trim := false, rpl := false, retry := 0, opx := reason,
                         mgrp := 0, mcast := 0, data := [], born := s.now }

/-- A record of class SRAM for a poisoned word that an interface met (R124, R185). -/
def State.sramRecord (s : State) (core dom : Nat) : State := s.logError (dieOf core) 1 2 false dom (core % 2048) 0 0

/-- A message appended to its ring, or refused (R124). -/
def State.appendRing (s0 : State) (port core n : Nat) (p : Packet) : State :=
  let s := s0.usePort core 0 interfaceUser
  let c := s.core core
  if c.ringPoisoned n then (s.sramRecord core p.dom).answerSlice port p .mnak 2
  else
    match c.ring n with
    | none => s.answerSlice port p .mnak 2
    | some r =>
      if c.spad.poisoned r.head 4 || c.spad.poisoned r.tail 4 then (s.sramRecord core p.dom).answerSlice port p .mnak 2
      else if r.entry < p.data.length then s.answerSlice port p .mnak 3
      else
        let head := c.spadWord r.head
        let tail := c.spadWord r.tail
        if 2 ^ r.logn ≤ (tail + 2 ^ 32 - head) % 2 ^ 32 then s.answerSlice port p .mnak 0
        else
          let entry := p.data ++ List.replicate (r.entry - p.data.length) 0
          let m1 := c.spad.write (r.base + tail % 2 ^ r.logn * r.entry) entry
          let m2 := m1.write r.tail (leBytes 4 ((tail + 1) % 2 ^ 32))
          (s.setCore core { c with spad := m2, rt := c.rt.set n (max (c.rt.getD n 0) p.ts) }).answerSlice port p .mack 0

/-- The grid of the wave whose message a relay slice offers (R185). -/
def State.senderGrid (s : State) (slice ring : Nat) : Option Nat :=
  match (s.slice slice).offeredFor ring with
  | none => none
  | some (_, m) =>
    match (s.port m.pkt.port).find slice m.pkt.seq with
    | some o =>
      match o.client with
      | .op core id _ =>
        match (s.core core).ops.find? (fun v => v.id == id) with
        | some v => some (s.wave ⟨core, v.slot⟩).ident.grid
        | none => none
      | _ => none
    | none => none

/-- The lowest-addressed allocation on a core of a block of a grid (R185). -/
def Core.lowestOf (c : Core) (grid : Nat) : Option Block :=
  (c.blocks.filter (fun b => b.grid == grid && b.spad != 0)).foldl (fun (o : Option Block) b => match o with
    | none => some b
    | some v => if b.sb < v.sb then some b else some v) none

/-- A remote ATOMS applied by a bank unit, or refused (R185). -/
def State.remoteAtoms (s0 : State) (port core : Nat) (p : Packet) : State :=
  let s := s0.usePort core 0 bankUser
  let c := s.core core
  let f0 := leNat (p.data.take 16)
  let a := f0 % 2 ^ 17
  let n := if f0.testBit 17 then 8 else 4
  let operand := leNat (p.data.drop 16)
  let target := match s.senderGrid p.slice (p.addr % 2 ^ 15) with
    | some g => c.lowestOf g
    | none => none
  match target with
  | none => s.answerSlice port p .mnak 2
  | some b =>
    if b.spad < a + n then s.answerSlice port p .mnak 2
    else if c.spad.poisoned (b.sb + a) n then (s.sramRecord core p.dom).answerSlice port p .mnak 4
    else
      let old := leNat (c.spad.read (b.sb + a) n)
      let new := leBytes n (atomNew (p.opx - 16) n old operand)
      (s.setCore core { c with spad := c.spad.write (b.sb + a) new }).answerSlice port p .mack 0

/-- A byte count for a phaser of this cluster passed to its engine (R336). -/
def State.receiveAdd (s : State) (port core : Nat) (p : Packet) : State :=
  let f := leNat p.data
  let h := phHandle (clusterOf core) (bitsOf 0 7 f) (bitsOf 8 8 f)
  (s.queueAdd (clusterOf core) ⟨h.toNat, bitsOf 32 32 f, some (bitsOf 64 64 f), core, p.dom⟩).answerSlice port p .mack 0

/-- INTERFACE_MSGD (R124, R185, R336). -/
def execInterfaceMsgd (port i : Nat) (s : State) : Out :=
  .next (match s.replyAt port i .msgd with
  | none => s
  | some (p, _) =>
    let s1 := s.takeReply port i
    let core := msgCore p.addr
    if p.trim then s1.answerSlice port p .mnak 1
    else if p.opx = 24 then s1.receiveAdd port core p
    else if 16 ≤ p.opx then s1.remoteAtoms port core p
    else s1.appendRing port core (p.addr % 8) p)

/-- Where the page table in memory puts an address now, read from the root without a trace. -/
def State.peekWalk (s : State) (d : Dom) (va : Nat) : Nat → Nat → Nat → Nat → Option Nat
  | 0, _, _, _ => none
  | n + 1, l, table, key =>
    let e := leNat (s.bytesUnder key (table + 8 * (cacheIndex va l % 512)) 8)
    if !d.holds table || (s.entryFault d l e 0).isSome then none
    else if e.testBit 1 then some (leafBase l e + va % 2 ^ leafBits l (e.testBit 4))
    else State.peekWalk s d va n (l - 1) (bitsOf 12 40 e * 4096) (bitsOf 52 12 e)

/-- The context of a load that a residency waits for: that of its WLOAD or of the MLOOP that reloads it. -/
def State.loader (s : State) (table i : Nat) : Option Context :=
  (s.cores.findSome? (fun c => c.2.tiles.find? (fun e =>
    e.table == table && e.handle % 256 == i && (e.loading || e.op == .wload)))).map (fun e => (s.wave ⟨e.core, e.slot⟩).ctx)

/-- Whether the backing range of a residency of a cluster holds a line (R96): one of those that its load has read, or for a
load that has still to read it, one that its range is translated to now (assumption 106). -/
def State.backs (s : State) (table i : Nat) (r : Residency) (line : Nat) : Bool :=
  r.lines.contains line || (r.st == .loading && (match s.loader table i with
    | none => false
    | some x => (List.range (r.chunks / 2)).any (fun j =>
        (s.peekWalk (s.domOf x.dom) ((r.back + 128 * j) % 2 ^ 57) 5 4 (x.root * 4096) x.key).map (fun a => a / 128) == some line)))

/-- A residency after a WINV for a line that backs it or does not (R302). -/
def Residency.invalidated (r : Residency) (backed : Bool) : Residency :=
  if backed then
    match r.st with
    | .ready => { r with st := .stale }
    | .pinned => { r with st := .stale }
    | .loading => { r with winv := true, prior := if r.prior = .ready ∨ r.prior = .pinned then .stale else r.prior }
    | _ => r
  else r

/-- CLUSTER_WINV: the residencies whose backing range holds the line become STALE, and the cluster answers WACK (R96). -/
def execClusterWinv (port i : Nat) (s : State) : Out :=
  .next (match s.replyAt port i .winv with
  | none => s
  | some (p, _) =>
    let k := portCluster port
    let c := s.cluster k
    let s1 := (s.takeReply port i).setCluster k { c with
      residencies := c.residencies.map (fun e => (e.1, e.2.invalidated (s.backs k e.1 e.2 (p.addr / 128)))) }
    s1.answerSlice port p .wack 0)

end Sys2Proof.Machine
end

