-- ==== Sys2Proof/Machine/Launch.lean ====
section
/-! DEFINITION. Launches (R357-R359, R389-R395): the launch header, the checks, the grid handed to the dispatchers, seed
launches and their children (R379), and the completion of grids (R390). -/

namespace Sys2Proof.Machine

/-! ## Headers (R391) -/

/-- A header's fields. -/
def headerOf (b : List Byte) : Header :=
  let f := pktField b
  { waves := f 2 1, frames := f 3 1, scalars := f 4 1, aslots := f 5 1, ctiles := f 6 1, wplanes := f 7 1
    spad := 256 * f 8 2, rlog := f 10 1 % 4, clog := f 10 1 / 4 % 4, seam := (f 10 1).testBit 4, bonded := (f 10 1).testBit 5
    prot := f 11 1 == 1, widths := (List.range 5).map (fun i => f (12 + i) 1), narg := f 17 1, tvoff := f 24 4 }

/-- The limits of R391 and R59: shapes of R300, and widths of which the first covers the waves and all fit in 64 bits. -/
def headerOk (b : List Byte) : Bool :=
  let f := pktField b
  let h := headerOf b
  f 0 2 == 0x4B48 && decide (1 ≤ h.waves) && decide (h.waves ≤ 8) && decide (2 ≤ h.frames) && decide (h.frames ≤ 16) &&
    decide (8 ≤ h.scalars) && decide (h.scalars ≤ 128) && h.scalars % 8 == 0 && decide (h.aslots ≤ 32) &&
    decide (h.ctiles ≤ 16) && decide (h.wplanes ≤ 32) && decide (f 8 2 ≤ 512) && decide (f 10 1 < 64) && decide (f 11 1 ≤ 1) &&
    decide (h.widths.headD 0 ≤ 3) && decide (h.waves ≤ 2 ^ h.widths.headD 0) && decide (6 + h.widths.foldl (· + ·) 0 ≤ 64) &&
    decide (h.narg ≤ h.scalars) && f 18 6 == 0 && decide (f 24 4 < 2 ^ 30) && (b.drop 28).all (fun x => x == 0) &&
    (if h.bonded then decide (h.rlog ≤ 2) && decide (h.clog ≤ 2) && (!h.seam || (h.rlog == 2 && h.clog == 2))
     else h.rlog == 0 && h.clog == 0 && !h.seam)

/-- The header cache of a die with a header: 16 entries, of which a full cache gives up one that no rule names (R391). -/
def State.cacheHeader (s : State) (h : CachedHeader) : State :=
  let mine := s.fe.headers.filter (fun x => x.die == h.die)
  if mine.length < 16 then s.withFe { s.fe with headers := s.fe.headers ++ [h] }
  else
    let out := (mine.drop (s.pick mine.length)).head?
    (s.withFe { s.fe with headers := s.fe.headers.filter (fun x => some x != out) ++ [h] }).drawn

/-- A header read through the die's cache (R391). -/
def State.readHeader (s : State) (die owner : Nat) (ctx : Context) (va ts : Nat) : State × FeAnswer :=
  if va % 64 ≠ 0 then (s, .fail)
  else
    match s.fe.headers.find? (fun h => h.die == die && h.asn == ctx.asn && h.va == va) with
    | some h => (s, .done h.bytes)
    | none =>
      match s.feLoad die owner ctx va 64 ts with
      | (s1, .done bs) => (s1.cacheHeader ⟨die, ctx.asn, va, bs⟩, .done bs)
      | r => r

/-! ## Checks (R392) -/

/-- What the checks of a launch give: a grid's header and block count, an error, or a page that migrates. -/
inductive LaunchJudged where
  | go (h : Header) (count : Nat)
  | refuse (code : Nat)
  | later
  deriving DecidableEq, Repr

/-- The blocks of one placement: one, or a whole gang. -/
def Header.unit (h : Header) : Nat := if h.bonded then h.rows * h.cols else 1

/-- The last two checks of R392 for a count. A count that is not a whole number of gangs cannot be placed. -/
def Header.judgeCount (h : Header) (count : Nat) : LaunchJudged :=
  if 2 ^ (h.widths.tail.foldl (· + ·) 0) < count then .refuse qTooMany
  else if count % h.unit ≠ 0 then .refuse qNoFit else .go h count

/-- A launch judged (R392): the header, the seed's one wave, the fit, then the count, which an INDIRECT reads with one load
(R395). -/
def State.judgeLaunch (s : State) (die owner : Nat) (ctx : Context) (ty : Nat) (b : List Byte) (count ts : Nat) : State × LaunchJudged :=
  match s.readHeader die owner ctx (pktField b 24 8 % 2 ^ 57) ts with
  | (s1, .later) => (s1, .later)
  | (s1, .fail) => (s1, .refuse qBadHdr)
  | (s1, .done bs) =>
    let h := headerOf bs
    if !headerOk bs then (s1, .refuse qBadHdr)
    else if ty = tSeed ∧ h.waves ≠ 1 then (s1, .refuse qSeedWaves)
    else if !(s1.domOf ctx.dom).canFit h then (s1, .refuse qNoFit)
    else if ty = tIndirect then
      let va := pktField b 32 8 % 2 ^ 57
      if va % 4 ≠ 0 then (s1, .refuse qCountFault)
      else
        match s1.feLoad die owner ctx va 4 ts with
        | (s2, .later) => (s2, .later)
        | (s2, .fail) => (s2, .refuse qCountFault)
        | (s2, .done v) => (s2, h.judgeCount (leNat v))
    else (s1, h.judgeCount count)

/-! ## Handing a grid over (R390, R393) -/

/-- The grid of a launch body (R389). -/
def gridOf (h : Header) (ctx : Context) (queue seq count ts : Nat) (seed : Option Nat) (b : List Byte) : Grid :=
  { hdr := h, ctx := ctx, queue := queue, seq := seq, count := count, placed := 0, retired := 0, trigd := 0, trigDone := false
    finalTs := 0, trigTs := 0, startTs := ts, seed := seed, seedVal := BitVec.ofNat 32 (pktField b 40 4)
    sqmask := BitVec.ofNat 32 (pktField b 44 4), args := pktField b 48 8 % 2 ^ 57, spill := pktField b 56 8 % 2 ^ 57
    codeBase := (pktField b 24 8 % 2 ^ 57 + 64) % 2 ^ 57 }

/-- A grid handed to the dispatchers. -/
def State.addGrid (s : State) (g : Grid) : State :=
  s.withFe { s.fe with grids := Map.set s.fe.grids s.fe.nextGrid g, nextGrid := s.fe.nextGrid + 1 }

/-- A launch packet executed: its sequence number, then refused, complete at once, or running (R390, R392). -/
def State.launch (s : State) (die n : Nat) (b : List Byte) : State :=
  let ty := pktType b
  let ctx := s.queueContext n
  let ts := s.startTs die n b
  match s.judgeLaunch die (feOwner n 2) ctx ty b (if ty = tSeed then 1 else pktField b 32 4) ts with
  | (s1, .later) => s1
  | (s1, .refuse c) => s1.launchEnded n ts (some c)
  | (s1, .go h count) =>
    if count = 0 then s1.launchEnded n ts none
    else
      let seq := ((s1.queueAt die n).nextseq + 1).toNat
      let id := s1.fe.nextGrid
      let s2 := s1.addGrid (gridOf h ctx n seq count ts (if ty = tSeed then some id else none) b)
      let s3 := if ty = tSeed then s2.withFe { s2.fe with seeds := Map.set s2.fe.seeds id ⟨ctx, 1, [], n, seq, 0⟩ } else s2
      s3.retirePacket { QueueChange.blank n with pop := true, seq := true }

/-- LAUNCH_PACKET (R390). -/
def execLaunchPacket (n : Nat) (s : State) : Out :=
  .next (s.withPacket n (.launchPacket n) (fun s die b => s.launch die n b))

/-- SEEDLAUNCH_PACKET (R358): one block, with a spawn-tree counter that starts at 1. -/
def execSeedlaunchPacket (n : Nat) (s : State) : Out :=
  .next (s.withPacket n (.seedlaunchPacket n) (fun s die b => s.launch die n b))

/-- INDIRECT_PACKET (R395): the count is read after the first three checks. -/
def execIndirectPacket (n : Nat) (s : State) : Out :=
  .next (s.withPacket n (.indirectPacket n) (fun s die b => s.launch die n b))

/-! ## Children of a seed launch (R358, R379) -/

/-- A seed launch. -/
def State.seed? (s : State) (grid : Nat) : Option (Nat × SeedLaunch) :=
  match Map.get? s.fe.grids grid with
  | none => none
  | some g =>
    match g.seed with
    | none => none
    | some i => (Map.get? s.fe.seeds i).map (fun l => (i, l))

/-- The answer of an ENQ written to its wave. -/
def Wave.enqAnswered (w : Wave) (d : Nat) (ok : Bool) : Wave :=
  { (w.setQ d ok) with
    sb := w.sb.eraseP (fun e => e.1 == SbReg.q d)
    waits := { w.waits with enq := w.waits.enq - 1 } }

/-- ENQ_REQUEST: request `i` of the front end is answered (R379). -/
def execEnqRequest (i : Nat) (s : State) : Out :=
  .next (match s.fe.enqs[i]? with
  | none => s
  | some sp =>
    let s1 := s.withFe { s.fe with enqs := dropAt s.fe.enqs i }
    let answer := fun (t : State) (ok : Bool) => t.setWave sp.wave ((t.wave sp.wave).enqAnswered sp.dst ok)
    match s1.seed? sp.grid with
    | none => answer s1 false
    | some (k, l) =>
      if sp.record % 64 ≠ 0 ∨ 2 ^ 40 ≤ l.counter + sp.count ∨ 256 ≤ l.spawns.length then answer s1 false
      else
        let l1 := { l with counter := l.counter + sp.count, spawns := l.spawns ++ [sp] }
        answer (s1.withFe { s1.fe with seeds := Map.set s1.fe.seeds k l1 }) true)

/-- A completion (false) or trigger (true) of a launch, on its way to the owner of its queue's record (R384, R390). -/
def State.noteQueue (s : State) (n : Nat) (trigger : Bool) (seq ts : Nat) : State :=
  s.withFe { s.fe with changes := s.fe.changes ++ [{ QueueChange.blank n with note := some (trigger, seq, ts) }] }

/-- A seed launch whose counter has reached 0, with no grid of it left, completes (R358); it triggers then too. -/
def State.endSeed (s : State) (k : Nat) : State :=
  match Map.get? s.fe.seeds k with
  | none => s
  | some l =>
    if l.counter ≠ 0 ∨ s.fe.grids.any (fun e => e.2.seed == some k) then s
    else ((s.withFe { s.fe with seeds := Map.del s.fe.seeds k }).noteQueue l.queue false l.seq l.finalTs).noteQueue l.queue true l.seq l.finalTs

/-- The record of an ENQ judged: malformed, or judged as a launch with the count that ENQ gave (R379, R389). -/
def State.judgeSpawn (s : State) (die k : Nat) (l : SeedLaunch) (sp : Spawn) : State × LaunchJudged × List Byte :=
  match s.feLoad die (feOwner k 4) l.ctx sp.record 64 sp.ts with
  | (s1, .later) => (s1, .later, [])
  | (s1, .fail) => (s1, .refuse qEnqRec, [])
  | (s1, .done b) =>
    if pktType b ≠ tLaunch ∨ pktWaits b ≠ 0 ∨ packetBad b then (s1, .refuse qEnqRec, b)
    else
      let r := s1.judgeLaunch die (feOwner k 4) l.ctx tLaunch b sp.count sp.ts
      (r.1, r.2, b)

/-- SPAWN_HANDOFF: the front end takes the first spawn of seed launch `k`: its record is read, and the child handed over or
reported, when its blocks leave the counter (R379). -/
def execSpawnHandoff (k : Nat) (s : State) : Out :=
  .next (match Map.get? s.fe.seeds k with
  | none => s
  | some l =>
    match l.spawns with
    | [] => s
    | sp :: rest =>
      if s.recordBusy l.queue then s
      else
        let put := fun (t : State) (l1 : SeedLaunch) => t.withFe { t.fe with seeds := Map.set t.fe.seeds k l1 }
        match s.judgeSpawn (l.queue % 2) k l sp with
        | (s1, .later, _) => s1
        | (s1, .refuse c, _) =>
          (((put s1 { l with spawns := rest, counter := l.counter - sp.count }).submit { QueueChange.blank l.queue with err := some c }).endSeed k).feForget (feOwner k 4)
        | (s1, .go h count, b) =>
          ((put s1 { l with spawns := rest }).addGrid (gridOf h l.ctx l.queue l.seq count sp.ts (some k) b)).feForget (feOwner k 4))

/-! ## Completion (R343, R359, R390) -/

/-- A saved context without the phaser objects of a grid. -/
def CtxSched.forget (c : CtxSched) (grid : Nat) : CtxSched :=
  { c with sync := c.sync.map (fun x => (x.1, x.2.1.filter (fun p => p.2.grid != grid), x.2.2)) }

/-- The phaser objects of a grid free in every cluster (R343); those that were saved with its context do not come back. -/
def State.freePhasers (s : State) (grid : Nat) : State :=
  { s with
    clusters := s.clusters.map (fun e => (e.1, { e.2 with
      phasers := e.2.phasers.map (fun p => if p.2.live && p.2.grid == grid then (p.1, p.2.freed) else p) }))
    ctxs := s.ctxs.map (fun e => (e.1, e.2.forget grid)) }

/-- A grid every block of which has triggered (R359); a seed launch triggers as a whole. -/
def State.gridTriggered (s : State) (id : Nat) (g : Grid) : State :=
  if g.trigDone || g.trigd != g.count || g.seed.isSome then s
  else (s.mapGrid id (fun g => { g with trigDone := true })).noteQueue g.queue true g.seq g.trigTs

/-- A grid every block of which has retired (R360, R390). -/
def State.gridRetired (s : State) (id : Nat) (g : Grid) : State :=
  if g.retired ≠ g.count then s
  else
    let s1 := (s.freePhasers id).withFe { s.fe with grids := Map.del s.fe.grids id }
    match g.seed with
    | none => s1.noteQueue g.queue false g.seq g.finalTs
    | some k =>
      match Map.get? s1.fe.seeds k with
      | none => s1
      | some l => (s1.withFe { s1.fe with seeds := Map.set s1.fe.seeds k { l with finalTs := max l.finalTs g.finalTs } }).endSeed k

/-- GRID_COMPLETE (R390): what a triggered or completed grid tells its queue. -/
def execGridComplete (id : Nat) (s : State) : Out :=
  .next (match Map.get? s.fe.grids id with
  | none => s
  | some g => (s.gridTriggered id g).gridRetired id g)

end Sys2Proof.Machine
end

