-- ==== Sys2Proof/Machine/Manage.lean ====
section
/-! DEFINITION. The RESIDENCY and MGMT packets (R397, R398): quotas, revocation of residencies, invalidations (R83), keys
(R89, R91, R441), migration (R85-R88), counters (R127, R365), and the firmware fields of the records (R383, R394). -/

namespace Sys2Proof.Machine

/-! ## How a management packet ends -/

/-- A free value for what the spec does not state of a record of Mayfly (R436). -/
def State.logNote (s : State) (die cls : Nat) (g : Bool) (dom unit index : Nat) : State :=
  (s.logError die cls (s.freeCode % 6) g dom unit index (s.freeCode / 16 % 256)).drawn

/-- A MGMT packet that has retired: with EVT = 1 a MGMTDONE record is posted, whose CODE the spec does not give (R400). -/
def State.mgmtNoted (s : State) (n : Nat) (b : List Byte) : State :=
  if pktEvt b then (s.postEvent (s.laneQueue n).dom (eventRecord s.netNow s.freeCode n evMgmtDone)).drawn else s

/-- A MGMT packet completed. -/
def State.mgmtDone (s : State) (n : Nat) (b : List Byte) : State := (s.mgmtNoted n b).retired n

/-- A MGMT packet that failed (R398). -/
def State.mgmtFail (s : State) (n : Nat) : State := s.retiredWith n qMgmtFail

/-- Operand `i` of a MGMT packet. -/
def mgmtArg (b : List Byte) (i : Nat) : Nat := pktField b (32 + 8 * i) 8

/-- An operation that needs PRIV (R397, R398). -/
def State.privileged (s : State) (n : Nat) (body : State → State) : State :=
  if (s.laneQueue n).priv then body s else s.retiredWith n qDenied

/-! ## RESIDENCY (R397) -/

/-- Whether a cluster belongs to a queue's domain. -/
def State.ownCluster (s : State) (n k : Nat) : Bool := (s.domOf (s.laneQueue n).dom).clusters.contains k

/-- SETQUOTA (R397, R306). -/
def execSetquota (n : Nat) (s : State) : Out :=
  .next (s.withPacket n (.setquota n) (fun s _ b =>
    let k := pktField b 26 2
    if !(s.ownCluster n k) then s.retiredWith n qDenied
    else s.privileged n (fun s =>
      let c := s.cluster k
      (s.setCluster k { c with quota := Map.set c.quota (s.laneQueue n).dom (pktField b 28 2) }).retired n)))

/-- One residency released as under WREVOKE, unless an MLOOP or a load of it is running (R316, R397). -/
def State.revokeEntry (s : State) (k i : Nat) : State :=
  if ((s.cluster k).residency i).st = .loading ∨ s.loopUses k i then s
  else (s.freePlanes k i).mapResidency k i Residency.released

/-- The residencies of a domain in a cluster's table. -/
def State.residenciesOf (s : State) (k dom : Nat) : List Nat :=
  (List.range 256).filter (fun i => ((s.cluster k).residency i).st != .free && ((s.cluster k).residency i).dom == dom)

/-- REVOKEALL (R397). -/
def execRevokeall (n : Nat) (s : State) : Out :=
  .next (s.withPacket n (.revokeall n) (fun s _ b =>
    let k := pktField b 26 2
    let dom := (s.laneQueue n).dom
    if !(s.ownCluster n k) then s.retiredWith n qDenied
    else
      let s1 := (s.residenciesOf k dom).foldl (fun t i => t.revokeEntry k i) s
      if (s1.residenciesOf k dom).isEmpty then s1.retired n else s1.putBack n))

/-! ## Invalidations (R83) -/

/-- Whether two ranges overlap. -/
def overlaps (a n b m : Nat) : Bool := decide (a < b + m) && decide (b < a + n)

/-- Translations dropped from every TLB and translation cache of the package, with what walks have found and no access has
used yet, and the places of the walks under way: what they read before is used no more (R83). -/
def State.dropTranslations (s : State) (tlb : TlbEntry → Bool) (cached : CachedEntry → Bool) (walk : Nat → Nat → Bool) : State :=
  let keepsFault := fun (asn : Nat) (a : WalkAnswer) => !walk asn a.page
  let keepWave := fun (w : Wave) => { w with answers := w.answers.filter (keepsFault w.ctx.asn) }
  { s with
    wv := keepWave s.wv
    waves := s.waves.map (fun e => (e.1, keepWave e.2))
    cores := s.cores.map (fun e => (e.1, { e.2 with
      tlb := e.2.tlb.filter (fun x => !tlb x), answers := e.2.answers.filter (fun a => keepsFault a.1 a.2) }))
    clusters := s.clusters.map (fun e => (e.1, { e.2 with
      tlb := e.2.tlb.filter (fun x => !tlb x)
      walks := e.2.walks.map (fun w => if walk w.asn w.page then { w with pos := none } else w) }))
    fe := { s.fe with walks := [] }
    ms := { s.ms with xcache := s.ms.xcache.filter (fun x => !cached x) } }

/-- The translations of a VA range of an address space dropped. -/
def State.dropRange (s : State) (asn va len : Nat) : State :=
  s.dropTranslations (fun e => e.asn == asn && overlaps (e.page * 2 ^ e.size) (2 ^ e.size) va len)
    (fun c => c.asn == asn && overlaps (c.index * 2 ^ (12 + 9 * c.level)) (2 ^ (12 + 9 * c.level)) va len)
    (fun a page => a == asn && overlaps (page * 4096) 4096 va len)

/-- The translations that name a key slot dropped, and the instructions fetched under it. -/
def State.dropKey (s : State) (k : Nat) : State :=
  let s1 := s.dropTranslations (fun e => e.key == k) (fun c => bitsOf 52 12 c.entry == k) (fun _ _ => true)
  { s1 with cores := s1.cores.map (fun e => (e.1, { e.2 with icache := e.2.icache.filter (fun l => l.key != k) })) }

/-- Whether a request of an operation has been answered with REDIRECT, which counts as complete (R83). -/
def State.redirected (s : State) (r : Request) : Bool :=
  match r.st with
  | .sent port slice seq => (s.port port).inbox.any (fun p => p.ty == .redirect && p.slice == slice && p.seq == seq)
  | _ => false

/-- The requests without an answer at every port, at the host interface and on the links, those included that wait to be
sent. -/
def State.pendingRequests (s : State) : List (Packet × Client) :=
  s.net.ports.flatMap (fun x => x.2.outstanding.map (fun o => (o.pkt, o.client)) ++ x.2.waiting) ++
    s.host.accesses ++ s.nopel.flatMap (fun n => n.2.sent.map (fun e => e.2.2))

/-- The address space for which Cicada made an access (feOwner, argsOwner). -/
def State.feAsn (s : State) (owner : Nat) : Nat :=
  if owner % 8 < 4 then (s.queueContext (owner / 8)).asn
  else if owner % 8 = 4 then ((Map.get? s.fe.seeds (owner / 8)).map (fun l => l.ctx.asn)).getD 0
  else ((s.argsGrid owner).map (fun g => g.ctx.asn)).getD 0

/-- Whether the access of a client used a translation that a test by address space, address and key slot picks. -/
def State.clientUses (s : State) (hit : Nat → Nat → Nat → Bool) (p : Packet) (c : Client) : Bool :=
  let copy := fun (core id : Nat) (va : CopyEntry → Nat) =>
    (s.core core).copies.any (fun e => e.id == id && hit e.ctx.asn (va e) p.key)
  match c with
  | .chunk core id at' => copy core id (fun e => e.chunkVa at')
  | .record core id => copy core id (fun e => e.a)
  | .image core id chunk => (s.core core).tiles.any (fun e => e.id == id &&
      hit (s.wave ⟨e.core, e.slot⟩).ctx.asn ((s.imageBase e (s.entryResidency e) + 64 * chunk) % 2 ^ 57) p.key)
  | .fetch _ _ _ asn va => hit asn va p.key
  | .cicada owner key => hit (s.feAsn owner) (key / 2) p.key
  | .refetch q => hit (s.asrContext q.tagAsr).asn q.tagVa p.key
  | _ => false

/-- Whether an access is in flight that used a translation of some address space, address and key slot (R83): of an operation
that has not completed, each packet but those answered with REDIRECT. -/
def State.inFlight (s : State) (hit : Nat → Nat → Nat → Bool) : Bool :=
  s.cores.any (fun c => c.2.ops.any (fun o => o.kind.translated && o.reqs.any (fun r => r.st != .rewalk && !s.redirected r &&
    r.pieces.any (fun p => hit (s.wave ⟨c.1, o.slot⟩).ctx.asn p.va r.key)))) ||
  s.pendingRequests.any (fun e => s.clientUses hit e.1 e.2)

/-- Whether an access of a VA range of an address space is in flight. -/
def State.rangeInFlight (s : State) (asn va len : Nat) : Bool :=
  s.inFlight (fun a v _ => a == asn && decide (va ≤ v) && decide (v < va + len))

/-- INVAL: the translations of a range go, the header caches are emptied (R391), and the packet retires when no access that
used one is in flight (R83). -/
def execInval (n : Nat) (s : State) : Out :=
  .next (s.withPacket n (.inval n) (fun s _ b =>
    let asn := mgmtArg b 0
    let va := mgmtArg b 1 % 2 ^ 57
    if 2 ^ 16 ≤ asn then s.mgmtFail n
    else
      let s1 := (s.dropRange asn va (mgmtArg b 2)).withFe { s.fe with headers := [] }
      if s1.rangeInFlight asn va (mgmtArg b 2) then s1 else s1.mgmtDone n b))

/-- The state with a key slot replaced. -/
def State.setKey (s : State) (k : Nat) (x : KeySlot) : State := s.withMs { s.ms with keys := Map.set s.ms.keys k x }

/-- INVALKEY (R83); a REVOKED slot may then be loaded again (R92). -/
def execInvalkey (n : Nat) (s : State) : Out :=
  .next (s.withPacket n (.invalkey n) (fun s _ b =>
    let k := mgmtArg b 0
    if 4096 ≤ k then s.mgmtFail n
    else
      let s1 := s.dropKey k
      if s1.inFlight (fun _ _ x => x == k) then s1
      else (s1.setKey k { (s1.key k) with cleared := true }).mgmtDone n b))

/-! ## Keys (R89-R92, R441) -/

/-- What a sealed blob names (R441). -/
structure Blob where
  dom : Nat
  slot : Nat
  op : Nat
  counter : Nat
  deriving DecidableEq, Repr

/-- The bytes of a blob, whose layout the spec does not give: their number is the model's own. -/
def blobBytes : Nat := 128

/-- A blob opened under a session's key; none where its tag fails. -/
def openBlob (secret : Nat) (bs : List Byte) : Option Blob :=
  if Config.cryptoOk secret bs then
    let p := Config.cryptoBytes secret bs
    some ⟨pktField p 0 1, pktField p 1 2, pktField p 3 1, pktField p 4 8⟩
  else none

/-- A sealed operation (R441): refused without a session, when the tag fails, for another domain, another operation, or a
counter that is not above the last accepted; the counter accepted is kept. -/
def State.withBlob (s : State) (die n op : Nat) (b : List Byte) (body : State → Nat → Option State) : State :=
  let dom := (s.laneQueue n).dom
  match s.feLoad die (feOwner n 2) (s.queueContext n) (mgmtArg b 0 % 2 ^ 57) blobBytes (s.laneQueue n).hts with
  | (s1, .later) => s1
  | (s1, .fail) => s1.mgmtFail n
  | (s1, .done bs) =>
    match Map.get? s1.box.sessions dom with
    | none => s1.mgmtFail n
    | some x =>
      match openBlob x.secret bs with
      | none => s1.mgmtFail n
      | some v =>
        if v.dom ≠ dom ∨ v.op ≠ op ∨ v.counter < x.counter ∨ 4096 ≤ v.slot then s1.mgmtFail n
        else
          let s2 := { s1 with box := { s1.box with sessions := Map.set s1.box.sessions dom { x with counter := v.counter + 1 } } }
          match body s2 v.slot with
          | some s3 => (s3.logNote die 0x12 false dom 0 v.slot).mgmtDone n b
          | none => s2.mgmtFail n

/-- KEYLOAD (R89, R92): into an EMPTY slot, or a REVOKED one that an invalidation has cleared. -/
def execKeyload (n : Nat) (s : State) : Out :=
  .next (s.withPacket n (.keyload n) (fun s die b => s.withBlob die n 3 b (fun s k =>
    let x := s.key k
    if x.st = .empty ∨ (x.st = .revoked ∧ x.cleared) then
      some (s.setKey k ⟨.loaded, (s.laneQueue n).dom, x.epoch + 1, false⟩)
    else none)))

/-- The lines tagged with a key slot gone from every slice and every L1 (step 2 of R91). -/
def State.dropLines (s : State) (k : Nat) : State :=
  let gone := fun (x : Slice) => x.sets.foldl (fun t e => e.2.foldl (fun t w => if w.key == k then max t w.rts else t) t) x.mts
  { s with
    net := { s.net with slices := s.net.slices.map (fun e => (e.1, { e.2 with
      sets := e.2.sets.map (fun v => (v.1, v.2.filter (fun w => w.key != k))), mts := gone e.2 })) }
    cores := s.cores.map (fun e => (e.1, { e.2 with l1 := e.2.l1.filter (fun l => l.key != k) })) }

/-- The residencies whose descriptor names a key slot REVOKED, their planes zero and free (step 4 of R91). -/
def State.revokeResidencies (s : State) (k : Nat) : State :=
  (s.clusters.map (fun e => e.1)).foldl (fun t c =>
    (List.range 256).foldl (fun u i =>
      let r := (u.cluster c).residency i
      if r.st ≠ .free ∧ r.key = k then (u.freePlanes c i).mapResidency c i (fun r => { r with st := .revoked }) else u) t) s

/-- KEYREVOKE (R91). -/
def execKeyrevoke (n : Nat) (s : State) : Out :=
  .next (s.withPacket n (.keyrevoke n) (fun s die b => s.withBlob die n 4 b (fun s k =>
    let x := s.key k
    if x.st = .loaded ∧ x.owner = (s.laneQueue n).dom then
      some ((((s.setKey k { x with st := .revoked, cleared := false }).dropLines k).dropKey k).revokeResidencies k)
    else none)))

/-! ## Migration (R85-R88) -/

/-- What firmware's own walk for a leaf entry finds: its place, level, value and the key slot of its table; none; or nothing
yet. -/
inductive LeafFound where
  | found (pa level entry key : Nat)
  | bad
  | later
  deriving DecidableEq, Repr

/-- The leaf entry of an address, found by firmware's own walk, entry by entry through its die's port. -/
def State.leafFrom (die owner : Nat) (d : Dom) (va ts : Nat) : Nat → State → Nat → Nat → Nat → State × LeafFound
  | 0, s, _, _, _ => (s, .bad)
  | n + 1, s, l, table, key =>
    let pa := table + 8 * (cacheIndex va l % 512)
    if !d.holds table then (s, .bad)
    else
      match s.fePhys die owner d.plan.num key pa ts .rd 0 [] with
      | (s1, .later) => (s1, .later)
      | (s1, .fail) => (s1, .bad)
      | (s1, .done bs) =>
        let e := leNat bs
        if (s1.entryFault d l e 0).isSome then (s1, .bad)
        else if e.testBit 1 then (s1, .found pa l e key)
        else State.leafFrom die owner d va ts n s1 (l - 1) (bitsOf 12 40 e * 4096) (bitsOf 52 12 e)

/-- MIG = 1 set in the leaf entries of a page in turn (step 1 of R85): one reduction each, which leaves what a walker sets in
A or D. -/
def State.markLeaves (die owner dom ts : Nat) (m : Migration) : Nat → State → State × FeAnswer
  | 0, s => (s, .done [])
  | n + 1, s =>
    match s.fePhys die owner dom m.tableKey (m.leaf + 8 * (m.count - (n + 1))) ts .red 4 (leBytes 8 0x80) with
    | (s1, .done _) => State.markLeaves die owner dom ts m n s1
    | r => r

/-- A leaf entry of the page at its new place: the new FRAME, MIG = 0. -/
def movedLeaf (new e : Nat) : Nat := e % 2 ^ 7 + 2 ^ 8 * bitsOf 8 4 e + new / 4096 * 2 ^ 12 + 2 ^ 52 * (e / 2 ^ 52)

/-- The leaf entries of a page given its new FRAME in turn (step 5 of R85): a read and a write each, between which no walker
changes an entry with MIG = 1. -/
def State.moveLeaves (die owner dom ts : Nat) (m : Migration) (new : Nat) : Nat → State → State × FeAnswer
  | 0, s => (s, .done [])
  | n + 1, s =>
    let pa := m.leaf + 8 * (m.count - (n + 1))
    match s.fePhys die owner dom m.tableKey pa ts .rd 0 [] with
    | (s1, .done bs) =>
      match s1.fePhys die owner dom m.tableKey pa ts .wr 0 (leBytes 8 (movedLeaf new (leNat bs))) with
      | (s2, .done _) => State.moveLeaves die owner dom ts m new n s2
      | r => r
    | r => r

/-- The slices of a domain. -/
def Dom.slices (d : Dom) : List Nat := d.groups.flatMap (fun g => (List.range 4).map (fun i => 4 * g + i))

/-- MIGRATE or RELEASE sent to the old home slices of a page. -/
def State.sendMigration (s : State) (die : Nat) (d : Dom) (m : Migration) (ty : PType) : State :=
  d.slices.foldl (fun t i => t.sendRequest { (fePacket ty d.plan.num m.key m.base m.len 0 []) with
    port := cicadaPort die, slice := i, ld := m.new, mt2 := m.mt2 }) s

/-- The state with a queue's migration replaced, or ended. -/
def State.setMigration (s : State) (n : Nat) (m : Option Migration) : State :=
  s.withFe { s.fe with migs := match m with
    | some m => Map.set s.fe.migs n m
    | none => Map.del s.fe.migs n }

/-- Whether a new FRAME of a page of 2^bits bytes may be one (R74, R78, R79, R85): aligned, but for the bits that a leaf with SIZE = 1
ignores, and with the whole page in the domain's range, or in a peer's package. -/
def newFrameOk (d : Dom) (frame bits : Nat) (size : Bool) : Bool :=
  let pa := frame * 4096
  let base := pa / 2 ^ bits * 2 ^ bits
  decide (frame < 2 ^ 40) && (size || pa % 2 ^ bits == 0) &&
    (pa / 2 ^ 50 == 3 || (d.holds base && d.holds (base + 2 ^ bits - 1)))

/-- The first part of a migration: the page found and judged (R85). A page that already has MIG = 1, after a migration that
failed, is refused with MGMTFAIL (assumption 77). -/
def State.startMigration (s : State) (die n : Nat) (d : Dom) (b : List Byte) : State :=
  let q := s.laneQueue n
  let ctx := s.queueContext n
  let va := mgmtArg b 0 % 2 ^ 57
  match State.leafFrom die (feOwner n 2) d va q.hts 5 s 4 (ctx.root * 4096) ctx.key with
  | (s1, .later) => s1
  | (s1, .bad) => s1.mgmtFail n
  | (s1, .found pa level e key) =>
    let bits := leafBits level (e.testBit 4)
    if e.testBit 7 ∨ 2 ^ 50 ≤ leafBase level e ∨ !newFrameOk d (mgmtArg b 1) bits (e.testBit 4) then s1.mgmtFail n
    else
      let m : Migration := {
        asr := q.asr, va := va / 2 ^ bits * 2 ^ bits, base := leafBase level e, len := 2 ^ bits
        new := mgmtArg b 1 * 4096 / 2 ^ bits * 2 ^ bits, key := bitsOf 52 12 e, mt2 := bitsOf 8 2 e == 2
        leaf := if e.testBit 4 then pa / 128 * 128 else pa, count := if e.testBit 4 then 16 else 1, tableKey := key, phase := 0 }
      (s1.feForget (feOwner n 2)).setMigration n (some m)

/-- A migration under way (R85): MIG = 1 in the leaf entries, the invalidation, the drain and copy at every old home, the new
FRAME, the release. Under a revoked key slot it fails, as where a line cannot be copied, and the page keeps MIG = 1 (R88). -/
def State.runMigration (s : State) (die n : Nat) (d : Dom) (b : List Byte) (m : Migration) : State :=
  let asn := (s.queueContext n).asn
  let ts := (s.laneQueue n).hts
  let at' := fun (i : Nat) => (s.slice i).migrating.find? (fun v => v.base == m.base)
  let next := fun (t : State) (p : Nat) => (t.feForget (feOwner n 2)).setMigration n (some { m with phase := p })
  let fail := fun (t : State) => ((t.sendMigration die d m .release).setMigration n none).mgmtFail n
  match m.phase with
  | 0 =>
    match State.markLeaves die (feOwner n 2) d.plan.num ts m m.count s with
    | (s1, .later) => s1
    | (s1, .fail) => (s1.setMigration n none).mgmtFail n
    | (s1, .done _) => next s1 1
  | 1 =>
    let s1 := s.dropRange asn m.va m.len
    if s1.rangeInFlight asn m.va m.len then s1 else next (s1.sendMigration die d m .migrate) 2
  | 2 =>
    if !(s.keyUsable m.key d.plan.num) ∨ d.slices.any (fun i => ((at' i).map (fun v => v.failed)).getD false) then fail s
    else if d.slices.all (fun i => ((at' i).map (s.migrated i)).getD false) then next s 3
    else s
  | 3 =>
    match State.moveLeaves die (feOwner n 2) d.plan.num ts m (mgmtArg b 1 * 4096) m.count s with
    | (s1, .later) => s1
    | (s1, .fail) => fail s1
    | (s1, .done _) => next (s1.sendMigration die d m .release) 4
  | _ => if d.slices.all (fun i => (at' i).isNone) then (s.setMigration n none).mgmtDone n b else s

/-- MIGRATE (R85): a part of the migration in each step, until it has completed. -/
def execMigrate (n : Nat) (s : State) : Out :=
  .next (s.withPacket n (.migrate n) (fun s die b =>
    let d := s.domOf (s.laneQueue n).dom
    match Map.get? s.fe.migs n with
    | none => s.startMigration die n d b
    | some m => s.runMigration die n d b m))

/-! ## RESUME and COUNTERS (R398) -/

/-- A change that a management packet makes to a queue's record: made at the owner by a lane of its die, or sent there by one of
the other, which completes once the owner has applied it (R384). -/
def State.changeRecord (s : State) (die n : Nat) (b : List Byte) (c : QueueChange) : State :=
  let t := c.queue
  if die % 2 = t % 2 then if s.recordBusy t then s else (s.applyChange c).mgmtDone n b
  else if (Map.get? s.fe.polls n).isSome then if s.changing t then s else s.mgmtDone n b
  else if s.changing t then s
  else s.withFe { s.fe with
    changes := s.fe.changes ++ [c], replicas := Map.del s.fe.replicas t, polls := Map.set s.fe.polls n (1, b) }

/-- A management packet that reads a queue's record: from a current replica, which is fetched again first (R384). -/
def State.withRecord (s : State) (die n t : Nat) (body : State → QueueRec → State) : State :=
  if s.current die t || (Map.get? s.fe.polls n).isSome then body s (s.queueAt die t) else s.refetch die t

/-- RESUME: HALT goes only when no record is latched. -/
def execResume (n : Nat) (s : State) : Out :=
  .next (s.withPacket n (.resume n) (fun s die b => s.withRecord die n (mgmtArg b 0) (fun s q =>
    let t := mgmtArg b 0
    if 4096 ≤ t ∨ q.dom ≠ (s.laneQueue n).dom then s.mgmtFail n
    else if (q.halt && q.pend.isEmpty) || (Map.get? s.fe.polls n).isSome then s.changeRecord die n b { QueueChange.blank t with resume := true }
    else s.mgmtDone n b)))

/-- The dies of a domain. -/
def Dom.dies (d : Dom) : List Nat := if d.plan.spanning then [0, 1] else [d.plan.die]

/-- The switch outputs and seam lanes of a domain, in ascending number (R128, R129): the lanes that leave a die stand with its
request network. -/
def Dom.outputs (d : Dom) : List Nat :=
  let w := 256 / d.plan.n
  (List.range 2).flatMap (fun net => d.dies.flatMap (fun die =>
    (List.range 5).flatMap (fun st => (List.range w).map (fun i => switchId net die st (w * d.plan.k + i))) ++
      (if d.plan.spanning && net == 0 then
        (List.range (16 / d.plan.n)).map (fun i => switchId net die 5 (16 / d.plan.n * d.plan.k + i)) else [])))

/-- The reply switches of a domain's outputs, in ascending number; a switch that a cut divides counts for each domain apart
(R127, R130). -/
def Dom.replySwitches (d : Dom) : List Nat :=
  ((d.outputs.filter (fun k => k / 4096 == 1)).map (replySwitch 0)).foldl (fun m k => Map.set m k ()) ([] : Map Unit) |>.map (fun e => e.1)

/-- The counters of R127 of a domain, in ascending unit and then in the order of the table: outputs and lanes, reply
switches, slices. -/
def State.netCounters (s : State) (d : Dom) : List Nat :=
  d.outputs.flatMap (fun k => [(s.out k).trims, (s.out k).marks]) ++
    d.replySwitches.map (fun k => (s.residue (16 * k + d.plan.num)).restrims) ++
    (d.slices.flatMap (fun i =>
      let c := (s.slice i).cnt
      [c.trims, c.pulls, c.rereqs, c.holes, c.waits, c.ringfull]))

/-- The per-wave counters of a domain: codes 0-10 of R365 for each slot of each core. -/
def State.waveCounters (s : State) (d : Dom) : List Nat :=
  d.clusters.flatMap (fun k => (coresOf k).flatMap (fun c => (List.range 8).flatMap (fun w =>
    (s.wave ⟨c, w⟩).sched.stalls.map (fun v => v.toNat))))

/-- COUNTERS (R398): it has completed when its writes have (R96). -/
def execCounters (n : Nat) (s : State) : Out :=
  .next (s.withPacket n (.counters n) (fun s die b =>
    let d := s.domOf (s.laneQueue n).dom
    if 1 < mgmtArg b 0 then s.mgmtFail n
    else
      let vs := if mgmtArg b 0 = 0 then s.netCounters d else s.waveCounters d
      match s.feStore die (feOwner n 2) (s.queueContext n) (mgmtArg b 1 % 2 ^ 57) 0 (vs.flatMap (leBytes 8)) with
      | (s1, .later) => s1
      | (s1, .fail) => s1.mgmtFail n
      | (s1, .done _) => s1.mgmtDone n b))

/-! ## SETQ and SETASR (R383, R394) -/

/-- A record image read for a packet. -/
def State.withImage (s : State) (die n : Nat) (b : List Byte) (body : State → Nat → State) : State :=
  match s.feLoad die (feOwner n 2) (s.queueContext n) (mgmtArg b 1 % 2 ^ 57) 16 (s.laneQueue n).hts with
  | (s1, .later) => s1
  | (s1, .fail) => s1.mgmtFail n
  | (s1, .done bs) => body s1 (leNat bs)

/-- SETQ: a record of the queue's domain, or one that is not enabled, takes the fields of an image that names the domain; the
record of the packet's own queue with the packet's retirement, in one change. -/
def execSetq (n : Nat) (s : State) : Out :=
  .next (s.withPacket n (.setq n) (fun s die b => s.privileged n (fun s => s.withImage die n b (fun s v =>
    s.withRecord die n (mgmtArg b 0) (fun s q =>
      let t := mgmtArg b 0
      let dom := (s.laneQueue n).dom
      if 4096 ≤ t ∨ bitsOf 80 4 v ≠ dom ∨ (q.enable ∧ q.dom ≠ dom) ∨ bitsOf 64 4 v < 4 ∨ bitsOf 0 57 v % 4096 ≠ 0 then s.mgmtFail n
      else if t = n then (s.mgmtNoted n b).retirePacket { QueueChange.blank n with pop := true, fields := some v }
      else s.changeRecord die n b { QueueChange.blank t with fields := some v })))))

/-- SETASR: a record of the queue's domain, or one never written, takes an image that names the domain. -/
def execSetasr (n : Nat) (s : State) : Out :=
  .next (s.withPacket n (.setasr n) (fun s die b => s.privileged n (fun s => s.withImage die n b (fun s v =>
    let t := mgmtArg b 0
    let dom := (s.laneQueue n).dom
    let old := Map.getD s.fe.asrs t AddrSpace.reset
    if 4096 ≤ t ∨ bitsOf 68 4 v ≠ dom ∨ (old ≠ AddrSpace.reset ∧ old.dom ≠ dom) then s.mgmtFail n
    else (s.withFe { s.fe with asrs := Map.set s.fe.asrs t ⟨dom, bitsOf 52 16 v, bitsOf 40 12 v, bitsOf 0 40 v⟩ }).mgmtDone n b))))

/-! ## DOMAINCUT (R128-R131) -/

/-- The domain of a plan, with the working groups of its sub-butterflies (R74, R128). -/
def planDom (lost : List Nat) (p : DomainPlan) : Dom :=
  let part := fun die => (List.range (64 / p.n)).map (fun i => 64 * die + 64 / p.n * p.k + i)
  ⟨p, ((if p.spanning then part 0 ++ part 1 else part p.die)).filter (fun g => !lost.contains g)⟩

/-- Whether two plans ask for a common part: a sub-butterfly, memory, a Nopel port or a number; or cut one die differently
(R128). -/
def plansClash (lost : List Nat) (p q : DomainPlan) : Bool :=
  let together := p.spanning || q.spanning || p.die == q.die
  p.num == q.num || (together && (p.k == q.k || p.n != q.n)) ||
    overlaps p.base (planDom lost p).size q.base (planDom lost q).size || p.nopelPorts.any (fun j => q.nopelPorts.contains j)

/-- Whether no two plans of a layout clash. -/
def plansApart (lost : List Nat) : List DomainPlan → Bool
  | [] => true
  | p :: ps => ps.all (fun q => !plansClash lost p q) && plansApart lost ps

/-- Whether a layout is one that R74, R128 and R129 allow for a cut into `n`; a domain of `old` that it keeps may stand in a die
that is cut otherwise. -/
def layoutOk (lost : List Nat) (old : List Dom) (n : Nat) (l : List DomainPlan) : Bool :=
  [1, 2, 4, 8].contains n && plansApart lost l && l.all (fun p =>
    (p.n == n || old.contains (planDom lost p)) && decide (p.num < 16) && decide (p.k < p.n) && decide (p.die < 2) &&
      p.base % 2 ^ 34 == 0 && decide (p.base + (planDom lost p).size ≤ 2 ^ 50) && p.nopelPorts.all (fun j => decide (j < 16)))

/-- Whether a domain is stopped: it holds no block, and none of its packets is under way. -/
def State.domStopped (s : State) (dom : Nat) : Bool :=
  s.cores.all (fun c => c.2.blocks.all (fun b => b.dom != dom)) && s.net.wires.all (fun f => f.pkt.dom != dom) &&
    s.pendingRequests.all (fun e => e.1.dom != dom)

/-- The domain among some that a test picks. -/
def domWith (ds : Map Dom) (f : Dom → Bool) : Option Dom := (ds.find? (fun e => f e.2)).map (fun e => e.2)

/-- Whether an output belongs to a domain. -/
def Dom.ownsOutput (d : Dom) (k : Nat) : Bool := d.outputs.contains k

/-- The memory of a new domain with contents that are not defined (R76, R462): what stood there lies elsewhere now. -/
def MemSys.scramble (m : MemSys) (d : Dom) (draw : Nat) : MemSys :=
  let b := d.plan.base
  let inside := fun (a : Nat) => decide (b ≤ a) && decide (a < b + d.size)
  { m with
    undef := (b, d.size, draw) :: m.undef
    lineKey := m.lineKey.filter (fun e => !inside (128 * e.1))
    poison := m.poison.filter (fun c => !inside (64 * c)) }

/-- A cluster that passes to another domain: its residencies gone with their planes, its caches empty. -/
def State.handOver (s : State) (k : Nat) : State :=
  let s1 := (List.range 256).foldl (fun t i =>
    if ((t.cluster k).residency i).st = .free then t else (t.freePlanes k i).mapResidency k i Residency.released) s
  let s2 := (coresOf k).foldl (fun t c => t.setCore c { (t.core c) with l1 := [], icache := [], tlb := [], recs := [], answers := [] }) s1
  s2.setCluster k { (s2.cluster k) with tlb := [], walks := [] }

/-- A slice zeroised (R131); its sets stay in DEC-TED mode while the rail of its die asks for it (R432), and one that has failed
stays fenced until a spare takes its place (R437). -/
def Slice.zeroised (x : Slice) : Slice := { Slice.reset with swept := x.swept, fenced := x.fenced }

/-- A port whose domain keeps it, or a service port with what the domains that keep their slices have there; its windows start
anew (R131). -/
def Port.recut (x : Port) (kept : Nat → Bool) (slice : Nat → Bool) : Port :=
  { Port.reset with
    sent := x.sent
    seqs := x.seqs.filter (fun v => slice v.1)
    outstanding := x.outstanding.filter (fun o => kept o.pkt.dom)
    waiting := x.waiting.filter (fun e => kept e.1.dom)
    inbox := x.inbox.filter (fun p => kept p.dom) }

/-- A Nopel port given to a domain, or to none (16), by a cut: its numbering and buffers start anew. -/
def NopelPort.given (n : NopelPort) (dom now : Nat) : NopelPort :=
  if n.dom = dom then n
  else { NopelPort.reset with dom := dom, up := n.up, downSince := if n.up then now else n.downSince, lastFlit := now, announced := n.announced }

/-- Domains set anew (R131): what passes to another domain, or to one with another range, is zeroised, and its ports start
anew. -/
def State.recut (s : State) (new : Map Dom) : State :=
  let old := s.ms.doms
  let keeps := fun (f : Dom → Bool) => domWith old f == domWith new f
  let kept := fun (n : Nat) => (Map.get? old n).isSome && Map.get? old n == Map.get? new n
  let fresh := new.filter (fun e => Map.get? old e.1 != some e.2)
  let clusters := (List.range 256).filter (fun k => !keeps (fun d => d.clusters.contains k))
  let s1 := clusters.foldl (fun t k => t.handOver k) s
  let ms1 := fresh.foldl (fun m e => m.scramble e.2 s.draws) { s1.ms with doms := new, xcache := [] }
  { s1 with
    ms := ms1
    net := { s1.net with
      slices := s1.net.slices.map (fun e => if keeps (fun d => d.ownsSlice e.1) then e else (e.1, e.2.zeroised))
      outs := s1.net.outs.filter (fun e => keeps (fun d => d.ownsOutput e.1))
      residues := s1.net.residues.filter (fun e => kept (e.1 % 16))
      ports := s1.net.ports.map (fun e =>
        if e.1 < 512 then (e.1, if keeps (fun d => d.ownsPort e.1) then e.2 else Port.reset)
        else (e.1, e.2.recut kept (fun i => keeps (fun d => d.ownsSlice i)))) }
    nopel := (List.range 16).foldl (fun m j =>
      let dom := ((domWith new (fun d => d.plan.nopelPorts.contains j)).map (fun d => d.plan.num)).getD 16
      let n := s1.nport j
      if n.dom = dom then m else Map.set m j (n.given dom s1.netNow)) s1.nopel
    draws := s1.draws + 1 }

/-- The cut applied: quotas are 512 again (R306). -/
def State.cut (s : State) (l : List DomainPlan) : State :=
  let s1 := s.recut (l.foldl (fun m p => Map.set m p.num (planDom s.ms.lost p)) [])
  { s1 with clusters := s1.clusters.map (fun e => (e.1, { e.2 with quota := [] })) }

/-- The lanes that no longer belong to their queue's domain freed. -/
def State.freeLanes (s : State) : State :=
  s.fe.lanes.foldl (fun t e => match e.2.queue with
    | some n => if t.laneDomain (e.1 / 32) (e.1 % 32) = some (t.queue n).dom then t else t.unbind n
    | none => t) s

/-- DOMAINCUT (R131): every domain that the cut changes must be stopped. -/
def execDomaincut (n : Nat) (layout : List DomainPlan) (s : State) : Out :=
  .next (s.withPacket n (.domaincut n layout) (fun s die b => s.privileged n (fun s =>
    match s.feLoad die (feOwner n 2) (s.queueContext n) (mgmtArg b 1 % 2 ^ 57) 1 (s.laneQueue n).hts with
    | (s1, .later) => s1
    | (s1, .fail) => s1.mgmtFail n
    | (s1, .done _) =>
      let changed := s1.ms.doms.filter (fun e => !layout.any (fun p => planDom s1.ms.lost p == e.2))
      if !layoutOk s1.ms.lost (s1.ms.doms.map (fun e => e.2)) (mgmtArg b 0) layout ∨ !changed.all (fun e => s1.domStopped e.1) then s1.mgmtFail n
      else ((s1.mgmtDone n b).cut layout).freeLanes.logNote die 0x11 true 0 0 0)))

end Sys2Proof.Machine
end

