-- ==== Sys2Proof/Machine/Nopel.lean ====
section
/-! DEFINITION. The Nopel links (R442-R445): flits received in order, NAK and replay, what a port forwards, the accesses of
peers applied at their homes (R156, R444), a peer's answers, and ports that go down and come up (R437). -/

namespace Sys2Proof.Machine

/-! ## Flits and packets (R101, R102, R442) -/

/-- The packet type of a code (R104). -/
def ptypeOf (c : Nat) : Option PType :=
  match c with
  | 0 => some .rd
  | 1 => some .wr
  | 2 => some .atom
  | 3 => some .red
  | 0x11 => some .wdone
  | 0x10 => some .rdata
  | 0x12 => some .ares
  | 0x13 => some .pull
  | 0x14 => some .redirect
  | _ => none

/-- The payload bytes of a packet that a link carries (R101, R104): compare-and-swap has two operands. -/
def payloadBytes (ty : PType) (opx len : Nat) (trim : Bool) : Nat :=
  if trim then 0
  else
    match ty with
    | .wr | .red | .rdata | .ares => len
    | .atom => if opx = 7 then 2 * len else len
    | _ => 0

/-- The packet of a header flit, without its payload; none for a type that no link carries. -/
def packetOf (h : Nat) : Option Packet :=
  (ptypeOf (bitsOf 123 5 h)).map (fun ty =>
    { ty := ty, port := bitsOf 113 10 h, slice := 0, seq := bitsOf 103 10 h, dom := bitsOf 99 4 h, key := bitsOf 87 12 h
      mark := false, trim := h.testBit 85, rpl := h.testBit 84, retry := bitsOf 80 4 h, len := 2 ^ bitsOf 77 3 h
      opx := bitsOf 72 5 h, mgrp := 0, mcast := 0, addr := bitsOf 0 52 h, ts := 0, ld := 0, mt2 := false, watch := false
      again := false, born := 0, data := [] })

/-- The packets of a flit's body, each with the packages it goes to and comes from: a route flit, a header flit, the
payload (R442). A header that cannot be read ends the flit. -/
def bodyPackets : Nat → List (BitVec 128) → List (Nat × Nat × Option Packet × List (BitVec 128))
  | 0, _ => []
  | k + 1, l =>
    match l with
    | r :: h :: rest =>
      let dst := r.toNat % 8192
      let src := bitsOf 16 13 r.toNat
      match packetOf h.toNat with
      | none => [(dst, src, none, [r, h])]
      | some p =>
        let n := payloadBytes p.ty p.opx p.len p.trim
        let m := if n = 0 then 0 else (n + 15) / 16
        let bytes := (rest.take m).flatMap (fun f => leBytes 16 f.toNat)
        (dst, src, some { p with data := bytes.take n }, r :: h :: rest.take m) :: bodyPackets k (rest.drop m)
    | _ => []

/-! ## Ports that go down (R443, R445) -/

/-- The records of a port that goes down, of classes 6 and 0x14, with the die and the number of the port (R435, R445). -/
def State.linkRecord (s : State) (j : Nat) : State :=
  (s.logNote (j / 8) 6 false (s.nport j).dom j 0).logNote (j / 8) 0x14 false (s.nport j).dom j 0

/-- A port down: its requests are answered with poison, OPX bits 0 and 3 (R445). -/
def State.nopelDown (s : State) (j : Nat) : State :=
  let n := s.nport j
  let s1 := (s.setNport j { n with up := false, downSince := s.netNow, replay := [], egress := [], replays := 0, asked := false, sent := [], ingress := [] }).linkRecord j
  n.sent.foldl (fun t e =>
    let q := e.2.2.1
    let ty := match q.ty with
      | .rd => PType.rdata
      | .atom => PType.ares
      | _ => PType.wdone
    t.answerClient (nopelService j) e.2.2.2 { q with ty := ty, opx := 9, ts := 0, ld := 0, data := List.replicate q.len 0 }) s1

/-- NOPEL_IDLE_TIMEOUT (R443): 10 microseconds without a flit. -/
def execNopelIdleTimeout (j : Nat) (s : State) : Out :=
  .next (if j < 16 ∧ (s.nport j).up ∧ (s.nport j).lastFlit + 10 * microsecond ≤ s.netNow then s.nopelDown j else s)

/-- NOPEL_REPLAY (R443): the flits from ACK + 1 on go out again; after 8 replays of one flit the port is down. -/
def execNopelReplay (j : Nat) (s : State) : Out :=
  let n := s.nport j
  .next (if !n.up || !n.asked then s
    else if n.replay.isEmpty then s.setNport j { n with asked := false }
    else if 8 ≤ n.replays + 1 then s.nopelDown j
    else s.setNport j { n with asked := false, replays := n.replays + 1 })

/-- NOPEL_PORT_DOWN_EXPIRY (R437): a port down for more than 1 s raises REPLACE_REQUESTED, once. -/
def execNopelPortDownExpiry (j : Nat) (s : State) : Out :=
  let n := s.nport j
  .next (if !n.up && !n.announced && decide (n.downSince + 1000000 * microsecond < s.netNow) then
      (s.setNport j { n with announced := true }).requestReplace n.dom
    else s)

/-- NOPEL_PORT_UP (R436): the link starts anew, its sequence numbers at 0. -/
def execNopelPortUp (j : Nat) (s : State) : Out :=
  let n := s.nport j
  .next (if n.up then s
    else (s.setNport j { NopelPort.reset with dom := n.dom, lastFlit := s.netNow, reqSeq := n.reqSeq }).logNote (j / 8) 0x14 false n.dom j 0)

/-! ## Receiving (R443, R444) -/

/-- The port after an acknowledgement: flits up to it need no replay, and those that waited for their place go. -/
def NopelPort.acked (n : NopelPort) (ack : Nat) : NopelPort :=
  let left := n.replay.filter (fun f => !decide ((ack + 4096 - f.seq.toNat) % 4096 < 2048))
  NopelPort.drain (n.egress.length + 1)
    { n with replay := left, replays := if left.length < n.replay.length then 0 else n.replays }

/-- Whether a port accepts a flit: the SEQ it expects, and a CRC that holds (R443). -/
def NopelPort.accepts (n : NopelPort) (f : NopelFlit) : Bool := f.crc == Config.crc64 f.bits && f.seq.toNat == n.rxSeq

/-- The payload flits in an ingress queue. -/
def ingressFlits (l : List (Nat × Packet)) : Nat := (l.map (fun e => 1 + e.2.flits)).foldl (· + ·) 0

/-- A packet for this package put in the ingress queue, which holds 256 flits: what does not fit is trimmed (R110, R444). -/
def State.ingress (s : State) (j src : Nat) (p : Packet) : State :=
  let n := s.nport j
  let fits := p.data.isEmpty || decide (ingressFlits n.ingress + 1 + p.flits ≤ 256)
  s.setNport j { n with ingress := n.ingress ++ [(src, if fits then p else p.trimmed)] }

/-- One packet of a flit: discarded, forwarded over the port that the route table names, or taken (R104, R444). -/
def State.linkPacket (s : State) (j : Nat) (x : Nat × Nat × Option Packet × List (BitVec 128)) : State :=
  let dom := (s.nport j).dom
  match x.2.2.1 with
  | none => s.discardPacket (j / 8) j dom
  | some p =>
    if p.dom ≠ dom then s.discardPacket (j / 8) j dom
    else if x.1 = Config.package.toNat then s.ingress j x.2.1 p
    else
      match s.routeOf x.1 with
      | some k => if (s.nport k).up && (s.nport k).dom == dom then s.nopelSend k x.2.2.2 else s.discardPacket (j / 8) j dom
      | none => s.discardPacket (j / 8) j dom

/-- NOPEL_FLIT_RECEIVE (R443): a flit with the expected SEQ and a good CRC is accepted; for another one control flit with
NAK = 1 goes out, until the expected one arrives. -/
def execNopelFlitReceive (j : Nat) (f : NopelFlit) (s : State) : Out :=
  let n := s.nport j
  .next (if 16 ≤ j ∨ !n.up then s
    else
      let n1 := { n with lastFlit := s.netNow }
      if !n.accepts f then s.setNport j (if n.nakSent then n1 else { n1 with nakSent := true }.send true 2 [])
      else
        let n2 := { n1 with rxSeq := (n.rxSeq + 1) % 4096, nakSent := false, asked := n.asked || f.nak }.acked f.ack.toNat
        let s2 := s.setNport j n2
        if f.ty ≠ 0 then s2
        else if f.dom.toNat ≠ n.dom then s2.discardPacket (j / 8) j n.dom
        else (bodyPackets f.packets.length f.packets).foldl (fun t x => t.linkPacket j x) s2)

/-! ## Peers' accesses and answers (R156, R444) -/

/-- Whether a reply is among those that a link brings for this package's own requests. -/
def PType.isAnswer : PType → Bool
  | .rdata | .wdone | .ares | .pull | .redirect => true
  | _ => false

/-- The place in package memory that a peer's address names: the domain's aperture (R73). -/
def apertureAt (dom pa : Nat) : Nat := Config.apertureBase dom + pa % 2 ^ 37

/-- A peer's request as port `j` injects it into the butterfly (R444, R463); one outside the domain's memory is answered
with poison. -/
def State.injectPeer (s : State) (j src : Nat) (p : Packet) : State :=
  let n := s.nport j
  let q := { p with ld := src }
  let pa := apertureAt n.dom p.addr
  match s.homeOf n.dom pa with
  | none => s.peerReply j q (p.answer (if p.ty == .rd then .rdata else if p.ty == .atom then .ares else .wdone) 1 0 0 (List.replicate p.len 0))
  | some (_, h) =>
    let known := fun (o : Outstanding) => match o.client with
      | .peer k v => k == j && v.ld == src && v.port == p.port && v.seq == p.seq
      | _ => false
    match (s.port (nopelService j)).outstanding.find? known with
    | some o =>
      if p.retry = 0 then s
      else s.sendRequest { o.pkt with data := p.data, trim := p.trim, retry := p.retry }
    | none =>
      s.portQueue (nopelService j) { p with slice := h, addr := pa, key := Config.apertureKey n.dom, ts := 0, ld := 0, rpl := false, retry := 0 } (.peer j q)

/-- An answer to one of this package's own requests (R111, R114, R115, R87). -/
def State.takePeerAnswer (s : State) (j src : Nat) (p : Packet) : State :=
  let n := s.nport j
  match n.sent.find? (fun e => e.1 == p.seq && e.2.1 == src) with
  | none => s
  | some (seq, pkg, q, c) =>
    let s1 := s.setNport j { n with sent := n.sent.filter (fun e => e.1 != seq) }
    let again := fun (v : Packet) => s.nopelSend j (linkFlits pkg v (nopelService j) seq)
    match p.ty with
    | .pull => again { q with retry := min 15 (p.retry + 1) }
    | .ares => if p.trim then again { q with rpl := true, retry := 0 } else s1.answerClient (nopelService j) c { p with ts := 0 }
    | .rdata => if p.trim then s1.peerSend j pkg { q with again := true } c else s1.answerClient (nopelService j) c { p with ts := 0 }
    | .redirect => s1.redirectClient c
    | _ => s1.answerClient (nopelService j) c { p with ts := 0 }

/-- PEER_ACCESS: the first packet of a Nopel port's ingress queue: a peer's access enters the butterfly, a replay of an
atomic is answered from the port's cache, an answer reaches whoever asked (R156, R444). -/
def execPeerAccess (j : Nat) (s : State) : Out :=
  let n := s.nport j
  .next (match n.ingress with
  | [] => s
  | (src, p) :: rest =>
    let s1 := s.setNport j { n with ingress := rest }
    if p.ty.isAnswer then s1.takePeerAnswer j src p
    else
      match (if p.ty == .atom && p.rpl then n.results.find? (fun e => e.1 == src && e.2.port == p.port && e.2.seq == p.seq) else none) with
      | some e => s1.peerReply j { p with ld := src } (p.answer .ares e.2.opx 0 0 e.2.result)
      | none => s1.injectPeer j src p)

end Sys2Proof.Machine
end

