-- ==== Sys2Proof/Machine/Mailbox.lean ====
section
/-! DEFINITION. What the host does: writes and reads of package memory and BAR0 (R156, R386), the commands of the
management mailbox (R439, R466) with sessions and attestation (R440, R441), and the event rings and time slices that they
set (R400, R430). -/

namespace Sys2Proof.Machine

/-! ## The host's accesses (R156, R386) -/

/-- The state with the host answered. -/
def State.hostDone (s : State) (r : HostReply) : State := { s with hostReply := some r }

/-- The state with accesses of the host received, and begun where none is under way. -/
def State.hostReceive (s : State) (l : List HostChunk) : State :=
  ({ s with host := { s.host with queue := s.host.queue ++ l } }).hostPump (s.host.queue.length + l.length)

/-- HOST_WRITE: a write to package memory by port 513 (R156). Host memory takes the host's own writes (R462), and the
reserved window 01 stands for BAR0 here, which no physical address names; a write to it keeps its place behind the earlier
ones (R385). -/
def execHostWrite (pa : PAddr) (bs : List Byte) (s : State) : Out :=
  let a := pa.toNat
  .next (match a / 2 ^ 50 with
  | 0 => if bs.isEmpty then s.hostDone ⟨a, true, [], false⟩ else s.hostReceive (hostSplit a true (bs.length + 1) a bs.length bs)
  | 1 => s.hostReceive [⟨a, a, bs.length, some bs, true⟩]
  | 2 => (s.withMs { s.ms with mem := Memory.write s.ms.mem a bs }).hostDone ⟨a, true, [], false⟩
  | _ => s)

/-- HOST_READ (R156, R386): the bytes go to the host. A read of BAR0 or of host memory changes nothing else. -/
def execHostRead (pa : PAddr) (n : Nat) (s : State) : Out :=
  let a := pa.toNat
  .next (match a / 2 ^ 50 with
  | 0 => if n = 0 then s.hostDone ⟨a, false, [], false⟩ else s.hostReceive (hostSplit a false (n + 1) a n [])
  | 1 => s.hostReceive [⟨a, a, n, none, true⟩]
  | 2 => s.hostDone ⟨a, false, Memory.read s.ms.mem a n, false⟩
  | _ => s)

/-! ## Commands (R439, R466) -/

/-- An operand of a command. -/
def Mailbox.arg (b : Mailbox) (i : Nat) : Nat := leNat (Memory.read b.buf (8 * i) 8)

/-- A command done, with its results from the start of the buffer and zero behind them (R466). -/
def State.commandDone (s : State) (r : List Byte) : State := s.withBox { s.box with buf := Memory.write [] 0 r, status := 1 }

/-- A command refused. -/
def State.commandRefused (s : State) : State := s.withBox { s.box with status := 2 }

/-- A command that is running; commands 0x03 to 0x08 need the operator's session (R439). The body gives none where the
command is refused. -/
def State.command (s : State) (cmd : Nat) (body : Nat → Option (State × List Byte)) : State :=
  if s.box.cmd ≠ cmd ∨ s.box.status ≠ 0 then s
  else
    match s.box.operator with
    | none => if cmd ≤ 2 ∨ (cmd = 6 ∧ !s.box.dark.isEmpty) then
        match body 0 with
        | some r => r.1.commandDone r.2
        | none => s.commandRefused
      else s.commandRefused
    | some d =>
      match body d with
      | some r => r.1.commandDone r.2
      | none => s.commandRefused

/-- Exactly `n` bytes of an opaque value. -/
def cutTo (n : Nat) (l : List Byte) : List Byte := (l ++ List.replicate n 0).take n

/-- SESSION (R441): the keys of both sides give the session's secret. A domain's blob counter goes on. -/
def execSession (s : State) : Out :=
  .next (s.command 1 (fun _ =>
    let d := s.box.arg 0
    let keys := Memory.read s.box.buf 8 1216
    let out := Config.cryptoBytes s.draws keys
    let old := (Map.get? s.box.sessions d).map (fun x => x.counter)
    if 16 ≤ d then none
    else
      let b := { s.box with
        sessions := Map.set s.box.sessions d ⟨leNat (Config.cryptoBytes (s.draws + 1) keys), old.getD 0⟩, operator := some d }
      some ({ s.withBox b with draws := s.draws + 2 }, cutTo 32 out ++ cutTo 1088 (out.drop 32))))

/-- The Nopel ports that DOMAINCUT gives a domain (R438), one bit for each. -/
def portMask (ps : List Nat) : Nat := (List.range 16).foldl (fun m i => m + (if ps.contains i then 2 ^ i else 0)) 0

/-- What an attestation report contains (R440): the SHA-384 measurements of the boot ROM and of the firmware, the fuse and
spare state, the domain cut with the Nopel ports of each domain, and the nonce. -/
def State.reportInput (s : State) : List Byte :=
  cutTo 48 (Config.sha384 Config.bootRom) ++ cutTo 48 (Config.sha384 s.box.image) ++
    Config.fuses ++ s.health.spares.flatMap (fun e => leBytes 2 e.1 ++ leBytes 1 e.2) ++
    s.ms.doms.flatMap (fun e => leBytes 1 e.1 ++ leBytes 1 e.2.plan.n ++ leBytes 1 e.2.plan.k ++
      leBytes 1 (2 * e.2.plan.spanning.toNat + e.2.plan.die) ++ leBytes 8 e.2.plan.base ++
      leBytes 2 (portMask e.2.plan.nopelPorts)) ++ Memory.read s.box.buf 0 32

/-- GETREPORT (R440): what the report contains, in an order of the model's own, with its Ed25519 and its ML-DSA-65
signature behind (assumption 51). -/
def execGetreport (s : State) : Out :=
  .next (s.command 2 (fun _ =>
    let x := s.reportInput
    let r := x ++ cutTo 64 (Config.cryptoBytes 1 x) ++ cutTo 3309 (Config.cryptoBytes 2 x)
    some (s, leBytes 8 r.length ++ r)))

/-- The records that wait for a ring written while there is room (R400, R402). -/
def State.flushRing : Nat → State → Nat → State
  | 0, s, _ => s
  | k + 1, s, d => State.flushRing k (s.flushOnce d) d

/-- SETRING (R400): the ring starts empty, and what was held for it is written. -/
def execSetring (s : State) : Out :=
  .next (s.command 3 (fun _ =>
    let d := s.box.arg 0
    let base := s.box.arg 1
    let logn := s.box.arg 2
    let tail := s.box.arg 3
    if 16 ≤ d ∨ base % 4096 ≠ 0 ∨ logn < 4 ∨ 16 < logn ∨ tail % 8 ≠ 0 then none
    else
      let r := s.ring d
      let s1 := s.setRing d { r with set := true, base := base, logn := logn, tailAddr := tail, head := 0, tail := 0 }
      some (State.flushRing (s.fe.queues.length + r.held.length + 1) s1 d, [])))

/-- A context's effective slice (R430). -/
def CtxSched.rated (c : CtxSched) : CtxSched :=
  if c.slice < c.saveTime + c.restoreTime then { c with effective := 2 * c.saveTime + 20000, clamp := true }
  else { c with effective := c.slice, clamp := false }

/-- The state with a context's entry changed. -/
def State.mapCtx (s : State) (i : Nat) (f : CtxSched → CtxSched) : State := { s with ctxs := Map.set s.ctxs i (f (s.ctx i)) }

/-- SETSLICE (R430): the slice, in ns, counts from now. -/
def execSetslice (s : State) : Out :=
  .next (s.command 4 (fun _ =>
    let i := s.box.arg 0
    if 4096 ≤ i then none
    else some (s.mapCtx i (fun c =>
      let c1 := { c with slice := s.box.arg 1 }.rated
      { c1 with sliceEnd := s.netNow + 2 * c1.effective }), [])))

/-- The records of a die that a domain may read (R436). -/
def State.recordsFor (s : State) (die dom : Nat) : List (BitVec 128) :=
  (Map.getD s.health.mayfly die []).filter (fun v => v.getLsbD 51 || bitsOf 47 4 v.toNat == dom)

/-- READLOG (R436, R466). -/
def execReadlog (s : State) : Out :=
  .next (s.command 5 (fun d =>
    if 2 ≤ s.box.arg 0 ∨ 2000 < s.box.arg 2 then none
    else
      let rs := ((s.recordsFor (s.box.arg 0) d).drop (s.box.arg 1)).take (s.box.arg 2)
      some (s, leBytes 16 rs.length ++ rs.flatMap (fun v => leBytes 16 v.toNat))))

/-- FWLOAD (R439, R440): the image is staged for the next warm reset. -/
def execFwload (s : State) : Out :=
  .next (s.command 6 (fun _ =>
    some (s.withBox { s.box with staged := some (Memory.read s.ms.mem (hostPa (s.box.arg 0)) (s.box.arg 1)) }, [])))

/-- ROUTE (R444): route-table entries. -/
def execRoute (s : State) : Out :=
  .next (s.command 7 (fun _ =>
    let a := s.box.arg 0
    let n := s.box.arg 1
    if 8191 < a ∨ 4000 < n ∨ 8192 < a + n ∨ (List.range n).any (fun i => decide (32 ≤ s.box.arg (2 + i))) then none
    else some ({ s with routes := (List.range n).foldl (fun m i => Map.set m (a + i) (BitVec.ofNat 5 (s.box.arg (2 + i)))) s.routes }, [])))

/-- A queue record's bits (R383). -/
def QueueRec.bits (q : QueueRec) : Nat :=
  q.base % 2 ^ 57 + 2 ^ 64 * (q.logn % 16) + 2 ^ 68 * q.enable.toNat + 2 ^ 69 * q.halt.toNat + 2 ^ 70 * (q.prio % 8) +
    2 ^ 73 * q.priv.toNat + 2 ^ 80 * (q.dom % 16) + 2 ^ 84 * (q.asr % 4096) + 2 ^ 96 * q.head.toNat + 2 ^ 128 * q.tail.toNat +
    2 ^ 160 * q.nextseq.toNat + 2 ^ 192 * q.done.toNat + 2 ^ 224 * q.trig.toNat + 2 ^ 256 * q.ver.toNat +
    2 ^ 288 * q.ovfcnt.toNat + 2 ^ 320 * (q.pend.length % 8) + 2 ^ 324 * (q.dts % 2 ^ 64) + 2 ^ 388 * (q.tts % 2 ^ 64) +
    ((List.range 4).map (fun i => 2 ^ (512 + 128 * i) * (q.pend.getD i 0).toNat)).foldl (· + ·) 0

/-- QREAD (R439): a queue's record, for the operator's own domain. -/
def execQread (s : State) : Out :=
  .next (s.command 8 (fun d =>
    let q := s.queue (s.box.arg 0)
    if 4096 ≤ s.box.arg 0 ∨ q.dom ≠ d then none else some (s, leBytes 128 q.bits)))

end Sys2Proof.Machine
end

