-- ==== Sys2Proof/Machine/Preempt.lean ====
section
/-! DEFINITION. Time slices and Mantis (R418-R430): the end of a slice, the engines' acknowledgements, the save with its
area in memory, and the restore. A context is named by the index of its address-space record; a number from 4,096 on names a
block that Mantis saves alone (R418, assumption 94). -/

namespace Sys2Proof.Machine

/-! ## The parts of a context -/

/-- The grid and the block that a number from 4,096 on names. -/
def unitBlock (u : Nat) : Nat × Nat := ((u - 4096) / 2 ^ 32, (u - 4096) % 2 ^ 32)

/-- The context of a number: itself, or that of the block. -/
def State.unitCtx (s : State) (u : Nat) : Nat :=
  if u < 4096 then u
  else
    match Map.get? s.fe.grids (unitBlock u).1 with
    | some g => g.ctx.asr
    | none => 0

/-- Whether a grid belongs to a context, or to a block that is saved alone (R418). -/
def State.gridIn (s : State) (u grid : Nat) : Bool :=
  if u < 4096 then
    match Map.get? s.fe.grids grid with
    | some g => g.ctx.asr == u
    | none => false
  else grid == (unitBlock u).1

/-- Whether a block belongs to a context, or is the one that is saved alone. -/
def State.blockIn (s : State) (u : Nat) (b : Block) : Bool := s.gridIn u b.grid && (decide (u < 4096) || b.b == (unitBlock u).2)

/-- Whether a wave belongs to a context, or to a block that is saved alone. -/
def State.waveIn (u : Nat) (w : Wave) : Bool :=
  if u < 4096 then w.ctx.asr == u else w.ident.grid == (unitBlock u).1 && w.ident.block == (unitBlock u).2

/-- Whether a copy belongs to them. -/
def CopyEntry.isIn (e : CopyEntry) (u : Nat) : Bool :=
  if u < 4096 then e.ctx.asr == u else e.grid == (unitBlock u).1 && e.block == (unitBlock u).2

/-- Whether an operation of a sequencer belongs to them. -/
def State.tileIn (s : State) (u : Nat) (e : SeqEntry) : Bool := State.waveIn u (s.wave ⟨e.core, e.slot⟩)

/-- The cores that hold blocks of them. -/
def State.coresIn (s : State) (u : Nat) : List Nat :=
  (s.cores.filter (fun c => c.2.blocks.any (fun b => s.blockIn u b))).map (fun c => c.1)

/-- Their waves on a core. -/
def State.wavesIn (s : State) (u core : Nat) : List WaveId :=
  (s.wavesOn core).filter (fun id => State.waveIn u (s.wave id))

/-- The gangs of a context; a block of a gang is not saved alone. -/
def State.gangsIn (s : State) (u : Nat) : Map Gang := if u < 4096 then s.gangs.filter (fun g => s.gridIn u g.2.grid) else []

/-- The domain of a context. -/
def State.domIn (s : State) (u : Nat) : Nat := (Map.getD s.fe.asrs (s.unitCtx u) AddrSpace.reset).dom

/-- The phasers and stream queues of a cluster that a context, or the grid of a block, holds (R330, R354). -/
def State.phasersIn (s : State) (u k : Nat) : Map Phaser := (s.cluster k).phasers.filter (fun p => p.2.live && s.gridIn u p.2.grid)
def State.streamsIn (s : State) (u k : Nat) : Map Stream :=
  (s.cluster k).streams.filter (fun q => match q.2.owner with
    | some g => s.gridIn u g
    | none => false)

/-- The clusters on which a context has cores, phasers or stream queues. -/
def State.clustersIn (s : State) (u : Nat) : List Nat :=
  ((s.coresIn u).map clusterOf ++
    (s.clusters.filter (fun k => !(s.phasersIn u k.1).isEmpty || !(s.streamsIn u k.1).isEmpty)).map (fun k => k.1)).eraseDups

/-! ## The end of a slice (R418) -/

/-- Whether another context of the domain waits for cores: one saved, or one with blocks still to place. -/
def State.otherReady (s : State) (ctx : Nat) : Bool :=
  s.ctxs.any (fun e => s.unitCtx e.1 != ctx && e.2.away && s.domIn e.1 == s.domIn ctx) ||
    s.fe.grids.any (fun e => e.2.ctx.asr != ctx && e.2.ctx.dom == s.domIn ctx && decide (e.2.placed < e.2.count))

/-- Whether a block of a context is being stopped to be saved alone. -/
def State.blockStopping (s : State) (ctx : Nat) : Bool :=
  s.ctxs.any (fun e => decide (4096 ≤ e.1) && s.unitCtx e.1 == ctx && e.2.stopping && !e.2.away)

/-- TIME_SLICE_EXPIRY (R418): the stop goes out if another context of the domain is ready, else a new slice begins. -/
def execTimeSliceExpiry (ctx : Nat) (s : State) : Out :=
  let c := s.ctx ctx
  .next (if 4096 ≤ ctx ∨ c.effective = 0 ∨ s.netNow < c.sliceEnd ∨ c.stopping ∨ c.away ∨ (s.coresIn ctx).isEmpty ∨
      s.blockStopping ctx then s
    else if s.otherReady ctx then
      s.mapCtx ctx (fun c => { c with stopping := true, stopAt := s.netNow, acks := [] })
    else s.mapCtx ctx (fun c => { c with sliceEnd := s.netNow + 2 * c.effective }))

/-- The numbers of a grid's blocks that have not finished, placed or saved. -/
def State.unfinished (s : State) (grid : Nat) : List Nat :=
  (s.cores.flatMap (fun c => c.2.blocks) ++ s.ctxs.flatMap (fun e => e.2.saved.flatMap (fun v => v.body.blocks))).filterMap
    (fun b => if b.grid == grid then some b.b else none)

/-- Whether a block may be saved alone (R362, R418): it is no part of a gang, another block of its domain waits for a core, and
where only blocks of its own grid wait it is not the lowest-numbered unfinished one. -/
def State.mayEvict (s : State) (u : Nat) : Bool :=
  let ctx := s.unitCtx u
  let grid := (unitBlock u).1
  let b := (unitBlock u).2
  let lowest := (s.unfinished grid).all (fun x => decide (b ≤ x))
  decide (4096 ≤ u) && !(s.ctx ctx).stopping && !(s.ctx u).stopping &&
    s.cores.any (fun c => c.2.blocks.any (fun x => s.blockIn u x && x.gang.isNone)) &&
    (s.fe.grids.any (fun e => decide (e.2.placed < e.2.count) && e.2.ctx.dom == s.domIn u && (e.1 != grid || !lowest)) ||
      s.ctxs.any (fun e => e.2.away && s.domIn e.1 == s.domIn u &&
        (decide (e.1 < 4096) || (unitBlock e.1).1 != grid || !lowest)))

/-! ## The acknowledgements (R419, R420) -/

/-- Whether the waves of a context stand at an instruction boundary with nothing in flight (steps 1 and 2). -/
def State.wavesStill (s : State) (u : Nat) : Bool :=
  (s.issuing ++ s.engine).all (fun id => !(State.waveIn u (s.wave id))) &&
    (s.coresIn u).all (fun k => (s.wavesIn u k).all (fun id =>
      let w := s.wave id
      w.cnt.ld == 0 && w.cnt.st == 0 && w.cnt.ms == 0 && w.waits.enq == 0 &&
        (s.core k).ops.all (fun o => o.slot != id.slot)))

/-- The queues of a context. -/
def State.queuesIn (s : State) (ctx : Nat) : List Nat := (s.fe.queues.filter (fun e => e.2.asr == ctx)).map (fun e => e.1)

/-- Whether an access of Cicada for a queue's packet is on its way. -/
def State.queueAsks (s : State) (n : Nat) : Bool :=
  let mine := fun (c : Client) => match c with
    | .cicada owner _ => owner / 8 == n && decide (owner % 8 < 4)
    | _ => false
  s.net.ports.any (fun e => e.2.outstanding.any (fun o => mine o.client) || e.2.waiting.any (fun w => mine w.2)) ||
    s.host.accesses.any (fun e => mine e.2) || s.nopel.any (fun e => e.2.sent.any (fun v => mine v.2.2.2))

/-- Whether no packet of a context is in hand: a WAIT may stop between its polls. -/
def State.lanesStill (s : State) (ctx : Nat) : Bool :=
  let waits := fun (p : Option (List Byte)) => match p with
    | some b => pktType b == tWait
    | none => true
  (s.queuesIn ctx).all (fun n => !(s.fe.todo.any (fun e => e.1 == n)) && (Map.get? s.fe.migs n).isNone && !s.queueAsks n &&
    waits ((Map.get? s.fe.polls n).map (fun p => p.2)) && waits (Map.get? s.fe.hands n))

/-- Whether a copy may stop (R419): it has moved every byte below the next 4 KiB boundary, nothing of it is on its way, and
neither its end nor an error is due. -/
def CopyEntry.canStop (e : CopyEntry) : Bool :=
  e.err.isNone && !e.reading && e.flying.isEmpty && e.far.isEmpty && (e.bound.isNone ||
    (decide (e.boundary < e.total) &&
      ((e.chunks.flatMap e.blockPlaces).filter (fun p => decide (e.base ≤ p) && decide (p < e.boundary))).length ==
        e.boundary - e.base))

/-- A copy that stops at the boundary: what it has moved past it is moved again, what has come for bytes below it is
kept (R419, R428, assumption 26). -/
def CopyEntry.stopped (e : CopyEntry) : CopyEntry :=
  if e.bound.isNone then { e with stop := true }
  else
    let b := e.boundary
    let arrived := e.arrived.filter (fun a => decide (a.1 < b))
    { e with
      stop := true, base := b, arrived := arrived, moved := b - arrived.length
      chunks := e.chunks.filter (fun a => (e.blockPlaces a).all (fun p => decide (p < b))) }

/-- Whether every copy of a context may stop. -/
def State.copiesStill (s : State) (ctx : Nat) : Bool :=
  (s.coresIn ctx).all (fun k => (s.core k).copies.all (fun e => !(e.isIn ctx) || e.canStop))

/-- Whether the engines named have acknowledged. -/
def CtxSched.acked (c : CtxSched) (es : List Engine) : Bool := es.all (fun e => c.acks.contains e)

/-- Whether an engine may acknowledge now, in the order of R420. -/
def State.mayAck (s : State) (ctx : Nat) (e : Engine) : Bool :=
  let c := s.ctx ctx
  c.stopping && !c.away && !c.acks.contains e && (match e with
    | .waves => s.wavesStill ctx
    | .cicada => decide (4096 ≤ ctx) || s.lanesStill ctx
    | .copies => c.acked [.waves, .cicada] && s.copiesStill ctx
    | .sync => c.acked [.waves, .cicada] &&
        s.clusters.all (fun k => k.2.adds.all (fun a => !(s.coresIn ctx).contains a.core))
    | .interface => c.acked [.waves, .cicada]
    | .sequencers => c.acked [.waves, .cicada, .copies, .sync, .interface] &&
        (s.coresIn ctx).all (fun k => (s.core k).tiles.all (fun e => !(s.tileIn ctx e) || e.flying.isEmpty)))

/-- Whether an operation holds its residency in LOADING: a load or reload in progress, or a WLOAD that waits for its turn
(R302, R315). -/
def State.holdsLoad (s : State) (e : SeqEntry) : Bool :=
  let r := s.entryResidency e
  if e.loading then r.seen (s.loadBehind e).isSome == .loading
  else e.op == .wload && r.st == .loading && !r.deadFor e.handle (s.wave ⟨e.core, e.slot⟩).ctx

/-- A load abandoned (step 4 of R420): the residency EVICTED with zero planes, unless a revocation has made it REVOKED (R422);
the operation as it was before the load. -/
def State.abandonLoad (s : State) (e : SeqEntry) : State :=
  let behind := (s.loadBehind e).isSome
  let s1 := if s.holdsLoad e then
      (s.zeroise e.table (e.handle % 256)).mapResidency e.table (e.handle % 256) (fun r => { (r.become behind .evicted) with winv := false })
    else s
  s1.mapTile e (fun x => { x with stop := true, loading := false, lines := [], image := [] })

/-- What an engine does as it acknowledges. -/
def State.engineStops (s : State) (ctx : Nat) (e : Engine) : State :=
  match e with
  | .cicada => if ctx < 4096 then (s.queuesIn ctx).foldl (fun t n => t.unbind n) s else s
  | .copies => (s.coresIn ctx).foldl (fun t k => t.setCore k { (t.core k) with
      copies := (t.core k).copies.map (fun x => if x.isIn ctx then x.stopped else x) }) s
  | .sequencers => (s.coresIn ctx).foldl (fun t k =>
      ((t.core k).tiles.filter (fun x => x.core == k && t.tileIn ctx x)).foldl (fun u x => u.abandonLoad x) t) s
  | _ => s

/-- ENGINE_STOP_ACK (R419, R420). -/
def execEngineStopAck (ctx : Nat) (e : Engine) (s : State) : Out :=
  .next (if s.mayAck ctx e then (s.engineStops ctx e).mapCtx ctx (fun c => { c with acks := c.acks ++ [e] }) else s)

/-! ## The save area (R423-R427) -/

/-- The base of a context's save area: firmware's choice in the domain's range, at a multiple of 1 GiB. -/
def saveBase (d : Dom) (ctx : Nat) : Nat :=
  d.plan.base + 2 ^ 30 * (Config.saveArea ctx % max 1 (d.size / 2 ^ 30 - 4))

/-- Where a core block, a cluster block and the header of a save area stand. -/
def coreBlockAt (core : Nat) : Nat := 2 ^ 20 * core
def clusterBlockAt (k : Nat) : Nat := 2 ^ 32 + 2 ^ 16 * k
def saveHeaderAt : Nat := 2 ^ 32 + 2 ^ 24

/-- The number with the bits of a set. -/
def bitSet (ns : List Nat) : Nat := ns.foldl (fun m i => m + 2 ^ i) 0

/-- A block's 32 bytes, its fields in the order in which R425 lists them (assumption 26). -/
def Block.image (b : Block) (gang : Nat) (lease : Bool) : List Byte :=
  leBytes 32 (1 + 2 * (b.grid % 2 ^ 32) + 2 ^ 33 * (b.b % 2 ^ 32) + 2 ^ 65 * (b.sb % 2 ^ 17) + 2 ^ 82 * (b.spad % 2 ^ 18) +
    2 ^ 100 * b.amask.toNat + 2 ^ 132 * b.cmask.toNat + 2 ^ 148 * bitSet b.waves + 2 ^ 156 * (b.rho % 4) +
    2 ^ 158 * (b.gamma % 8) + 2 ^ 161 * (gang % 2 ^ 64) + 2 ^ 255 * lease.toNat)

/-- A copy queue entry's 128 bytes (R425). -/
def CopyEntry.image (e : CopyEntry) : List Byte :=
  [e.a, e.b, e.c, e.fn, e.w1, e.slot, e.base, 0].flatMap (leBytes 8) ++ leBytes 64 (e.bound.getD 0).toNat

/-- A sequencer queue entry's 32 bytes (R425). -/
def SeqEntry.savedImage (e : SeqEntry) : List Byte :=
  leBytes 2 (Op.t e.op).code ++ leBytes 8 e.handle ++ leBytes 8 e.w1 ++ leBytes 2 e.fn ++ leBytes 4 e.slot ++ leBytes 8 e.steps

/-- A tag's 2 bytes. -/
def tagImage (t : Tag) : List Byte :=
  leBytes 2 (match t with
    | .free => 0
    | .busy => 1
    | .done _ => 2
    | .error c _ => 3 + 2 ^ 8 * (c % 256))

/-- The core header (R425), as bytes by offset; `gang` gives a block's gang number and whether the gang holds the lease. -/
def SavedCore.header (v : SavedCore) (gang : Block → Nat × Bool) : List (Nat × List Byte) :=
  let b := v.body
  [(0, leBytes 8 (1 + 2 * bitSet (v.waves.map (fun w => w.1))))] ++
    b.blocks.zipIdx.map (fun e => (0x40 + 32 * e.2, e.1.image (gang e.1).1 (gang e.1).2)) ++
    (List.range 64).map (fun n => (0x200 + 2 * n, tagImage (Map.getD b.tags n .free))) ++
    b.copies.zipIdx.map (fun e => (0x280 + 128 * e.2, e.1.image)) ++
    b.tiles.zipIdx.map (fun e => (0xA80 + 32 * e.2, e.1.savedImage))

/-- A wave record (R426), as bytes by offset. -/
def Wave.saveRecord (w : Wave) : List (Nat × List Byte) :=
  let c := w.csr
  let imp := match w.impKey with
    | some i => impreciseCause i.toNat
    | none => if w.impMixed.isSome then 0x13 else 0
  let impInfo := if imp = 0 then 0 else (w.impKey.getD (w.impMixed.getD 0) ||| 0x4000).toNat
  let cause := match w.tile with
    | some t => t.cause.toNat
    | none => 0
  let tileInfo := match w.tile with
    | some t => t.info.toNat
    | none => 0
  let words : List Nat := [c.modeWord, c.flags.toNat, c.seed.toNat, 4 * c.tvOff.toNat, c.cause.toNat, c.tpc.toNat % 2 ^ 32,
    c.tpc.toNat / 2 ^ 32, c.tmask.toNat % 2 ^ 32, c.tmask.toNat / 2 ^ 32, c.tinfo.toNat, w.win.word,
    c.spill.toNat % 2 ^ 32 / 128 * 128, c.spill.toNat / 2 ^ 32, w.ctx.dom, w.ctx.key]
  let frames := List.range (w.win.cur + 2 - w.win.lo)
  [(0, leBytes 8 (1 + 2 * w.ident.wave + 2 ^ 4 * w.halt.isSome.toNat + 2 ^ 5 * (w.halt.getD 0 % 8) + 2 ^ 8 * cause +
      2 ^ 16 * imp)), (0x8, leBytes 8 w.ctl.pc.toNat), (0x10, leBytes 8 w.ctl.exec.toNat), (0x18, leBytes 8 w.pts),
    (0x20, leBytes 8 (w.trig.getD 0)), (0x28, leBytes 4 c.latch.toNat), (0x2C, leBytes 4 w.cnt.word),
    (0x30, words.flatMap (leBytes 4)), (0x70, leBytes 4 c.qsat.toNat), (0x74, leBytes 4 c.qunder.toNat),
    (0x78, leBytes 4 tileInfo), (0x7C, leBytes 4 impInfo),
    (0x80, (List.range 7).flatMap (fun k => leBytes 8 (Map.getD w.p k 0).toNat)),
    (0xB8, leBytes 8 (bitSet ((List.range 7).filter (fun i => w.getQ i)))),
    (0xC0, w.gens.flatMap (fun g => leBytes 4 g.toNat)),
    (0x100, (List.range 8).flatMap (fun n =>
      leBytes 8 (w.join n).mask.toNat ++ leBytes 8 (w.join n).arrived.toNat ++ leBytes 8 (w.join n).pc.toNat)),
    (0x1C0, leBytes 8 w.ctl.path.length),
    (0x200, w.ctl.path.reverse.flatMap (fun e => leBytes 8 e.pc.toNat ++ leBytes 8 e.mask.toNat)),
    (0x300, (List.range 8).flatMap (fun i => match Map.get? w.slots i with
      | some r => leBytes 4 r.handle.toNat ++ leBytes 4 r.mode ++ leBytes 8 r.sph
      | none => leBytes 16 0)),
    (0x400, (List.range 128).flatMap (fun n => leBytes 4 (w.getS n).toNat)),
    (0x600, frames.flatMap (fun i => leBytes 8 (w.win.link (w.win.lo + i)).toNat))] ++
    frames.map (fun i => (0x2000 + 4096 * i, (List.range 16).flatMap (fun r => (List.range 64).flatMap (fun t =>
      leBytes 4 ((w.win.frame (w.win.phys (w.win.lo + i))).word r t).toNat))))

/-- A core block (R424), as bytes by offset. -/
def SavedCore.image (v : SavedCore) (gang : Block → Nat × Bool) : List (Nat × List Byte) :=
  let b := v.body
  v.header gang ++ [(0x1000, b.spad.read 0 (2 ^ 17)), (0x21000, b.abuf.read 0 (2 ^ 16)),
    (0x31000, b.sideStore.read 0 (2 ^ 15)), (0x39000, b.cbuf.read 0 (2 ^ 16)), (0x49000, b.sideVec.read 0 2048)] ++
    v.waves.flatMap (fun w => w.2.saveRecord.map (fun e => (0x50000 + 0x12000 * w.1 + e.1, e.2)))

/-- The bytes of a core block that hold words with an error beyond correction (R422). -/
def SavedCore.poisonAt (v : SavedCore) : List Nat :=
  let b := v.body
  let words := fun (off : Nat) (st : Store) => st.poison.map (fun w => off + 4 * w)
  words 0x1000 b.spad ++ words 0x21000 b.abuf ++ words 0x31000 b.sideStore ++ words 0x39000 b.cbuf ++ words 0x49000 b.sideVec ++
    v.waves.flatMap (fun w => (List.range (w.2.win.cur + 2 - w.2.win.lo)).flatMap (fun i =>
      w.2.parity.filterMap (fun m => if m.1 == w.2.win.phys (w.2.win.lo + i) then
        some (0x50000 + 0x12000 * w.1 + 0x2000 + 4096 * i + 256 * (m.2.1 / 64) + 4 * (m.2.1 % 64)) else none)))

/-- A phaser of a cluster as a cluster block holds it: one of the context, or a free object, as it stands; that of another
context as a free one with its GEN (assumption 26). -/
def savedPhaser (all ph : Map Phaser) (i : Nat) : Phaser :=
  match Map.get? ph i with
  | some p => p
  | none =>
    let p := Map.getD all i Phaser.reset
    if p.live then { Phaser.reset with gen := p.gen } else p

/-- A cluster block (R427): the 128 phasers of the cluster with GEN and grid in the place of MAGIC, the stream queues and their
counts; `ph` and `st` are those of the context, `all` the cluster's phasers. -/
def syncImage (all ph : Map Phaser) (st : Map Stream) : List (Nat × List Byte) :=
  (List.range 128).map (fun i =>
    let p := savedPhaser all ph i
    (64 * i, (p.record.take 40) ++ leBytes 4 (p.gen + 2 ^ 8 * p.grid) ++ p.record.drop 44)) ++
    (List.range 32).map (fun n => (0x2000 + 1024 * n, (Map.getD st n Stream.reset).entries.flatMap (fun e =>
      leBytes 8 (e.value.toNat + 2 ^ 32 * e.marker.toNat) ++ leBytes 8 e.ts))) ++
    (List.range 32).map (fun n => (0xA000 + 8 * n, leBytes 8 (Map.getD st n Stream.reset).entries.length))

/-- The context header (R427). -/
def CtxSched.image (c : CtxSched) : List (Nat × List Byte) :=
  let cores := c.saved.map (fun v => v.core)
  [(0, leBytes 8 (1 + 2 * c.clamp.toNat)), (0x8, leBytes 8 c.saveTime), (0x10, leBytes 8 c.restoreTime),
    (0x18, leBytes 8 c.slice), (0x20, leBytes 8 c.effective), (0x40, leBytes 512 (bitSet cores)),
    (0x240, leBytes 32 (bitSet (cores.map clusterOf ++ c.sync.map (fun x => x.1)).eraseDups))]

/-- Bytes written into the save area, a 64-byte chunk at a time. -/
def State.writeArea (d : Dom) (key : Nat) : Nat → State → Nat → List Byte → State
  | 0, s, _, _ => s
  | n + 1, s, a, bs =>
    if bs.isEmpty then s
    else
      let k := 64 - a % 64
      State.writeArea d key n (s.engineWrite d key a 0 false (bs.take k)).1 (a + k) (bs.drop k)

/-- A part of the save area written: zero, and then its listed bytes. -/
def State.writePart (s : State) (d : Dom) (key base size : Nat) (parts : List (Nat × List Byte)) : State :=
  parts.foldl (fun t e => State.writeArea d key (e.2.length + 1) t (base + e.1) e.2)
    (State.writeArea d key (size + 1) s base (List.replicate size 0))

/-- Chunks of the save area poisoned, as the words written to them are (R422, R464). -/
def State.poisonArea (s : State) (cs : List Nat) : State :=
  s.withMs { s.ms with poison := s.ms.poison ++ cs.eraseDups.filter (fun c => !s.ms.poison.contains c) }

/-! ## The save (R420) -/

/-- A wave as it is saved (step 7): outside the set, without what is not saved, and with the errors of its registers that no
mirror mends (R422, R433). -/
def Wave.saved (w : Wave) : Wave :=
  { w with
    answers := [], pend := []
    win := { w.win with held := [], mirrors := [] }
    parity := w.parity.filter (fun m => !m.2.2 && (w.win.mirrors.isEmpty || w.parity.contains (m.1, m.2.1, true)))
    sched := { w.sched with inSet := false, sleepUntil := 0, notBefore := 0, drowsy := true, passed := 0, idle := 0, readyOut := 0 }
    waits := { w.waits with stall := none, polls := 0, pollAt := 0 } }

/-- What is saved of one core: the blocks of the context, the memories, its queue entries, and the tags but for those of
copies that stay (R201). -/
def State.saveCore (s : State) (ctx core : Nat) : SavedCore :=
  let c := s.core core
  { core := core
    body := { Core.reset with
      blocks := c.blocks.filter (fun b => s.blockIn ctx b), spad := c.spad, abuf := c.abuf, cbuf := c.cbuf,
      sideVec := c.sideVec, sideStore := c.sideStore, scaled := c.scaled, rt := c.rt
      copies := c.copies.filter (fun e => e.isIn ctx)
      tags := c.tags.filter (fun t => !(c.copies.any (fun e => !(e.isIn ctx) && e.tag == t.1 && t.2 == .busy)))
      tiles := c.tiles.filter (fun e => s.tileIn ctx e) }
    waves := (s.wavesIn ctx core).map (fun id => (id.slot, (s.wave id).saved)) }

/-- A core without what has been saved of it: its buffers are undefined for the domain's next holder (R161), and its tags are
free where no other block stands on it. -/
def State.clearCore (s : State) (v : SavedCore) : State :=
  let c0 := v.body.blocks.foldl (fun c b => c.dropBlock b s.draws) (s.core v.core)
  let c1 := { c0 with
    tags := if c0.blocks.isEmpty then [] else c0.tags.filter (fun t => !(v.body.copies.any (fun e => e.tag == t.1)))
    copies := c0.copies.filter (fun e => !(v.body.copies.any (fun x => x.id == e.id)))
    tiles := c0.tiles.filter (fun e => !(v.body.tiles.any (fun x => x.id == e.id))) }
  let s1 := (s.setCore v.core c1).drawn
  let s2 := v.waves.foldl (fun t w =>
    t.setWave ⟨v.core, w.1⟩ { Wave.reset with sched := { Wave.reset.sched with stalls := w.2.sched.stalls } }) s1
  let k := s2.cluster (clusterOf v.core)
  s2.setCluster (clusterOf v.core) { k with walks := k.walks.map (fun x =>
    { x with waiters := x.waiters.filter (fun m => !(m.1 == v.core && v.waves.any (fun w => w.1 == m.2.1))) }) }

/-- A cluster without the objects that have been saved (R330): the phasers free, the stream queues empty but still held by
their grids (R354). -/
def State.clearSync (s : State) (x : Nat × Map Phaser × Map Stream) : State :=
  let c := s.cluster x.1
  s.setCluster x.1 { c with
    phasers := c.phasers.map (fun p => if (Map.get? x.2.1 p.1).isSome then (p.1, p.2.freed) else p)
    streams := c.streams.map (fun q => if (Map.get? x.2.2 q.1).isSome then (q.1, { q.2 with entries := [] }) else q) }

/-- The residency policy on one residency of a gang's cores (step 4 of R298). -/
def State.settleResidency (s : State) (n : Nat) : State :=
  let r := s.owner n
  if r.st = .pinned then s.mapResidency (n / 256) (n % 256) (fun r => { r with judge := true })
  else if r.st = .ready ∨ r.st = .stale then
    (s.freePlanes (n / 256) (n % 256)).mapResidency (n / 256) (n % 256) (fun r => { r with st := .evicted })
  else s

/-- The residency policy on the cores of a context's gangs. -/
def State.settleResidencies (s : State) (gangs : Map Gang) : State :=
  (gangs.flatMap (fun g => g.2.cores)).foldl (fun t k =>
    ((t.core k).wowner.map (fun e => e.2)).eraseDups.foldl (fun u n => u.settleResidency n) t) s

/-- The gang number of a block and whether its gang holds the lease. -/
def savedGang (gangs : Map Gang) (b : Block) : Nat × Bool :=
  match b.gang.bind (fun n => Map.get? gangs n) with
  | some g => (g.num, g.lease)
  | none => (0, false)

/-- The save itself (steps 5 to 7 of R420). -/
def State.saveUnit (s : State) (ctx : Nat) : State :=
  let d := s.domOf (s.domIn ctx)
  let key := (Config.saveKey ctx).toNat
  let base := saveBase d ctx
  let gangs := s.gangsIn ctx
  let saved := (s.coresIn ctx).map (fun k => s.saveCore ctx k)
  let sync := (s.clustersIn ctx).map (fun k => (k, s.phasersIn ctx k, s.streamsIn ctx k))
  let s1 := saved.foldl (fun t v =>
    (t.writePart d key (base + coreBlockAt v.core) (2 ^ 20) (v.image (savedGang gangs))).poisonArea
      (v.poisonAt.map (fun o => (base + coreBlockAt v.core + o) / 64))) s.drawn
  let s2 := s1.settleResidencies gangs
  let s3 := saved.foldl (fun t v => t.clearCore v) s2
  let s4 := { s3 with gangs := s3.gangs.filter (fun g => (Map.get? gangs g.1).isNone) }
  let s5 := sync.foldl (fun t x => t.writePart d key (base + clusterBlockAt x.1) (2 ^ 16) (syncImage (t.cluster x.1).phasers x.2.1 x.2.2)) s4
  let s6 := if ctx < 4096 then sync.foldl (fun t x => t.clearSync x) s5 else s5
  let time := (s6.netNow - (s.ctx ctx).stopAt) / 2 + Config.choice s6.draws
  let s7 := s6.drawn.mapCtx ctx (fun c => { c with
    saveTime := time, away := true, saved := saved, gangs := gangs, sync := if ctx < 4096 then sync else [] })
  (s7.writePart d key (base + saveHeaderAt) 4096 (s7.ctx ctx).image).logNote
    (dieOf ((saved.map (fun v => v.core)).headD 0)) 0x13 false d.plan.num 0 (ctx % 2 ^ 24)

/-- MANTIS_SAVE (R418, R420): with every engine's acknowledgement, the context's cores are saved and free again. For a single
block it also sends the stop. -/
def execMantisSave (ctx : Nat) (s : State) : Out :=
  let c := s.ctx ctx
  .next (if s.mayEvict ctx then s.mapCtx ctx (fun c => { c with stopping := true, stopAt := s.netNow, acks := [] })
    else if !c.stopping || c.away || !c.acked [.waves, .copies, .sequencers, .sync, .interface, .cicada] then s
    else s.saveUnit ctx)

/-! ## The restore (R428, R429) -/

/-- Where a placement puts a saved core. -/
def placedAt (placement : List (Nat × Nat)) (core : Nat) : Option Nat := (placement.find? (fun e => e.1 == core)).map (fun e => e.2)

/-- Whether a grid holds phaser objects or stream queues on a cluster (R354), there or among those that were saved with its
context. -/
def State.holdsSync (s : State) (c : CtxSched) (grid cluster : Nat) : Bool :=
  let k := s.cluster cluster
  k.phasers.any (fun p => p.2.live && p.2.grid == grid) || k.streams.any (fun q => q.2.owner == some grid) ||
    c.sync.any (fun x => x.1 == cluster && x.2.1.any (fun p => p.2.grid == grid))

/-- Whether the phasers that were saved can come back to their numbers (R354). -/
def State.syncFree (s : State) (c : CtxSched) : Bool :=
  c.sync.all (fun x => x.2.1.all (fun p => !(Map.getD (s.cluster x.1).phasers p.1 Phaser.reset).live))

/-- The cluster state written back (step 1 of R428). -/
def State.restoreSync (s : State) (x : Nat × Map Phaser × Map Stream) : State :=
  let c := s.cluster x.1
  s.setCluster x.1 { c with
    phasers := x.2.1.foldl (fun (m : Map Phaser) (p : Nat × Phaser) => Map.set m p.1 p.2) c.phasers
    streams := x.2.2.foldl (fun (m : Map Stream) (q : Nat × Stream) => Map.set m q.1 q.2) c.streams }

/-- Whether the cores of a gang as placed have its shape, in the order of its bond positions (R429). -/
def State.gangShaped (g : Gang) (cores : List Nat) : Bool :=
  cores == shapeCores (clusterOf (cores.headD 0)) (cores.headD 0 % 16) g.rlog g.clog g.seam

/-- Whether a placement may take the saved cores of a context: every one, on distinct free cores of the domain, on the
same cluster where the block's grid holds phasers or stream queues, and gangs in their shape (R429). -/
def State.placementOk (s : State) (c : CtxSched) (d : Dom) (placement : List (Nat × Nat)) : Bool :=
  let at' := c.saved.map (fun v => placedAt placement v.core)
  at'.eraseDups.length == at'.length && c.saved.all (fun v => match placedAt placement v.core with
    | none => false
    | some k => d.clusters.contains (clusterOf k) && (s.core k).blocks.isEmpty && !(s.core k).fenced &&
        (s.wavesOn k).isEmpty &&
        (clusterOf k == clusterOf v.core || v.body.blocks.all (fun b => !s.holdsSync c b.grid (clusterOf v.core)))) && s.syncFree c &&
    c.gangs.all (fun g => State.gangShaped g.2 (g.2.cores.map (fun k => (placedAt placement k).getD k)))

/-- A range of a core memory written back from a saved one, with its poisoned words. -/
def Store.restored (st old : Store) (lo len : Nat) : Store :=
  let w := st.write lo (old.read lo len)
  { w with poison := w.poison ++ old.poison.filter (fun p => decide (lo ≤ 4 * p) && decide (4 * p < lo + len)) }

/-- A core with a saved block's scratchpad, slots and tiles written back. -/
def Core.restoreBlock (c : Core) (old : Core) (b : Block) : Core :=
  let c1 := { c with blocks := c.blocks ++ [b], spad := if b.spad = 0 then c.spad else c.spad.restored old.spad b.sb b.spad }
  let c2 := ((List.range 32).filter (fun i => b.amask.getLsbD i)).foldl (fun c i => { c with
    abuf := c.abuf.restored old.abuf (2048 * i) 2048
    sideStore := c.sideStore.restored old.sideStore (1024 * i) 1024 }) c1
  let c3 := ((List.range 16).filter (fun i => b.cmask.getLsbD i)).foldl (fun c i => { c with
    cbuf := c.cbuf.restored old.cbuf (4096 * i) 4096
    sideVec := c.sideVec.restored old.sideVec (128 * i) 128 }) c2
  { c3 with scaled := c3.scaled ||| (old.scaled &&& b.cmask) }

/-- Whether the save area's range reads as poison or under a revoked key slot (R429), apart from the chunks whose words were
saved poisoned, which only their consumers meet (R422). -/
def State.areaBad (s : State) (d : Dom) (key : Nat) (own : List Nat) (a n : Nat) : Bool :=
  (s.key key).st == .revoked ||
    s.ms.poison.any (fun c => decide (a ≤ 64 * c) && decide (64 * c < a + n) && !own.contains c) ||
    (List.range (n / 128)).any (fun i => s.lineLost d (a + 128 * i) || (s.slice (d.home (a + 128 * i))).fenced)

/-- The waves of a saved core that a bad part of the area affects: its own record for each, and for all of them the rest
of the core block, the cluster block and the header. -/
def State.wavesHurt (s : State) (d : Dom) (key base : Nat) (v : SavedCore) : List Nat :=
  let own := v.poisonAt.map (fun o => (base + coreBlockAt v.core + o) / 64)
  let bad := s.areaBad d key own
  let all := bad (base + coreBlockAt v.core) 0x50000 || bad (base + clusterBlockAt (clusterOf v.core)) (2 ^ 16) ||
    bad (base + saveHeaderAt) 4096
  (v.waves.map (fun w => w.1)).filter (fun i => all || bad (base + coreBlockAt v.core + 0x50000 + 0x12000 * i) 0x12000)

/-- A core whose parts a saved block takes again (R161, R428). -/
def Core.takeBlock (c : Core) (dom : Nat) (b : Block) : Core :=
  let c1 := c.takeSpad dom b.sb b.spad
  let c2 := ((List.range 32).filter (fun i => b.amask.getLsbD i)).foldl (fun c i => c.takeSlot dom i) c1
  ((List.range 16).filter (fun i => b.cmask.getLsbD i)).foldl (fun c i => c.takeTile dom i) c2

/-- A saved wave written back into its slot, in free frames of the core. -/
def State.restoreWave (s : State) (k slot : Nat) (w : Wave) : State :=
  let fs := (s.freeFrames k).take w.win.nf
  (s.setCore k ((s.core k).takeFrames w.ctx.dom fs)).setWave ⟨k, slot⟩ { w with win := { w.win with held := fs } }

/-- The waves of a saved core written back, those of one block after the other, with the mirrors that R433 gives them. -/
def State.restoreWaves (s : State) (dom k : Nat) (v : SavedCore) : State :=
  v.body.blocks.foldl (fun t b =>
    let ws := v.waves.filter (fun w => w.2.ident.grid == b.grid && w.2.ident.block == b.b)
    (ws.foldl (fun t w => t.restoreWave k w.1 w.2) t).mirrorWaves k dom (ws.map (fun w => w.1))) s

/-- One saved core written back onto core `k` (steps 2, 4, 5 and 6 of R428), its record cache empty (R200). -/
def State.restoreCore (s : State) (ctx : Context) (hurt : List Nat) (place : Nat → Nat) (v : SavedCore) (k : Nat) : State :=
  let s1 := s.judgeCore k ctx.dom ctx.key
  let c := v.body.blocks.foldl (fun c b => (c.takeBlock ctx.dom b).restoreBlock v.body b) (s1.core k)
  let s2 := s1.setCore k { c with
    tags := v.body.tags
    copies := c.copies ++ v.body.copies.map (fun e => { e with stop := false })
    recs := []
    tiles := c.tiles ++ v.body.tiles.map (fun e => { e with core := place e.core, stop := false, first := true })
    rt := (List.range 8).map (fun i => max (c.rt.getD i 0) (v.body.rt.getD i 0)) }
  let s3 := s2.restoreWaves ctx.dom k v
  hurt.foldl (fun t i => if (t.wave ⟨k, i⟩).halt.isSome then t else t.haltAt ⟨k, i⟩ 6) s3

/-- The scheduler's entry of a context that is back: a new slice begins (R430). A block that was saved alone has none. -/
def State.backAgain (s : State) (ctx time : Nat) : State :=
  if 4096 ≤ ctx then { s with ctxs := Map.del s.ctxs ctx }
  else
    s.mapCtx ctx (fun c =>
      let c1 := CtxSched.rated { c with
        restoreTime := time, stopping := false, acks := [], away := false, saved := [], gangs := [], sync := [] }
      { c1 with sliceEnd := s.netNow + 2 * c1.effective })

/-- MANTIS_RESTORE (R428-R430): the cluster state and the cores of the context come back, the cores where the placement puts
them, the leases with them. A block that was saved alone waits while its context is stopped. -/
def execMantisRestore (ctx : Nat) (placement : List (Nat × Nat)) (s : State) : Out :=
  let c := s.ctx ctx
  let d := s.domOf (s.domIn ctx)
  .next (if !c.away || !s.placementOk c d placement || (decide (4096 ≤ ctx) && (s.ctx (s.unitCtx ctx)).stopping) then s
    else
      let n := s.unitCtx ctx
      let r := Map.getD s.fe.asrs n AddrSpace.reset
      let x : Context := ⟨n, r.dom, r.asn, r.rootKey, r.root⟩
      let key := (Config.saveKey ctx).toNat
      let base := saveBase d ctx
      let place := fun (k : Nat) => (placedAt placement k).getD k
      let hurt := c.saved.map (fun v => s.wavesHurt d key base v)
      let moved := fun (g : Gang) => { g with cores := g.cores.map place, bonded := g.bonded.map place }
      let s0 := c.sync.foldl (fun t x => t.restoreSync x) s
      let s1 := { s0 with gangs := c.gangs.foldl (fun (m : Map Gang) (e : Nat × Gang) => Map.set m e.1 (moved e.2)) s0.gangs }
      let s2 := (c.saved.zip hurt).foldl (fun t e => t.restoreCore x e.2 place e.1 (place e.1.core)) s1
      s2.drawn.backAgain ctx (Config.choice s2.draws))

end Sys2Proof.Machine
end

