-- ==== Sys2Proof/Machine/Reliability.lean ====
section
/-! DEFINITION. What fails and what is replaced: the SRAM rail and the DEC-TED sweep (R432), lost channel groups (R76), the
re-initialisation of a domain with its spares (R437), throttling (R438), and the resets (R439, R440). -/

namespace Sys2Proof.Machine

/-! ## The SRAM rail (R432) -/

/-- The slices of a die. -/
def slicesOf (die : Nat) : List Nat := (List.range 256).map (fun i => 256 * die + i)

/-- A way evicted: a watched line's WINV goes out (R95, R96). -/
def State.evictWay (s : State) (slice set : Nat) (w : Way) : State :=
  let s1 := s.setSlice slice ((s.slice slice).evict set w)
  if w.watch then
    let dom := ((s.ms.doms.find? (fun e => e.2.ownsSlice slice)).map (fun e => e.1)).getD 0
    s1.startWinv slice dom w.line w.wts none
  else s1

/-- The next set of a slice swept: ways 14 and 15 give up their lines, and hold check bits from now on. It waits where that
would start more than 64 WINVs (R96). -/
def State.sweepNext (s : State) (slice : Nat) : State :=
  let x := s.slice slice
  match (List.range 512).find? (fun i => !(x.swept.contains i)) with
  | none => s
  | some set =>
    let ws := (Map.getD x.sets set []).filter (fun w => decide (14 ≤ w.way))
    if 64 < x.winvs.length + (ws.filter (fun w => w.watch)).length then s
    else
    let s1 := ws.foldl (fun t w => t.evictWay slice set w) s
    s1.setSlice slice { (s1.slice slice) with swept := (s1.slice slice).swept ++ [set] }

/-- Whether every slice of a die is in DEC-TED mode. -/
def State.sweptAll (s : State) (die : Nat) : Bool := (slicesOf die).all (fun i => decide (512 ≤ (s.slice i).swept.length))

/-- SRAM_RAIL_LOWER: each slice of the die sweeps its next set; with every set of every slice swept, the rail goes below
its threshold. -/
def execSramRailLower (die : Nat) (s : State) : Out :=
  .next (if 2 ≤ die then s
    else if s.sweptAll die then
      { s with health := { s.health with railLow := if s.health.railLow.contains die then s.health.railLow else s.health.railLow ++ [die] } }
    else (slicesOf die).foldl (fun t i => t.sweepNext i) s)

/-- SRAM_RAIL_RAISE: the rail first; then each slice of the die frees ways 14 and 15 of one set after another. -/
def execSramRailRaise (die : Nat) (s : State) : Out :=
  .next (if 2 ≤ die then s
    else if s.health.railLow.contains die then
      { s with health := { s.health with railLow := s.health.railLow.filter (fun d => d != die) } }
    else (slicesOf die).foldl (fun t i =>
      let x := t.slice i
      if x.swept.isEmpty then t else t.setSlice i { x with swept := x.swept.drop 1 }) s)

/-! ## Failures (R76, R437) -/

/-- CHANNEL_GROUP_FAILURE: the group's lines read as poison from now on; the loss is recorded, and REPLACE_REQUESTED goes to
its domain. -/
def execChannelGroupFailure (group : Nat) (s : State) : Out :=
  .next (if 128 ≤ group ∨ s.ms.lost.contains group then s
    else
      let s1 := s.withMs { s.ms with lost := s.ms.lost ++ [group] }
      match s.ms.doms.find? (fun e => e.2.groups.contains group) with
      | some e => (s1.logError (group / 64) 0x02 2 false e.1 (group % 64) 0 0).requestReplace e.1
      | none => s1.logError (group / 64) 0x02 2 true 0 (group % 64) 0 0)

/-- The pool that replaces a unit: a cluster's two spare cores, or a die's eight spare slices (R18, R437). -/
def poolSize (pool : Nat) : Nat := if pool < 256 then 2 else 8

/-- The domains that a pool serves: those with the cluster, or with slices of the die. -/
def State.poolDomains (s : State) (pool : Nat) : List Nat :=
  (s.ms.doms.filter (fun e => if pool < 256 then e.2.clusters.contains pool
    else e.2.slices.any (fun i => i / 256 == pool - 256))).map (fun e => e.1)

/-- A spare taken from a pool for a fenced unit, where the pool still holds one; `fix` maps it into the position. With the
last of them the pool is used up, and REPLACE_REQUESTED goes to every domain that it serves. -/
def State.useSpare (s : State) (pool : Nat) (fix : State → State) : State :=
  let used := Map.getD s.health.spares pool 0
  if poolSize pool ≤ used then s
  else
    let s1 := fix { s with health := { s.health with spares := Map.set s.health.spares pool (used + 1) } }
    if used + 1 = poolSize pool then (s1.poolDomains pool).foldl (fun t d => t.requestReplace d) s1 else s1

/-- A spare slice in a position: it holds nothing, its sets in DEC-TED mode as the rail of its die asks (R432), and the dirty
lines of the slice that failed have no defined contents. -/
def State.replaceSlice (s : State) (i : Nat) : State :=
  let dirty := ((s.slice i).sets.flatMap (fun e => e.2)).filter (fun w => w.dirty)
  let s1 := s.withMs { s.ms with
    undef := dirty.map (fun w => (128 * w.line, 128, s.draws)) ++ s.ms.undef
    lineKey := dirty.foldl (fun m w => Map.del m w.line) s.ms.lineKey }
  (s1.setSlice i { (s.slice i).zeroised with fenced := false }).drawn

/-- The fenced cores and slices of a domain replaced while spares last. -/
def State.useSpares (s : State) (d : Dom) : State :=
  let s1 := d.clusters.foldl (fun t k => (coresOf k).foldl (fun u c =>
    if (u.core c).fenced then u.useSpare k (fun v => v.setCore c { (v.core c) with fenced := false }) else u) t) s
  d.slices.foldl (fun t i =>
    if (t.slice i).fenced then t.useSpare (256 + i / 256) (fun v => v.replaceSlice i) else t) s1

/-- The key slots of a domain EMPTY (R89): nothing that was cached under them stays. -/
def State.emptyKeys (s : State) (dom : Nat) : State :=
  (s.ms.keys.filter (fun e => e.2.owner == dom)).foldl (fun t e =>
    ((t.setKey e.1 { e.2 with st := .empty, cleared := true }).dropLines e.1).dropKey e.1) s

/-- DOMAIN_REINITIALISATION: lost groups leave the domain, whose range then holds nothing defined (R76); its key slots are
EMPTY (R89), and spares replace what is fenced (R437). The domain must be stopped. -/
def execDomainReinitialisation (dom : Nat) (s : State) : Out :=
  .next (match s.dom? dom with
  | none => s
  | some d =>
    if !(s.domStopped dom) then s
    else
      let s1 := s.recut (Map.set s.ms.doms dom (planDom s.ms.lost d.plan))
      (s1.emptyKeys dom).useSpares (s1.domOf dom))

/-! ## Throttling (R438) -/

/-- THROTTLING: the clocks of every domain together; it changes nothing that a program computes. -/
def execThrottling (level : Nat) (s : State) : Out :=
  .next { s with health := { s.health with throttle := level } }

/-! ## Resets (R439, R440) -/

/-- The boot ROM's judgement of a firmware image: both signatures verify. -/
def imageOk (image : List Byte) : Bool := Config.cryptoOk 1 image && Config.cryptoOk 2 image

/-- The dies on which an image does not run (R440): each boot ROM judges the image, and both judge it alike. -/
def darkDies (image : List Byte) : List Nat := if imageOk image then [] else [0, 1]

/-- A boot recorded on both dies (R436). -/
def State.noteBoot (s : State) : State := (s.logNote 0 0x10 true 0 0 0).logNote 1 0x10 true 0 0 0

/-- COLD_RESET: the state after reset, but for what no reset touches: memory outside the package, which is not the
device's; the groups and spares that are lost; and the firmware image, which is judged anew. Package memory holds nothing
defined (R462). -/
def execColdReset (s : State) : Out :=
  let r := State.reset
  let d := planDom s.ms.lost Dom.undivided.plan
  .next ({ r with
    draws := s.draws + 1
    nextOp := s.nextOp
    ms := { r.ms with
      mem := s.ms.mem.filter (fun c => decide (2 ^ 50 ≤ c.1)), undef := [(0, 2 ^ 50, s.draws)], lost := s.ms.lost,
      doms := [(0, d)] }
    health := { r.health with spares := s.health.spares }
    box := { r.box with dark := darkDies s.box.image, image := s.box.image } } : State).noteBoot

/-- WARM_RESET: the staged image is judged and, where it verifies, runs (R440); the front end's work in hand and the
sessions end with the firmware that held them. Mayfly keeps its records (R436). -/
def execWarmReset (s : State) : Out :=
  let image := s.box.staged.getD s.box.image
  .next ({ s with
    box := { s.box with
      staged := none, dark := darkDies image, image := image, sessions := [], operator := none, status := 1, cmd := 0 }
    fe := { s.fe with lanes := [], todo := [], polls := [], migs := [], reads := [], retries := [], walks := [], hands := [] } } : State).noteBoot

end Sys2Proof.Machine
end

