-- ==== Sys2Proof/Machine/Dispatch.lean ====
section
/-! DEFINITION. The dispatch: one arm for each row of spec/opcode_table.json, in the order of the table. -/

namespace Sys2Proof.Machine

/-- The meaning of an instruction, or of an event of the device, in a state. -/
def exec (i : Instr) (s : State) : Host.Outcome State Fault Refusal :=
  match i with
  | .nop f => Sys2Proof.Machine.execNop f s
  | .bra f => Sys2Proof.Machine.execBra f s
  | .brq f => Sys2Proof.Machine.execBrq f s
  | .brv f => Sys2Proof.Machine.execBrv f s
  | .brx f => Sys2Proof.Machine.execBrx f s
  | .call f => Sys2Proof.Machine.execCall f s
  | .callx f => Sys2Proof.Machine.execCallx f s
  | .ret f => Sys2Proof.Machine.execRet f s
  | .jenrol f => Sys2Proof.Machine.execJenrol f s
  | .jpark f => Sys2Proof.Machine.execJpark f s
  | .jstrike f => Sys2Proof.Machine.execJstrike f s
  | .exit f => Sys2Proof.Machine.execExit f s
  | .waitc f => Sys2Proof.Machine.execWaitc f s
  | .sleep f => Sys2Proof.Machine.execSleep f s
  | .yield f => Sys2Proof.Machine.execYield f s
  | .etrig f => Sys2Proof.Machine.execEtrig f s
  | .enq f => Sys2Proof.Machine.execEnq f s
  | .trap f => Sys2Proof.Machine.execTrap f s
  | .eret f => Sys2Proof.Machine.execEret f s
  | .bkpt f => Sys2Proof.Machine.execBkpt f s
  | .bond f => Sys2Proof.Machine.execBond f s
  | .unbond f => Sys2Proof.Machine.execUnbond f s
  | .csrr f => Sys2Proof.Machine.execCsrr f s
  | .csrw f => Sys2Proof.Machine.execCsrw f s
  | .smov f => Sys2Proof.Machine.execSmov f s
  | .sadd f => Sys2Proof.Machine.execSadd f s
  | .ssub f => Sys2Proof.Machine.execSsub f s
  | .smul f => Sys2Proof.Machine.execSmul f s
  | .smulhi f => Sys2Proof.Machine.execSmulhi f s
  | .smad f => Sys2Proof.Machine.execSmad f s
  | .smin f => Sys2Proof.Machine.execSmin f s
  | .smax f => Sys2Proof.Machine.execSmax f s
  | .slop3 f => Sys2Proof.Machine.execSlop3 f s
  | .sshl f => Sys2Proof.Machine.execSshl f s
  | .sshr f => Sys2Proof.Machine.execSshr f s
  | .sbfe f => Sys2Proof.Machine.execSbfe f s
  | .sbfi f => Sys2Proof.Machine.execSbfi f s
  | .spopc f => Sys2Proof.Machine.execSpopc f s
  | .sclz f => Sys2Proof.Machine.execSclz f s
  | .scmp f => Sys2Proof.Machine.execScmp f s
  | .ssel f => Sys2Proof.Machine.execSsel f s
  | .qlop f => Sys2Proof.Machine.execQlop f s
  | .vmov f => Sys2Proof.Machine.execVmov f s
  | .vadd f => Sys2Proof.Machine.execVadd f s
  | .vsub f => Sys2Proof.Machine.execVsub f s
  | .vmul f => Sys2Proof.Machine.execVmul f s
  | .vmulhi f => Sys2Proof.Machine.execVmulhi f s
  | .vmad f => Sys2Proof.Machine.execVmad f s
  | .vmin f => Sys2Proof.Machine.execVmin f s
  | .vmax f => Sys2Proof.Machine.execVmax f s
  | .vabs f => Sys2Proof.Machine.execVabs f s
  | .vlop3 f => Sys2Proof.Machine.execVlop3 f s
  | .vshl f => Sys2Proof.Machine.execVshl f s
  | .vshr f => Sys2Proof.Machine.execVshr f s
  | .vshf f => Sys2Proof.Machine.execVshf f s
  | .vbfe f => Sys2Proof.Machine.execVbfe f s
  | .vbfi f => Sys2Proof.Machine.execVbfi f s
  | .vpopc f => Sys2Proof.Machine.execVpopc f s
  | .vclz f => Sys2Proof.Machine.execVclz f s
  | .vbrev f => Sys2Proof.Machine.execVbrev f s
  | .vcmp f => Sys2Proof.Machine.execVcmp f s
  | .vsel f => Sys2Proof.Machine.execVsel f s
  | .plop f => Sys2Proof.Machine.execPlop f s
  | .vdot4 f => Sys2Proof.Machine.execVdot4 f s
  | .vcvti f => Sys2Proof.Machine.execVcvti f s
  | .vshfl f => Sys2Proof.Machine.execVshfl f s
  | .vrdlane f => Sys2Proof.Machine.execVrdlane f s
  | .vwrlane f => Sys2Proof.Machine.execVwrlane f s
  | .vballot f => Sys2Proof.Machine.execVballot f s
  | .vredux f => Sys2Proof.Machine.execVredux f s
  | .vscan f => Sys2Proof.Machine.execVscan f s
  | .vfadd f => Sys2Proof.Machine.execVfadd f s
  | .vfmul f => Sys2Proof.Machine.execVfmul f s
  | .vfma f => Sys2Proof.Machine.execVfma f s
  | .vfmin f => Sys2Proof.Machine.execVfmin f s
  | .vfmax f => Sys2Proof.Machine.execVfmax f s
  | .vfcmp f => Sys2Proof.Machine.execVfcmp f s
  | .vfrnd f => Sys2Proof.Machine.execVfrnd f s
  | .vfclass f => Sys2Proof.Machine.execVfclass f s
  | .vcvt f => Sys2Proof.Machine.execVcvt f s
  | .vfma2 f => Sys2Proof.Machine.execVfma2 f s
  | .vfdot2 f => Sys2Proof.Machine.execVfdot2 f s
  | .vfldexp f => Sys2Proof.Machine.execVfldexp f s
  | .vrcp f => Sys2Proof.Machine.execVrcp f s
  | .vrsq f => Sys2Proof.Machine.execVrsq f s
  | .vsqrt f => Sys2Proof.Machine.execVsqrt f s
  | .vexp2 f => Sys2Proof.Machine.execVexp2 f s
  | .vlog2 f => Sys2Proof.Machine.execVlog2 f s
  | .vsin f => Sys2Proof.Machine.execVsin f s
  | .vcos f => Sys2Proof.Machine.execVcos f s
  | .vsinpi f => Sys2Proof.Machine.execVsinpi f s
  | .vcospi f => Sys2Proof.Machine.execVcospi f s
  | .vtanh f => Sys2Proof.Machine.execVtanh f s
  | .vqnt f => Sys2Proof.Machine.execVqnt f s
  | .vdqnt f => Sys2Proof.Machine.execVdqnt f s
  | .vpack f => Sys2Proof.Machine.execVpack f s
  | .vunpk f => Sys2Proof.Machine.execVunpk f s
  | .vamax f => Sys2Proof.Machine.execVamax f s
  | .vunp3 f => Sys2Proof.Machine.execVunp3 f s
  | .vtdot4 f => Sys2Proof.Machine.execVtdot4 f s
  | .ld f => Sys2Proof.Machine.execLd f s
  | .st f => Sys2Proof.Machine.execSt f s
  | .lds f => Sys2Proof.Machine.execLds f s
  | .sts f => Sys2Proof.Machine.execSts f s
  | .ldu f => Sys2Proof.Machine.execLdu f s
  | .stu f => Sys2Proof.Machine.execStu f s
  | .atom f => Sys2Proof.Machine.execAtom f s
  | .red f => Sys2Proof.Machine.execRed f s
  | .atoms f => Sys2Proof.Machine.execAtoms f s
  | .fence f => Sys2Proof.Machine.execFence f s
  | .cctl f => Sys2Proof.Machine.execCctl f s
  | .ldb f => Sys2Proof.Machine.execLdb f s
  | .stb f => Sys2Proof.Machine.execStb f s
  | .msend f => Sys2Proof.Machine.execMsend f s
  | .tcopy f => Sys2Proof.Machine.execTcopy f s
  | .tcopym f => Sys2Proof.Machine.execTcopym f s
  | .tshape f => Sys2Proof.Machine.execTshape f s
  | .tsfence f => Sys2Proof.Machine.execTsfence f s
  | .twany f => Sys2Proof.Machine.execTwany f s
  | .twall f => Sys2Proof.Machine.execTwall f s
  | .tfirst f => Sys2Proof.Machine.execTfirst f s
  | .tclr f => Sys2Proof.Machine.execTclr f s
  | .aclaim f => Sys2Proof.Machine.execAclaim f s
  | .afree f => Sys2Proof.Machine.execAfree f s
  | .walloc f => Sys2Proof.Machine.execWalloc f s
  | .wload f => Sys2Proof.Machine.execWload f s
  | .wpin f => Sys2Proof.Machine.execWpin f s
  | .wunpin f => Sys2Proof.Machine.execWunpin f s
  | .wrevoke f => Sys2Proof.Machine.execWrevoke f s
  | .wquery f => Sys2Proof.Machine.execWquery f s
  | .mloop f => Sys2Proof.Machine.execMloop f s
  | .mzero f => Sys2Proof.Machine.execMzero f s
  | .mepi f => Sys2Proof.Machine.execMepi f s
  | .mcorr f => Sys2Proof.Machine.execMcorr f s
  | .phnew f => Sys2Proof.Machine.execPhnew f s
  | .phfree f => Sys2Proof.Machine.execPhfree f s
  | .phreg f => Sys2Proof.Machine.execPhreg f s
  | .phdrop f => Sys2Proof.Machine.execPhdrop f s
  | .phsig f => Sys2Proof.Machine.execPhsig f s
  | .phwait f => Sys2Proof.Machine.execPhwait f s
  | .phsw f => Sys2Proof.Machine.execPhsw f s
  | .phexp f => Sys2Proof.Machine.execPhexp f s
  | .bar f => Sys2Proof.Machine.execBar f s
  | .rwait f => Sys2Proof.Machine.execRwait f s
  | .qpush f => Sys2Proof.Machine.execQpush f s
  | .qpop f => Sys2Proof.Machine.execQpop f s
  | .qmark f => Sys2Proof.Machine.execQmark f s
  | .qstat f => Sys2Proof.Machine.execQstat f s
  | .spillf f => Sys2Proof.Machine.execSpillf f s
  | .fillf f => Sys2Proof.Machine.execFillf f s
  | .impreciseTrap w => Sys2Proof.Machine.execImpreciseTrap w s
  | .issueCycle => Sys2Proof.Machine.execIssueCycle s
  | .activeSetIdleExit w => Sys2Proof.Machine.execActiveSetIdleExit w s
  | .activeSetLongWait w => Sys2Proof.Machine.execActiveSetLongWait w s
  | .sleepExpiry w => Sys2Proof.Machine.execSleepExpiry w s
  | .waveEnd w => Sys2Proof.Machine.execWaveEnd w s
  | .dispatchBlock grid cluster => Sys2Proof.Machine.execDispatchBlock grid cluster s
  | .switchOutputEnqueue wire => Sys2Proof.Machine.execSwitchOutputEnqueue wire s
  | .sliceRd slice place => Sys2Proof.Machine.execSliceRd slice place s
  | .sliceWr slice place => Sys2Proof.Machine.execSliceWr slice place s
  | .sliceAtom slice place => Sys2Proof.Machine.execSliceAtom slice place s
  | .sliceRed slice place => Sys2Proof.Machine.execSliceRed slice place s
  | .sliceCprdm slice place => Sys2Proof.Machine.execSliceCprdm slice place s
  | .sliceMsg slice place => Sys2Proof.Machine.execSliceMsg slice place s
  | .sliceResentPayload slice place => Sys2Proof.Machine.execSliceResentPayload slice place s
  | .pullSend slice place => Sys2Proof.Machine.execPullSend slice place s
  | .sliceWack slice place => Sys2Proof.Machine.execSliceWack slice place s
  | .sliceMack slice place => Sys2Proof.Machine.execSliceMack slice place s
  | .sliceMnak slice place => Sys2Proof.Machine.execSliceMnak slice place s
  | .msgdReoffer slice place => Sys2Proof.Machine.execMsgdReoffer slice place s
  | .msgOfferTimeout slice place => Sys2Proof.Machine.execMsgOfferTimeout slice place s
  | .sliceMigrate slice place => Sys2Proof.Machine.execSliceMigrate slice place s
  | .sliceRelease slice place => Sys2Proof.Machine.execSliceRelease slice place s
  | .portRdata port place => Sys2Proof.Machine.execPortRdata port place s
  | .portWdone port place => Sys2Proof.Machine.execPortWdone port place s
  | .portAres port place => Sys2Proof.Machine.execPortAres port place s
  | .portPull port place => Sys2Proof.Machine.execPortPull port place s
  | .portRedirect port place => Sys2Proof.Machine.execPortRedirect port place s
  | .portMdone port place => Sys2Proof.Machine.execPortMdone port place s
  | .replySwitchMdata place => Sys2Proof.Machine.execReplySwitchMdata place s
  | .residueTimeout sw place => Sys2Proof.Machine.execResidueTimeout sw place s
  | .clusterMdata port place => Sys2Proof.Machine.execClusterMdata port place s
  | .clusterWinv port place => Sys2Proof.Machine.execClusterWinv port place s
  | .interfaceMsgd port place => Sys2Proof.Machine.execInterfaceMsgd port place s
  | .phaserByteAdd cluster place => Sys2Proof.Machine.execPhaserByteAdd cluster place s
  | .fallbackPoll w => Sys2Proof.Machine.execFallbackPoll w s
  | .pageWalkComplete cluster place => Sys2Proof.Machine.execPageWalkComplete cluster place s
  | .migrationWalkRetry cluster place => Sys2Proof.Machine.execMigrationWalkRetry cluster place s
  | .l1LineExpiry core place => Sys2Proof.Machine.execL1LineExpiry core place s
  | .hbmFillComplete slice place => Sys2Proof.Machine.execHbmFillComplete slice place s
  | .sliceScrub slice place => Sys2Proof.Machine.execSliceScrub slice place s
  | .sramRailLower die => Sys2Proof.Machine.execSramRailLower die s
  | .sramRailRaise die => Sys2Proof.Machine.execSramRailRaise die s
  | .channelGroupFailure group => Sys2Proof.Machine.execChannelGroupFailure group s
  | .copyRecordStage core => Sys2Proof.Machine.execCopyRecordStage core s
  | .copyChunk core place chunk => Sys2Proof.Machine.execCopyChunk core place chunk s
  | .copyComplete core place => Sys2Proof.Machine.execCopyComplete core place s
  | .copyStop core place => Sys2Proof.Machine.execCopyStop core place s
  | .residencyLoad core place line => Sys2Proof.Machine.execResidencyLoad core place line s
  | .residencyLoadComplete core place => Sys2Proof.Machine.execResidencyLoadComplete core place s
  | .kStep core => Sys2Proof.Machine.execKStep core s
  | .mzeroRun core => Sys2Proof.Machine.execMzeroRun core s
  | .mepiRun core => Sys2Proof.Machine.execMepiRun core s
  | .mcorrRun core => Sys2Proof.Machine.execMcorrRun core s
  | .doorbell queue tail => Sys2Proof.Machine.execDoorbell queue tail s
  | .eventHeadWrite dom head => Sys2Proof.Machine.execEventHeadWrite dom head s
  | .eventOverflowFlush dom => Sys2Proof.Machine.execEventOverflowFlush dom s
  | .queueRecordChange queue => Sys2Proof.Machine.execQueueRecordChange queue s
  | .replicaInvalAck queue => Sys2Proof.Machine.execReplicaInvalAck queue s
  | .laneBind die lane => Sys2Proof.Machine.execLaneBind die lane s
  | .cicadaStep die => Sys2Proof.Machine.execCicadaStep die s
  | .waitPacket queue => Sys2Proof.Machine.execWaitPacket queue s
  | .waitPoll queue => Sys2Proof.Machine.execWaitPoll queue s
  | .signalPacket queue => Sys2Proof.Machine.execSignalPacket queue s
  | .launchPacket queue => Sys2Proof.Machine.execLaunchPacket queue s
  | .seedlaunchPacket queue => Sys2Proof.Machine.execSeedlaunchPacket queue s
  | .indirectPacket queue => Sys2Proof.Machine.execIndirectPacket queue s
  | .copyPacket queue => Sys2Proof.Machine.execCopyPacket queue s
  | .setquota queue => Sys2Proof.Machine.execSetquota queue s
  | .revokeall queue => Sys2Proof.Machine.execRevokeall queue s
  | .inval queue => Sys2Proof.Machine.execInval queue s
  | .invalkey queue => Sys2Proof.Machine.execInvalkey queue s
  | .keyload queue => Sys2Proof.Machine.execKeyload queue s
  | .keyrevoke queue => Sys2Proof.Machine.execKeyrevoke queue s
  | .migrate queue => Sys2Proof.Machine.execMigrate queue s
  | .resume queue => Sys2Proof.Machine.execResume queue s
  | .counters queue => Sys2Proof.Machine.execCounters queue s
  | .setq queue => Sys2Proof.Machine.execSetq queue s
  | .setasr queue => Sys2Proof.Machine.execSetasr queue s
  | .domaincut queue layout => Sys2Proof.Machine.execDomaincut queue layout s
  | .enqRequest place => Sys2Proof.Machine.execEnqRequest place s
  | .spawnHandoff place => Sys2Proof.Machine.execSpawnHandoff place s
  | .gridComplete grid => Sys2Proof.Machine.execGridComplete grid s
  | .session => Sys2Proof.Machine.execSession s
  | .getreport => Sys2Proof.Machine.execGetreport s
  | .setring => Sys2Proof.Machine.execSetring s
  | .setslice => Sys2Proof.Machine.execSetslice s
  | .readlog => Sys2Proof.Machine.execReadlog s
  | .fwload => Sys2Proof.Machine.execFwload s
  | .route => Sys2Proof.Machine.execRoute s
  | .qread => Sys2Proof.Machine.execQread s
  | .hostWrite pa bytes => Sys2Proof.Machine.execHostWrite pa bytes s
  | .hostRead pa len => Sys2Proof.Machine.execHostRead pa len s
  | .peerAccess port => Sys2Proof.Machine.execPeerAccess port s
  | .timeSliceExpiry ctx => Sys2Proof.Machine.execTimeSliceExpiry ctx s
  | .mantisSave ctx => Sys2Proof.Machine.execMantisSave ctx s
  | .engineStopAck ctx engine => Sys2Proof.Machine.execEngineStopAck ctx engine s
  | .mantisRestore ctx placement => Sys2Proof.Machine.execMantisRestore ctx placement s
  | .nopelFlitReceive port flit => Sys2Proof.Machine.execNopelFlitReceive port flit s
  | .nopelReplay port => Sys2Proof.Machine.execNopelReplay port s
  | .nopelIdleTimeout port => Sys2Proof.Machine.execNopelIdleTimeout port s
  | .coldReset => Sys2Proof.Machine.execColdReset s
  | .warmReset => Sys2Proof.Machine.execWarmReset s
  | .switchOutputLinkSlot sw => Sys2Proof.Machine.execSwitchOutputLinkSlot sw s
  | .nopelPortDownExpiry port => Sys2Proof.Machine.execNopelPortDownExpiry port s
  | .nopelPortUp port => Sys2Proof.Machine.execNopelPortUp port s
  | .domainReinitialisation dom => Sys2Proof.Machine.execDomainReinitialisation dom s
  | .throttling level => Sys2Proof.Machine.execThrottling level s

end Sys2Proof.Machine
end

