-- ==== Sys2Proof/Machine/Step.lean ====
section
/-! DEFINITION. The step, and a state whose next step runs a given instruction. -/

namespace Sys2Proof.Machine

/-- One step: the next act of the machine (Fetch.lean), with the meaning that exec gives it. -/
def step (s : State) : Host.Outcome State Fault Refusal :=
  match s.turn with
  | (s1, some i) => exec i s1
  | (s1, none) => .next s1

/-- The wave in hand as it stands before its instruction at address 0 issues. -/
def Wave.poised (w : Wave) : Wave :=
  { w with
    ctl := { w.ctl with pc := 0 }
    ctx := ⟨0, 0, 0, 0, 0⟩
    ident := { w.ident with scalars := 128 }
    halt := none
    impKey := none
    impMixed := none
    answers := []
    parity := []
    sched := { w.sched with live := true }
    waits := { w.waits with stall := none, ending := false, handler := false } }

/-- A TLB entry that maps the first 4 KiB of the address space to the same physical addresses, for execution. -/
def fetchEntry : TlbEntry := ⟨0, 0, 12, 0, 0, 0, true, true, true, 0⟩

/-- The state with an instruction's sixteen bytes at address 0 of domain 0, in memory and in the instruction cache of the
core of the wave in hand, that wave poised to issue it, a translation and a loaded key slot for the fetch, and nothing else
due before it. It stands for the launch that loads a program (assumption 7). -/
def State.withFetchWord (s : State) (nbits w : Nat) : State :=
  let c := s.myCore
  let m := s.ms
  let s1 := s.setMyCore { c with
    tlb := fetchEntry :: c.tlb
    icache := ⟨0, 0, 0, tableBytes nbits w ++ List.replicate 112 0, 0⟩ :: c.icache }
  { s1 with
    wv := s.wv.poised
    issuing := [s.cur]
    ms := { m with
      mem := Memory.write m.mem 0 (tableBytes nbits w)
      lineKey := Map.set m.lineKey 0 (0, (s.key 0).epoch)
      poison := m.poison.filter (fun c => c != 0)
      keys := Map.set m.keys 0 { (s.key 0) with st := .loaded, owner := 0 }
      doms := Map.set m.doms 0 Dom.undivided } }

end Sys2Proof.Machine
end

