-- ==== Sys2Proof/WellFormed.lean ====
section
/-! DEFINITION. Well-formed instructions: those that the checks of R49 let pass under an allocation of uniform registers
(R42), and occurrences of events whose indices name something the package has (R423, R75, R97). -/

namespace Sys2Proof

/-- A wave slot that exists: 4,096 cores of 8 slots (R19, R423). -/
def WaveId.wf (w : WaveId) : Bool := decide (w.core < 4096) && decide (w.slot < 8)

/-- The number bounds of an event's selectors. -/
def eventWf : Instr → Bool
  | .impreciseTrap w | .activeSetIdleExit w | .activeSetLongWait w | .sleepExpiry w | .waveEnd w | .fallbackPoll w => w.wf
  | .sliceRd x _ | .sliceWr x _ | .sliceAtom x _ | .sliceRed x _ | .sliceCprdm x _ | .sliceMsg x _
  | .sliceResentPayload x _ | .pullSend x _ | .sliceWack x _ | .sliceMack x _ | .sliceMnak x _ | .msgdReoffer x _
  | .msgOfferTimeout x _ | .sliceMigrate x _ | .sliceRelease x _ | .hbmFillComplete x _ | .sliceScrub x _ =>
      decide (x < 512)
  | .portRdata p _ | .portWdone p _ | .portAres p _ | .portPull p _ | .portRedirect p _ | .portMdone p _
  | .clusterMdata p _ | .clusterWinv p _ | .interfaceMsgd p _ => decide (p < 1024)
  | .phaserByteAdd c _ | .pageWalkComplete c _ | .migrationWalkRetry c _ => decide (c < 256)
  | .l1LineExpiry c _ | .copyRecordStage c | .copyChunk c _ _ | .copyComplete c _ | .copyStop c _ | .residencyLoad c _ _
  | .residencyLoadComplete c _ | .kStep c | .mzeroRun c | .mepiRun c | .mcorrRun c => decide (c < 4096)
  | .sramRailLower d | .sramRailRaise d | .laneBind d _ | .cicadaStep d => decide (d < 2)
  | .nopelFlitReceive j f => decide (j < 16) && f.wf
  | .nopelReplay j | .nopelIdleTimeout j | .nopelPortDownExpiry j | .nopelPortUp j
  | .peerAccess j => decide (j < 16)
  | .channelGroupFailure g => decide (g < 128)
  | .eventHeadWrite d _ | .eventOverflowFlush d | .domainReinitialisation d => decide (d < 16)
  | _ => true

/-- Well-formedness under an allocation of `scalars` uniform registers. -/
def Instr.wf (scalars : Nat) (i : Instr) : Bool :=
  match i.view with
  | .event => eventWf i
  | v => (checkView scalars [] v).isNone

end Sys2Proof
end

