-- ==== Sys2Proof/Safety.lean ====
section
/-! DEFINITION. What counts as a safe step and a well-kept state, and the relations between the state before an
instruction and the state after it, in the terms that the statements use. A relation names all that may differ: it gives
the state after as the state before with those parts alone replaced. -/

namespace Sys2Proof.Machine

/-- A step that ends in a next state: the machine has no stuck state of its own. -/
def goesOn (s : State) : Prop := ∃ t, step s = .next t

/-- Memory stands in its canonical form. -/
def State.memoryKept (s : State) : Prop := Memory.wf s.ms.mem = true

/-- An instruction or an event answers a next state of which something holds. -/
def completes (i : Instr) (s : State) (p : State → Prop) : Prop := ∃ t, exec i s = .next t ∧ p t

/-! ## Registers of the wave in hand -/

/-- The places of `n` consecutive v registers from code `d` on: physical frame and register in it (R219). -/
def Window.places (w : Window) (d n : Nat) : List (Nat × Nat) :=
  (List.range n).map (fun k => (w.phys (w.cur + (d + k) / 16), (d + k) % 16))

/-- A window that differs from another in the registers of some places alone: every other word of every physical frame,
and every LINK, is what it was. -/
def Window.keepsBut (w v : Window) (ps : List (Nat × Nat)) : Prop :=
  v.cur = w.cur ∧ v.lo = w.lo ∧ v.nf = w.nf ∧ v.place = w.place ∧
    ∀ i, (v.frame i).link = (w.frame i).link ∧ ∀ r l, (i, r) ∉ ps → (v.frame i).word r l = (w.frame i).word r l

/-- After an instruction of `n` bytes: PC past it, the v registers of a destination of `width` bits from code `d` on hold
`val` in the threads that `act` names and their old words in the others, and nothing else differs from the state with
`w` for its wave. -/
def State.wroteV (s t : State) (n : Nat) (w : Wave) (d width : Nat) (act : Nat → Bool) (val : Nat → Nat) : Prop :=
  t = (s.withWv { w with win := t.wv.win }).advance n ∧
    s.wv.win.keepsBut t.wv.win (s.wv.win.places d (regCount width)) ∧
    ∀ l, l < 64 → ∀ k, k < regCount width →
      t.wv.getV (d + k) l = if act l then wordAt (val l) k else s.wv.getV (d + k) l

/-- The same for a uniform destination: its registers hold `val`, every other s register its old word. -/
def State.wroteS (s t : State) (n : Nat) (w : Wave) (d width val : Nat) : Prop :=
  t = (s.withWv { w with s := t.wv.s }).advance n ∧
    ∀ k, t.wv.getS k =
      if d - 0x20 ≤ k ∧ k < d - 0x20 + regCount width then wordAt val (k - (d - 0x20)) else s.wv.getS k

/-- The same for a lane predicate: the threads that `act` names take `val`, unless the predicate is p7 (R31). -/
def State.wroteP (s t : State) (n : Nat) (w : Wave) (d : Nat) (act val : Nat → Bool) : Prop :=
  t = (s.withWv { w with p := t.wv.p }).advance n ∧
    ∀ k l, l < 64 → t.wv.getP k l = if k = d ∧ k ≠ 7 ∧ act l then val l else s.wv.getP k l

/-- The same for a uniform predicate. -/
def State.wroteQ (s t : State) (n : Nat) (w : Wave) (d : Nat) (val : Bool) : Prop :=
  t = (s.withWv { w with q := t.wv.q }).advance n ∧
    ∀ k, t.wv.getQ k = if k = d ∧ k ≠ 7 then val else s.wv.getQ k

/-- The memory of the package, the host and the peers reads as it did, at every address. -/
def State.sameMemory (s t : State) : Prop := ∀ a, Memory.get t.ms.mem a = Memory.get s.ms.mem a

end Sys2Proof.Machine
end

