-- ==== Sys2Proof/Certificates/Slice0/Obligations.lean ====
section
/-! DEFINITION. The statements for the provers, with the relations that they name. The statements come from the numbered
rules of spec/; where one rests on a choice of the model, its docstring names the assumption log's entry. -/

namespace Sys2Proof.Machine

/-! ## Rows: instructions of one shape with what the rules give them -/

/-- The end of R241's arithmetic: the exact value wrapped, or under .SAT the nearest value of the type, with SAT where that
is another value (R9, R238, R241). -/
def exactEnd (f : InsA) (x : Int) : Nat × BitVec 8 :=
  let y := if f.sat then clampInt (InsA_signed f) (InsA_width f) x else x
  (wrapTo (InsA_width f) y, if y = x then 0 else flSAT)

/-- What the integer instructions of R241 to R246 compute from raw operands `a`, `b` and `c`, by the number that the
twins SADD and VADD share: result and flags. -/
def intResult (f : InsA) (a b c : Nat) : Nat → Nat × BitVec 8
  | 0 => (a, 0)
  | 1 => exactEnd f (opVal f a + opVal f b)
  | 2 => exactEnd f (opVal f a - opVal f b)
  | 3 => exactEnd f (opVal f a * opVal f b)
  | 4 => (wrapTo (InsA_width f) (opVal f a * opVal f b / 2 ^ InsA_width f), 0)
  | 5 => exactEnd f (opVal f a * opVal f b + opVal f c)
  | 6 => (wrapTo (InsA_width f) (min (opVal f a) (opVal f b)), 0)
  | 7 => (wrapTo (InsA_width f) (max (opVal f a) (opVal f b)), 0)
  | 8 => (a * 2 ^ (b % 256) % 2 ^ InsA_width f, 0)
  | 9 => (wrapTo (InsA_width f) (opVal f a / 2 ^ (b % 256)), 0)
  | 10 => ((opBfe f a b c).1, 0)
  | 11 => ((opBfi f a b c).1, 0)
  | 12 => (((List.range (InsA_width f)).filter (fun i => a.testBit i)).length, 0)
  | 13 => ((opClz f a b c).1, 0)
  | 14 => exactEnd f |opVal f a|
  | 15 => ((opShf f a b c).1, 0)
  | 16 => ((opBrev f a b c).1, 0)
  | 17 => ((opDot4 f a b c).1, satFlag (opDot4 f a b c).2)
  | _ => ((opCvti f a b c).1, satFlag (opCvti f a b c).2)

/-- The uniform integer instructions of format A with one result (R241, R243, R245, R246): the row, the number of its
operation, the widths of A, B, C and D. -/
def uniformRows (f : InsA) : List (Instr × Nat × Nat × Nat × Nat × Nat) :=
  let w := InsA_width f
  [(.smov f, 0, w, w, w, w), (.sadd f, 1, w, w, w, w), (.ssub f, 2, w, w, w, w), (.smul f, 3, w, w, w, w),
    (.smulhi f, 4, w, w, w, w), (.smad f, 5, w, w, w, w), (.smin f, 6, w, w, w, w), (.smax f, 7, w, w, w, w),
    (.sshl f, 8, w, 32, 32, w), (.sshr f, 9, w, 32, 32, w), (.sbfe f, 10, w, 32, 32, w), (.sbfi f, 11, w, 32, w, w),
    (.spopc f, 12, w, 32, 32, 32), (.sclz f, 13, w, 32, 32, 32)]

/-- Their vector twins, and the vector instructions without one (R241, R243 to R246, R250, R251). -/
def vectorRows (f : InsA) : List (Instr × Nat × Nat × Nat × Nat × Nat) :=
  let w := InsA_width f
  [(.vmov f, 0, w, w, w, w), (.vadd f, 1, w, w, w, w), (.vsub f, 2, w, w, w, w), (.vmul f, 3, w, w, w, w),
    (.vmulhi f, 4, w, w, w, w), (.vmad f, 5, w, w, w, w), (.vmin f, 6, w, w, w, w), (.vmax f, 7, w, w, w, w),
    (.vshl f, 8, w, 32, 32, w), (.vshr f, 9, w, 32, 32, w), (.vbfe f, 10, w, 32, 32, w), (.vbfi f, 11, w, 32, w, w),
    (.vpopc f, 12, w, 32, 32, 32), (.vclz f, 13, w, 32, 32, 32), (.vabs f, 14, w, w, w, w), (.vshf f, 15, 32, 32, 32, 32),
    (.vbrev f, 16, w, w, w, w), (.vdot4 f, 17, 32, 32, 32, 32),
    (.vcvti f, 18, intWidth (fnHi f.fn), 32, 32, regWidth w)]

/-- The floating-point instructions with one vector result (R275, R276, R278, R279, R281): the row, the width of
D, the draws that it takes, and what thread `l` computes with its draw. -/
def floatRows (f : InsA) (s : State) : List (Instr × Nat × Bool × (Nat → Nat → Nat × BitVec 8)) :=
  let fmt := fnLo f.fn
  let w := fmtWidth fmt
  let m := s.rmode f false
  let z := s.wv.csr.ftz
  let a := s.fA f fmt
  let b := s.fB f fmt
  let c := s.fC f fmt
  [(.vfadd f, w, false, fun l _ => fpSumOp fmt m 0 z [] [a l, b l] [a l, b l]),
    (.vfmul f, w, false, fun l _ => fpSumOp fmt m 0 z [(a l, b l)] [] [a l, b l]),
    (.vfma f, w, false, fun l _ => fpSumOp fmt m 0 z [(a l, b l)] [c l] [a l, b l, c l]),
    (.vfmin f, w, false, fun l _ => minMax fmt false (a l) (b l) (s.fkeep f fmt f.a f.aa f.na l) (s.fkeep f fmt f.b f.ab f.nb l)),
    (.vfmax f, w, false, fun l _ => minMax fmt true (a l) (b l) (s.fkeep f fmt f.a f.aa f.na l) (s.fkeep f fmt f.b f.ab f.nb l)),
    (.vfrnd f, w, false, fun l _ => fpIntegral fmt m (a l)),
    (.vfclass f, 32, false, fun l _ => (fpClass fmt (s.fbits f fmt f.a false false l), 0)),
    (.vsqrt f, w, false, fun l _ => fpSqrt fmt m z (a l)),
    (.vfldexp f, w, false, fun l _ =>
      let r := fpFinish fmt m 0 z false (fpScale (a l) (valOf true 32 (s.src f.lit (.bits 32) f.b l)))
      (r.1, r.2 ||| ivFlag (a l).isSig)),
    (.vfma2 f, 32, false, fun l _ =>
      let half := fun h =>
        let x := s.fhalf f fmt f.a f.aa f.na l h
        let y := s.fhalf f fmt f.b f.ab f.nb l h
        let v := s.fhalf f fmt f.c false false l h
        fpSumOp fmt m 0 z [(x, y)] [v] [x, y, v]
      ((half 0).1 + 2 ^ 16 * (half 1).1, (half 0).2 ||| (half 1).2)),
    (.vfdot2 f, 32, false, fun l _ =>
      let x := s.fhalf f (fnHi f.fn) f.a f.aa f.na l
      let y := s.fhalf f (fnHi f.fn) f.b f.ab f.nb l
      fpSumOp 2 m 0 z [(x 0, y 0), (x 1, y 1)] [s.fC f 2 l] [x 0, x 1, y 0, y 1, s.fC f 2 l])]

/-- The conversions and the ternary instructions with a vector result (R280, R285, R286, R288): the row, the width of D,
whether its threads draw for stochastic rounding, and what thread `l` computes with its draw. -/
def conversionRows (f : InsA) (s : State) : List (Instr × Nat × Bool × (Nat → Nat → Nat × BitVec 8)) :=
  let lo := fnLo f.fn
  let m := s.rmode f (lo == 4 || lo == 5)
  let a := fun l => s.src f.lit (.bits 32) f.a l
  let b := fun l => s.src f.lit (.bits 32) f.b l
  let c := fun l => valOf true 32 (s.src f.lit (.bits 32) f.c l)
  [(.vcvt f, regWidth (fmtWidth lo), m == 5, fun l r =>
      let n := valOf (fnHi f.fn == 6) 32 (a l)
      let v := if 6 ≤ fnHi f.fn then .fin (decide (n < 0)) n.natAbs 0 else s.fA f (fnHi f.fn) l
      if 6 ≤ lo then cvtInt (lo == 6) m v else cvtFloat lo m r s.wv.csr.ftz f.sat v),
    (.vdqnt f, 32, false, fun l _ =>
      let e := elemValue lo (a l % 2 ^ elemWidth lo)
      let x := s.fsrc f 2 f.b false false l
      let y := fpMul (if 4 ≤ lo then elemLess e (c l) else e) x
      let r := fpFinish (fnHi f.fn) (s.rmode f false) 0 s.wv.csr.ftz false y.1
      (r.1, r.2 ||| ivFlag (y.2 || x.isSig))),
    (.vunpk f, 32, false, fun l _ =>
      let e := a l / 2 ^ (elemWidth lo * (b l % (32 / elemWidth lo))) % 2 ^ elemWidth lo
      ((fpFinish (fnHi f.fn) 0 0 false false (elemValue lo e)).1, 0)),
    (.vtdot4 f, 32, false, fun l _ =>
      let x := a l % 256
      let trit := fun i => ((x / 3 ^ i % 3 : Nat) : Int) - 1
      let el := fun i => valOf (lo == 4) 8 (b l / 2 ^ (8 * i) % 256)
      let sum := if 242 < x then c l
        else if fnHi f.fn = 0 then c l + trit 0 * el 0 + trit 1 * el 1 + trit 2 * el 2 + trit 3 * el 3
        else c l + trit 4 * el 0
      let y := if f.sat then clampInt true 32 sum else sum
      (wrapTo 32 y, (if y = sum then 0 else flSAT) ||| (if 242 < x then flILL3 else 0)))]

/-- The special functions but VSQRT (R281): the row, and the result from a source that is no NaN and a free choice. -/
def specialRows (f : InsA) : List (Instr × (FpVal → Bool → Nat → Nat × BitVec 8)) :=
  let fmt := fnLo f.fn
  [(.vrcp f, fun v z => sfRcp fmt z v), (.vrsq f, fun v z => sfRsq fmt z v), (.vexp2 f, fun v z => sfExp2 fmt z v),
    (.vlog2 f, fun v z => sfLog2 fmt z v), (.vsin f, fun v z => sfSin false fmt z v), (.vcos f, fun v z => sfSin true fmt z v),
    (.vsinpi f, fun v z => sfSinPi false fmt z v), (.vcospi f, fun v z => sfSinPi true fmt z v),
    (.vtanh f, fun v z => sfTanh fmt z v)]

/-- The exact results that R282 and R283 list for arguments without a sum or a series: what is computed, and the result. -/
def exactRows (fmt : Nat) (z n : Bool) (e : Int) (ch : Nat) : List ((Nat × BitVec 8) × (Nat × BitVec 8)) :=
  let zero := FpVal.fin n 0 e
  let nan := (defaultNan fmt, flIV)
  let signed := (n.toNat * signBit fmt, 0)
  [(sfRcp fmt z zero ch, (infBits fmt n, flDZ)), (sfRcp fmt z (.inf n) ch, signed), (sfRsq fmt z zero ch, (infBits fmt n, flDZ)),
    (sfRsq fmt z (.inf false) ch, (0, 0)), (sfRsq fmt z (.inf true) ch, nan), (sfExp2 fmt z (.inf true) ch, (0, 0)),
    (sfExp2 fmt z (.inf false) ch, (infBits fmt false, 0)), (sfLog2 fmt z zero ch, (infBits fmt true, flDZ)),
    (sfLog2 fmt z (.inf false) ch, (infBits fmt false, 0)), (sfLog2 fmt z (.inf true) ch, nan), (sfSin false fmt z zero ch, signed),
    (sfSin true fmt z zero ch, (oneIn fmt false, 0)), (sfSin false fmt z (.inf n) ch, nan), (sfSin true fmt z (.inf n) ch, nan),
    (sfSinPi false fmt z zero ch, signed), (sfSinPi true fmt z zero ch, (oneIn fmt false, 0)),
    (sfSinPi false fmt z (.inf n) ch, nan), (sfSinPi true fmt z (.inf n) ch, nan), (sfTanh fmt z zero ch, signed),
    (sfTanh fmt z (.inf n) ch, (oneIn fmt n, 0))]

/-- A code of a format is that of a value within `b` units in the last place of an enclosed one, with its sign turned where the
value lies on the other side of zero (R281). -/
def Enclosure.near (x : Enclosure) (fmt b code : Nat) : Prop :=
  let mb := (fpShape fmt).2.1
  let bias := (fpShape fmt).2.2
  ∃ j : Int, code = (xor x.neg (decide (j < 0))).toNat * signBit fmt + j.natAbs ∧ j.natAbs < infBits fmt false ∧
    withinBound fmt b x (max ((Nat.log2 x.lo : Int) + x.exp - mb) (1 - (bias : Int) - mb)) j = true

/-- What VQNT delivers in thread `l` with a draw, from the product of A and the scale (R284). -/
def State.quantised (s : State) (f : InsA) (l r : Nat) : Quantised :=
  let narrow := fnLo f.fn
  let a := s.fA f (fnHi f.fn) l
  let b := s.fsrc f 2 f.b false false l
  let y := fpMul a b
  let iv := y.2 || a.isSig || b.isSig
  let q := quantise narrow (s.quantMode f) r f.sat y.1 iv (if 4 ≤ narrow then valOf true 32 (s.src f.lit (.bits 32) f.c l) else 0)
  { q with fl := q.fl ||| ivFlag iv }

/-- The wave with flags raised, the generators moved, and the counts of R270 raised by the elements of the active threads that
saturate or underflow. -/
def Wave.afterQuant (w : Wave) (g : Guard) (gens : List Word) (q : Nat → Quantised) : Wave :=
  let n := fun (p : Quantised → Bool) => BitVec.ofNat 32 (((List.range 64).filter (fun t => w.active g t && p (q (w.lane t)))).length)
  { w with
    gens := gens
    csr := { w.csr with
      flags := w.csr.flags ||| flagsOver (w.activeLane g) (fun l => (q l).fl)
      qsat := w.csr.qsat + n (fun q => q.fl &&& flSAT != 0)
      qunder := w.csr.qunder + n Quantised.under } }

/-- The instructions that take the uniform guard and do nothing else where it fails (R11). -/
def guardedRows (a : InsA) (b : InsB) (t : InsT) : List (Instr × Guard × Nat) :=
  ([.smov a, .sadd a, .ssub a, .smul a, .smulhi a, .smad a, .smin a, .smax a, .sshl a, .sshr a, .sbfe a, .sbfi a, .spopc a,
      .sclz a, .scmp a, .ssel a] : List Instr).map (fun i => (i, a.g, lenA a)) ++
    ([.nop b, .bra b, .brq b, .brv b, .brx b, .call b, .callx b, .ret b, .jenrol b, .jpark b, .jstrike b, .exit b, .sleep b,
      .yield b, .etrig b, .trap b, .eret b, .bkpt b] : List Instr).map (fun i => (i, b.g, lenB b)) ++
    ([.waitc t, .enq t, .bond t, .unbond t, .csrr t, .csrw t, .slop3 t, .qlop t, .tcopy t, .tcopym t, .tshape t, .tsfence t,
      .twany t, .twall t, .tfirst t, .tclr t, .aclaim t, .afree t, .walloc t, .wload t, .wpin t, .wunpin t, .wrevoke t,
      .wquery t, .mloop t, .mzero t, .mepi t, .mcorr t, .phnew t, .phfree t, .phreg t, .phdrop t, .phsig t, .phwait t,
      .phsw t, .phexp t, .bar t, .rwait t, .qpush t, .qpop t, .qmark t, .qstat t, .spillf t, .fillf t] : List Instr).map
      (fun i => (i, t.g, lenT t))

/-! ## The ALU -/

/-! ## Rows and relations of chapter 14 -/

/-- After a control instruction: the control state given, the two cycles of a path switch counted where there is one (R367),
no stall, and nothing else changed. -/
def State.ranCtl (s t : State) (c : Control) (switch : Bool) : Prop :=
  t = s.withWv { s.wv with
    ctl := c
    sched := if switch then { s.wv.sched with notBefore := s.now + 3 } else s.wv.sched
    answers := []
    waits := { s.wv.waits with stall := none, rejects := 0 } }

/-- The same with rejoin mask `n` written: the others read as they did. -/
def State.ranJoin (s t : State) (n : Nat) (j : Join) (c : Control) (switch : Bool) : Prop :=
  ∃ js, s.ranCtl t { c with joins := js } switch ∧
    ∀ m, Map.getD js m ⟨0, 0, 0⟩ = if m = n then j else s.wv.join m

/-- Whether thread `t` of the running path votes with lane predicate `k` (R370). -/
def Wave.votesFor (w : Wave) (k t : Nat) : Prop :=
  t < w.threads ∧ w.ctl.exec.getLsbD t = true ∧ w.getP k (w.lane t) = true

/-- Whether BRQ branches: any thread of EXEC votes, every one, or none (R370). -/
def Wave.brqTaken (w : Wave) (fn k : Nat) : Prop :=
  if fn = 0 then ∃ t, w.votesFor k t
  else if fn = 1 then ∀ t, w.ctl.exec.getLsbD t = true → w.votesFor k t
  else ∀ t, ¬ w.votesFor k t

/-- The rejoins that the end of the running lanes completes, in ascending order (R375). -/
def Wave.rejoined (w : Wave) : List PathEntry :=
  (w.ctl.joins.filter (fun e => (e.2.arrived &&& ~~~w.ctl.exec) != 0 &&
    (e.2.arrived &&& ~~~w.ctl.exec) == (e.2.mask &&& ~~~w.ctl.exec))).map
      (fun e => ⟨e.2.pc, e.2.mask &&& ~~~w.ctl.exec⟩)

/-- The fields that taking a trap writes into a wave, `f` running and the rest of EXEC pending at `next` (R407). -/
def Wave.trapped (w : Wave) (now cause info : Nat) (f : Mask) (next tpc : VAddr) : Wave :=
  { w with
    csr := { w.csr with cause := BitVec.ofNat 8 cause, tinfo := BitVec.ofNat 22 info, tmask := f, tpc := tpc }
    ctl := { w.ctl with
      exec := f
      pc := w.ident.codeBase + BitVec.ofNat 57 (4 * w.csr.tvOff.toNat)
      path := if w.ctl.exec &&& ~~~f = 0 then w.ctl.path else ⟨next, w.ctl.exec &&& ~~~f⟩ :: w.ctl.path }
    sched := { w.sched with notBefore := now + 6 }
    waits := { w.waits with stall := none, handler := true, ending := false, barrier := false, bond := false, polls := 0, rejects := 0 }
    answers := [] }

/-! ## Control -/

/-! ## Traps -/

/-! ## Control and status registers -/

/-- The word of R231 that a read of CSR `i` returns after a write of `v` to it, where the read returned `old` before: the
fields that software may not write keep their value. -/
def csrAfter (i old v : Nat) : Nat :=
  if i = 0x000 then old / 64 * 64 + v % 64 / 8 * 8 + (if v % 8 < 5 then v % 8 else old % 8)
  else if i = 0x001 then v % 256
  else if i = 0x010 then v / 4 * 4
  else if i = 0x021 then v / 128 * 128
  else if i = 0x013 ∨ i = 0x022 then v % 2 ^ 25
  else if i = 0x002 ∨ i = 0x012 ∨ i = 0x014 ∨ i = 0x015 then v
  else old

/-! ## The register window -/

/-! ## Memory instructions -/

/-- An access of package or system memory: the instruction, its access kind (R84), the threads that access, their pieces,
whether the host window admits the operation (R183), whether it releases at system scope (R155), the bits of data that
R434 compares, and the operation that is put in flight with its class (R64). -/
structure AccessRow where
  i : Instr
  kind : Nat
  ts : List Nat
  pieces : Nat → Except (Nat × Nat) (List Piece)
  host : Bool
  sys : List (Nat × Checked) → Bool
  data : Option Nat
  op : OpKind
  cls : Cls

/-- The six of them (R179, R180, R182, R183). -/
def accessRows (f : InsM) (s : State) : List AccessRow :=
  let n := sizeBytes f.fn
  let ts := threadsOf (s.wv.activeMask f.g)
  let op := fnHi f.fn
  let wide := fun _ => decide (2 ≤ fnHi f.fn)
  [⟨.ld f, 0, ts, s.splitPieces f n, true, wide, none, .load, .ld⟩,
    ⟨.st f, 1, ts, s.splitPieces f n, true, wide, some (8 * n), .store, .st⟩,
    ⟨.ldu f, 0, [0], s.splitPieces f n, true, wide, none, .load, .ld⟩,
    ⟨.stu f, 1, [0], s.splitPieces f n, true, wide, none, .store, .st⟩,
    ⟨.atom f, 2, ts, s.wholePiece f n, op == 0 || op == 6 || op == 7, anySystemChecked,
      some (8 * if op = 7 then 2 * n else n), .atom, .ld⟩,
    ⟨.red f, 2, ts, s.wholePiece f n, op == 0, anySystemChecked, some (8 * n), .red, .st⟩]

/-- No address or data register differs from its shadow where R434 compares them. -/
def State.shadowsAgree (s : State) (f : InsM) (addr data : Nat) : Prop :=
  s.wv.csr.prot = true → ∀ t, t < 32 → (s.wv.activeMask f.g).getLsbD t = true →
    s.src none (.bits addr) f.addr (2 * t) = s.src none (.bits addr) f.addr (2 * t + 1) ∧
      s.src none (.bits data) f.data (2 * t) = s.src none (.bits data) f.data (2 * t + 1)

/-- The wave after one more operation in flight: counted, its registers scoreboarded, its fetch answers used, PC past the
instruction; pts may have risen. -/
def Wave.inFlight (w v : Wave) (n : Nat) (k : Cls) : Prop :=
  v = { w with
    pts := v.pts
    sb := v.sb
    cnt := w.cnt.bump k (· + 1)
    answers := []
    ctl := { w.ctl with pc := w.ctl.pc + BitVec.ofNat 57 n }
    waits := { w.waits with stall := none, rejects := 0 } } ∧
    w.pts ≤ v.pts ∧ ∃ regs, v.sb = w.sb ++ regs

/-- At an instruction's check each thread is found to commit or to fault, none waits for a walk, and some commit (R405). -/
def someCommit (rs : List (Nat × Checked)) : Prop := (∀ e ∈ rs, e.2 ≠ .wait) ∧ ∃ t ps, (t, Checked.ok ps) ∈ rs

/-- Thread `t` is the lowest of those that fault, with cause `c` and TRAPINFO `i` (R406). -/
def lowestFault (rs : List (Nat × Checked)) (t c i : Nat) : Prop :=
  (t, Checked.fault c i) ∈ rs ∧ ∀ u d j, (u, Checked.fault d j) ∈ rs → t ≤ u

/-- The mask of the threads that fault. -/
def faultMask (rs : List (Nat × Checked)) (m : Mask) : Prop :=
  ∀ t, t < 64 → (m.getLsbD t = true ↔ ∃ c i, (t, Checked.fault c i) ∈ rs)

/-- An access of a memory of the wave's core: the instruction, the check of a thread, what holds it at issue, the bits of data
that R434 compares, the threads that go in flight where they commit, and whether messages may leave with it. -/
structure CoreRow where
  i : Instr
  check : Nat → Checked
  held : Bool
  data : Option Nat
  flies : Nat → Bool
  sends : Bool

/-- The five of them (R181, R184, R185, R188). -/
def coreRows (f : InsM) (s : State) : List CoreRow :=
  let n := sizeBytes f.fn
  let size := s.spadRange.2
  let sp := fnHi f.fn
  let rel := f.so.getLsbD 1
  let spad := fun t => spadCheck size (spadPieces t (s.effAddr f 32 17 t) n)
  let buf := fun t => s.bufCheck sp n (s.effAddr f 32 (bufWidth sp) t) t
  [⟨.lds f, spad, s.coreScopeHeld false, none, fun _ => true, false⟩,
    ⟨.sts f, spad, s.coreScopeHeld rel, some (8 * n), fun _ => true, false⟩,
    ⟨.ldb f, buf, s.acquireSysPending, none, fun _ => true, false⟩,
    ⟨.stb f, buf, s.acquireSysPending, some (8 * n), fun _ => true, false⟩,
    ⟨.atoms f, fun t => atomsCheck size n (s.atomsTarget f t) t, s.coreScopeHeld rel, some (if sp = 7 then 16 * n else 8 * n),
      fun t => decide (s.atomsTarget f t < 2 ^ 31) ||
        (s.domOf s.wv.ctx.dom).clusters.contains (clusterOf (atomsCore (s.atomsTarget f t))), true⟩]

/-- An access of threads `act` to a memory of the core as it comes to the port: `n` bytes of thread `t` at `a t`, with the bytes
`data t` where it stores or combines; 16 physical threads to a beat, each with its cycles at its first access, and the threads in
ascending order (R162, R164, R188). -/
def MemOp.atPort (o : MemOp) (s : State) (f : InsM) (kind : OpKind) (space fn n : Nat) (act : Mask) (a : Nat → Nat)
    (data : Nat → List Byte) : Prop :=
  o.kind = kind ∧ o.cls = some (if kind = .coreStore then .st else .ld) ∧ o.slot = s.cur.slot ∧ o.size = n ∧ o.threads = act ∧
    o.frame = s.wv.win.cur ∧ o.dst = (if kind = .coreStore then none else some f.d.toNat) ∧ o.uni = false ∧
    o.sign = (kind == .coreLoad && space == 3 && fnHi f.fn == 1) ∧ o.so = f.so.toNat ∧ o.space = space ∧ o.atomFn = fn ∧
    (∀ r ∈ o.reqs, r.st = .unsent ∧ ∀ p ∈ r.pieces, act.getLsbD p.thread = true ∧ r.key = s.wv.lane p.thread / 16) ∧
    (∀ t i, act.getLsbD t = true → i < n → ∃ r ∈ o.reqs, ∃ p ∈ r.pieces, p.thread = t ∧ p.off ≤ i ∧ i < p.off + p.len ∧
      r.pa + (i - p.off) = a t + i ∧ (kind = .coreStore → r.data.getD (i - p.off) 0 = (data t).getD i 0) ∧
      (kind = .coreAtom → r.data = data t)) ∧
    (∀ b, ((o.reqs.filter (fun r => r.key == b)).map (fun r => r.rts)).sum = beatCost kind space (o.reqs.filter (fun r => r.key == b))) ∧
    o.reqs.Pairwise (fun r v => ∀ p ∈ r.pieces, ∀ q ∈ v.pieces, p.thread ≤ q.thread)

/-- An access to a memory of the core is in flight, and nothing else has changed: `w` is counted, the registers `regs` are
scoreboarded, and PC stands past the instruction (R64, R65, R177). -/
def State.entered (s t : State) (f : InsM) (w : Wave) (o : MemOp) (regs : List SbReg) : Prop :=
  (s.nextOp ≤ o.id ∧ ∀ v ∈ s.myCore.ops, v.id < o.id) ∧
    t = (({ s.setMyCore { s.myCore with ops := s.myCore.ops ++ [o] } with nextOp := o.id + 1 } : State).withWv { w with
      cnt := match o.cls with
        | some c => w.cnt.bump c (· + 1)
        | none => w.cnt
      sb := w.sb ++ regs.map (fun r => (r, o.id)) }).advance (lenM f)

/-- The wave as a release of core scope leaves it (R145). -/
def Wave.releasedBy (w : Wave) (f : InsM) : Wave := if f.so.getLsbD 1 then { w with pts := max w.pts w.copyTs } else w

/-- A turn of the memory pipe has served some requests of the operation `o` at place `i` of core `k`, with the data `val`, which
are there when the port's cycles are over; of the state only cores have changed (R162, R163). -/
def State.served (s t : State) (k i : Nat) (o : MemOp) (val : Request → List Byte) : Prop :=
  let ends := max s.now ((s.core k).portEnds.getD o.portNo 0) + (o.unit.map (fun j => ((o.reqs[j]?).map (fun r => r.rts)).getD 0)).sum
  t = { s with cores := t.cores } ∧ (∀ j, j ≠ k → t.core j = s.core j) ∧
    (o.portNo < (s.core k).portEnds.length → (t.core k).portEnds.getD o.portNo 0 = ends) ∧
    ∃ v, (t.core k).ops[i]? = some v ∧ v = { o with reqs := v.reqs } ∧
      ∀ j r, o.reqs[j]? = some r → v.reqs[j]? = some (if j ∈ o.unit then
        { r with st := .done, val := val r, poison := false, wts := ends } else r)

/-- The operation at place `i` of core `k` may take its port, and it is the only one of its number there; nothing that it reads
is poisoned. -/
def State.mayServe (s : State) (k i : Nat) (o : MemOp) (kind : OpKind) : Prop :=
  (s.core k).ops[i]? = some o ∧ (s.core k).beatReady o = true ∧ o.kind = kind ∧
    (∀ j v, (s.core k).ops[j]? = some v → v.id = o.id → j = i) ∧
    ∀ j ∈ o.unit, ∀ r, o.reqs[j]? = some r → (s.core k).meetsPoison o r = false

/-- What a load or an atomic writes for thread `t`: each word 0xDEAD_0BAD where an answer came back as poison, else the bytes of
its answers, zero- or sign-extended (R92, R179, R183). -/
def MemOp.gives (o : MemOp) (t v : Nat) : Prop :=
  ((∃ r ∈ o.reqs, r.poison = true ∧ ∃ p ∈ r.pieces, p.thread = t) → ∀ j, j < regCount (8 * o.size) → wordAt v j = 0xDEAD0BAD) ∧
  (¬ (∃ r ∈ o.reqs, r.poison = true ∧ ∃ p ∈ r.pieces, p.thread = t) → ∀ bs : List Byte, bs.length = o.size →
    (∀ i, i < o.size → ∃ r ∈ o.reqs, ∃ p ∈ r.pieces, p.thread = t ∧ p.off ≤ i ∧ i < p.off + p.len) →
    (∀ r ∈ o.reqs, ∀ p ∈ r.pieces, p.thread = t → ∀ i, p.off ≤ i → i < p.off + p.len →
      r.val.getD (p.pa - r.pa + (i - p.off)) 0 = bs.getD i 0) →
    v = wrapTo (regWidth (8 * o.size)) (valOf o.sign (8 * o.size) (leNat bs)))

/-- An operation has completed: it is gone from its core, its counter is down and its scoreboard entries clear (R64, R65, R177);
nothing changes but its core and its wave. -/
def State.opEnded (s t : State) (k : Nat) (o : MemOp) : Prop :=
  let id : WaveId := ⟨k, o.slot⟩
  (t.core k).ops = (s.core k).ops.filter (fun v => v.id != o.id) ∧
    (t.wave id).cnt = (match o.cls with
      | some c => (s.wave id).cnt.bump c (· - 1)
      | none => (s.wave id).cnt) ∧
    (t.wave id).sb = (s.wave id).sb.filter (fun e => e.2 != o.id) ∧ (t.wave id).ctl = (s.wave id).ctl ∧
    (t.wave id).p = (s.wave id).p ∧ (t.wave id).q = (s.wave id).q ∧ (t.wave id).csr = (s.wave id).csr ∧
    (∀ j, j ≠ k → t.core j = s.core j) ∧ (∀ x, x ≠ id → t.wave x = s.wave x) ∧
    (∀ sp, (t.core k).buf sp = (s.core k).buf sp) ∧
    t = { s with cores := t.cores, waves := t.waves, wv := t.wv }

/-- The v registers after a load or an atomic: from the destination on, in the frames of its issue, the threads of the operation
hold what it gives; every other word of a resident frame stands, and so do the s registers (R219, R177). -/
def Wave.gotVector (w v : Wave) (o : MemOp) : Prop :=
  v.s = w.s ∧ v.win.place = w.win.place ∧ ∃ val : Nat → Nat, (∀ t, o.threads.getLsbD t = true → o.gives t (val t)) ∧
    ∀ g r l, (Map.get? w.win.place g).isSome = true → r < 16 → l < 64 →
      let x := 16 * g + r
      let d := 16 * o.frame + o.dst.getD 0
      (v.win.frame (w.win.phys g)).word r l =
        if d ≤ x ∧ x < d + regCount (8 * o.size) ∧ o.threads.getLsbD (w.visible l) = true then wordAt (val (w.visible l)) (x - d)
        else (w.win.frame (w.win.phys g)).word r l

/-- The s registers after a uniform load. -/
def Wave.gotUniform (w v : Wave) (o : MemOp) : Prop :=
  v.win = w.win ∧ ∃ val, o.gives 0 val ∧ ∀ n,
    let d := o.dst.getD 0x20 - 0x20
    v.getS n = if d ≤ n ∧ n < d + regCount (8 * o.size) then wordAt val (n - d) else w.getS n

/-- No two resident frames share a physical one. -/
def Window.apart (w : Window) : Prop := ∀ g h i, Map.get? w.place g = some i → Map.get? w.place h = some i → g = h

/-! ## Tensor copies -/

/-- One core changed into `c`, every other as it was. -/
def State.coreBecomes (s t : State) (k : Nat) (c : Core) : Prop := t.core k = c ∧ ∀ j, j ≠ k → t.core j = s.core j

/-- The command of a tensor-copy instruction as the copy queue takes it (R189, R210). -/
def CopyEntry.ofCommand (e : CopyEntry) (s : State) (op : OpT) (f : InsT) : Prop :=
  e.id = s.nextOp ∧ e.op = op ∧ e.a = s.srcU none 64 f.a % 2 ^ 57 ∧ e.b = s.srcU none 32 f.b ∧ e.c = s.srcU none 32 f.c ∧
    e.fn = f.fn.toNat ∧ e.w1 = w1Of f ∧ e.dst = f.d.toNat ∧ e.slot = s.cur.slot ∧ e.grid = s.wv.ident.grid ∧
    e.block = s.wv.ident.block ∧ e.ctx = s.wv.ctx ∧ e.bound = none ∧ e.moved = 0 ∧ e.err = none ∧ e.stop = false ∧
    e.before = s.nextOp ∧ e.reading = false ∧ e.chunks = [] ∧ e.flying = [] ∧ e.source = [] ∧ e.arrived = []

/-- No access of the memory pipe waits at a port of a core's memories, so that another user takes its turn at once (R163, R188). -/
def State.portsIdle (s : State) (k : Nat) : Prop := ∀ o ∈ (s.core k).ops, (s.core k).beatReady o = false

/-- The byte of the core side that a running copy keeps or reads for a dense place (R149): of a chunk already read the byte
read then, of another the byte that stands there now. -/
def State.sideByte (s : State) (k : Nat) (e : CopyEntry) (place : Nat) : Byte :=
  match Map.get? e.source (e.placed place / 64) with
  | some l => l.getD (e.placed place % 64) 0
  | none => (if e.dir = 1 then (s.core k).spad else (s.core k).cbuf).get (e.placed place + if e.dir = 1 then e.sbOn s k else 0)

/-! ## Synchronisation -/

/-- The handle of an instruction names a live phaser of the wave's grid in the place where the wave runs, which the wave may
touch now: of a fallback record, once its accesses of core scope have completed (R331, R342, R146, R155, R170). -/
def State.namesPhaser (s : State) (f : InsT) : Prop :=
  let h := s.handleA f
  phRemote s.cur.core (phRef h) = false ∧ (h.getLsbD 31 = true → s.acquirePending = false ∧ s.coreScopeDone = true) ∧
    s.recordPoisoned (phRef h) = false ∧ s.phDead (phRef h) (some s.wv.ident.grid) = false

/-- A phaser's flip (R333): with signallers, when all have arrived and the bytes have come; without, when bytes were expected
and have come. -/
def Phaser.full (p : Phaser) : Prop :=
  (0 < p.nsig ∧ p.nsig ≤ p.narr ∧ p.exp ≤ p.bytes) ∨ (p.nsig = 0 ∧ 0 < p.exp ∧ p.exp ≤ p.bytes)

/-- The state with the phaser and the wave's registrations rewritten, past the instruction. -/
def State.rephased (s : State) (f : InsT) (p : Phaser) (slots : Map Registration) : State :=
  ((s.setPhaser (phRef (s.handleA f)) p).withWv { s.wv with slots := slots }).advance (lenT f)

/-- The grid of the wave holds stream queue `n` (R353, R354). -/
def State.holdsQueue (s : State) (n : Nat) : Prop :=
  ∃ g, Map.get? s.fe.grids s.wv.ident.grid = some g ∧ g.sqmask.getLsbD n = true

/-! ## Bonds, residencies and tiles -/

/-- The handle names a residency of the wave's domain and key slot (R299). -/
def State.namesResidency (s : State) (h : Nat) : Prop :=
  h < 2 ^ 16 ∧ ((s.cluster (s.tableOf s.cur)).residency (h % 256)).deadFor h s.wv.ctx = false

/-- The wave holds its gang's lease at the origin block (R297, R311). -/
def State.leases (s : State) (b : Block) (g : Gang) : Prop :=
  s.myBlock? = some b ∧ s.gangOf b = some g ∧ g.lease = true ∧ b.rho = 0 ∧ b.gamma = 0

/-- The queues of some cores with one more operation. -/
def State.queuedTile (s t : State) (cores : List Nat) (e : SeqEntry) : Prop :=
  ∀ k, t.core k = if k ∈ cores then { s.core k with tiles := (s.core k).tiles ++ [e] } else s.core k

/-- The wave after a tile operation has been issued: counted in its class (R64), PC past the instruction. -/
def Wave.issuedTile (w : Wave) (n : Nat) : Wave :=
  { w with
    cnt := w.cnt.bump .tl (· + 1)
    tlIssued := w.tlIssued + 1
    ctl := { w.ctl with pc := w.ctl.pc + BitVec.ofNat 57 n }
    answers := []
    waits := { w.waits with stall := none, rejects := 0 } }

/-- The tile operation has left the queue of its core, its class is counted down, and memory stands (R328, R64). -/
def State.tileEnded (s t : State) (k : Nat) (e : SeqEntry) : Prop :=
  (t.core k).tiles = (s.core k).tiles.filter (fun x => x.id != e.id) ∧
    (t.wave ⟨k, e.slot⟩).cnt = (s.wave ⟨k, e.slot⟩).cnt.bump .tl (· - 1) ∧ t.ms = s.ms ∧ t.clusters = s.clusters

/-! ## The network and the slices -/

/-- A packet stands at place `i` of a slice's input, and nothing there makes it wait (R107, R116, R87). -/
def State.ready (s : State) (slice i : Nat) (p : Packet) : Prop :=
  let x := s.slice slice
  x.inbox[i]? = some p ∧ p.slice = slice ∧ p.trim = false ∧ x.inputBlocked i p = false ∧ x.waiting = [] ∧
    x.migrating = []

/-- The home of a packet's line holds it, under a key slot that its domain may use, unpoisoned and without a mixed-size flag
(R89, R90, R135, R144, R464); a watched line finds a place for its WINV (R96). A packet of the host interface names the slot under
which its line was written (assumption 49). -/
def State.hits (s : State) (p : Packet) (w : Way) : Prop :=
  s.keyed p = p ∧ ∃ d, s.dom? p.dom = some d ∧ d.plan.num = p.dom ∧ d.home p.addr = p.slice ∧ s.keyUsable p.key p.dom = true ∧
    (s.slice p.slice).way? (d.set p.addr) (p.addr / 128) = some w ∧ w.key = p.key ∧
    (s.slice p.slice).flagged p.addr p.len s.netNow = false ∧ s.rangePoisoned d p.addr p.len = false ∧
    (w.watch = true → (s.slice p.slice).winvs.length < 64)

/-- Package memory under a packet's key slot after its write: the bytes of the range hold `bs`, every other byte of every
line what it did, and no line but the packet's changed in memory. -/
def State.wroteLine (s t : State) (p : Packet) (bs : List Byte) : Prop :=
  (∀ a, t.byteUnder p.key a = if p.addr ≤ a ∧ a < p.addr + bs.length then bs.getD (a - p.addr) 0 else s.byteUnder p.key a) ∧
    (∀ a, a / 128 ≠ p.addr / 128 → Memory.get t.ms.mem a = Memory.get s.ms.mem a)

/-- One reply leaves for the packet's port (R105, R109). -/
def State.replied (s t : State) (p : Packet) (ty : PType) (opx ts ld : Nat) (data : List Byte) : Prop :=
  ∃ (r : Packet) (path : List Nat), t.net.wires = s.net.wires ++ [⟨r, 0, path, [p.port]⟩] ∧ r.ty = ty ∧ r.port = p.port ∧
    r.slice = p.slice ∧ r.seq = p.seq ∧ r.mark = p.mark ∧ r.trim = false ∧ r.opx = opx ∧ r.ts = ts ∧ r.ld = ld ∧ r.data = data

/-- The message is the only one that its slice holds, and nothing else waits there. -/
def State.holdsOne (s : State) (slice : Nat) (m : HeldMsg) : Prop :=
  (s.slice slice).msgs = [m] ∧ (s.slice slice).waiting = [] ∧ (s.slice slice).migrating = [] ∧ m.pkt.slice = slice

/-! ## Ports, walks and interfaces -/

/-- A reply stands at place `i` of a port's input, it answers the outstanding request `o`, and no request waits for a place
in the window (R105, R106). -/
def State.repliesTo (s : State) (port i : Nat) (p : Packet) (o : Outstanding) : Prop :=
  port ≠ 513 ∧ (s.port port).inbox[i]? = some p ∧ (s.port port).find p.slice p.seq = some o ∧ (s.port port).waiting = []

/-- The window after a final reply (R108). -/
def Port.windowAfter (x : Port) (o : Outstanding) (mark : Bool) : Nat :=
  if mark then (if o.stamp < x.halved then x.window else max 4 (x.window / 2))
  else if x.window ≤ x.unmarked + 1 then min 64 (x.window + 1) else x.window

/-- The port after a final reply: the request has left the window and the retransmit buffer (R105, R111). -/
def State.finalAt (s t : State) (port i : Nat) (o : Outstanding) (mark : Bool) : Prop :=
  (t.port port).inbox = dropAt (s.port port).inbox i ∧
    (t.port port).outstanding = (s.port port).outstanding.filter (fun v => !(v.slice == o.slice && v.seq == o.seq)) ∧
    (t.port port).window = (s.port port).windowAfter o mark

/-! ## Issue, waves and blocks -/

/-- The wave has been passed over so often that it goes before the others (R364). -/
def State.isLate (s : State) (id : WaveId) : Prop := 32 ≤ (s.wave id).sched.passed

/-- A wave of a core's active set whose next instruction is ready (R363, R364). -/
def State.issuable (s : State) (core : Nat) (id : WaveId) : Prop :=
  id.core = core ∧ id.slot < 8 ∧ (s.wave id).sched.live = true ∧ (s.wave id).sched.inSet = true ∧ s.stallOf id false = none ∧ s.stopped (s.wave id) = false

/-! ## Queues and packets -/

/-- Nothing but the record of one queue has changed in the front end, and it is `q` after one more change at its owner
(R384). -/
def State.recordNow (s t : State) (n : Nat) (q : QueueRec) : Prop :=
  t = { s with fe := { s.fe with queues := t.fe.queues } } ∧ t.queue n = { q with ver := q.ver + 1, inval := true } ∧
    ∀ j, j ≠ n → t.queue j = s.queue j

/-- A queue's record after a change that a lane makes: a packet retired, the sequence number that a launch takes, its completion
and trigger, the fields of SETQ, HALT taken away by RESUME (R381, R383, R388, R390, R392, R398). -/
def QueueRec.changed (q : QueueRec) (c : QueueChange) : QueueRec :=
  let ended := (c.ended.map (fun ts => ((q.nextseq + 1).toNat, ts))).toList
  let q1 := match c.fields with
    | some v => { q with
        base := bitsOf 0 57 v, logn := bitsOf 64 4 v, enable := v.testBit 68, prio := bitsOf 70 3 v, priv := v.testBit 73
        dom := bitsOf 80 4 v, asr := bitsOf 84 12 v }
    | none => q
  { q1 with
    head := if c.pop then q.head + 1 else q.head
    nextseq := if c.seq then q.nextseq + 1 else q.nextseq
    fins := q.fins ++ ended
    trigs := q.trigs ++ ended
    halt := q.halt && !(c.resume && q.pend.isEmpty) }

/-- A change of a queue's record by lane `i`: made where the lane is of the owner's die, with VER raised; or sent there, and the
lane's own replica is current no longer (R384). -/
def State.tookRecord (s t : State) (i : Nat) (c : QueueChange) : Prop :=
  (∀ j, j ≠ c.queue → t.queue j = s.queue j) ∧
    if i / 32 % 2 = c.queue % 2 then
      t.queue c.queue = { (s.queue c.queue).changed c with ver := (s.queue c.queue).ver + 1, inval := true } ∧
        t.fe.changes = s.fe.changes
    else t.queue c.queue = s.queue c.queue ∧ t.fe.changes = s.fe.changes ++ [c]

/-- The change of a packet that retires without more. -/
def plainChange (n : Nat) : QueueChange := { QueueChange.blank n with pop := true }

/-- The packet at the head of a queue has retired with a change, and the waves stand. -/
def State.tookPacket (s t : State) (i : Nat) (c : QueueChange) : Prop :=
  s.tookRecord t i c ∧ t.waves = s.waves ∧ t.wv = s.wv

/-- The packet at the head of a queue has retired, whatever else its change brings. -/
def State.popped (s t : State) (n i : Nat) : Prop :=
  (∀ j, j ≠ n → t.queue j = s.queue j) ∧
    if i / 32 % 2 = n % 2 then (t.queue n).head = (s.queue n).head + 1
    else t.queue n = s.queue n ∧ ∃ c, t.fe.changes = s.fe.changes ++ [c] ∧ c.queue = n ∧ c.pop = true

/-- No record of a queue has changed, and none is on its way to an owner that was not before. -/
def State.recordsStand (s t : State) : Prop := (∀ j, t.queue j = s.queue j) ∧ t.fe.changes = s.fe.changes

/-- The owner can post an error of a queue at once: its domain's ring has room (R401, R402). -/
def State.canPost (s : State) (n : Nat) : Prop := 0 < (s.ring (s.queue n).dom).room

/-- Memory after a packet that retires with an error: a lane of the owner's die posts QERROR there, for another the owner does
so later (R384, R401). -/
def State.erredMem (s : State) (n i code : Nat) : MemSys :=
  if i / 32 % 2 = n % 2 then (s.putEvent (s.queue n).dom (eventRecord s.netNow code n 2)).ms else s.ms

/-- A row is the packet that executes next in this Cicada step; its queue is held by lane `i` (R382), which may change its
record (R384). -/
def State.nextPacket (s : State) (n i : Nat) (b : List Byte) (row : Instr) : Prop :=
  (∃ rest, s.fe.todo = (n, b) :: rest) ∧ packetRow (rowLayout row) n b = row ∧ s.holder n = some i ∧
    s.mayChange (i / 32) n = true

/-- The state as such a packet finds it. -/
def State.packetTaken (s : State) : State := s.withFe { s.fe with todo := s.fe.todo.drop 1 }

/-- A doorbell's value lies between the old tail and the queue's size, from the head on (R385). -/
def QueueRec.takesTail (q : QueueRec) (tail : BitVec 32) : Prop :=
  (tail - q.head).toNat ≤ 2 ^ q.logn ∧ (q.tail - q.head).toNat ≤ (tail - q.head).toNat

/-- The grid that a launch hands to the dispatchers, as its packet, its header and its queue give it (R389, R390). -/
def Grid.launched (g : Grid) (h : Header) (ctx : Context) (n seq count ts : Nat) (b : List Byte) : Prop :=
  g.hdr = h ∧ g.ctx = ctx ∧ g.queue = n ∧ g.seq = seq ∧ g.count = count ∧ g.placed = 0 ∧ g.retired = 0 ∧ g.startTs = ts ∧
    g.codeBase = (pktField b 24 8 % 2 ^ 57 + 64) % 2 ^ 57 ∧ g.seedVal.toNat = pktField b 40 4 % 2 ^ 32 ∧
    g.args = pktField b 48 8 % 2 ^ 57 ∧ g.spill = pktField b 56 8 % 2 ^ 57

/-! ## The host and the links -/

/-- The host interface has no access under way (R156). -/
def State.hostIdle (s : State) : Prop := s.host.queue = [] ∧ s.host.sent = false ∧ s.host.data = [] ∧ s.host.error = false

/-- A command of the mailbox is running, and the operator's domain is `d` where it needs one (R439). -/
def State.runs (s : State) (cmd d : Nat) : Prop := s.box.cmd = cmd ∧ s.box.status = 0 ∧ s.box.operator = some d

/-- The command is done with results `r` from the start of the buffer and zero behind them (R466). -/
def State.answered (t : State) (r : List Byte) : Prop :=
  t.box.status = 1 ∧ ∀ x, Memory.get t.box.buf x = r.getD x 0

/-! ## Management packets -/

/-- What a read by a service port finds at the VA of an operand: bytes, in the state as the read leaves it. -/
def State.imageAt (s : State) (die n va len : Nat) (s1 : State) (bs : List Byte) : Prop :=
  s.feLoad die (feOwner n 2) (s.queueContext n) (va % 2 ^ 57) len (s.laneQueue n).hts = (s1, .done bs)

/-- A translation of the address space touches a range. -/
def TlbEntry.touches (e : TlbEntry) (asn va len : Nat) : Prop :=
  e.asn = asn ∧ overlaps (e.page * 2 ^ e.size) (2 ^ e.size) va len = true

end Sys2Proof.Machine

open Sys2Proof Sys2Proof.Machine

/-- R19, R28, R49, R84, R404, R408: what a step runs. A wave picked to issue takes its pending imprecise trap, or else
fetches at its PC through its core's instruction cache: bytes of the fetch window that decode to an instruction make
the step that instruction's exec, where no register of the wave holds an error; the first decode fault traps every
thread with its cause and TRAPINFO; a misaligned PC and a fetch that does not translate trap likewise, or halt the
wave at its handler's first instruction. With no wave to issue, the step is exec of the first event due, and with none
due an error that strikes (log 91), a beat of a core's memory pipe at its port (R163; which turn comes is the model's free value,
log 80), or the event that the configuration names (the model's own order of events, log 6), as it is that the fetch reads whole
lines into that cache (log 12, 90). -/
def Obligations.StepRunsDecodedInstruction : Prop :=  ∀ s : State,
    (∀ w rest, s.issuing = w :: rest → ∀ u, u = { s with issuing := rest }.focus w → u.wv.running = true →
      u.wv.waits.ending = false →
      ((u.wv.impKey.isSome || u.wv.impMixed.isSome) = true → step s = exec (.impreciseTrap w) u) ∧
      (u.wv.impKey = none → u.wv.impMixed = none →
        (∀ e u1 l, u.find u.wv.ctl.pc.toNat 3 = (.ok e, u1) →
          u1.myCore.icache.find? (fun v => v.line == e.phys u.wv.ctl.pc.toNat / 128 && v.key == e.key) = some l → l.opx % 2 = 0 →
          ∀ bs, bs = (l.bytes.drop (e.phys u.wv.ctl.pc.toNat % 128)).take (windowLen u.wv.ctl.pc.toNat) →
          (∀ i, decode u1.wv.ident.scalars u.wv.ctl.pc.toNat bs = .ok i → u1.wv.parity = [] →
            step s = exec i (u1.mapWv (fun v => { v with waits := { v.waits with handler := false } }))) ∧
          (∀ f, decode u1.wv.ident.scalars u.wv.ctl.pc.toNat bs = .error f →
            (f.kind ≠ .fetchAlign → step s = .next (u1.trapAll (decodeCause f.kind) f.info)) ∧
            (f.kind = .fetchAlign →
              step s = .next (if u1.wv.waits.handler then u1.halt 3 else u1.dropAnswers.trapAll 0x02 0)))) ∧
        (∀ c l u1, u.find u.wv.ctl.pc.toNat 3 = (.fault (.sub c l), u1) →
          step s = .next (if u1.wv.waits.handler then u1.halt 3
            else u1.dropAnswers.trapAll (faultCause c) (faultInfo c l 3))))) ∧
    (s.issuing = [] → ∀ e rest, s.agenda = e :: rest → e.view = .event → step s = exec e { s with agenda := rest }) ∧
    (s.issuing = [] → s.agenda = [] →
      (∀ x, Config.upset s.draws = some x → step s = .next (s.drawn.strike x)) ∧
      (∀ x, Config.upset s.draws = none → Config.portTurn s.draws = some x → step s = .next (s.drawn.portStep x.1 x.2)) ∧
      (Config.upset s.draws = none → Config.portTurn s.draws = none →
        step s = if isEvent (Config.nextEvent s.draws) then exec (Config.nextEvent s.draws) s.drawn else .next s.drawn))

/-- R32, R36, R174, R222, R233, R253, R281, R321, R347, R351, R376, R211: words that the worked examples of the spec
write out decode to the instructions they stand for. -/
def Obligations.DecodeWords : Prop :=  decodeTableWord 64 0x0010020328000604 = some (.st ⟨⟨1, false⟩, 0x00, 0x28, 0x03, 2, 0, 0x0010, none⟩) ∧
  decodeTableWord 96 0x40400000018202B801031D49 = some (.vfma ⟨⟨7, false⟩, 0x03, 0x01, 0xB8, 0x02, 2, 6, false, false, false, false, false, some 0x40400000⟩) ∧
  decodeTableWord 64 0x0008FB0804021E18 = some (.atom ⟨⟨7, false⟩, 0x02, 0x04, 0x08, 0x3B, 3, 0x0008, none⟩) ∧
  decodeTableWord 64 0x0000000000501C14 = some (.call ⟨⟨7, false⟩, 0x50, 0x00, 0, false⟩) ∧
  decodeTableWord 128 0x000000000000000100000000002A1C56 = some (.csrr ⟨⟨7, false⟩, 0x2A, 0, 0, 0, 0, some 1⟩) ∧
  decodeTableWord 64 0x001500A106051D1C = some (.vshfl ⟨⟨7, false⟩, 0x05, 0x06, 0xA1, 0, 0x15, 0, false, false, false, false, false, none⟩) ∧
  decodeTableWord 64 0x0354000001021D60 = some (.vcvt ⟨⟨7, false⟩, 0x02, 0x01, 0, 0, 0x14, 5, true, false, false, false, false, none⟩) ∧
  decodeTableWord 128 0x0000000000C08044000200002A001EE2 = some (.mloop ⟨⟨7, false⟩, 0, 0x2A, 0, 0, 2, some 0xC08044⟩) ∧
  decodeTableWord 64 0x00000029282A1F14 = some (.phwait ⟨⟨7, false⟩, 0x2A, 0x28, 0x29, 0, 0, none⟩) ∧
  decodeTableWord 64 0x000002032B2C1E34 = some (.msend ⟨⟨7, false⟩, 0x2C, 0x2B, 0x03, 2, 0, 0, none⟩) ∧
  decodeTableWord 128 0x000000003F03FFFF0000000000001C32 = some (.waitc ⟨⟨7, false⟩, 0, 0, 0, 0, 0, some 0x3F03FFFF⟩) ∧
  decodeTableWord 128 0x0001000000001100001200A022001E86 = some (.tcopym ⟨⟨7, false⟩, 0, 0x22, 0xA0, 0, 0x12, some 0x1000000001100⟩)

/-- R26, R30, R32, R36 to R39, R49: every instruction of a wave has a word, and the decoder reads a well-formed
instruction back from its own word, whatever bytes follow, wherever the word fits its fetch window. -/
def Obligations.DecodeEncode : Prop :=  ∀ i : Instr,
    (i.view ≠ .event → (encode i).isSome = true) ∧
    ∀ scalars pc bs rest, i.wf scalars = true → encode i = some bs → pc % 4 = 0 → pc % 32 + bs.length ≤ 32 →
      decode scalars pc (bs ++ rest) = .ok i

/-- R49, R403: every instruction and every event has its meaning in every state, and every step of the machine ends in a
next state: it has no stuck state, and each fault that the spec describes is a state of it. The model's own choices
and readings in it: log 8. -/
def Obligations.EveryStepGoesOn : Prop :=  (∀ i s, ∃ t, exec i s = .next t) ∧ ∀ s, goesOn s

/-- R73: every step keeps memory in its canonical form: addresses rising, and no byte listed that an unlisted address
reads as. The model's own choices and readings in it: log 1. -/
def Obligations.MemoryKept : Prop := ∀ s t : State, s.memoryKept → step s = .next t → t.memoryKept

/-- What a cold reset leaves, as the spec states it: every key slot EMPTY (R89), every queue record zero (R383), SBASE
and MTS zero (R133), no line held, every congestion window 64 (R108), every copy tag FREE (R201), residencies FREE
with GEN 1 (R300), quotas 512 (R306), phasers free with GEN 1 (R331, R332); TIME is 0 (R231), and no wave is live. -/
def Obligations.ResetState : Prop :=  State.reset.memoryKept ∧
    (∀ n, (State.reset.key n).st = .empty) ∧ (∀ n, State.reset.queue n = QueueRec.reset) ∧
    (∀ x, (State.reset.slice x).sbase = 0 ∧ (State.reset.slice x).mts = 0 ∧ (State.reset.slice x).sets = []) ∧
    (∀ p, (State.reset.port p).window = 64) ∧ (∀ c g, Map.getD (State.reset.core c).tags g .free = .free) ∧
    (∀ c n, ((State.reset.cluster c).residency n).st = .free ∧ ((State.reset.cluster c).residency n).gen = 1) ∧
    (∀ c d, (State.reset.cluster c).quotaOf d = 512) ∧
    (∀ c n, (Map.getD (State.reset.cluster c).phasers n Phaser.reset).live = false ∧
      (Map.getD (State.reset.cluster c).phasers n Phaser.reset).gen = 1) ∧
    State.reset.now = 0 ∧ ∀ w, (State.reset.wave w).sched.live = false

/-- R11: an instruction whose uniform guard fails only moves the PC past itself. -/
def Obligations.FailedUniformGuardOnlyAdvances : Prop :=  ∀ (a : InsA) (b : InsB) (t : InsT) (s : State), ∀ r ∈ guardedRows a b t,
    s.wv.guardUni r.2.1 = false → exec r.1 s = .next (s.advance r.2.2)

/-- R241, R243, R245, R246, R238: results, the SAT flag and the frame of the uniform integer instructions. R241, R243 to
R246, R250, R251, R11, R238: results, the SAT flag and the frame of the vector integer instructions. -/
def Obligations.IntegerResults : Prop :=
  (∀ (f : InsA) (s : State), ∀ r ∈ uniformRows f, s.wv.guardUni f.g = true →
    completes r.1 s (fun t =>
      let v := intResult f (s.srcU f.lit r.2.2.1 f.a) (s.srcU f.lit r.2.2.2.1 f.b) (s.srcU f.lit r.2.2.2.2.1 f.c) r.2.1
      s.wroteS t (lenA f) (s.wv.raise v.2) f.d.toNat r.2.2.2.2.2 v.1)) ∧
  (∀ (f : InsA) (s : State), ∀ r ∈ vectorRows f,
    completes r.1 s (fun t =>
      let act := s.wv.activeLane f.g
      let v := fun l => intResult f (s.src f.lit (.bits r.2.2.1) f.a l) (s.src f.lit (.bits r.2.2.2.1) f.b l)
        (s.src f.lit (.bits r.2.2.2.2.1) f.c l) r.2.1
      s.wroteV t (lenA f) (s.wv.raise (flagsOver act (fun l => (v l).2))) f.d.toNat r.2.2.2.2.2 act (fun l => (v l).1)))

/-- R247, R249: SCMP and QLOP write one uniform predicate, q7 aside. R247, R249, R277, R11: VCMP, VFCMP and PLOP write
one lane predicate for the active threads, p7 aside. -/
def Obligations.PredicateResults : Prop :=
  ((∀ (f : InsA) (s : State), s.wv.guardUni f.g = true →
    completes (.scmp f) s (fun t => s.wroteQ t (lenA f) s.wv f.d.toNat
      (compareInt (fnHi f.fn) (opVal f (s.srcU f.lit (InsA_width f) f.a)) (opVal f (s.srcU f.lit (InsA_width f) f.b))))) ∧
  (∀ (f : InsT) (s : State), s.wv.guardUni f.g = true →
    completes (.qlop f) s (fun t => s.wroteQ t (lenT f) s.wv f.d.toNat
      ((w1Of f % 256).testBit (4 * (s.wv.getQ f.a.toNat).toNat + 2 * (s.wv.getQ f.b.toNat).toNat + (s.wv.getQ f.c.toNat).toNat))))) ∧
  ((∀ (f : InsA) (s : State),
    completes (.vcmp f) s (fun t => s.wroteP t (lenA f) s.wv f.d.toNat (s.wv.activeLane f.g) (fun l =>
      compareInt (fnHi f.fn) (opVal f (s.src f.lit (.bits (InsA_width f)) f.a l))
        (opVal f (s.src f.lit (.bits (InsA_width f)) f.b l))))) ∧
  (∀ (f : InsA) (s : State),
    let act := s.wv.activeLane f.g
    let a := s.fA f (fnLo f.fn)
    let b := s.fB f (fnLo f.fn)
    completes (.vfcmp f) s (fun t => s.wroteP t (lenA f)
      (s.wv.raise (flagsOver act (fun l => compareFlags (fnHi f.fn) (a l) (b l)))) f.d.toNat act
      (fun l => fpCompare (fnHi f.fn) (a l) (b l)))) ∧
  (∀ (f : InsT) (s : State),
    completes (.plop f) s (fun t => s.wroteP t (lenT f) s.wv f.d.toNat (s.wv.activeLane f.g) (fun l =>
      (w1Of f % 256).testBit (4 * (s.wv.getP f.a.toNat l).toNat + 2 * (s.wv.getP f.b.toNat l).toNat + (s.wv.getP f.c.toNat l).toNat)))))

/-- R242, R248: the selects and the three-input logic, uniform and vector; bit i of LOP3 is TT[4 A[i] + 2 B[i] + C[i]]. -/
def Obligations.SelectAndLogicResults : Prop :=  (∀ (f : InsA) (s : State), s.wv.guardUni f.g = true →
    completes (.ssel f) s (fun t => s.wroteS t (lenA f) s.wv f.d.toNat (InsA_width f)
      (s.srcU f.lit (InsA_width f) (if s.wv.getQ f.c.toNat then f.a else f.b)))) ∧
  (∀ (f : InsA) (s : State),
    completes (.vsel f) s (fun t => s.wroteV t (lenA f) s.wv f.d.toNat (InsA_width f) (s.wv.activeLane f.g) (fun l =>
      s.src f.lit (.bits (InsA_width f)) (if s.wv.getP f.c.toNat l then f.a else f.b) l))) ∧
  (∀ (f : InsT) (s : State), s.wv.guardUni f.g = true →
    completes (.slop3 f) s (fun t => ∃ v,
      s.wroteS t (lenT f) s.wv f.d.toNat (intWidth (fnLo f.fn)) v ∧ ∀ i, v.testBit i =
        (decide (i < intWidth (fnLo f.fn)) && (w1Of f % 256).testBit
          (4 * ((s.srcU none (intWidth (fnLo f.fn)) f.a).testBit i).toNat +
            2 * ((s.srcU none (intWidth (fnLo f.fn)) f.b).testBit i).toNat +
            ((s.srcU none (intWidth (fnLo f.fn)) f.c).testBit i).toNat)))) ∧
  (∀ (f : InsT) (s : State),
    completes (.vlop3 f) s (fun t => ∃ v,
      s.wroteV t (lenT f) s.wv f.d.toNat (intWidth (fnLo f.fn)) (s.wv.activeLane f.g) v ∧ ∀ l i, (v l).testBit i =
        (decide (i < intWidth (fnLo f.fn)) && (w1Of f % 256).testBit
          (4 * ((s.src none (.bits (intWidth (fnLo f.fn))) f.a l).testBit i).toNat +
            2 * ((s.src none (.bits (intWidth (fnLo f.fn))) f.b l).testBit i).toNat +
            ((s.src none (.bits (intWidth (fnLo f.fn))) f.c l).testBit i).toNat))))

/-- R252 to R256, R287: the instructions that move values between threads. VRDLANE, VREDUX and VAMAX leave a uniform
destination alone where no thread is active; VSHFL and VSCAN give a thread and its shadow one value; VBALLOT halts no wave whose predicate agrees with its shadow (R434). -/
def Obligations.CrossLaneResults : Prop :=  (∀ (f : InsA) (s : State),
    completes (.vshfl f) s (fun t => s.wroteV t (lenA f) s.wv f.d.toNat (InsA_width f) (fun l => s.wv.active f.g (s.wv.visible l)) (fun l =>
      s.src f.lit (.bits (InsA_width f)) f.a (s.wv.lane (shuffleSource (fnHi f.fn) s.wv.threads (s.wv.visible l)
        (s.src f.lit (.bits 32) f.b (s.wv.lane (s.wv.visible l)) % s.wv.threads)))))) ∧
  (∀ (f : InsA) (s : State),
    completes (.vrdlane f) s (fun t =>
      if s.wv.activeMask f.g = 0 then t = s.advance (lenA f)
      else s.wroteS t (lenA f) s.wv f.d.toNat (InsA_width f)
        (s.src f.lit (.bits (InsA_width f)) f.a (s.wv.lane (s.srcU f.lit 32 f.b % s.wv.threads))))) ∧
  (∀ (f : InsA) (s : State),
    completes (.vwrlane f) s (fun t => s.wroteV t (lenA f) s.wv f.d.toNat (InsA_width f)
      (fun l => s.wv.activeLane f.g l && s.wv.visible l == s.srcU f.lit 32 f.b % s.wv.threads)
      (fun _ => s.srcU f.lit (InsA_width f) f.a))) ∧
  (∀ (f : InsA) (s : State), s.wv.shadowDiffers f.a.toNat (s.wv.activeMask f.g) = false →
    completes (.vballot f) s (fun t => ∃ m : Mask, s.wroteS t (lenA f) s.wv f.d.toNat 64 m.toNat ∧
      ∀ l, l < 64 → m.getLsbD l = (s.wv.active f.g l && s.wv.getP f.a.toNat (s.wv.lane l)))) ∧
  (∀ (f : InsA) (s : State),
    let xs := s.activeValues f 64
    completes (.vredux f) s (fun t =>
      if xs = [] then t = s.advance (lenA f)
      else s.wroteS t (lenA f) s.wv f.d.toNat (InsA_width f)
        ((combineAll (fnHi f.fn) (InsA_signed f) (InsA_width f) xs).getD 0))) ∧
  (∀ (f : InsA) (s : State),
    completes (.vscan f) s (fun t => s.wroteV t (lenA f) s.wv f.d.toNat (InsA_width f) (fun l => s.wv.active f.g (s.wv.visible l)) (fun l =>
      (combineAll (fnHi f.fn) (InsA_signed f) (InsA_width f) (s.activeValues f (s.wv.visible l + 1))).getD 0))) ∧
  (∀ (f : InsA) (s : State),
    let ts := (List.range 64).filter (fun t => s.wv.active f.g t)
    let xs := s.src f.lit (.fp 2) f.c 0 :: ts.map (fun t => s.src f.lit (.fp 2) f.a (s.wv.lane t))
    completes (.vamax f) s (fun t =>
      if ts = [] then t = s.advance (lenA f)
      else if ∃ x ∈ xs, (fpDecode 2 x).isNan = true then s.wroteS t (lenA f) (s.wv.raise flIV) f.d.toNat 32 0x7FC00000
      else ∃ v, s.wroteS t (lenA f) s.wv f.d.toNat 32 v ∧ (∃ x ∈ xs, v = x % 2 ^ 31) ∧ ∀ x ∈ xs, x % 2 ^ 31 ≤ v))

/-- R275, R276, R278, R279, R281: what the floating-point instructions compute for each active thread, from the exact
operations of FpNum.lean; FLAGS only gains bits, and nothing else changes. R274: a NaN operand makes VFADD, VFMUL and
VFMA answer the format's default NaN in that thread. The model's own choices and readings in it: log 9. -/
def Obligations.FloatResults : Prop :=
  (∀ (f : InsA) (s : State), ∀ r ∈ floatRows f s,
    completes r.1 s (fun t =>
      let act := s.wv.activeLane f.g
      s.wroteV t (lenA f) (s.wv.raise (flagsOver act (fun l => (r.2.2.2 l 0).2))) f.d.toNat r.2.1 act
        (fun l => (r.2.2.2 l 0).1))) ∧
  (∀ (f : InsA) (s : State) (l : Nat), l < 64 → s.wv.activeLane f.g l = true →
    ((s.fA f (fnLo f.fn) l).isNan = true ∨ (s.fB f (fnLo f.fn) l).isNan = true) → fmtWidth (fnLo f.fn) ≤ 32 →
    ∀ i ∈ ([.vfadd f, .vfmul f, .vfma f] : List Instr),
      completes i s (fun t => t.wv.getV f.d.toNat l = BitVec.ofNat 32 (defaultNan (fnLo f.fn))))

/-- R280, R285, R286, R288, R265: what VCVT, VDQNT, VUNPK and VTDOT4 compute for each active thread, with the draws of
stochastic rounding. R281, R282, R283: the special functions answer a NaN with the default NaN, give the listed exact
results, and any other value within the bound of their enclosure, infinity with OF beyond the largest finite value, or zero
for a tiny one under FTZ. R284, R286, R270: VQNT and VPACK, with the counts %qsat and %qunder raised by what saturates or
underflows; VPACK replaces one element of C. R288, R260: VUNP3 unpacks the five trits of a T5 code below 243 as INT8
bytes, and sets ILL3 with a result of 0 for any other code. The model's own choices and readings in it: log 30, 31. -/
def Obligations.ConversionsAndTernary : Prop :=
  (∀ (f : InsA) (s : State), ∀ r ∈ conversionRows f s,
    completes r.1 s (fun t =>
      let act := s.wv.activeLane f.g
      let d := s.drawsFor r.2.2.1 f.g
      let v := fun l => r.2.2.2 l (Map.getD d.2 (s.wv.visible l) 0)
      s.wroteV t (lenA f) { (s.wv.raise (flagsOver act (fun l => (v l).2))) with gens := d.1 } f.d.toNat r.2.1 act
        (fun l => (v l).1))) ∧
  (∀ (f : InsA) (s : State), ∀ r ∈ specialRows f,
    completes r.1 s (fun t => ∃ ch : Nat → Nat,
      let act := s.wv.activeLane f.g
      let v := fun l => match s.fA f (fnLo f.fn) l with
        | .nan sig => (defaultNan (fnLo f.fn), ivFlag sig)
        | x => r.2 x s.wv.csr.ftz (ch l)
      State.wroteV { s with draws := t.draws } t (lenA f) (s.wv.raise (flagsOver act (fun l => (v l).2))) f.d.toNat
        (fmtWidth (fnLo f.fn)) act (fun l => (v l).1))) ∧
  (∀ (fmt : Nat) (z n : Bool) (e : Int) (ch : Nat), ∀ r ∈ exactRows fmt z n e ch, r.1 = r.2) ∧
  (∀ (fmt b : Nat) (x : Enclosure) (z : Bool) (ch : Nat), fmt ≤ 3 →
    (x.tooLarge fmt = true → deliver fmt b x z ch = (infBits fmt x.neg, flOF)) ∧
    (x.tooLarge fmt = false → z = true → fmt ≤ 2 → x.tiny fmt = true → deliver fmt b x z ch = (x.neg.toNat * signBit fmt, 0)) ∧
    (x.tooLarge fmt = false → (z && decide (fmt ≤ 2) && x.tiny fmt) = false →
      deliverable fmt b x (z && decide (fmt ≤ 2)) ≠ [] →
      (deliver fmt b x z ch).2 = 0 ∧ x.near fmt b (deliver fmt b x z ch).1)) ∧
  (∀ (f : InsA) (s : State),
    let d := s.drawsFor (s.quantMode f == 5) f.g
    let q := fun l => s.quantised f l (Map.getD d.2 (s.wv.visible l) 0)
    completes (.vqnt f) s (fun t =>
      s.wroteV t (lenA f) (s.wv.afterQuant f.g d.1 q) f.d.toNat 32 (s.wv.activeLane f.g) (fun l => (q l).bits))) ∧
  (∀ (narrow m r : Nat) (satf iv n : Bool) (mag : Nat) (exp c : Int),
    let q := quantise narrow m r satf (.fin n mag exp) iv c
    let k := (intRound m r n mag exp).1 + c
    let lim := narrowRange narrow
    (4 ≤ narrow →
      q.bits = wrapTo (elemWidth narrow) (if k < lim.1 then lim.1 else if lim.2 < k then lim.2 else k) ∧
      (q.fl &&& flSAT = flSAT ↔ (k < lim.1 ∨ lim.2 < k)) ∧
      (q.under = true ↔ (mag ≠ 0 ∧ (intRound m r n mag exp).1 = 0))) ∧
    (narrow < 3 →
      (q.bits, q.fl) = fpRound (narrowFmt narrow) m r false satf n mag exp ∧
      (q.under = true ↔ (mag ≠ 0 ∧ q.bits % signBit (narrowFmt narrow) = 0)))) ∧
  (∀ (f : InsA) (s : State),
    let w := elemWidth (fnLo f.fn)
    let lim := narrowRange (fnLo f.fn)
    let a := fun l => s.src f.lit (.bits 32) f.a l
    let place := fun l => w * (s.src f.lit (.bits 32) f.b l % (32 / w))
    let out := fun l => decide (f.sat = true ∧ (valOf true 32 (a l) < lim.1 ∨ lim.2 < valOf true 32 (a l)))
    let e := fun l => if out l then wrapTo w (if valOf true 32 (a l) < lim.1 then lim.1 else lim.2) else a l % 2 ^ w
    completes (.vpack f) s (fun t => ∃ val : Nat → Nat,
      (∀ l p, p < 32 → (val l).testBit p =
        if place l ≤ p ∧ p < place l + w then (e l).testBit (p - place l) else (s.src f.lit (.bits 32) f.c l).testBit p) ∧
      s.wroteV t (lenA f) (s.wv.afterQuant f.g s.wv.gens (fun l => ⟨val l, if out l then flSAT ||| flNX else 0, false⟩))
        f.d.toNat 32 (s.wv.activeLane f.g) val)) ∧
  (∀ (f : InsA) (s : State) (l : Nat), l < 64 → s.wv.activeLane f.g l = true →
    let x := s.src f.lit (.bits 32) f.a l / 2 ^ (8 * (s.src f.lit (.bits 32) f.b l % 4)) % 256
    completes (.vunp3 f) s (fun t =>
      if x ≤ 242 then
        (∀ i, i < 4 → ((t.wv.getV f.d.toNat l).toNat / 2 ^ (8 * i) % 256 : Nat) = ((x / 3 ^ i % 3 + 255) % 256 : Nat)) ∧
          (t.wv.getV (f.d.toNat + 1) l).toNat = (x / 81 + 255) % 256
      else t.wv.getV f.d.toNat l = 0 ∧ t.wv.getV (f.d.toNat + 1) l = 0 ∧ t.wv.csr.flags &&& flILL3 = flILL3)) ∧
  (∀ (f : InsA) (s : State),
    completes (.vunp3 f) s (fun t => ∃ val fl,
      s.wroteV t (lenA f) { s.wv with csr := { s.wv.csr with flags := s.wv.csr.flags ||| fl } } f.d.toNat 64
        (s.wv.activeLane f.g) val))

/-- R370, R29: NOP falls through, BRA and BRX jump, BRQ jumps where its vote holds; all but the PC stays. R371, R366: BRV
splits the running path: the taken threads run at the target, the others wait on the path stack at the next
instruction; with one side empty the other runs on, and with eight paths pending a true split traps. -/
def Obligations.BranchesMovePc : Prop :=
  (∀ (f : InsB) (s : State), s.wv.guardUni f.g = true →
    let c := s.wv.ctl
    let next := { c with pc := c.pc + BitVec.ofNat 57 (lenB f) }
    let target := { c with pc := c.pc + 4 * f.rel.signExtend 57 }
    completes (.nop f) s (fun t => s.ranCtl t next false) ∧
    completes (.bra f) s (fun t => s.ranCtl t target false) ∧
    completes (.brx f) s (fun t => s.ranCtl t { c with pc := BitVec.ofNat 57 (s.srcU none 64 f.x) } false) ∧
    (s.wv.shadowDiffers f.x.toNat c.exec = false →
      (s.wv.brqTaken f.fn.toNat f.x.toNat → completes (.brq f) s (fun t => s.ranCtl t target false)) ∧
      (¬ s.wv.brqTaken f.fn.toNat f.x.toNat → completes (.brq f) s (fun t => s.ranCtl t next false)))) ∧
  (∀ (f : InsB) (s : State), s.wv.guardUni f.g = true → s.wv.shadowDiffers f.x.toNat s.wv.ctl.exec = false →
    ∃ taken other : Mask,
      (∀ l, l < 64 → (taken.getLsbD l = true ↔
        s.wv.ctl.exec.getLsbD l = true ∧ (if f.fn = 1 then ¬ s.wv.votesFor f.x.toNat l else s.wv.votesFor f.x.toNat l))) ∧
      (∀ l, l < 64 → (other.getLsbD l = true ↔ s.wv.ctl.exec.getLsbD l = true ∧ taken.getLsbD l = false)) ∧
      (let c := s.wv.ctl
      let target := c.pc + 4 * f.rel.signExtend 57
      if other = 0 then completes (.brv f) s (fun t => s.ranCtl t { c with pc := target } false)
      else if taken = 0 then completes (.brv f) s (fun t => s.ranCtl t { c with pc := c.pc + BitVec.ofNat 57 (lenB f) } false)
      else if c.path.length < 8 then
        completes (.brv f) s (fun t => s.ranCtl t { c with pc := target, exec := taken, path := ⟨c.pc + 8, other⟩ :: c.path } true)
      else exec (.brv f) s = .next (s.trapAll 0x23 1)))

/-- R372 to R374, R366: enrolling in a rejoin mask, parking at it and leaving it. R375, R360, R368: EXIT ends the running
lanes, takes them out of every rejoin mask, pushes the rejoins that this completes and runs the top path; with none
left the wave ends, or traps while lanes stand parked. The model's own choices and readings in it: log 65. -/
def Obligations.RejoinsAndExit : Prop :=
  (∀ (f : InsB) (s : State), s.wv.guardUni f.g = true →
    let c := s.wv.ctl
    let n := f.x.toNat
    let j := s.wv.join n
    let next := { c with pc := c.pc + BitVec.ofNat 57 (lenB f) }
    let o := c.exec &&& ~~~j.mask
    let all := j.arrived ||| (c.exec &&& j.mask)
    let full := c.exec &&& j.mask ≠ 0 ∧ all = j.mask
    let m := j.mask &&& ~~~c.exec
    (j.arrived = 0 →
      completes (.jenrol f) s (fun t => s.ranJoin t n ⟨c.exec, 0, c.pc + 4 * f.rel.signExtend 57⟩ next false)) ∧
    (j.arrived ≠ 0 → exec (.jenrol f) s = .next (s.trapAll 0x23 3)) ∧
    (full → (o = 0 ∨ c.path.length < 8) →
      completes (.jpark f) s (fun t => s.ranJoin t n { j with arrived := 0 }
        { c with exec := j.mask, pc := j.pc, path := if o = 0 then c.path else ⟨c.pc + 8, o⟩ :: c.path } true)) ∧
    (full → o ≠ 0 → 8 ≤ c.path.length → exec (.jpark f) s = .next (s.trapAll 0x23 1)) ∧
    (¬ full → o ≠ 0 → completes (.jpark f) s (fun t => s.ranJoin t n { j with arrived := all } { next with exec := o } false)) ∧
    (¬ full → o = 0 → ∀ e es, c.path = e :: es →
      completes (.jpark f) s (fun t => s.ranJoin t n { j with arrived := all } { c with exec := e.mask, pc := e.pc, path := es } true)) ∧
    (¬ full → o = 0 → c.path = [] → exec (.jpark f) s = .next (s.trapAll 0x23 2)) ∧
    (j.arrived = 0 ∨ j.arrived ≠ m → completes (.jstrike f) s (fun t => s.ranJoin t n { j with mask := m } next false)) ∧
    (j.arrived ≠ 0 → j.arrived = m → c.path.length < 8 →
      completes (.jstrike f) s (fun t => s.ranJoin t n ⟨m, 0, j.pc⟩ { next with path := ⟨j.pc, m⟩ :: c.path } false)) ∧
    (j.arrived ≠ 0 → j.arrived = m → 8 ≤ c.path.length → exec (.jstrike f) s = .next (s.trapAll 0x23 1))) ∧
  (∀ (f : InsB) (s : State), s.wv.guardUni f.g = true →
    let c := s.wv.ctl
    let path := s.wv.rejoined.reverse ++ c.path
    (path.length ≤ 8 ∨ s.wv.rejoined = [] →
      (∀ e es, path = e :: es → completes (.exit f) s (fun t => ∃ js,
        s.ranCtl t { c with joins := js, path := es, pc := e.pc, exec := e.mask, ended := c.ended ||| c.exec } true ∧
        ∀ n, let j := s.wv.join n
          Map.getD js n ⟨0, 0, 0⟩ = ⟨j.mask &&& ~~~c.exec,
            if j.arrived &&& ~~~c.exec = j.mask &&& ~~~c.exec then 0 else j.arrived &&& ~~~c.exec, j.pc⟩)) ∧
      (path = [] → (∀ e ∈ c.joins, e.2.arrived &&& ~~~c.exec = 0) →
        exec (.exit f) s = .next (s.withWv { s.wv with waits := { s.wv.waits with ending := true, stall := none } })) ∧
      (path = [] → (∃ e ∈ c.joins, e.2.arrived &&& ~~~c.exec ≠ 0) → exec (.exit f) s = .next (s.trapAll 0x23 2))) ∧
    (8 < path.length → s.wv.rejoined ≠ [] → exec (.exit f) s = .next (s.trapAll 0x23 1)))

/-- R376, R311: WAITC passes when each class counter is within its limit; a pending tile fault whose operation the limit
requires is taken, and one that it does not require stays pending. R377: SLEEP and YIELD leave the active scheduling
set; a sleeper stays out for 64 core cycles times X[15:0]. -/
def Obligations.WaitsOfAWave : Prop :=
  (∀ (f : InsT) (s : State), s.wv.guardUni f.g = true →
    let k := s.wv.cnt
    let w1 := w1Of f
    k.ld ≤ w1 % 64 → k.st ≤ w1 / 2 ^ 6 % 64 → k.cp ≤ w1 / 2 ^ 12 % 64 → k.tl ≤ w1 / 2 ^ 18 % 64 → k.ms ≤ w1 / 2 ^ 24 % 64 →
    ((∀ t, s.wv.tile = some t → s.wv.tlIssued < t.order + w1 / 2 ^ 18 % 64) →
      completes (.waitc f) s (fun t => s.ranCtl t { s.wv.ctl with pc := s.wv.ctl.pc + BitVec.ofNat 57 (lenT f) } false)) ∧
    (∀ t, s.wv.tile = some t → t.order + w1 / 2 ^ 18 % 64 ≤ s.wv.tlIssued →
      exec (.waitc f) s = .next ((s.withWv { s.wv with tile := none }).trapAll t.cause.toNat t.info.toNat))) ∧
  (∀ (f : InsB) (s : State), s.wv.guardUni f.g = true →
    (∀ r ∈ ([(.sleep f, sleepEnd s.now (64 * (s.srcU none 32 f.x % 2 ^ 16))), (.yield f, s.now)] : List (Instr × Nat)),
      exec r.1 s = .next (s.withWv { s.wv with
        ctl := { s.wv.ctl with pc := s.wv.ctl.pc + BitVec.ofNat 57 (lenB f) }
        sched := { s.wv.sched with inSet := false, idle := 0, readyOut := 0, sleepUntil := max 1 r.2, drowsy := true }
        answers := []
        waits := { s.wv.waits with stall := none, rejects := 0 } })))

/-- R378, R145, R359: the first ETRIG of a wave releases, records its trigger timestamp and tells its block; a later one
only advances. R379: ENQ with a count of 0 is answered at once; any other, after the release, goes to the front end
with the record's address, the count and the wave's pts, and holds qD until the answer. -/
def Obligations.TriggerAndSpawn : Prop :=
  (∀ (f : InsB) (s : State), s.wv.guardUni f.g = true →
    (s.wv.trig = none → s.releaseDone = true → s.writesDone = true →
      completes (.etrig f) s (fun t =>
        let pts := max s.wv.pts s.wv.copyTs
        t.wv = { s.wv with
          pts := pts
          trig := some pts
          ctl := { s.wv.ctl with pc := s.wv.ctl.pc + BitVec.ofNat 57 (lenB f) }
          answers := []
          waits := { s.wv.waits with stall := none, rejects := 0 } } ∧
        (∀ b, s.myCore.blockOf? s.wv = some b → ∃ b', t.myCore.blockOf? t.wv = some b' ∧ s.cur.slot ∈ b'.trig ∧
          b'.trigTs = max b.trigTs pts) ∧
        t.ms = s.ms ∧ t.waves = s.waves ∧ t.net = s.net ∧ t.clusters = s.clusters)) ∧
    (∀ ts, s.wv.trig = some ts → completes (.etrig f) s (fun t =>
      s.ranCtl t { s.wv.ctl with pc := s.wv.ctl.pc + BitVec.ofNat 57 (lenB f) } false))) ∧
  (∀ (f : InsT) (s : State), s.wv.guardUni f.g = true →
    let count := s.srcU none 32 f.b
    (count = 0 → completes (.enq f) s (fun t => s.wroteQ t (lenT f) s.wv f.d.toNat true)) ∧
    (count ≠ 0 → s.releaseDone = true → s.writesDone = true →
      completes (.enq f) s (fun t => ∃ sp : Spawn,
        sp.grid = s.wv.ident.grid ∧ sp.wave = s.cur ∧ sp.record = s.srcU none 64 f.a % 2 ^ 57 ∧ sp.count = count ∧
        sp.ts = max s.wv.pts s.wv.copyTs ∧ sp.dst = f.d.toNat ∧
        t = (({ s with
          nextOp := s.nextOp + 1
          fe := { s.fe with enqs := s.fe.enqs ++ [sp] } } : State).withWv { s.wv with
            pts := max s.wv.pts s.wv.copyTs
            sb := s.wv.sb ++ [(SbReg.q f.d.toNat, s.nextOp)]
            waits := { s.wv.waits with enq := s.wv.waits.enq + 1 } }).advance (lenT f))))

/-- R407, R408, R413: taking a trap writes CAUSE, TRAPINFO, TRAPMASK and TRAPPC, runs the faulting threads at the handler
with the others pending on the path stack, and changes nothing else; with no handler, or nine pending paths, the wave
halts. R416, R407: TRAP and BKPT complete by entering the handler with causes SWTRAP and BREAKPOINT and TRAPPC past the
instruction. R404, R407, R410: a pending imprecise trap is taken with the whole of EXEC and TRAPINFO[14] set, the lower cause
first, and the fault it stood for is no longer pending; R84, R89, R92: that of a refused access has the cause of its sub-code,
KEY_REVOKED where it names none. R417: ERET runs the lanes of TRAPMASK that have not ended at TRAPPC; with none of them left it
pops the top path, and with an empty path stack the wave ends, or raises PATHSTACK EMPTY while lanes stand parked (R368). The
model's own choices and readings in it: log 19, 25, 89. -/
def Obligations.TrapsAndReturn : Prop :=
  (∀ (s : State) (cause info : Nat) (f : Mask) (next tpc : VAddr),
    let o := s.wv.ctl.exec &&& ~~~f
    (o = 0 ∨ s.wv.ctl.path.length < 9 → s.wv.csr.tvOff ≠ 0 →
      s.trap cause info f next tpc = s.withWv (s.wv.trapped s.now cause info f next tpc)) ∧
    (o = 0 ∨ s.wv.ctl.path.length < 9 → s.wv.csr.tvOff = 0 → (s.trap cause info f next tpc).wv.halt = some 2) ∧
    (o ≠ 0 → 9 ≤ s.wv.ctl.path.length →
      s.trap cause info f next tpc = s.halt 4 ∧ (s.halt 4).wv.halt = some 4 ∧ (s.halt 4).wv.ctl = s.wv.ctl)) ∧
  (∀ (f : InsB) (s : State), s.wv.guardUni f.g = true → s.wv.csr.tvOff ≠ 0 →
    let pc := s.wv.ctl.pc
    exec (.trap f) s = .next (s.withWv (s.wv.trapped s.now 0x40 f.fn.toNat s.wv.ctl.exec pc (pc + 8))) ∧
    exec (.bkpt f) s = .next (s.withWv (s.wv.trapped s.now 0x41 0 s.wv.ctl.exec pc (pc + 8)))) ∧
  (∀ (f : InsB) (s : State), s.wv.guardUni f.g = true → s.wv.csr.tvOff = 0 →
    ∀ i ∈ ([.trap f, .bkpt f] : List Instr), completes i s (fun t => t.wv.halt = some 2)) ∧
  (∀ (s : State), s.wv.sched.live = true → s.wv.halt = none → s.wv.waits.ending = false → s.wv.csr.tvOff ≠ 0 →
    let pc := s.wv.ctl.pc
    (∀ info, s.wv.impKey = some info → exec (.impreciseTrap s.cur) s = .next (s.withWv
      ({ s.wv with impKey := none }.trapped s.now (impreciseCause info.toNat) (info.toNat ||| 2 ^ 14) s.wv.ctl.exec pc pc))) ∧
    (∀ info, s.wv.impKey = none → s.wv.impMixed = some info → exec (.impreciseTrap s.cur) s = .next (s.withWv
      ({ s.wv with impMixed := none }.trapped s.now 0x13 (info.toNat ||| 2 ^ 14) s.wv.ctl.exec pc pc)))) ∧
  (∀ info, impreciseCause info =
    if info % 256 = 0 ∨ info % 256 = 7 then 0x12 else if info % 256 ≤ 2 then 0x10 else 0x11) ∧
  (∀ (f : InsB) (s : State), s.wv.guardUni f.g = true →
    let c := s.wv.ctl
    let m := s.wv.csr.tmask &&& ~~~c.ended
    (m ≠ 0 → completes (.eret f) s (fun t => s.ranCtl t { c with pc := s.wv.csr.tpc, exec := m } true)) ∧
    (m = 0 → ∀ e es, c.path = e :: es →
      completes (.eret f) s (fun t => s.ranCtl t { c with pc := e.pc, exec := e.mask, path := es } true)) ∧
    (m = 0 → c.path = [] → (∀ e ∈ c.joins, e.2.arrived = 0) →
      exec (.eret f) s = .next (s.withWv { s.wv with waits := { s.wv.waits with ending := true, stall := none } })) ∧
    (m = 0 → c.path = [] → (∃ e ∈ c.joins, e.2.arrived ≠ 0) → exec (.eret f) s = .next (s.trapAll 0x23 2)))

/-- R233, R231: CSRR writes its destination with the register's value; reading TIMELO alone latches the upper half of the
network cycle. R233, R7, R8, R231, R265: CSRW writes, sets or clears the writable fields of its register, and a read
returns what they then hold; a write of LFSR seeds the sixteen generators, and no register of the window, no
predicate and nothing outside the CSRs changes. -/
def Obligations.CsrAccess : Prop :=
  (∀ (f : InsT) (s : State), s.wv.guardUni f.g = true →
    let i := w1Of f % 2 ^ 12
    (i = 0x001 → s.flagsPending = false) →
    completes (.csrr f) s (fun t =>
      s.wroteS t (lenT f)
        (if i = 0x042 then { s.wv with csr := { s.wv.csr with latch := BitVec.ofNat 32 (s.netNow / 2 ^ 32) } } else s.wv)
        f.d.toNat 32 (s.csrValue i))) ∧
  (∀ (f : InsT) (s : State), s.wv.guardUni f.g = true →
    let i := w1Of f % 2 ^ 12
    let a := s.srcU none 32 f.a
    let old := s.csrValue i
    let v := if f.fn = 0 then a else if f.fn = 1 then old ||| a else old &&& (2 ^ 32 - 1 - a)
    (i = 0x001 → s.flagsPending = false) →
    completes (.csrw f) s (fun t =>
      t.csrValue i = csrAfter i old v ∧
      (∃ csr gens, t = (s.withWv { s.wv with csr := csr, gens := gens }).advance (lenT f)) ∧
      (if i = 0x002 then t.wv.gens.length = 16 ∧ ∀ l, l < 16 →
          let g := BitVec.ofNat 32 v ^^^ BitVec.ofNat 32 (0x9E3779B9 * (l + 1))
          t.wv.gens.getD l 0 = if g = 0 then 1 else g
        else t.wv.gens = s.wv.gens) ∧
      (∀ k, k ≠ i → t.csrValue k = s.csrValue k)))

/-- R222, R219, R220: CALL and CALLX move the window up by one frame: the caller's second frame becomes the callee's
first, LINK of the fresh frame holds the return address, and every word of every physical frame stays. R223, R220:
RET moves the window down by one frame and jumps to LINK of the frame that it drops; the frames' contents stay. R222,
R223, R229: a call above the last frame number or without a free frame, and a return below frame 0 or into a spilled
frame, take FRAME_FAULT, SPILL or FILL at the instruction. R225, R227, R228: SPILLF frees the lowest resident frame
and stores its LINK and registers in the slot of that frame; FILLF gives the frame below a free physical frame and
reads its slot; R229: SPILLF where the lowest resident frame is one of the window, and FILLF with no frame spilled or no free
physical frame, take FRAME_FAULT at the instruction with its sub-code. The model's own choices and readings in it: log 3,
119. -/
def Obligations.FrameWindow : Prop :=
  (∀ (f : InsB) (s : State), s.wv.guardUni f.g = true →
    let w := s.wv.win
    w.cur ≤ 4093 → w.cur + 3 ≤ w.nf + w.lo → (∃ i, i < w.nf ∧ ∀ p ∈ w.place, p.2 ≠ i) →
    ∀ r ∈ ([(.call f, s.wv.ctl.pc + 4 * f.rel.signExtend 57), (.callx f, BitVec.ofNat 57 (s.srcU none 64 f.x))] :
        List (Instr × VAddr)),
      completes r.1 s (fun t =>
        (∃ win, t = ({ s with draws := t.draws } : State).withWv { s.wv with
          win := win
          ctl := { s.wv.ctl with pc := r.2 }
          answers := []
          waits := { s.wv.waits with stall := none, rejects := 0 } }) ∧
        t.wv.win.cur = w.cur + 1 ∧ t.wv.win.lo = w.lo ∧ t.wv.win.nf = w.nf ∧
        (∀ g, g ≠ w.cur + 2 → Map.get? t.wv.win.place g = Map.get? w.place g) ∧
        (∃ i, i < w.nf ∧ (∀ p ∈ w.place, p.2 ≠ i) ∧ Map.get? t.wv.win.place (w.cur + 2) = some i ∧
          (t.wv.win.frame i).link = (s.wv.ctl.pc + 8).zeroExtend 64) ∧
        (∀ i k l, (t.wv.win.frame i).word k l = (w.frame i).word k l))) ∧
  (∀ (f : InsB) (s : State), s.wv.guardUni f.g = true →
    let w := s.wv.win
    0 < w.cur → w.lo ≤ w.cur - 1 → s.frameFilling (w.cur - 1) = false →
    exec (.ret f) s = .next (s.withWv { s.wv with
      win := { w with cur := w.cur - 1, place := Map.del w.place (w.cur + 1) }
      ctl := { s.wv.ctl with pc := ((w.frame (w.phys (w.cur + 1))).link).truncate 57 }
      answers := []
      waits := { s.wv.waits with stall := none, rejects := 0 } })) ∧
  (∀ (f : InsB) (s : State), s.wv.guardUni f.g = true →
    let w := s.wv.win
    (∀ i ∈ ([.call f, .callx f] : List Instr),
      (4093 < w.cur → exec i s = .next (s.trapAll 0x22 4)) ∧
      (w.cur ≤ 4093 → w.nf + w.lo < w.cur + 3 → exec i s = .next (s.trapAll 0x20 0))) ∧
    (w.cur = 0 → exec (.ret f) s = .next (s.trapAll 0x22 3)) ∧
    (0 < w.cur → w.cur - 1 < w.lo → exec (.ret f) s = .next (s.trapAll 0x21 0))) ∧
  (∀ (f : InsT) (s : State), s.wv.guardUni f.g = true → s.acquireSysPending = false →
    let w := s.wv.win
    (w.cur < w.lo + 2 → exec (.spillf f) s = .next (s.trapAll 0x22 1)) ∧
    (w.lo = 0 → exec (.fillf f) s = .next (s.trapAll 0x22 3)) ∧
    (w.lo ≠ 0 → w.cur + 2 - w.lo = w.nf → exec (.fillf f) s = .next (s.trapAll 0x22 2)) ∧
    (w.lo + 2 ≤ w.cur → s.wv.frameBusy w.lo = false →
      let q := s.checkPieces 1 (slotPieces (s.wv.frameSlot w.lo))
      ∀ ps, q.2 = .ok ps → (∀ p ∈ ps, p.pa < 2 ^ 50) →
        ∃ (u : State) (o : MemOp), exec (.spillf f) s = .next (u.progress s.cur.core) ∧ s.sameMemory (u.progress s.cur.core) ∧
          u.wv.win.lo = w.lo + 1 ∧ u.wv.win.cur = w.cur ∧ u.wv.win.frames = w.frames ∧
          u.wv.ctl.pc = s.wv.ctl.pc + BitVec.ofNat 57 (lenT f) ∧ u.wv.cnt = s.wv.cnt.bump .st (· + 1) ∧
          u.myCore.ops = s.myCore.ops ++ [o] ∧ o.kind = .spill ∧
          o.reqs.map (fun x => x.pa) = ps.map (fun p => p.pa) ∧
          o.reqs.flatMap (fun x => x.data) = (w.frame (w.phys w.lo)).bytes) ∧
    (0 < w.lo → w.cur + 2 - w.lo ≠ w.nf →
      let q := s.checkPieces 0 (slotPieces (s.wv.frameSlot (w.lo - 1)))
      ∀ ps, q.2 = .ok ps → (∀ p ∈ ps, p.pa < 2 ^ 50) →
        ∃ (u : State) (o : MemOp), exec (.fillf f) s = .next (u.progress s.cur.core) ∧ s.sameMemory (u.progress s.cur.core) ∧
          u.wv.win.lo = w.lo - 1 ∧ u.wv.win.cur = w.cur ∧ u.wv.win.frames = w.frames ∧
          (Map.get? u.wv.win.place (w.lo - 1)).isSome = true ∧
          u.wv.ctl.pc = s.wv.ctl.pc + BitVec.ofNat 57 (lenT f) ∧ u.wv.cnt = s.wv.cnt.bump .ld (· + 1) ∧
          u.myCore.ops = s.myCore.ops ++ [o] ∧ o.kind = .fill ∧ o.frame = w.lo - 1 ∧
          o.reqs.map (fun x => x.pa) = ps.map (fun p => p.pa)))

/-- R171, R174, R179, R180, R182, R183, R64, R405: where every active thread's pieces translate, a load, store, atomic or
reduction is put in flight as one operation of the wave, counted in its class, and the wave goes on; a store's packets carry the
bytes of DATA, of several threads that store one byte those of the highest-numbered; an atomic or a reduction has one packet for
each thread, with its operand. What may complete or leave at once does so next, and no byte of memory changes before the packets
reach their homes. That DATA of RED.FADD is raw bits is the model's choice (log 109). -/
def Obligations.AccessesIssue : Prop :=  ∀ (f : InsM) (s : State), s.wv.activeMask f.g ≠ 0 → s.acquireSysPending = false → ∀ r ∈ accessRows f s,
    let q := s.checkThreads r.kind r.pieces r.ts
    (∀ n, r.data = some n → s.shadowsAgree f 64 n) →
    (∀ e ∈ q.2, ∃ ps, e.2 = .ok ps ∧ (r.host = false → ∀ p ∈ ps, p.pa / 2 ^ 50 ≠ 2)) →
    (f.so.getLsbD 1 = true → s.releaseDone = true ∧ (r.sys q.2 = true → s.accessesDone = true)) →
    ∃ (u : State) (o : MemOp), exec r.i s = .next (u.progress s.cur.core) ∧
      u.cur = s.cur ∧ s.wv.inFlight u.wv (lenM f) r.cls ∧ s.nextOp ≤ o.id ∧ u.nextOp = o.id + 1 ∧
      u.myCore.ops = s.myCore.ops ++ [o] ∧ (∀ v ∈ s.myCore.ops, v.id < o.id) ∧ o.slot = s.cur.slot ∧ o.kind = r.op ∧
      o.cls = some r.cls ∧ o.size = sizeBytes f.fn ∧
      (∀ e ∈ q.2, ∀ ps, e.2 = .ok ps → ∀ p ∈ ps, ∃ x ∈ o.reqs, x.pa ≤ p.pa ∧ p.pa < x.pa + x.len) ∧
      (r.op = .store → ∀ x ∈ o.reqs, ∀ k, k < x.len → ∃ t ps, (t, Checked.ok ps) ∈ q.2 ∧ ∃ p ∈ ps,
        p.pa ≤ x.pa + k ∧ x.pa + k < p.pa + p.len ∧ x.key = p.key ∧
        x.data.getD k 0 = (leBytes (sizeBytes f.fn) (s.dataOf f (8 * sizeBytes f.fn) t)).getD (p.off + (x.pa + k - p.pa)) 0 ∧
        ∀ v ps', (v, Checked.ok ps') ∈ q.2 → ∀ p' ∈ ps', p'.pa ≤ x.pa + k → x.pa + k < p'.pa + p'.len → v ≤ t) ∧
      (r.op = .atom ∨ r.op = .red → ∀ m, r.data = some m →
        o.reqs.map (fun x => (x.pa, x.len, x.key, x.data)) = q.2.flatMap (fun e => match e.2 with
          | .ok ps => ps.map (fun p => (p.pa, p.len, p.key, leBytes (m / 8) (s.dataOf f m e.1)))
          | _ => [])) ∧
      s.sameMemory (u.progress s.cur.core)

/-- R405, R406, R84, R176: where every thread of such an access faults, none of it happens: the threads run the handler
at the cause of the lowest of them, TRAPPC at the instruction. R159, R166, R176: an access of LDS, STS, LDB or STB
whose every thread lies outside what the block holds, or is misaligned in a buffer, traps without effect; that a misaligned
access of a buffer that lies outside it too is MISALIGNED is the model's choice (log 82). R406, R407: where some threads fault and
others commit, the access of those that commit is put in flight, and then the faulting threads run the handler, the others
pending past the instruction: of LD, ST, ATOM and RED (LDU and STU are one access of the whole wave), and of LDS, STS, LDB, STB
and ATOMS. The model's own choices and readings in it: log 23, 82. -/
def Obligations.AccessesTrap : Prop :=
  (∀ (f : InsM) (s : State), s.wv.activeMask f.g ≠ 0 → s.acquireSysPending = false →
    (∀ r ∈ accessRows f s,
      let q := s.checkThreads r.kind r.pieces r.ts
      (∀ e ∈ q.2, ∃ c i, e.2 = .fault c i) →
      ∀ c i, (q.2.head?.map (fun e => e.2)) = some (.fault c i) →
        exec r.i s = .next (q.1.dropAnswers.trap c i (s.wv.activeMask f.g) (s.wv.ctl.pc + BitVec.ofNat 57 (lenM f)) s.wv.ctl.pc)) ∧
    (∀ i ∈ ([.atom f, .red f] : List Instr),
      (∀ t, (s.wv.activeMask f.g).getLsbD t = true → s.effAddr f 64 57 t % sizeBytes f.fn ≠ 0) →
      exec i s = .next (s.dropAnswers.trap 0x14 0 (s.wv.activeMask f.g) (s.wv.ctl.pc + BitVec.ofNat 57 (lenM f)) s.wv.ctl.pc))) ∧
  (∀ (f : InsM) (s : State),
    let act := s.wv.activeMask f.g
    let n := sizeBytes f.fn
    let trap := fun c => s.trap c 0 act (s.wv.ctl.pc + BitVec.ofNat 57 (lenM f)) s.wv.ctl.pc
    act ≠ 0 →
    (s.spadRange.2 ≤ 2 ^ 17 → (∀ t, act.getLsbD t = true → s.spadRange.2 ≤ s.effAddr f 32 17 t) →
      (s.coreScopeHeld false = false → exec (.lds f) s = .next (trap 0x15)) ∧
      (s.coreScopeHeld (f.so.getLsbD 1) = false → exec (.sts f) s = .next (trap 0x15))) ∧
    (s.acquireSysPending = false → ∀ i ∈ ([.ldb f, .stb f] : List Instr),
      let a := s.effAddr f 32 (bufWidth (fnHi f.fn))
      ((∀ t, act.getLsbD t = true → a t % n ≠ 0) → exec i s = .next (trap 0x14)) ∧
      ((∀ t, act.getLsbD t = true → a t % n = 0 ∧ s.holdsBuf (fnHi f.fn) (a t) = false) → exec i s = .next (trap 0x16)))) ∧
  (∀ (f : InsM) (s : State), s.wv.activeMask f.g ≠ 0 → s.acquireSysPending = false → ∀ r ∈ accessRows f s,
    let q := s.checkThreads r.kind r.pieces r.ts
    let rs := q.2.map (fun e => (e.1, hostAtomic r.host e.2))
    (∀ n, r.data = some n → s.shadowsAgree f 64 n) → someCommit rs →
    (f.so.getLsbD 1 = true → s.releaseDone = true ∧ (r.sys rs = true → s.accessesDone = true)) →
    ∀ t c i, lowestFault rs t c i →
      ∃ (u : State) (o : MemOp) (m : Mask),
        exec r.i s = .next ((u.trap c i m (s.wv.ctl.pc + BitVec.ofNat 57 (lenM f)) s.wv.ctl.pc).progress s.cur.core) ∧
        faultMask rs m ∧ u.cur = s.cur ∧ u.wv.ctl = s.wv.ctl ∧ u.wv.csr = s.wv.csr ∧ u.wv.cnt = s.wv.cnt.bump r.cls (· + 1) ∧
        u.myCore.ops = s.myCore.ops ++ [o] ∧ o.kind = r.op ∧ o.slot = s.cur.slot ∧
        (∀ v, v < 64 → (o.threads.getLsbD v = true ↔ ∃ ps, (v, Checked.ok ps) ∈ rs)) ∧
        (∀ v ps, (v, Checked.ok ps) ∈ rs → ∀ p ∈ ps, ∃ x ∈ o.reqs, x.pa ≤ p.pa ∧ p.pa < x.pa + x.len) ∧
        (∀ x ∈ o.reqs, ∃ v ps, (v, Checked.ok ps) ∈ rs ∧ ∃ p ∈ ps, p.pa < x.pa + x.len ∧ x.pa < p.pa + p.len) ∧
        s.sameMemory u) ∧
  (∀ (f : InsM) (s : State), s.wv.activeMask f.g ≠ 0 → ∀ r ∈ coreRows f s,
    let rs := (threadsOf (s.wv.activeMask f.g)).map (fun t => (t, r.check t))
    r.held = false → (∀ n, r.data = some n → s.shadowsAgree f 32 n) → someCommit rs → ∀ t c i, lowestFault rs t c i →
      ∃ (u : State) (new : List MemOp) (m : Mask),
        let v := u.trap c i m (s.wv.ctl.pc + BitVec.ofNat 57 (lenM f)) s.wv.ctl.pc
        exec r.i s = .next (if r.sends then v.progress s.cur.core else v) ∧
        faultMask rs m ∧ u.cur = s.cur ∧ u.wv.ctl = s.wv.ctl ∧ u.wv.csr = s.wv.csr ∧
        u.myCore.ops = s.myCore.ops ++ new ∧ u.ms = s.ms ∧ (∀ sp, u.myCore.buf sp = s.myCore.buf sp) ∧
        (∀ o ∈ new, o.slot = s.cur.slot) ∧
        (∀ v, v < 64 → ((∃ o ∈ new, o.threads.getLsbD v = true) ↔ r.flies v = true ∧ ∃ ps, (v, Checked.ok ps) ∈ rs)))

/-- R181, R159, R64, R65, R177: LDS and STS whose threads lie inside the block's allocation are put in flight at the port of the
scratchpad, counted in their class, a load's registers in the scoreboard, 16 threads to a beat with the cycles of R162; nothing
else changes. R162, R163: a turn that the pipe has at a port serves the whole of a load's beat: each of its accesses reads the
memory as it stands then, and its data are there when the port's cycles are over; nothing but the operation and the port changes.
Which turn comes, and that one step serves a beat, are the model's own readings: log 80. R170, R414: an access that meets poison halts its wave. What a completed LDS writes is in
RepliesAndHostWindow, what a served STS stores in BufferAccess. -/
def Obligations.ScratchpadAccess : Prop :=
  (∀ (f : InsM) (s : State),
    let act := s.wv.activeMask f.g
    let n := sizeBytes f.fn
    let base := s.spadRange.1
    let a := s.effAddr f 32 17
    act ≠ 0 → fnLo f.fn ≤ 4 → s.spadRange.2 ≤ 2 ^ 17 → (∀ t, act.getLsbD t = true → a t + n ≤ s.spadRange.2) →
    (s.coreScopeHeld false = false →
      completes (.lds f) s (fun t => ∃ o, o.atPort s f .coreLoad 3 0 n act (fun i => base + a i) (fun _ => []) ∧
        s.entered t f s.wv o (sbVec s.wv.win.cur f.d.toNat (regWidth (8 * n))))) ∧
    (s.coreScopeHeld (f.so.getLsbD 1) = false → s.shadowsAgree f 32 (8 * n) →
      completes (.sts f) s (fun t => ∃ o,
        o.atPort s f .coreStore 3 0 n act (fun i => base + a i) (fun i => leBytes n (s.dataOf f (8 * n) i)) ∧
        s.entered t f (s.wv.releasedBy f) o []))) ∧
  (∀ (s : State) (k i : Nat) (o : MemOp), s.mayServe k i o .coreLoad →
    let t := s.portStep k i
    s.served t k i o (fun r => ((s.core k).buf o.space).read r.pa r.len) ∧ (∀ sp, (t.core k).buf sp = (s.core k).buf sp)) ∧
  (∀ (s : State) (k i : Nat) (o : MemOp), (s.core k).ops[i]? = some o → (s.core k).beatReady o = false → s.portStep k i = s) ∧
  (∀ (s : State) (k i j : Nat) (o : MemOp) (r : Request), (s.core k).ops[i]? = some o → (s.core k).beatReady o = true →
    (∀ v x, (s.core k).ops[v]? = some x → x.id = o.id → v = i) → j ∈ o.unit → o.reqs[j]? = some r →
    (s.core k).meetsPoison o r = true → ((s.portStep k i).wave ⟨k, o.slot⟩).halt.isSome = true)

/-- R188, R165, R166, R64, R65, R177: LDB and STB on the array buffer, the accumulator tiles and the side vectors that the wave's
block holds are put in flight at the memory's port, a beat of `b` bytes for ceil(b / 64) cycles; nothing else changes. R171, R181,
R188: a turn of the pipe at a port serves the whole of a store's beat (STS or STB): of several threads that store one byte the last
stays, every other byte stands, and a store into an accumulator tile leaves it without block scales. The model's own choices and
readings in it: log 80. -/
def Obligations.BufferAccess : Prop :=
  (∀ (f : InsM) (s : State),
    let act := s.wv.activeMask f.g
    let n := sizeBytes f.fn
    let sp := fnHi f.fn
    let a := s.effAddr f 32 (bufWidth sp)
    act ≠ 0 → fnLo f.fn ≤ 4 → sp ≤ 2 → s.acquireSysPending = false →
    (∀ t, act.getLsbD t = true → a t % n = 0 ∧ s.holdsBuf sp (a t) = true) →
    completes (.ldb f) s (fun t => ∃ o, o.atPort s f .coreLoad sp 0 n act a (fun _ => []) ∧
      s.entered t f s.wv o (sbVec s.wv.win.cur f.d.toNat (regWidth (8 * n)))) ∧
    (s.shadowsAgree f 32 (8 * n) →
      completes (.stb f) s (fun t => ∃ o, o.atPort s f .coreStore sp 0 n act a (fun i => leBytes n (s.dataOf f (8 * n) i)) ∧
        s.entered t f s.wv o []))) ∧
  (∀ (s : State) (k i : Nat) (o : MemOp), s.mayServe k i o .coreStore →
    let t := s.portStep k i
    let covers := fun (j x : Nat) => j ∈ o.unit ∧ ∃ r, o.reqs[j]? = some r ∧ r.pa ≤ x ∧ x < r.pa + r.data.length
    s.served t k i o (fun _ => []) ∧
      (∀ j r x, covers j x → o.reqs[j]? = some r → (∀ v, j < v → ¬ covers v x) →
        ((t.core k).buf o.space).get x = r.data.getD (x - r.pa) 0) ∧
      (∀ x, (∀ j, ¬ covers j x) → ((t.core k).buf o.space).get x = ((s.core k).buf o.space).get x) ∧
      (∀ sp, sp < 4 → sp ≠ o.space → (t.core k).buf sp = (s.core k).buf sp) ∧
      ∀ b, b < 16 → ((t.core k).scaled.getLsbD b = true ↔
        (s.core k).scaled.getLsbD b = true ∧ ¬ (o.space = 1 ∧ ∃ j ∈ o.unit, ∃ r, o.reqs[j]? = some r ∧ r.pa / 4096 = b)))

/-- R184, R185, R64, R65, R177: ATOMS on the block's own scratchpad is put in flight at its port, the threads in ascending order; on
another core of the domain it leaves as messages, and outside the domain it answers NORING (2). R164, R182: a turn of the pipe at
the port performs one word operation, that of the lowest-numbered thread left: the word takes the new value, the thread the old
one, and nothing else changes. The model's own choices and readings in it: log 80. -/
def Obligations.ScratchpadAtomics : Prop :=
  (∀ (f : InsM) (s : State),
    let act := s.wv.activeMask f.g
    let n := sizeBytes f.fn
    let op := fnHi f.fn
    let bits := if op = 7 then 16 * n else 8 * n
    let base := s.spadRange.1
    act ≠ 0 → fnLo f.fn ≤ 4 → s.coreScopeHeld (f.so.getLsbD 1) = false → s.shadowsAgree f 32 bits →
    ((∀ t, act.getLsbD t = true → s.atomsTarget f t < 2 ^ 17 ∧ s.atomsTarget f t + n ≤ s.spadRange.2 ∧ s.atomsTarget f t % n = 0) →
      ∃ u o, exec (.atoms f) s = .next (u.progress s.cur.core) ∧
        o.atPort s f .coreAtom 3 op n act (fun i => base + s.atomsTarget f i) (fun i => leBytes (bits / 8) (s.dataOf f bits i)) ∧
        s.entered u f (s.wv.releasedBy f) o (sbVec s.wv.win.cur f.d.toNat (regWidth (8 * n)))) ∧
    ((∀ t, act.getLsbD t = true → 2 ^ 31 ≤ s.atomsTarget f t ∧ bitsOf 29 2 (s.atomsTarget f t) = 0 ∧ s.atomsTarget f t % n = 0) →
      ((∀ t, act.getLsbD t = true →
          (s.domOf s.wv.ctx.dom).clusters.contains (clusterOf (atomsCore (s.atomsTarget f t))) = true) →
        ∃ (u : State) (o : MemOp), exec (.atoms f) s = .next (u.progress s.cur.core) ∧ u.ms = s.ms ∧
          u.wv.cnt = s.wv.cnt.bump .ld (· + 1) ∧ u.wv.ctl.pc = s.wv.ctl.pc + BitVec.ofNat 57 (lenM f) ∧
          u.myCore.ops = s.myCore.ops ++ [o] ∧ o.kind = .ratoms ∧ o.threads = act ∧
          o.reqs.map (fun x => x.data) = (threadsOf act).map (fun t =>
            leBytes 16 (s.atomsTarget f t % 2 ^ 17 + 2 ^ 17 * (if n = 8 then 1 else 0)) ++ leBytes 16 (s.dataOf f bits t))) ∧
      ((∀ t, act.getLsbD t = true →
          (s.domOf s.wv.ctx.dom).clusters.contains (clusterOf (atomsCore (s.atomsTarget f t))) = false) →
        ∃ u, exec (.atoms f) s = .next (u.progress s.cur.core) ∧
          s.wroteV u (lenM f) (s.wv.releasedBy f) f.d.toNat (8 * n) (fun l => act.getLsbD (s.wv.visible l)) (fun _ => 2)))) ∧
  (∀ (s : State) (k i j : Nat) (o : MemOp) (r : Request), s.mayServe k i o .coreAtom → o.unit = [j] → o.reqs[j]? = some r →
    let t := s.portStep k i
    let old := ((s.core k).buf o.space).read r.pa r.len
    s.served t k i o (fun _ => old) ∧
      (∀ x, ((t.core k).buf o.space).get x = if r.pa ≤ x ∧ x < r.pa + r.len then
        (leBytes r.len (atomNew o.atomFn r.len (leNat old) (leNat r.data))).getD (x - r.pa) 0 else ((s.core k).buf o.space).get x) ∧
      (∀ sp, sp < 4 → sp ≠ o.space → (t.core k).buf sp = (s.core k).buf sp)) ∧
  (∀ (s : State) (k i : Nat) (o : MemOp), s.mayServe k i o .coreAtom → ∃ j r, o.unit = [j] ∧ o.reqs[j]? = some r ∧ r.st = .unsent ∧
    ∀ v x, v < j → o.reqs[v]? = some x → x.st ≠ .unsent)

/-- R186, R147, R145: FENCE passes when what its scope orders has completed, and takes the copies' completions into pts.
R187, R136: CCTL .DALL empties the core's L1; .DL drops the lines that the active threads name and that translate; a
prefetch leaves without a counter and writes nothing. The model's own choices and readings in it: log 22. -/
def Obligations.FencesAndCaches : Prop :=
  (∀ (f : InsM) (s : State), s.wv.activeMask f.g ≠ 0 → s.acquireSysPending = false → s.acquirePending = false →
    s.releaseDone = true → (fnHi f.fn = 0 → s.writesDone = true) → (2 ≤ fnHi f.fn → s.accessesDone = true) →
    exec (.fence f) s = .next (s.withWv { s.wv with
      pts := max s.wv.pts s.wv.copyTs
      ctl := { s.wv.ctl with pc := s.wv.ctl.pc + BitVec.ofNat 57 (lenM f) }
      answers := []
      waits := { s.wv.waits with stall := none, rejects := 0 } })) ∧
  (∀ (f : InsM) (s : State), s.wv.activeMask f.g ≠ 0 →
    let lines := ((threadsOf (s.wv.activeMask f.g)).map (fun t => s.effAddr f 64 57 t / 128 * 128)).eraseDups
    let q := s.cctlLines (fnHi f.fn != 2) lines
    (fnHi f.fn = 3 → exec (.cctl f) s = .next ((s.setMyCore { s.myCore with l1 := [] }).advance (lenM f))) ∧
    (fnHi f.fn = 2 → (∀ c ∈ q.2, c ≠ .wait) →
      completes (.cctl f) s (fun t =>
        s.sameMemory t ∧ t.wv.cnt = s.wv.cnt ∧ t.wv.win = s.wv.win ∧ t.wv.s = s.wv.s ∧
        t.wv.ctl.pc = s.wv.ctl.pc + BitVec.ofNat 57 (lenM f) ∧
        ∀ l, l ∈ t.myCore.l1 ↔ l ∈ s.myCore.l1 ∧ ∀ c ∈ q.2, ∀ ps, c = .ok ps → ∀ p ∈ ps, p.pa / 128 ≠ l.line)) ∧
    (fnHi f.fn < 2 → (∀ c ∈ q.2, c ≠ .wait) →
      ∃ (u : State) (o : MemOp), exec (.cctl f) s = .next (u.progress s.cur.core) ∧
        u.myCore.ops = s.myCore.ops ++ [o] ∧ o.kind = .prefetch ∧ o.cls = none ∧ u.wv.cnt = s.wv.cnt ∧ u.wv.win = s.wv.win ∧
        u.wv.ctl.pc = s.wv.ctl.pc + BitVec.ofNat 57 (lenM f) ∧ s.sameMemory (u.progress s.cur.core)))

/-- R351, R350: MSEND to a core of another domain answers 2 at once; otherwise its bytes leave as one message, counted in
the ms class: those of DATA in the active threads, zero for the others, with the status register scoreboarded until the
answer. -/
def Obligations.MessageSend : Prop :=  ∀ (f : InsM) (s : State), s.wv.activeMask f.g ≠ 0 → s.acquirePending = false → s.shadowsAgree f 32 (8 * sizeBytes f.fn) →
    let a := s.srcU none 32 f.addr % 2 ^ 15
    let inside := (s.domOf s.wv.ctx.dom).clusters.contains (clusterOf (msgCore a))
    (inside = false → completes (.msend f) s (fun t => s.wroteS t (lenM f) s.wv f.d.toNat 32 2)) ∧
    (inside = true → s.writesDone = true → (f.so = 2 → s.releaseDone = true) →
      ∃ (u : State) (o : MemOp) (x : Request), exec (.msend f) s = .next (u.progress s.cur.core) ∧ u.ms = s.ms ∧
        s.wv.cnt.bump .ms (· + 1) = u.wv.cnt ∧ u.wv.win = s.wv.win ∧ u.wv.s = s.wv.s ∧
        u.wv.ctl.pc = s.wv.ctl.pc + BitVec.ofNat 57 (lenM f) ∧
        u.myCore.ops = s.myCore.ops ++ [o] ∧ o.kind = .msend ∧ o.reqs = [x] ∧ x.pa = a ∧
        x.data = (List.range (16 * 2 ^ fnHi f.fn / sizeBytes f.fn)).flatMap (fun i =>
          leBytes (sizeBytes f.fn) (if s.wv.active f.g i then s.dataOf f (8 * sizeBytes f.fn) i else 0)) ∧
        u.wv.sb = s.wv.sb ++ [(SbReg.s (f.d.toNat - 0x20), o.id)])

/-- R189, R201, R211 to R213, R146: TCOPY and TCOPYM enter the copy queue with their tag BUSY and the cp class counted,
TSHAPE and TSFENCE without either; a tag that is not FREE traps, and no memory changes. -/
def Obligations.CopiesIssue : Prop :=  ∀ (f : InsT) (s : State), s.wv.guardUni f.g = true → s.myCore.copies.length < 16 →
    let tag := w1Of f % 64
    let past := { s.wv with
      ctl := { s.wv.ctl with pc := s.wv.ctl.pc + BitVec.ofNat 57 (lenT f) }
      answers := []
      waits := { s.wv.waits with stall := none, rejects := 0 } }
    (∀ r ∈ ([(.tcopy f, .tcopy), (.tcopym f, .tcopym)] : List (Instr × OpT)), s.acquirePending = false →
      (Map.getD s.myCore.tags tag Tag.free = .free →
        completes r.1 s (fun t => ∃ e : CopyEntry, e.ofCommand s r.2 f ∧
          t = { s with cores := t.cores, nextOp := s.nextOp + 1, wv := { past with cnt := s.wv.cnt.bump .cp (· + 1) } } ∧
          s.coreBecomes t s.cur.core { s.myCore with
            tags := Map.set s.myCore.tags tag .busy
            copies := s.myCore.copies ++ [e] })) ∧
      (Map.getD s.myCore.tags tag Tag.free ≠ .free → exec r.1 s = .next (s.trapAll 0x31 (2 ^ 16 * tag)))) ∧
    completes (.tshape f) s (fun t => ∃ e : CopyEntry, e.ofCommand s .tshape f ∧
      t = { s with
        cores := t.cores, nextOp := s.nextOp + 1
        wv := { past with sb := s.wv.sb ++ [(SbReg.s (f.d.toNat - 0x20), s.nextOp)] } } ∧
      s.coreBecomes t s.cur.core { s.myCore with copies := s.myCore.copies ++ [e] }) ∧
    completes (.tsfence f) s (fun t => ∃ e : CopyEntry, e.ofCommand s .tsfence f ∧
      t = { s with cores := t.cores, nextOp := s.nextOp + 1, wv := past } ∧
      s.coreBecomes t s.cur.core { s.myCore with copies := s.myCore.copies ++ [e] })

/-- R214, R150, R151, R201: the tag waits. TWALL returns when no tag of its mask is BUSY; TWANY and TFIRST return the
tags, or the lowest tag, that are DONE or ERROR, once there is one or none is BUSY. The wave takes the timestamps of
the DONE tags returned; nothing else changes. R208, R214, R215: a tag wait whose returned set holds a tag in ERROR
takes COPY_FAULT with the code, the level and the lowest such tag; TCLR frees the tags of its mask that are DONE or
ERROR and leaves the others. -/
def Obligations.CopyTags : Prop :=
  (∀ (f : InsT) (s : State), s.wv.guardUni f.g = true →
    let inMask := fun i => decide (i < 64) && (s.srcU none 64 f.a).testBit i
    let ready := fun i => inMask i && (s.tag i).ready
    let takes := fun (set : Nat → Bool) (p : Nat) => s.wv.pts ≤ p ∧ (∀ i ts, set i = true → s.tag i = .done ts → ts ≤ p) ∧
      (p = s.wv.pts ∨ ∃ i ts, set i = true ∧ s.tag i = .done ts ∧ p = ts)
    let clean := fun (set : Nat → Bool) => ∀ i c l, set i = true → s.tag i ≠ .error c l
    let some' := (∃ i, ready i = true) ∨ ∀ i, inMask i = true → s.tag i ≠ .busy
    ((∀ i, inMask i = true → s.tag i ≠ .busy) → clean inMask →
      completes (.twall f) s (fun t => ∃ p, takes inMask p ∧ t = (s.withWv { s.wv with pts := p }).advance (lenT f))) ∧
    (some' → clean ready →
      completes (.twany f) s (fun t => ∃ p v, takes ready p ∧ (∀ i, v.testBit i = ready i) ∧
        s.wroteS t (lenT f) { s.wv with pts := p } f.d.toNat 64 v)) ∧
    (some' → ∀ n, (n = 64 ∧ (∀ i, ready i = false) ∨ ready n = true ∧ ∀ i, i < n → ready i = false) →
      clean (fun i => i == n && ready i) →
      completes (.tfirst f) s (fun t => ∃ p, takes (fun i => i == n && ready i) p ∧
        s.wroteS t (lenT f) { s.wv with pts := p } f.d.toNat 32 n))) ∧
  (∀ (f : InsT) (s : State), s.wv.guardUni f.g = true →
    let inMask := fun i => decide (i < 64) && (s.srcU none 64 f.a).testBit i
    ((∀ i, inMask i = true → s.tag i ≠ .busy) → ∀ n c l, inMask n = true → s.tag n = .error c l →
      (∀ i, i < n → inMask i = true → ∀ c l, s.tag i ≠ .error c l) →
      exec (.twall f) s = .next (s.trapAll 0x30 (c + (if c ≤ 7 then 2 ^ 8 * l else 0) + 2 ^ 13 + 2 ^ 16 * n))) ∧
    (∀ n c l, inMask n = true → s.tag n = .error c l →
      ((∀ i, i < n → inMask i = true → ∀ c l, s.tag i ≠ .error c l) →
        exec (.twany f) s = .next (s.trapAll 0x30 (c + (if c ≤ 7 then 2 ^ 8 * l else 0) + 2 ^ 13 + 2 ^ 16 * n))) ∧
      ((∀ i, i < n → inMask i = true → (s.tag i).ready = false) →
        exec (.tfirst f) s = .next (s.trapAll 0x30 (c + (if c ≤ 7 then 2 ^ 8 * l else 0) + 2 ^ 13 + 2 ^ 16 * n)))) ∧
    completes (.tclr f) s (fun t =>
      t = (({ s with cores := t.cores } : State).withWv s.wv).advance (lenT f) ∧
      s.coreBecomes t s.cur.core { s.myCore with tags := t.myCore.tags } ∧
      ∀ i, t.tag i = if inMask i = true ∧ (s.tag i).ready = true then .free else s.tag i))

/-- R198, R192, R212, R213, R196: the record stage. The oldest entry without a record passes it: a TSFENCE drops records from
the cache; a copy whose record the cache holds binds it with its timestamp and size, makes it the one used last, and meets
the first check that it fails; a misaligned record address is malformed; any other record is read at its home, and TSHAPE
always reads. What comes of a TSHAPE's read enters the cache and gives its status 0. -/
def Obligations.RecordStage : Prop :=  (∀ (s : State) (k : Nat) (e : CopyEntry),
    let c := s.core k
    let mine := fun (r : RecEntry) => r.asn == e.ctx.asn && r.va == e.a / 64
    let pts := (s.wave ⟨k, e.slot⟩).pts
    c.copies.find? (fun e => e.bound.isNone && e.err.isNone) = some e → e.stop = false → e.reading = false →
    (e.op = .tsfence → exec (.copyRecordStage k) s = .next (s.setCore k { c with
      recs := if e.fn = 0 then [] else c.recs.filter (fun r => !(r.asn == e.ctx.asn && r.va == e.a / 64))
      copies := c.copies.filter (fun x => x.id != e.id) })) ∧
    (e.op = .tcopy ∨ e.op = .tcopym → c.writesBefore e.slot e.before = false → e.a % 64 = 0 →
      ∀ r, c.recs.find? mine = some r →
        let e1 := { e with bound := some r.bits, ts := pts, total := (shapeOf r.bits).bytes }
        completes (.copyRecordStage k) s (fun t =>
          t = { s with cores := t.cores } ∧
          (t.core k).copies = c.copies.map (fun x =>
            if x.id = e.id then { e1 with err := (s.copyCheck k e1).map (fun code => (code, 0)) } else x) ∧
          (t.core k).recs = c.recs.filter mine ++ c.recs.filter (fun x => !mine x) ∧
          (t.core k).tags = c.tags ∧ (t.core k).spad = c.spad ∧ (t.core k).abuf = c.abuf ∧ (t.core k).ops = c.ops)) ∧
    (e.op = .tcopy ∨ e.op = .tcopym → c.writesBefore e.slot e.before = false → e.a % 64 ≠ 0 →
      completes (.copyRecordStage k) s (fun t => s.coreBecomes t k { c with copies := c.copies.map (fun x =>
        if x.id = e.id then { e with ts := pts, err := some (0x20, 0) } else x) })) ∧
    (e.op ≠ .tsfence → c.writesBefore e.slot e.before = false → e.a % 64 = 0 → (e.op = .tshape ∨ c.recs.find? mine = none) →
      ∀ s1 pa key mt d h, s.engineFind k e.ctx e.a 4 pts = (s1, .ok pa key mt) → pa < 2 ^ 50 →
        s1.homeOf e.ctx.dom pa = some (d, h) → (s1.port (portOf k)).hasRoom = true →
        ∃ p : Packet, p.ty = .rd ∧ p.slice = h ∧ p.addr = pa ∧ p.len = 64 ∧ p.key = key ∧ p.dom = e.ctx.dom ∧ p.ts = pts ∧
          exec (.copyRecordStage k) s = .next ((s1.portSend (portOf k) p (.record k e.id)).mapCopy k e.id
            (fun _ => { e with ts := pts, reading := true })))) ∧
  (∀ (s : State) (k id : Nat) (bs : List Byte) (e : CopyEntry),
    let c := s.core k
    c.copies.find? (fun x => x.id == id && x.reading) = some e → e.op = .tshape →
    shapeBad (BitVec.ofNat 512 (leNat bs)) = false → (s.wave ⟨k, e.slot⟩).sb.any (fun r => r.2 == e.id) = true →
    let t := s.answerRecord k id 0 bs
    (t.core k).recs = ⟨e.ctx.asn, e.a / 64, BitVec.ofNat 512 (leNat bs)⟩ ::
        (c.recs.filter (fun r => !(r.asn == e.ctx.asn && r.va == e.a / 64))).take 15 ∧
      (t.core k).copies = c.copies.filter (fun x => x.id != e.id) ∧ t.ms = s.ms ∧
      (t.wave ⟨k, e.slot⟩).sb = (s.wave ⟨k, e.slot⟩).sb.filter (fun r => r.2 != e.id) ∧
      (t.wave ⟨k, e.slot⟩).getS (e.dst - 0x20) = 0 ∧
      ∀ n, n ≠ e.dst - 0x20 → (t.wave ⟨k, e.slot⟩).getS n = (s.wave ⟨k, e.slot⟩).getS n)

/-- R149, R189, R194, R205, R97: one block of a running copy. Inward, a chunk of 64 bytes is asked of its home; the
bytes that come are written into SPAD or ABUF at their places once every byte of an aligned 64-byte chunk of that side
has come. Outward, a block of the bytes of the core side goes to its home as a WR; a multicast chunk leaves as a
CPRDM. A block already moved or on its way is not moved again. R202, R208, R151, R206, R209: a copy that has moved
every byte leaves the queue with its tag DONE at the highest timestamp of its writes, and one that has met an error
stops with its tag ERROR; the wave's cp counter falls, and with .PH the phaser gets its bytes in the same step. The
model's own choices and readings in it: log 83, 98. -/
def Obligations.CopiesRunAndEnd : Prop :=
  (∀ (s : State) (k i at' : Nat) (e : CopyEntry), (s.core k).copies[i]? = some e → e.stop = false →
    (s.core k).running.any (fun x => x.id == e.id) = true → at' < 2 ^ 57 → s.mayBegin e at' = true →
    (at' ∈ e.chunks ∨ at' ∈ e.flying → exec (.copyChunk k i at') s = .next s) ∧
    (at' ∉ e.chunks → at' ∉ e.flying →
      (e.multi = false → e.outward = false → at' % 64 = 0 → e.due at' ≠ [] →
        ∀ s1 pa key mt d h, s.engineFind k e.ctx at' 4 e.ts = (s1, .ok pa key mt) → pa < 2 ^ 50 →
          s1.homeOf e.ctx.dom pa = some (d, h) → (s1.port (portOf k)).hasRoom = true →
          ∃ p : Packet, p.ty = .rd ∧ p.slice = h ∧ p.addr = pa ∧ p.len = 64 ∧ p.key = key ∧ p.dom = e.ctx.dom ∧ p.ts = e.ts ∧
            exec (.copyChunk k i at') s = .next ((s1.portSend (portOf k) p (.chunk k e.id at')).mapCopy k e.id
              (fun x => { x with flying := x.flying ++ [at'] }))) ∧
      (e.multi = false → e.outward = true →
        let all := e.due (at' / 64 * 64)
        let n := outBlock (all.map (fun q => q.1)) (at' % 64) 6
        let mine := all.filter (fun q => decide (at' % 64 ≤ q.1) && decide (q.1 < at' % 64 + n))
        n ≠ 0 → s.portsIdle k → s.sourcePoisoned k e (mine.map (fun q => q.2)) = false →
        let s0 := (s.mapCopy k e.id (fun _ => s.readSource k e (mine.map (fun q => q.2)))).drawn
        ∀ s1 pa key mt d h, s0.engineFind k e.ctx at' 5 e.ts = (s1, .ok pa key mt) → pa < 2 ^ 50 →
          s1.homeOf e.ctx.dom pa = some (d, h) → (s1.port (portOf k)).hasRoom = true →
          ∃ p : Packet, p.ty = .wr ∧ p.slice = h ∧ p.addr = pa ∧ p.len = n ∧ p.key = key ∧ p.dom = e.ctx.dom ∧ p.ts = e.ts ∧
            p.data.length = n ∧
            (∀ j, j < n → ∃ q ∈ all, q.1 = at' % 64 + j ∧ p.data.getD j 0 = s.sideByte k e q.2) ∧
            exec (.copyChunk k i at') s = .next ((s1.portSend (portOf k) p (.chunk k e.id at')).mapCopy k e.id
              (fun x => { x with flying := x.flying ++ [at'] }))) ∧
      (e.multi = true → at' % 64 = 0 → at' < e.total →
        ∀ s1 pa key mt d h, s.engineFind k e.ctx (e.chunkVa at') 4 e.ts = (s1, .ok pa key mt) → pa < 2 ^ 50 →
          s1.homeOf e.ctx.dom pa = some (d, h) →
          ∃ p : Packet, p.ty = .cprdm ∧ p.slice = h ∧ p.addr = pa ∧ p.len = 64 ∧ p.key = key ∧ p.dom = e.ctx.dom ∧
            exec (.copyChunk k i at') s = .next
              ((s1.mapCopy k e.id (fun x => { x with
                flying := x.flying ++ [at'], far := if e.cmask1 = 0 then x.far else x.far ++ [at'] })).portQueue
                (256 * (k / 2048) + 2 * (k / 16 % 128)) p (.chunk k e.id at'))))) ∧
  (∀ (s : State) (k id chunk : Nat) (data : List Byte) (e : CopyEntry),
    (s.core k).copies.find? (fun x => x.id == id) = some e → e.multi = false → e.outward = false →
    s.portsIdle k →
    let t := s.landRead k id chunk data
    t.ms = s.ms ∧ t.wv = s.wv ∧ t.waves = s.waves ∧ (∀ j, j ≠ k → t.core j = s.core j) ∧
    (e.dir ≠ 0 → (t.core k).spad = (s.core k).spad) ∧ (e.dir = 0 → (t.core k).abuf = (s.core k).abuf) ∧
    ∀ p ∈ e.due chunk,
      (∀ q ∈ e.sideChunk (e.placed p.2 / 64), e.base ≤ q.2 →
        (Map.get? e.arrived q.2).isSome = true ∨ ∃ r ∈ e.due chunk, r.2 = q.2) →
      p.2 < e.total →
      (if e.dir = 0 then (t.core k).spad.get (e.sbOn s k + e.placed p.2) else (t.core k).abuf.get (e.placed p.2)) =
        data.getD p.1 0) ∧
  (∀ (s : State) (k i : Nat) (e : CopyEntry), (s.core k).copies[i]? = some e → e.flying = [] →
    let id : WaveId := ⟨k, e.slot⟩
    let ends := fun (t : State) (tag : Tag) =>
      t.ms = s.ms ∧ t.fe = s.fe ∧ t.net = s.net ∧
      Map.getD (t.core k).tags e.tag .free = tag ∧
      (∀ j, j ≠ e.tag → Map.getD (t.core k).tags j .free = Map.getD (s.core k).tags j .free) ∧
      (t.core k).copies = (s.core k).copies.filter (fun x => x.id != e.id) ∧
      (t.wave id).cnt = (s.wave id).cnt.bump .cp (· - 1) ∧ (t.wave id).copyTs = max (s.wave id).copyTs (e.wts.getD 0) ∧
      (t.wave id).ctl = (s.wave id).ctl ∧ (t.wave id).win = (s.wave id).win
    (e.bound.isSome = true → e.err = none → e.moved = e.total →
      ∃ u, ends u (.done (e.wts.getD 0)) ∧ exec (.copyComplete k i) s = .next
        (if e.ph && !e.multi then u.applyAdd (k / 16) ⟨e.c, e.total, e.wts, k, e.ctx.dom⟩ else u)) ∧
    (∀ c l, e.err = some (c, l) → e.far = [] → e.reading = false →
      ∃ u, ends u (.error c l) ∧ exec (.copyStop k i) s = .next
        (if e.ph && e.bound.isSome then u.applyAdd (k / 16) ⟨e.c, e.count k - e.added, e.wts, k, e.ctx.dom⟩ else u)))

/-- R333: what a flip does, and when. R343 to R347, R331, R334, R335, R337, R338: the phaser instructions on a phaser
that the wave may use. -/
def Obligations.Phasers : Prop :=
  (∀ p : Phaser,
    (p.full → p.test = { p with
      phase := (p.phase + 1) % 2 ^ 16, overrun := decide (p.exp < p.bytes), lts := max p.lts p.cts, cts := 0
      nsig := (p.nsig + p.njoin + 2 ^ 32 - p.ndrop) % 2 ^ 32, njoin := 0, ndrop := 0, narr := 0, bytes := 0, exp := 0 }) ∧
    (¬ p.full → p.test = p)) ∧
  (∀ (f : InsT) (s : State), s.wv.guardUni f.g = true →
    let k := s.cur.core / 16
    let h := s.handleA f
    let p := s.phaserAt (phRef h)
    let b := s.srcU none 32 f.b
    let fb := h.getLsbD 31
    (f.fn ≠ 1 →
      (∀ i, (s.cluster k).freePhaser = some i →
        let gen := (Map.getD (s.cluster k).phasers i Phaser.reset).gen
        completes (.phnew f) s (fun t => State.wroteS
          (s.setPhaser (.hardware k i gen true) { Phaser.reset with live := true, gen := gen, grid := s.wv.ident.grid })
          t (lenT f) s.wv f.d.toNat 32 (phHandle k i gen).toNat)) ∧
      ((s.cluster k).freePhaser = none → completes (.phnew f) s (fun t => s.wroteS t (lenT f) s.wv f.d.toNat 32 0))) ∧
    (f.fn = 1 →
      let a := s.srcU none 32 f.a % 2 ^ 17
      (a % 64 ≠ 0 ∨ s.spadRange.2 < a + 64 → exec (.phnew f) s = .next (s.trapAll 0x35 7)) ∧
      (a % 64 = 0 → a + 64 ≤ s.spadRange.2 →
        (∀ i, (s.cluster k).freePhaser = some i →
          let gen := (Map.getD (s.cluster k).phasers i Phaser.reset).gen
          completes (.phnew f) s (fun t => State.wroteS
            (s.setPhaser (.hardware k i gen true) { Phaser.reset with live := true, gen := gen, grid := s.wv.ident.grid })
            t (lenT f) s.wv f.d.toNat 32 (phHandle k i gen).toNat)) ∧
        ((s.cluster k).freePhaser = none → s.acquirePending = false → s.coreScopeDone = true →
          completes (.phnew f) s (fun t => State.wroteS
            (s.setPhaser (.fallback s.cur.core (s.spadRange.1 + a) true) { Phaser.reset with live := true })
            t (lenT f) s.wv f.d.toNat 32 (fbHandle s.cur.core (s.spadRange.1 + a)).toNat)))) ∧
    (s.namesPhaser f →
      (p.regs = 0 → exec (.phfree f) s = .next (s.rephased f
        (if fb then { p with live := false } else { Phaser.reset with gen := p.gen % 255 + 1 }) s.wv.slots)) ∧
      (p.regs ≠ 0 → exec (.phfree f) s = .next (s.trapAll 0x35 6)) ∧
      (∀ i, s.wv.freeSlot = some i → s.wv.regSlot h = none →
        let late := f.fn ≠ 2 ∧ p.narr ≠ 0
        exec (.phreg f) s = .next (s.rephased f
          { p with
            regs := (p.regs + 1) % 2 ^ 32
            nsig := if f.fn = 2 ∨ late then p.nsig else (p.nsig + 1) % 2 ^ 32
            njoin := if late then (p.njoin + 1) % 2 ^ 16 else p.njoin }
          (Map.set s.wv.slots i ⟨h, f.fn.toNat, if late then (p.phase + 1) % 2 ^ 16 else p.phase⟩))) ∧
      (∀ i g, s.wv.regSlot h = some (i, g) →
        let q := { p with regs := (p.regs + 2 ^ 32 - 1) % 2 ^ 32 }
        let gone := fun q => s.rephased f q (Map.del s.wv.slots i)
        (g.mode = 2 → exec (.phdrop f) s = .next (gone q.test)) ∧
        (g.mode ≠ 2 → g.sph = p.phase → p.narr ≠ 0 → s.syncReleased = true →
          exec (.phdrop f) s = .next (gone (Phaser.test { q with
            cts := max p.cts s.wv.pts, narr := (p.narr + 1) % 2 ^ 32, ndrop := (p.ndrop + 1) % 2 ^ 16 }))) ∧
        (g.mode ≠ 2 → g.sph = p.phase → p.narr = 0 → exec (.phdrop f) s = .next (gone (Phaser.test { q with nsig := (p.nsig + 2 ^ 32 - 1) % 2 ^ 32 }))) ∧
        (g.mode ≠ 2 → g.sph ≠ p.phase →
          exec (.phdrop f) s = .next (gone (Phaser.test { q with ndrop := (p.ndrop + 1) % 2 ^ 16 }))) ∧
        (g.mode ≠ 2 → s.syncReleased = true → p.phase = g.sph →
          exec (.phsig f) s = .next (s.rephased f
            (Phaser.test { p with exp := (p.exp + b) % 2 ^ 32, cts := max p.cts s.wv.pts, narr := (p.narr + 1) % 2 ^ 32 })
            (Map.set s.wv.slots i { g with sph := (g.sph + 1) % 2 ^ 16 }))) ∧
        (g.mode ≠ 1 →
          let n := (p.phase + 2 ^ 16 - b % 2 ^ 16) % 2 ^ 16
          let done := 1 ≤ n ∧ n ≤ 32767
          let status := fun d : Nat => p.phase + 2 ^ 16 * d + 2 ^ 17 * p.overrun.toNat + 2 ^ 18 * fb.toNat
          let w := fun pts => { s.wv with pts := pts, waits := { s.wv.waits with polls := 0, pollAt := 0 } }
          (done → ∀ i ∈ ([.phwait f, .phsw f] : List Instr), (s.wv.waits.polls = 0 ∨ s.wv.waits.pollAt ≤ s.now) →
            completes i s (fun t => s.wroteS t (lenT f) (w (max s.wv.pts p.lts)) f.d.toNat 32 (status 1))) ∧
          (¬ done → completes (.phsw f) s (fun t => s.wroteS t (lenT f) (w s.wv.pts) f.d.toNat 32 (status 0))))) ∧
      exec (.phexp f) s = .next (s.rephased f (Phaser.test { p with exp := (p.exp + b) % 2 ^ 32 }) s.wv.slots) ∧
      (s.wv.regSlot h = none → ∀ i ∈ ([.phdrop f, .phsig f, .phsw f] : List Instr), exec i s = .next (s.trapAll 0x35 3))))

/-- R348, R352, R123, R353 to R355, R342: the barrier, the ring wait and the stream queues. The last running wave of a
block to reach BAR lets every one of them past it with q0 telling whether the block stands abandoned. The model's own
choices and readings in it: log 37. -/
def Obligations.BarriersAndQueues : Prop :=  ∀ (f : InsT) (s : State), s.wv.guardUni f.g = true →
    let n := s.srcU none 32 f.a % 32
    let es := ((s.cluster (s.cur.core / 16)).stream n).entries
    let b := s.srcU none 32 f.b
    let arrived := s.withWv { s.wv with waits := { s.wv.waits with barrier := true } }
    (s.coreScopeDone = true →
      (∀ blk, s.myBlock? = some blk → s.cur.slot ∈ blk.waves → s.wv.halt = none → s.wv.waits.ending = false →
        (∀ i ∈ blk.waves, (arrived.wave ⟨s.cur.core, i⟩).halt = none → (arrived.wave ⟨s.cur.core, i⟩).waits.ending = false →
          (arrived.wave ⟨s.cur.core, i⟩).waits.barrier = true) →
        blk.waves.Nodup →
        completes (.bar f) s (fun t => t.ms = s.ms ∧ t.cores = s.cores ∧ ∀ i ∈ blk.waves,
          let id : WaveId := ⟨s.cur.core, i⟩
          let w := s.wave id
          t.wave id = if w.halt.isSome ∨ w.waits.ending = true then w else { w with
            q := Map.set w.q 0 blk.abandoned
            ctl := { w.ctl with pc := w.ctl.pc + 8 }
            waits := { w.waits with barrier := false, stall := none } }))) ∧
    (s.acquirePending = false → s.coreScopeDone = true → let m := s.srcU none 32 f.a % 8
      s.myCore.ringPoisoned m = false → ∀ r, s.myCore.ring m = some r → s.myCore.spad.poisoned r.tail 4 = false →
        s.myCore.spadWord r.tail ≠ b →
        completes (.rwait f) s (fun t => s.wroteS t (lenT f) { s.wv with pts := max s.wv.pts (s.myCore.rt.getD m 0) } f.d.toNat 32
          (s.myCore.spadWord r.tail))) ∧
    (s.acquirePending = false → s.coreScopeDone = true → s.myCore.ringPoisoned (s.srcU none 32 f.a % 8) = false →
      s.myCore.ring (s.srcU none 32 f.a % 8) = none → exec (.rwait f) s = .next (s.trapAll 0x35 8)) ∧
    (s.holdsQueue n → s.syncReleased = true → es.length < 64 →
      ∀ r ∈ ([(.qpush f, b, false), (.qmark f, b % 8, true)] : List (Instr × Nat × Bool)),
        exec r.1 s = .next ((s.setEntries n (es ++ [⟨BitVec.ofNat 32 r.2.1, r.2.2, s.wv.pts⟩])).advance (lenT f))) ∧
    (s.holdsQueue n → ∀ e rest, es = e :: rest →
      completes (.qpop f) s (fun t => State.wroteS (s.setEntries n rest) t (lenT f)
        { s.wv with q := Map.set s.wv.q f.c.toNat e.marker, pts := max s.wv.pts e.ts } f.d.toNat 32 e.value.toNat)) ∧
    (s.holdsQueue n → ∃ v, completes (.qstat f) s (fun t => s.wroteS t (lenT f) s.wv f.d.toNat 32 v) ∧
      (es.length ≤ 64 → v % 128 = es.length ∧ (v.testBit 7 = true ↔ ∃ e rest, es = e :: rest ∧ e.marker = true) ∧
        (∀ e rest, es = e :: rest → e.marker = true → v / 2 ^ 8 = e.value.toNat % 8))) ∧
    (¬ s.holdsQueue n → ∀ i ∈ ([.qpush f, .qpop f, .qmark f, .qstat f] : List Instr), exec i s = .next (s.trapAll 0x35 9))

/-- R312, R297, R313, R306: BOND of the last block of a gang brings the lease and passes; UNBOND ends or bars it. ACLAIM
takes free slots within `.aslots` or says why not; AFREE leaves the release of its slots to the array buffer. -/
def Obligations.BondsAndSlots : Prop :=  ∀ (f : InsT) (s : State), s.wv.guardUni f.g = true → ∀ b, s.myBlock? = some b →
    let pc := s.wv.ctl.pc + BitVec.ofNat 57 (lenT f)
    let m := BitVec.ofNat 32 (s.srcU none 32 f.a)
    let taken := (s.myCore.kept &&& m) != 0 ||
      s.myCore.blocks.any (fun x => !(x.grid == b.grid && x.b == b.b) && (x.amask &&& m) != 0)
    (∀ n g, b.gang = some n → Map.get? s.gangs n = some g → b.bonded = false → s.wv.waits.bond = false →
      g.barred = false → (∀ k ∈ g.cores, k ∈ g.bonded ∨ k = s.cur.core) →
      completes (.bond f) s (fun t =>
        Map.get? t.gangs n = some { g with bonded := g.bonded ++ [s.cur.core], lease := true } ∧
        (∃ b', t.myCore.blockOf? t.wv = some b' ∧ b'.bonded = true) ∧ t.wv.ctl.pc = pc ∧ t.ms = s.ms ∧ t.clusters = s.clusters)) ∧
    (∀ n g, b.gang = some n → Map.get? s.gangs n = some g →
      completes (.unbond f) s (fun t =>
        Map.get? t.gangs n = some { g with lease := false, barred := true } ∧
        (∃ b', t.myCore.blockOf? t.wv = some b' ∧ b'.left = true) ∧ t.wv.ctl.pc = pc ∧ t.ms = s.ms ∧ t.clusters = s.clusters)) ∧
    (b.gang = none → exec (.bond f) s = .next (s.trapAll 0x32 1)) ∧
    (taken = true → completes (.aclaim f) s (fun t => s.wroteS t (lenT f) s.wv f.d.toNat 32 1)) ∧
    (taken = false → b.amax < countBits (b.amask ||| m) →
      completes (.aclaim f) s (fun t => s.wroteS t (lenT f) s.wv f.d.toNat 32 2)) ∧
    (taken = false → countBits (b.amask ||| m) ≤ b.amax →
      completes (.aclaim f) s (fun t => ∃ s1, State.wroteS s1 t (lenT f) s.wv f.d.toNat 32 0 ∧
        (∃ b', s1.myBlock? = some b' ∧ b' = { b with amask := b.amask ||| m, freeing := b.freeing &&& ~~~m }) ∧
        s1.ms = s.ms ∧ s1.waves = s.waves ∧ ∀ x, s1.myCore.abuf.get x =
          if m.getLsbD (x / 2048) ∧ ¬ b.amask.getLsbD (x / 2048) ∧
              (∃ v, Map.get? s.myCore.users (512 + x / 2048) = some v ∧ v ≠ s.wv.ctx.dom) then 0
          else s.myCore.abuf.get x)) ∧
    completes (.afree f) s (fun t => t.wv.ctl.pc = pc ∧ t.wv.win = s.wv.win ∧ t.wv.s = s.wv.s ∧ t.ms = s.ms ∧
      t.clusters = s.clusters ∧
      ∃ b', t.myCore.blockOf? t.wv = some b' ∧ ∀ i, i < 32 →
        m.getLsbD i = true → b.amask.getLsbD i = true → b'.amask.getLsbD i = true → b'.freeing.getLsbD i = true)

/-- R314 to R317, R299, R300, R311: the instructions on residencies. WALLOC that would need more than 32 planes on a core
says so; otherwise it gives a handle of a fresh descriptor, EVICTED until it is loaded. -/
def Obligations.ResidencyInstructions : Prop :=  ∀ (f : InsT) (s : State), s.wv.guardUni f.g = true →
    let h := s.srcU none 32 f.a
    let k := s.tableOf s.cur
    let i := h % 256
    let r := (s.cluster k).residency i
    let w1 := w1Of f
    let p := w1 % 64 * bytesPerUnit (w1 / 2 ^ 6 % 8)
    let nout := w1 / 2 ^ 10 % 32
    (∀ b g, s.leases b g →
      (32 < p + (if 0 < nout then 1 else 0) → completes (.walloc f) s (fun t => s.wroteS t (lenT f) s.wv f.d.toNat 32 (4 * 2 ^ 16))) ∧
      (p + (if 0 < nout then 1 else 0) ≤ 32 → s.quotaRoom s.wv.ctx.dom p nout g.rows g.cols g.cores = true →
        ∀ n, (List.range 256).find? (fun i => ((s.cluster g.home).residency i).st == .free) = some n →
        ∀ s2, (s.mapResidency g.home n (fun r => { r with planes := [], sidePlane := [] })).takePlanes g.home n s.wv.ctx.dom p nout
            g.rows g.cols g.cores g.cores = some s2 →
          completes (.walloc f) s (fun t => ∃ s3, State.wroteS s3 t (lenT f) s3.wv f.d.toNat 32
              (n + 256 * ((s.cluster g.home).residency n).gen) ∧ s3.ms = s2.ms ∧ s3.cores = s2.cores ∧
            let x := (t.cluster g.home).residency n
            x.st = .evicted ∧ x.gen = ((s.cluster g.home).residency n).gen ∧ x.dom = s.wv.ctx.dom ∧ x.key = s.wv.ctx.key ∧
              x.nstep = w1 % 64 ∧ x.fmt = w1 / 2 ^ 6 % 8 ∧ x.nout = nout ∧ x.rlog = g.rlog ∧ x.clog = g.clog ∧ x.seam = g.seam))) ∧
    (s.namesResidency h →
      (r.st ≠ .revoked →
        (∀ q ∈ ([(.wpin f, { r with pin := true, st := if r.st = .ready then .pinned else r.st }),
            (.wunpin f, { r with pin := false, st := if r.st = .pinned then .ready else r.st })] : List (Instr × Residency)),
          exec q.1 s = .next ((s.setCluster k { s.cluster k with
            residencies := Map.set (s.cluster k).residencies i q.2 }).advance (lenT f)))) ∧
      (r.st ≠ .loading → s.loopUses k i = false → completes (.wrevoke f) s (fun t =>
        (t.cluster k).residency i = { Residency.reset with gen := r.gen % 255 + 1 } ∧
        (∀ j, j ≠ i → (t.cluster k).residency j = (s.cluster k).residency j) ∧
        (∀ c ∈ r.cores k, ∀ q, (t.core c).wowner.all (fun e => e.2 != 256 * k + i) = true ∧
          (q ∈ r.planesOn c → ∀ a, a < 1024 → (t.core c).wbuf.get (1024 * q + a) = 0)) ∧
        t.ms = s.ms ∧ t.wv.ctl.pc = s.wv.ctl.pc + BitVec.ofNat 57 (lenT f))) ∧
      (∀ b g, s.leases b g → s.acquirePending = false → r.st ≠ .loading → r.st ≠ .revoked → r.elsewhere g = false →
        s.srcU none 64 f.b % 2 ^ 57 % 128 = 0 → (∀ c ∈ g.cores, (s.core c).tiles.length < 8) → g.cores.Nodup →
        completes (.wload f) s (fun t => ∃ e : SeqEntry, e.op = .wload ∧ e.handle = h ∧ e.core = s.cur.core ∧
          e.slot = s.cur.slot ∧ e.table = k ∧ e.back = r.back ∧ s.queuedTile t g.cores e ∧ t.wv = s.wv.issuedTile (lenT f) ∧ t.ms = s.ms ∧
          (t.cluster k).residency i = { r with prior := r.st, st := .loading, back := s.srcU none 64 f.b % 2 ^ 57 })) ∧
      completes (.wquery f) s (fun t => s.wroteS t (lenT f) s.wv f.d.toNat 64 (r.word (s.srcU none 32 f.b)))) ∧
    (¬ s.namesResidency h →
      completes (.wquery f) s (fun t => s.wroteS t (lenT f) s.wv f.d.toNat 64 0) ∧
      ∀ q ∈ ([.wpin f, .wunpin f, .wrevoke f] : List Instr), exec q s = .next (s.trapAll 0x33 0x20))

/-- R318, R320, R324 to R327, R166: the tile operations enter the queues of the cores on which they act, counted in the
tl class, and change no tile before they run. -/
def Obligations.TileOperationsIssue : Prop :=  ∀ (f : InsT) (s : State), s.wv.guardUni f.g = true → s.acquirePending = false →
    let h := s.srcU none 32 f.a
    let k := s.tableOf s.cur
    let r := (s.cluster k).residency (h % 256)
    let w1 := w1Of f
    let issued := fun (i : Instr) (op : OpT) (cores : List Nat) =>
      completes i s (fun t => ∃ e : SeqEntry, e.op = op ∧ e.id = s.nextOp ∧ e.core = s.cur.core ∧ e.slot = s.cur.slot ∧
        e.table = k ∧ e.w1 = w1 ∧ e.order = s.wv.tlIssued + 1 ∧ s.queuedTile t cores e ∧ t.wv = s.wv.issuedTile (lenT f) ∧ t.ms = s.ms ∧
        t.clusters = s.clusters ∧ t.waves = s.waves)
    (∀ b g, s.leases b g → s.namesResidency h → r.st ≠ .revoked → r.elsewhere g = false →
      afmtOk r.fmt (w1 / 2 ^ 21 % 8) = true → (f.fn.getLsbD 1 = true → 5 ≤ r.fmt) →
      w1 / 2 ^ 9 % 64 + w1 / 2 ^ 15 % 64 ≤ r.nstep →
      (∀ c ∈ g.cores, (⟨g, r, w1, f.fn.getLsbD 1, 0⟩ : Loop).held s g.num g.grid c = true) →
      (r.st = .stale ∨ r.st = .evicted → f.fn.getLsbD 0 = true) → (∀ c ∈ g.cores, (s.core c).tiles.length < 8) →
      g.cores.Nodup → issued (.mloop f) .mloop g.cores) ∧
    (s.myCore.tiles.length < 8 →
      ((∀ i, i < 16 → h.testBit i = true → s.tilesHeld [i] = true) → s.tilesHeld [] = true → issued (.mzero f) .mzero [s.cur.core]) ∧
      (s.tilesHeld [w1 % 16, w1 / 2 ^ 4 % 16, w1 / 2 ^ 8 % 16] = true → issued (.mepi f) .mepi [s.cur.core]) ∧
      (s.namesResidency h → r.loaded = true → 5 ≤ r.fmt → (r.southColumn k s.cur.core).isSome = true →
        s.tilesHeld [f.fn.toNat % 16] = true → issued (.mcorr f) .mcorr [s.cur.core]))

/-- R324, R325, R326, R309: MZERO clears the tiles that it names with their side vectors; MEPI writes its output codes
into the destination tile and adds to FLAGS; MCORR corrects every word of its tile where its residency is READY or PINNED as it
runs, and writes nothing where a WLOAD behind it is loading it; a dead handle pends RESIDENCY_FAULT HANDLE, whatever the
place, and a core that is no south core of the residency PLACE. No other byte of the tiles changes. All this while no access
of the memory pipe waits at the core's ports. The model's own choices and readings in it: log 39, 92. -/
def Obligations.TileOperationsRun : Prop :=  ∀ (s : State) (k : Nat) (e : SeqEntry),
    let c := s.core k
    let word := fun (c : Core) (t i j : Nat) => c.cbuf.word (4096 * t + 128 * i + 4 * j)
    s.portsIdle k →
    (s.nextTile k .mzero = some e → completes (.mzeroRun k) s (fun t => s.tileEnded t k e ∧
      (∀ a, a < 65536 → (t.core k).cbuf.get a = if e.a.testBit (a / 4096) then 0 else c.cbuf.get a) ∧
      (∀ a, a < 2048 → (t.core k).sideVec.get a = if e.a.testBit (a / 128) then 0 else c.sideVec.get a))) ∧
    (s.nextTile k .mepi = some e → e.w1.testBit 13 = c.scaled.getLsbD (e.w1 % 16) → e.mepiPoisoned c = false →
      completes (.mepiRun k) s (fun t => s.tileEnded t k e ∧
        let out := (mepiElements e c s.draws).flatMap (fun q => leBytes (outBytes (e.w1 / 2 ^ 14 % 8)) q.bits)
        let td := 4096 * (e.w1 / 2 ^ 4 % 16)
        (∀ a, (t.core k).cbuf.get a = if td ≤ a ∧ a < td + out.length then out.getD (a - td) 0 else c.cbuf.get a) ∧
        (t.core k).sideVec = c.sideVec ∧
        (s.wave ⟨k, e.slot⟩).csr.flags &&& (t.wave ⟨k, e.slot⟩).csr.flags = (s.wave ⟨k, e.slot⟩).csr.flags)) ∧
    (s.nextTile k .mcorr = some e →
      let r := s.entryResidency e
      let tile := e.fn % 16
      let zw := codeVal r.fmt r.wzp
      let za := valOf true 32 e.b
      let col := (r.southColumn e.table k).getD 0
      let pends := fun (cause code : Nat) => completes (.mcorrRun k) s (fun t => s.tileEnded t k e ∧ (t.core k).cbuf = c.cbuf ∧
        (t.wave ⟨k, e.slot⟩).tile = some ⟨BitVec.ofNat 8 cause, BitVec.ofNat 22 code, e.order⟩)
      ((s.wave ⟨k, e.slot⟩).tile = none →
        (r.deadFor e.handle (s.wave ⟨k, e.slot⟩).ctx = true → pends 0x33 0x20) ∧
        (r.deadFor e.handle (s.wave ⟨k, e.slot⟩).ctx = false →
          (e.table ≠ s.tableOf ⟨k, e.slot⟩ ∨ r.southColumn e.table k = none) → pends 0x33 0x22)) ∧
      (e.table = s.tableOf ⟨k, e.slot⟩ → (r.southColumn e.table k).isSome = true →
      r.deadFor e.handle (s.wave ⟨k, e.slot⟩).ctx = false →
      (r.st = .loading → completes (.mcorrRun k) s (fun t => s.tileEnded t k e ∧ (t.core k).sideVec = c.sideVec ∧
        (t.core k).cbuf = c.cbuf ∧ (t.wave ⟨k, e.slot⟩).tile = (s.wave ⟨k, e.slot⟩).tile)) ∧
      ((r.st = .ready ∨ r.st = .pinned) →
      c.cbuf.poisoned (4096 * tile) 4096 = false → c.sideVec.poisoned (128 * tile) 128 = false →
      completes (.mcorrRun k) s (fun t => s.tileEnded t k e ∧ (t.core k).sideVec = c.sideVec ∧
        (∀ a, (a < 4096 * tile ∨ 4096 * tile + 4096 ≤ a) → (t.core k).cbuf.get a = c.cbuf.get a) ∧
        ∀ i j, i < 32 → j < 32 →
          let n := 32 * col + j
          (word (t.core k) tile i j : Int) = ((word c tile i j : Int) - zw * c.sideVec.word (128 * tile + 4 * i) -
            za * ((r.csum.getD n 0).toNat + (r.osum.getD n 0).toNat) + ((32 * r.rows * r.nstep : Nat) - r.nout : Int) * za * zw)
              % 2 ^ 32))))

/-- R303, R315, R319, R321, R322, R307, R308, R429, R431: a load asks for the header of its image first; with every chunk read
the residency is ready for use with its column sums, and the WLOAD ends; a WLOAD restored on other cores ends with PLACE, its
residency EVICTED. A K-step whose residency has another place, is dead or
revoked stops with its fault pending; one of a STALE or EVICTED residency stops with STALE_RESIDENCY, or at the first step of a
.RELOAD begins the load anew; any other updates every word of its tiles on the south row, unless an error beyond correction
arises in the planes it reads on a core of the bond, which leaves its own fault pending. The model's own choices and readings in it: log 14, 29, 92. -/
def Obligations.LoadsAndSteps : Prop :=  ∀ (s : State) (k i : Nat) (e : SeqEntry),
    let c := s.core k
    let r := s.entryResidency e
    let id : WaveId := ⟨k, e.slot⟩
    let n := e.handle % 256
    let begun := fun (t : State) (after : Residency) => t.ms = s.ms ∧ t.waves = s.waves ∧
      (∃ x ∈ (t.core k).tiles, x.id = e.id ∧ x.loading = true ∧ x.lines = [0, 1] ∧ x.image = [] ∧ x.ts = (s.wave id).pts) ∧
      (t.cluster e.table).residency n = after
    k ∈ s.entryCores e → e.core = k → s.stopped (s.wave id) = false → ∀ g, s.gangAt id = some g → (∀ j ∈ g.cores, s.portsIdle j) →
    (c.tiles[i]? = some e → e.stop = false → e.op = .wload →
      (e.loading = false → s.turnOf e = true → c.writesBefore e.slot e.before = false → e.flying = [] → r.planes ≠ [] →
        e.table = g.home → r.deadFor e.handle (s.wave id).ctx = false → r.elsewhere g = false → r.st ≠ .revoked →
        ∀ line, completes (.residencyLoad k i line) s (fun t =>
          begun t { r with st := .loading, winv := false, lines := if e.back = r.back then r.lines else [] })) ∧
      (e.loading = false → s.turnOf e = true → r.deadFor e.handle (s.wave id).ctx = false →
        (e.table ≠ g.home ∨ r.elsewhere g = true) → r.st = .loading → s.loadBehind e = none → (s.wave id).tile = none →
        ∀ line, completes (.residencyLoad k i line) s (fun t => ((t.cluster e.table).residency n).st = .evicted ∧
          (∀ x ∈ (t.core k).tiles, x.id ≠ e.id) ∧ (t.wave id).tile = some ⟨0x33, 0x22, e.order⟩ ∧ t.ms = s.ms)) ∧
      (e.loading = true → e.lines = [] → r.st = .loading →
        completes (.residencyLoadComplete k i) s (fun t => t.ms = s.ms ∧
          (∀ x ∈ (t.core k).tiles, x.id ≠ e.id) ∧
          (t.wave id).cnt = (s.wave id).cnt.bump .tl (· - 1) ∧
          let x := (t.cluster e.table).residency n
          let ks := (imageOutk e.image).take r.nout
          x.st = (if r.winv then .stale else if r.pin then .pinned else .ready) ∧ x.outk = imageOutk e.image ∧
            x.wzp = imageField e.image 2 1 ∧ x.csum.length = 32 * r.cols ∧ x.planes = r.planes ∧ x.gen = r.gen ∧
            ∀ j, j < 32 * r.cols →
              x.csum.getD j 0 = (if r.fmt < 5 then 0 else BitVec.ofInt 32 (((List.range (32 * r.rows * r.nstep)).map (fun q =>
                if ks.contains q then 0 else codeVal r.fmt (imageField e.image (128 + (q * (32 * r.cols) + j)) 1))).foldl (· + ·) 0)) ∧
              x.osum.getD j 0 = (if r.fmt < 5 then 0 else BitVec.ofInt 32 (rintSum (fpSum 0 ((List.range r.nout).map (fun q =>
                fpDecode 1 (imageField e.image (r.sideAt + 2 * (q * (32 * r.cols) + j)) 2)))).1))))) ∧
    (s.nextTile k .mloop = some e → e.loading = false →
      let st := r.seen (s.loadBehind e).isSome
      let dead := r.deadFor e.handle (s.wave id).ctx
      let reload := e.first = true ∧ e.fn.testBit 0 = true
      let x : Loop := ⟨g, r, e.w1, e.fn.testBit 1, e.steps⟩
      let stops := fun (cause code : Nat) => completes (.kStep k) s (fun t => (∀ x ∈ (t.core k).tiles, x.id ≠ e.id) ∧
        (t.wave id).tile = some ⟨BitVec.ofNat 8 cause, BitVec.ofNat 22 (code + 2 ^ 16 * e.steps), e.order⟩ ∧
        (t.wave id).cnt = (s.wave id).cnt.bump .tl (· - 1) ∧ t.ms = s.ms)
      ((s.wave id).tile = none →
        (dead = true → stops 0x33 0x20) ∧
        (e.table ≠ g.home → dead = false → stops 0x33 0x22) ∧
        (e.table = g.home → dead = false → r.elsewhere g = true → stops 0x33 0x22) ∧
        (e.table = g.home → dead = false → r.elsewhere g = false → st = .revoked → stops 0x33 0x27) ∧
        (e.table = g.home → dead = false → r.elsewhere g = false → ¬ reload →
          (st = .stale → stops 0x34 1) ∧ (st = .evicted → stops 0x34 2))) ∧
      (e.table = g.home → dead = false → r.elsewhere g = false →
        ((st = .stale ∨ st = .evicted) → reload → c.writesBefore e.slot e.before = false → e.flying = [] → r.planes ≠ [] →
          completes (.kStep k) s (fun t => begun t { r.become (s.loadBehind e).isSome .loading with winv := false })) ∧
        ((st = .ready ∨ st = .pinned) → x.poisoned s = false → (s.wave id).tile = none →
          completes (.kStep k) s (fun t =>
            (t.nextOp = s.nextOp + 1 ∧ (g.south.Nodup → ∀ col i j, col < g.cols → i < 32 → j < 32 →
              let south := g.coreAt (g.rows - 1) col
              let at' := 4096 * x.tile + 128 * i + 4 * j
              let old := (s.core south).cbuf.word at'
              (t.core south).cbuf.word at' = (if 5 ≤ r.fmt then x.updateInt s old i col j else x.updateFp s old i col j) % 2 ^ 32)) ∨
            ((∀ y ∈ (t.core k).tiles, y.id ≠ e.id) ∧
              (t.wave id).tile = some ⟨0x33, BitVec.ofNat 22 (0x26 + 2 ^ 16 * e.steps), e.order⟩)))))

/-- R98 to R100, R109, R110, R104: a packet on a wire that no earlier one of its link holds back enters the next output
on its path: in the payload queue where its payload fits in 64 flits, with MARK where 24 or more stand there, as a
header alone where it does not; past its last output it stands at the input of its slice or port. A link takes its
header lane before its payload queue; an output of another domain discards the packet. R99, R100, R120: a network cycle of a
link carries 8 flits, or 2 on a seam lane, the header lane first, and a packet arrives with its last flit; a residue copy that has waited 256 network cycles goes on as a
header. The model's own choices and readings in it: log 15, 16, 17, 18. -/
def Obligations.PacketsInTheNetwork : Prop :=
  (∀ (s : State) (i : Nat) (f : Flight), s.net.wires[i]? = some f → (∀ g ∈ s.net.wires.take i, wireBehind g f = false) →
    let p := f.pkt
    let rest := dropAt s.net.wires i
    let plain := p.ty ≠ .mdata ∧ p.ty ≠ .winv
    (plain → ∀ k ks, f.path = k :: ks →
      let o := s.out k
      let held := queueFlits o.queue - (o.done - 1)
      ((s.domOf p.dom).ownsOut k = true → completes (.switchOutputEnqueue i) s (fun t =>
        let f1 := { f with last := k, path := ks }
        let hot := 24 ≤ held
        t.net.wires = rest ∧ t.ms = s.ms ∧ (∀ j, j ≠ k → t.out j = s.out j) ∧
        (p.data ≠ [] → held + p.flits ≤ 64 → t.out k = { o with
          queue := o.queue ++ [{ f1 with pkt := { p with mark := p.mark || decide hot } }]
          marks := if hot then bump48 o.marks else o.marks }) ∧
        (p.data ≠ [] → 64 < held + p.flits → t.out k = { o with
          header := o.header ++ [{ f1 with pkt := { p with trim := true, data := [] } }], trims := bump48 o.trims }) ∧
        (p.data = [] → (∀ g ∈ o.queue, sameFlow g.pkt p = false) → t.out k = { o with header := o.header ++ [f1] }))) ∧
      ((s.domOf p.dom).ownsOut k = false → completes (.switchOutputEnqueue i) s (fun t =>
        t.net = { s.net with wires := rest } ∧ t.ms = s.ms))) ∧
    (p.ty = .winv → f.arrived (s.domOf p.dom) = true → ∀ q, f.targets = [q] → (∃ d, s.dom? p.dom = some d ∧ d.ownsPort q = true) →
      completes (.switchOutputEnqueue i) s (fun t => t.net.wires = rest ∧ t.ms = s.ms ∧
        t.port q = { s.port q with inbox := (s.port q).inbox ++ [{ p with port := q }] })) ∧
    (plain → f.path = [] → ∀ d, s.dom? p.dom = some d →
      (p.ty.isRequest = true → d.ownsSlice p.slice = true → (p.data = [] ∨ (s.slice p.slice).inputFlits + p.flits ≤ 64) →
        completes (.switchOutputEnqueue i) s (fun t => t.net.wires = rest ∧ t.ms = s.ms ∧
          t.slice p.slice = { s.slice p.slice with inbox := (s.slice p.slice).inbox ++ [p] })) ∧
      (p.ty.isRequest = false → d.ownsPort p.port = true →
        completes (.switchOutputEnqueue i) s (fun t => t.net.wires = rest ∧ t.ms = s.ms ∧
          t.port p.port = { s.port p.port with inbox := (s.port p.port).inbox ++ [p] }))) ∧
    (p.ty = .mdata → f.arrived (s.domOf p.dom) = false → ∀ b, forkOutputs (s.domOf p.dom) f = [b] → p.data ≠ [] →
      (s.domOf p.dom).ownsOut b.1 = true → (s.out b.1).load + p.flits ≤ 64 →
      completes (.replySwitchMdata i) s (fun t => t.net.wires = rest ∧ t.ms = s.ms ∧ t.net.residues = s.net.residues ∧
        (t.out b.1).queue.length = (s.out b.1).queue.length + 1))) ∧
  ((∀ (s : State) (k : Nat), s.waitingSwitches k = [] → (∀ f q, (s.out k).queue = f :: q → (s.out k).done ≤ f.pkt.flits) →
    completes (.switchOutputLinkSlot k) s (fun t => ∃ hs qs,
    let n := if outStage k = 5 then 2 else 8
    let used := (qs.map (fun f => 1 + f.pkt.flits)).foldl (· + ·) 0 + (t.out k).done
    (s.out k).header = hs ++ (t.out k).header ∧ (s.out k).queue = qs ++ (t.out k).queue ∧
    t.net.wires = s.net.wires ++ hs ++ qs ∧ hs.length = min n (s.out k).header.length ∧
    used ≤ (s.out k).done + (n - hs.length) ∧ ((t.out k).queue ≠ [] → used = (s.out k).done + (n - hs.length)) ∧
    (∀ j, j ≠ k → t.out j = s.out j) ∧ t.ms = s.ms ∧ t.net.slices = s.net.slices ∧ t.net.ports = s.net.ports)) ∧
  (∀ (s : State) (sw i : Nat) (f : Flight) (k n : Nat), (s.residue sw).held[i]? = some (f, k, n) → n + 256 ≤ s.netNow →
    f.pkt.ty = .mdata → completes (.residueTimeout sw i) s (fun t =>
      t.residue sw = { s.residue sw with held := dropAt (s.residue sw).held i, restrims := bump48 (s.residue sw).restrims } ∧
      (t.out k).header = (s.out k).header ++ [{ f with
        pkt := { f.pkt with trim := true, data := [] }, last := k, path := f.path ++ [k] }] ∧
      (t.out k).queue = (s.out k).queue ∧ t.ms = s.ms ∧ t.net.wires = s.net.wires)))

/-- R135, R133, R118, R119, R134, R182, R96, R463: requests applied at the home of their line. A read answers the
line's bytes with WTS and the lease, which fits in 16 bits; a write, an atomic or a reduction takes the next write
timestamp, changes its bytes alone, and answers when no cluster watches the line; where clusters watch it, a WINV with
the write's own timestamp goes to each group of 16 clusters of the domain, and the completion waits; an atomic answers
the old bytes. A multicast read sends the bytes that it read, where it races no write in mixed size. The model's own choices and
readings in it: log 49, 75, 88. -/
def Obligations.SlicesApplyRequests : Prop :=  ∀ (s : State) (slice i : Nat) (p : Packet) (w : Way), s.memoryKept → s.ready slice i p → p.rpl = false → p.retry = 0 →
    (s.slice slice).behind p = false → s.hits p w →
    let x := s.slice slice
    let old := s.bytesUnder p.key p.addr p.len
    let read := x.raise { w with rts := max w.rts (max (w.wts + 64) (p.ts + 64)) }
    let wts := max p.ts ((x.raise w).rts + 1)
    let done := fun (t : State) (ty : PType) (data : List Byte) =>
      (w.watch = false → s.replied t p ty 0 wts 0 data) ∧
      (w.watch = true → (∃ o, (t.slice slice).winvs = x.winvs ++ [o] ∧ o.line = p.addr / 128 ∧
          o.clusters = (s.domOf p.dom).clusters ∧ o.reply.isSome = true) ∧
        ∃ fs, t.net.wires = s.net.wires ++ fs ∧
          fs.map (fun f => f.targets) = (((s.domOf p.dom).clusters.map (· / 16)).eraseDups).map groupPorts ∧
          ∀ f ∈ fs, f.pkt.ty = .winv ∧ f.pkt.ts = p.ts ∧ f.pkt.addr / 128 = p.addr / 128)
    read.rts - read.wts ≤ 65535 ∧ w.rts ≤ (x.raise w).rts ∧
    (p.ty = .rd → completes (.sliceRd slice i) s (fun t => s.sameMemory t ∧
      s.replied t p .rdata 0 read.wts (read.rts - read.wts) old)) ∧
    (p.ty = .cprdm → missable (x.recent p.addr p.len s.netNow) p.addr p.len p.ts s.netNow = [] → completes (.sliceCprdm slice i) s (fun t => s.sameMemory t ∧ ∃ fs, fs ≠ [] ∧
      t.net.wires = s.net.wires ++ fs ∧ ∀ f ∈ fs, f.pkt.ty = .mdata ∧ f.pkt.data = old ∧ f.pkt.ts = read.wts)) ∧
    (p.addr % 128 + p.len ≤ 128 →
      (p.ty = .wr → p.data.length = p.len → completes (.sliceWr slice i) s (fun t => s.wroteLine t p p.data ∧ done t .wdone [])) ∧
      (p.ty = .atom → completes (.sliceAtom slice i) s (fun t =>
        s.wroteLine t p (leBytes p.len (atomNew p.opx p.len (leNat old) (leNat p.data))) ∧ done t .ares old)) ∧
      (p.ty = .red → p.opx ≠ 6 → completes (.sliceRed slice i) s (fun t =>
        s.wroteLine t p (leBytes p.len (atomNew p.opx p.len (leNat old) (leNat p.data))) ∧ done t .wdone [])))

/-- R112, R113, R116, R96: a re-sent payload fills its hole and is applied; a PULL asks for the payload of a hole once
its spacing has passed; the last WACK of a write lets its completion go. -/
def Obligations.HolesPullsAndWacks : Prop :=  (∀ (s : State) (slice i : Nat) (p : Packet) (w : Way) (h : Hole), s.memoryKept → s.ready slice i p → p.retry ≠ 0 → p.ty = .wr →
    (s.slice slice).holes = [h] → (s.slice slice).holeOf p = some h → s.hits p w → p.addr % 128 + p.len ≤ 128 →
    p.data.length = p.len →
    completes (.sliceResentPayload slice i) s (fun t => (t.slice slice).holes = [] ∧ s.wroteLine t p p.data)) ∧
  (∀ (s : State) (slice i : Nat) (h : Hole), (s.slice slice).holes[i]? = some h → h.pulled = false → h.pkt.ty ≠ .msg →
    (∀ n, Map.get? (s.slice slice).lastPull h.pkt.port = some n → n + min 1024 (32 * 2 ^ h.pkt.retry) ≤ s.netNow) →
    completes (.pullSend slice i) s (fun t => s.replied t h.pkt .pull 0 h.pkt.ts 0 [] ∧
      (t.slice slice).holes[i]? = some { h with pulled := true } ∧
      Map.get? (t.slice slice).lastPull h.pkt.port = some s.netNow ∧ t.ms = s.ms)) ∧
  (∀ (s : State) (slice i : Nat) (p : Packet) (o : WinvOp) (c : Nat), (s.slice slice).inbox[i]? = some p → p.ty = .wack →
    c = 128 * portDie p.port + p.port % 256 / 2 → (s.slice slice).winvs = [o] → o.line = p.addr / 128 → c ∈ o.clusters →
    (s.slice slice).waiting = [] → (s.slice slice).migrating = [] →
    ((∀ v ∈ o.clusters, v = c) → completes (.sliceWack slice i) s (fun t => (t.slice slice).winvs = [] ∧ t.ms = s.ms ∧
      (∀ r, o.reply = some r → ∃ path, t.net.wires = s.net.wires ++ [⟨{ r with born := s.now }, 0, path, [r.port]⟩]) ∧
      (o.reply = none → t.net.wires = s.net.wires))) ∧
    ((∃ v ∈ o.clusters, v ≠ c) → completes (.sliceWack slice i) s (fun t => t.ms = s.ms ∧ t.net.wires = s.net.wires ∧
      (t.slice slice).winvs = [{ o with clusters := o.clusters.filter (fun v => v != c) }])))

/-- R122 to R126: a message is held at its relay slice and offered to its core. MACK ends it with OK; MNAK starts
re-offers 64 network cycles apart, paces the next offer, or ends it with a status; 1,024 network cycles after the
first refusal its sender learns FULL, also where an offer then on its way is accepted after that time (the model's own reading:
log 105). -/
def Obligations.MessagesAreRelayed : Prop :=  (∀ (s : State) (slice i : Nat) (p : Packet), s.ready slice i p → p.ty = .msg → p.rpl = false → p.retry = 0 →
    (s.slice slice).behind p = false → (s.slice slice).msgs = [] → (s.slice slice).msgRoom = true →
    completes (.sliceMsg slice i) s (fun t => t.ms = s.ms ∧ ∃ m, (t.slice slice).msgs = [m] ∧ m.pkt = p ∧ m.offered = true ∧
      ∃ f, t.net.wires = s.net.wires ++ [f] ∧ f.pkt.ty = .msgd ∧ f.pkt.port = portOf (msgCore p.addr) ∧ f.pkt.data = p.data)) ∧
  (∀ (s : State) (slice i : Nat) (p : Packet) (m : HeldMsg), (s.slice slice).inbox[i]? = some p → s.holdsOne slice m →
    m.offered = true → p.addr % 2 ^ 15 = m.pkt.addr % 2 ^ 15 →
    (p.ty = .mack → completes (.sliceMack slice i) s (fun t => (t.slice slice).msgs = [] ∧ t.ms = s.ms ∧
      s.replied t m.pkt .mdone (if ∃ n, m.refusedAt = some n ∧ n + 1024 ≤ p.born / 2 then 1 else 0) m.pkt.ts 0 [])) ∧
    (p.ty = .mnak → 2 ≤ p.opx → completes (.sliceMnak slice i) s (fun t => (t.slice slice).msgs = [] ∧ t.ms = s.ms ∧
      s.replied t m.pkt .mdone p.opx m.pkt.ts 0 [])) ∧
    (p.ty = .mnak → p.opx = 0 → completes (.sliceMnak slice i) s (fun t => t.ms = s.ms ∧ t.net.wires = s.net.wires ∧
      (t.slice slice).cnt.ringfull = bump48 (s.slice slice).cnt.ringfull ∧
      (t.slice slice).msgs = [{ m with
        offered := false
        refusedAt := if m.refusedAt = none then some s.netNow else m.refusedAt
        nextOffer := if m.refusedAt = none then s.netNow + 64 else m.nextOffer }])) ∧
    (p.ty = .mnak → p.opx = 1 → m.refusedAt = none → completes (.sliceMnak slice i) s (fun t => t.ms = s.ms ∧
      t.net.wires = s.net.wires ∧
      (t.slice slice).msgs = [{ m with offered := false, nextOffer := m.nextOffer + min 1024 (32 * 2 ^ (m.offers - 1)) }]))) ∧
  (∀ (s : State) (slice : Nat) (m : HeldMsg), s.holdsOne slice m → m.offered = false →
    (m.offers ≠ 0 → m.nextOffer ≤ s.netNow → (∀ n, m.refusedAt = some n → s.netNow < n + 1024) → completes (.msgdReoffer slice 0) s (fun t => t.ms = s.ms ∧
      (∃ f, t.net.wires = s.net.wires ++ [f] ∧ f.pkt.ty = .msgd ∧ f.pkt.port = portOf (msgCore m.pkt.addr)) ∧
      ∃ m', (t.slice slice).msgs = [m'] ∧ m'.offered = true ∧ m'.offers = m.offers + 1)) ∧
    (∀ n, m.refusedAt = some n → n + 1024 ≤ s.netNow → completes (.msgOfferTimeout slice 0) s (fun t =>
      (t.slice slice).msgs = [] ∧ t.ms = s.ms ∧ s.replied t m.pkt .mdone 1 m.pkt.ts 0 [])))

/-- R85, R88, R95, R431, R135, R437: a slice freezes a migrating range at its drain point, copies its lines once the range has
drained and its key slot may be used, and drops it at the release; a line that a request waits for comes from HBM4 into its
set, or for a page with MT = 2 beside the ways; scrubbing a line changes at most poison, records and the fence. The
model's own choices and readings in it: log 29, 35. -/
def Obligations.SliceMaintenance : Prop :=  (∀ (s : State) (slice i : Nat) (p : Packet), (s.slice slice).inbox[i]? = some p →
    let m : Migrating := ⟨p.addr, p.len, p.ld, p.key, 0, 0, false, false, p.mt2⟩
    (p.ty = .migrate → (s.slice slice).migrating = [] →
      (s.keyUsable p.key p.dom = false ∨ (s.slice slice).drained m = false →
        completes (.sliceMigrate slice i) s (fun t => (t.slice slice).migrating = [m] ∧ t.ms = s.ms)) ∧
      (s.keyUsable p.key p.dom = true → (s.slice slice).drained m = true → s.memoryKept →
        ∀ d, s.dom? p.dom = some d → d.plan.num = p.dom → p.addr % 128 = 0 → p.len % 128 = 0 → p.ld % 128 = 0 →
        p.ld + p.len ≤ 2 ^ 50 → (p.addr + p.len ≤ p.ld ∨ p.ld + p.len ≤ p.addr) →
        (∀ x n, ∀ w ∈ Map.getD (s.slice x).sets n [], w.watch = false) → (∀ x, (s.slice x).winvs.length < 64) →
        completes (.sliceMigrate slice i) s (fun t =>
          (t.slice slice).migrating = [{ m with next := (d.linesAt slice p.addr p.len).length, copied := true }] ∧
          ∀ l ∈ d.linesAt slice p.addr p.len, ∀ j, j < 128 →
            t.byteUnder p.key (p.ld + (128 * l - p.addr) + j) = s.byteUnder p.key (128 * l + j)))) ∧
    (p.ty = .release → completes (.sliceRelease slice i) s (fun t => t.ms = s.ms ∧
      (∀ m ∈ (t.slice slice).migrating, m.base ≠ p.addr) ∧
      (∀ e ∈ (t.slice slice).sets, ∀ w ∈ e.2, ¬ (p.addr ≤ 128 * w.line ∧ 128 * w.line < p.addr + p.len)) ∧
      (s.slice slice).mts ≤ (t.slice slice).mts))) ∧
  (∀ (s : State) (slice i line key dom : Nat) (mt2 : Bool) (d : Dom), (s.slice slice).fills[i]? = some (line, key, mt2) →
    s.ms.doms.find? (fun e => e.2.holds (128 * line) && e.2.home (128 * line) == slice) = some (dom, d) →
    s.winvBlocked d (128 * line) mt2 false = false → (s.slice slice).way? (d.set (128 * line)) line = none →
    completes (.hbmFillComplete slice i) s (fun t =>
      (t.slice slice).fills = dropAt (s.slice slice).fills i ∧
      (mt2 = false → ∃ w, (t.slice slice).way? (d.set (128 * line)) line = some w ∧ w.key = key ∧ w.dirty = false ∧
        w.watch = false) ∧
      (mt2 = true → (t.slice slice).sets = (s.slice slice).sets ∧
        (t.slice slice).loose = (s.slice slice).loose ++ [(line, key)]))) ∧
  (∀ (s : State) (slice i set : Nat) (w : Way),
    ((s.slice slice).sets.flatMap (fun e => e.2.map (fun w => (e.1, w))))[i]? = some (set, w) →
    completes (.sliceScrub slice i) s (fun t => t.draws ≥ s.draws + 1 ∧ t.wv = s.wv ∧ t.waves = s.waves ∧ t.cores = s.cores ∧
      (t.slice slice = s.slice slice ∨ t.slice slice = { s.slice slice with fenced := true }) ∧
      (∀ x, x ≠ slice → t.slice x = s.slice x) ∧ t.net.wires = s.net.wires ∧ t.net.outs = s.net.outs ∧
      t.net.ports = s.net.ports ∧ t.ms.keys = s.ms.keys ∧ t.ms.lineKey = s.ms.lineKey ∧
      (s.memoryKept → ∀ a, a < 2 ^ 51 → Memory.get t.ms.mem a = Memory.get s.ms.mem a)))

/-- R105, R108, R111, R112, R114, R115, R118, R134, R137: a final reply ends its request, moves the window, and brings
data and timestamps to the operation that asked, whose wave's pts rises to the write timestamp; a trimmed RDATA is
asked again as a new request, a trimmed ARES is sent again as a replay, and a PULL makes the payload go once more. R87: a
REDIRECT takes the copy's chunk back, to be made again from its walk, and its page leaves the core's TLB (log 34).
R155, R73, R183: the host interface serves a core's access to the host window: a read leaves memory, a write changes
its own bytes alone, the access leaves the queue, and its wave's pts does not rise. R64, R65, R137, R177, R179, R183, R92: an
operation whose every request has its answer completes: its counter falls, its scoreboard entries clear, and a load or an atomic
writes what its answers hold into its registers, zero- or sign-extended, or 0xDEAD_0BAD for a poisoned one (for an atomic the
model's choice, log 78), as MSEND does its status, and nothing else changes; a load waits for its wave's earlier accesses, and an access of the core's own
memories for its port. The model's own choices and readings in it: log 32, 36, 86, 88, 111. -/
def Obligations.RepliesAndHostWindow : Prop :=
  (∀ (s : State) (port i : Nat) (p : Packet) (o : Outstanding), s.repliesTo port i p o →
    (∀ r ∈ ([(.portRdata port i, .rdata, p.data), (.portWdone port i, .wdone, p.data), (.portAres port i, .ares, p.data),
        (.portMdone port i, .mdone, leBytes 8 p.opx)] : List (Instr × PType × List Byte)),
      p.ty = r.2.1 → p.trim = false → (p.ty ≠ .mdone → p.opx = 0) → p.olds = [] →
      ∀ core id k v x, o.client = .op core id k → (s.core core).ops.find? (fun y => y.id == id) = some v → v.reqs[k]? = some x →
        v.kind ≠ .prefetch →
        ∃ u, exec r.1 s = .next (u.progress core) ∧ s.finalAt u port i o p.mark ∧ u.ms = s.ms ∧ u.wv.win = s.wv.win ∧
          (u.wave ⟨core, v.slot⟩).pts = max (s.wave ⟨core, v.slot⟩).pts p.ts ∧
          ∃ y ∈ (u.core core).ops, y.id = id ∧ ∃ z, y.reqs[k]? = some z ∧ z.st = .done ∧ z.val = r.2.2 ∧ z.wts = p.ts ∧
            z.rts = p.ts + p.ld ∧ z.poison = false) ∧
    (p.ty = .rdata → p.trim = true → ∃ u, s.finalAt u port i o p.mark ∧ u.ms = s.ms ∧
      exec (.portRdata port i) s = .next (u.portQueue port { o.pkt with again := true, retry := 0 } o.client)) ∧
    (p.ty = .ares → p.trim = true → completes (.portAres port i) s (fun t => ∃ path,
      t.net.wires = s.net.wires ++ [⟨{ o.pkt with rpl := true, retry := 0 }, 0, path, []⟩] ∧
      (t.port port).outstanding = (s.port port).outstanding ∧ t.ms = s.ms)) ∧
    (p.ty = .pull → (∀ j q, o.client ≠ .peer j q) → completes (.portPull port i) s (fun t => ∃ path,
      t.net.wires = s.net.wires ++ [⟨{ o.pkt with retry := min 15 (p.retry + 1) }, 0, path, []⟩] ∧
      (t.port port).outstanding.length = (s.port port).outstanding.length ∧ t.ms = s.ms)) ∧
    (p.ty = .redirect → ∀ core id chunk e, o.client = .chunk core id chunk →
      (s.core core).copies.find? (fun y => y.id == id) = some e →
      completes (.portRedirect port i) s (fun t => s.finalAt t port i o p.mark ∧ t.ms = s.ms ∧
        (t.core core).copies = (s.core core).copies.map (fun y =>
          if y.id = id then { y with flying := y.flying.filter (fun a => a != chunk), far := y.far.filter (fun a => a != chunk) } else y) ∧
        ∀ y ∈ (t.core core).tlb, ¬ (y.asn = e.ctx.asn ∧ y.page = e.chunkVa chunk / 2 ^ y.size)))) ∧
  (∀ (s : State) (i : Nat) (p : Packet) (c : Client), s.memoryKept → s.host.accesses[i]? = some (p, c) → p.olds = [] →
    let after := fun (t : State) (bs : List Byte) => t.host.accesses = dropAt s.host.accesses i ∧
      ∀ a, Memory.get t.ms.mem a = if p.addr ≤ a ∧ a < p.addr + bs.length then bs.getD (a - p.addr) 0 else Memory.get s.ms.mem a
    let read := Memory.read s.ms.mem p.addr p.len
    let served := fun (ev : Instr) (bs val : List Byte) =>
      (c = .none → completes ev s (fun t => after t bs)) ∧
      (∀ core id k v x, c = .op core id k → (s.core core).ops.find? (fun y => y.id == id) = some v → v.reqs[k]? = some x →
        v.kind ≠ .prefetch → ∃ u, exec ev s = .next (u.progress core) ∧ after u bs ∧
          (u.wave ⟨core, v.slot⟩).pts = (s.wave ⟨core, v.slot⟩).pts ∧
          ∃ y ∈ (u.core core).ops, y.id = id ∧ ∃ z, y.reqs[k]? = some z ∧ z.st = .done ∧ z.val = val ∧ z.poison = false)
    (p.ty = .rd → served (.portRdata 513 i) [] read) ∧
    (p.ty = .wr → served (.portWdone 513 i) p.data []) ∧
    (p.ty = .red → p.opx ≠ 6 → served (.portWdone 513 i) (leBytes p.len (atomNew p.opx p.len (leNat read) (leNat p.data))) []) ∧
    (p.ty = .atom → served (.portAres 513 i) (leBytes p.len (atomNew p.opx p.len (leNat read) (leNat p.data))) read)) ∧
  (∀ (s : State) (k : Nat) (o : MemOp), o ∈ (s.core k).ops →
    ((∃ r ∈ o.reqs, r.st ≠ .done) → s.settle k o = s) ∧
    ((∀ r ∈ o.reqs, r.st = .done) →
      let id : WaveId := ⟨k, o.slot⟩
      let w := s.wave id
      let t := s.settle k o
      let v := t.wave id
      let open' := (s.core k).loadOpen o = true ∧ o.leased w.pts = true ∧ ∀ r ∈ o.reqs, r.olds = []
      let served := ∀ r ∈ o.reqs, r.wts ≤ s.now
      (o.kind ∈ ([.store, .red, .spill, .prefetch] : List OpKind) → s.opEnded t k o ∧ v.win = w.win ∧ v.s = w.s) ∧
      (o.kind = .coreStore → served → s.opEnded t k o ∧ v.win = w.win ∧ v.s = w.s) ∧
      (o.kind.onCore = true → ¬ served → t = s) ∧
      (o.kind = .load ∨ o.kind = .fill → (s.core k).loadOpen o = false → t = s) ∧
      (o.kind = .fill → open' → s.opEnded t k o) ∧
      (o.kind = .load → o.uni = true → open' → s.opEnded t k o ∧ w.gotUniform v o) ∧
      (o.kind = .msend → s.opEnded t k o ∧ v.win = w.win ∧
        ∀ n, v.getS n = if n = o.dst.getD 0x20 - 0x20 then wordAt (o.valueOf 0) 0 else w.getS n) ∧
      (w.win.apart →
        (o.kind = .load → o.uni = false → open' → s.opEnded t k o ∧ w.gotVector v o) ∧
        (o.kind = .atom → s.opEnded t k o ∧ w.gotVector v o) ∧
        (o.kind = .coreLoad ∨ o.kind = .coreAtom → served → s.opEnded t k o ∧ w.gotVector v o) ∧
        (o.kind = .ratoms → (∀ x ∈ (s.core k).ops, x.slot = o.slot → x.kind = .coreAtom → x.cls = none → o.id ≤ x.id) →
          s.opEnded t k o ∧ w.gotVector v o))))

/-- R119, R206, R96, R302: multicast data lands in the array buffers of the cores that its mask names, and of no other
core of the cluster; where the packet holds its copy's place and handle, and that the outliers of the residency are those of the
time at which the chunk lands, are the model's choices (log 33, 83). A WINV makes the READY and PINNED residencies backed by the
line STALE, marks one that is LOADING, and is acknowledged; which lines back a load that has still to read them is the model's
choice (log 106).
R124, R160, R336, R185: an offered message is appended to its ring, its entry padded with zeros and the tail
advanced, and acknowledged; without room it is refused with reason 0, and trimmed with reason 1. -/
def Obligations.DeliveriesToACluster : Prop :=
  (∀ (s : State) (port i : Nat) (p : Packet), (s.port port).inbox[i]? = some p →
    let k := 128 * portDie port + port % 256 / 2
    (p.ty = .mdata → p.mcast ≠ 0 → p.trim = false → p.opx % 2 = 0 → (∀ j, j < 16 → s.portsIdle (16 * k + j)) → completes (.clusterMdata port i) s (fun t =>
      t.ms = s.ms ∧ ∀ j, j < 16 →
        let own := 128 * portDie p.port + p.port % 256 / 2
        let h := mdataField p 105 16
        let r := (s.cluster own).residency (h % 256)
        let ks := if r.st = .free ∨ r.st = .revoked ∨ r.gen ≠ h / 256 % 256 then [] else r.outk.take r.nout
        let c := s.core (16 * k + j)
        (t.core (16 * k + j)).abuf =
          if (if k = own then mdataField p 40 16 else mdataField p 56 16).testBit j then (c.landMdata p ks p.data).abuf
          else c.abuf)) ∧
    (p.ty = .winv → completes (.clusterWinv port i) s (fun t => t.ms = s.ms ∧
      (∃ f, t.net.wires = s.net.wires ++ [f] ∧ f.pkt.ty = .wack ∧ f.pkt.port = port ∧ f.pkt.addr = p.addr) ∧
      ∀ e ∈ (s.cluster k).residencies, ∃ r, (e.1, r) ∈ (t.cluster k).residencies ∧
        let backed := s.backs k e.1 e.2 (p.addr / 128)
        (p.addr / 128 ∈ e.2.lines → backed = true) ∧
        (e.2.st ≠ .loading → p.addr / 128 ∉ e.2.lines → backed = false) ∧
        (backed = false → r = e.2) ∧
        (backed = true → (e.2.st = .ready ∨ e.2.st = .pinned) → r = { e.2 with st := .stale }) ∧
        (backed = true → e.2.st = .loading → r.st = .loading ∧ r.winv = true)))) ∧
  (∀ (s : State) (port i : Nat) (p : Packet), (s.port port).inbox[i]? = some p → p.ty = .msgd →
    let core := msgCore p.addr
    let c := s.core core
    let n := p.addr % 8
    let answers := fun (t : State) (ty : PType) (reason : Nat) => t.ms = s.ms ∧
      ∃ f, t.net.wires = s.net.wires ++ [f] ∧ f.pkt.ty = ty ∧ f.pkt.opx = reason ∧ f.pkt.port = port ∧ f.pkt.addr = p.addr
    (p.trim = true → completes (.interfaceMsgd port i) s (fun t => answers t .mnak 1 ∧ t.cores = s.cores)) ∧
    (p.trim = false → p.opx < 16 → s.portsIdle core → c.ringPoisoned n = false → ∀ r, c.ring n = some r → c.spad.poisoned r.head 4 = false →
      c.spad.poisoned r.tail 4 = false → p.data.length ≤ r.entry →
      let used := (c.spadWord r.tail + 2 ^ 32 - c.spadWord r.head) % 2 ^ 32
      (2 ^ r.logn ≤ used → completes (.interfaceMsgd port i) s (fun t => answers t .mnak 0 ∧ t.cores = s.cores)) ∧
      (used < 2 ^ r.logn → completes (.interfaceMsgd port i) s (fun t => answers t .mack 0 ∧
        (∀ k, k ≠ core → t.core k = s.core k) ∧
        (t.core core).rt.length = c.rt.length ∧
        (t.core core).spadWord r.tail = (c.spadWord r.tail + 1) % 2 ^ 32 ∧
        let at' := r.base + c.spadWord r.tail % 2 ^ r.logn * r.entry
        (at' + r.entry ≤ r.tail ∨ r.tail + 4 ≤ at' → ∀ j, j < r.entry →
          (t.core core).spad.get (at' + j) = p.data.getD j 0)))) ∧
    (p.trim = false → p.opx = 24 → completes (.interfaceMsgd port i) s (fun t => answers t .mack 0 ∧ t.cores = s.cores ∧
      ∃ a, (t.cluster (core / 16)).adds = (s.cluster (core / 16)).adds ++ [a] ∧
        a.bytes = bitsOf 32 32 (leNat p.data) ∧ a.ts = some (bitsOf 64 64 (leNat p.data)))))

/-- R336, R340, R78, R80, R82, R84, R86, R136: a byte count reaches its phaser; a polling PHWAIT issues again once its
interval has passed; a walk goes from an entry that passes to the table that its FRAME and KEY name, one that finds a
leaf fills the TLBs, tells the wave what it found and frees its entry, one that fails leaves its fault to the wave, and one that finds MIG = 1 waits
1,024 network cycles; an L1 line goes 2,048 core cycles after its home has answered. The model's own choices and
readings in it: log 67, 69, 76, 86, 110. -/
def Obligations.EnginesAnswerWaves : Prop :=  (∀ (s : State) (k i o g : Nat) (clean : Bool) (a : ByteAdd), (s.cluster k).adds[i]? = some a →
    phRef (BitVec.ofNat 32 a.handle) = .hardware k o g clean →
    let p := Map.getD (s.cluster k).phasers o Phaser.reset
    s.phDead (.hardware k o g clean) none = false → completes (.phaserByteAdd k i) s (fun t => t.ms = s.ms ∧
      (t.cluster k).adds = dropAt (s.cluster k).adds i ∧
      Map.getD (t.cluster k).phasers o Phaser.reset =
        Phaser.test { p with bytes := (p.bytes + a.bytes) % 2 ^ 32, cts := max p.cts (a.ts.getD 0) })) ∧
  (∀ (s : State) (id : WaveId), (s.wave id).sched.live = true → (s.wave id).halt = none → s.stopped (s.wave id) = false →
    (s.wave id).waits.polls ≠ 0 → (s.wave id).waits.pollAt ≤ s.now → id ∉ s.issuing →
    exec (.fallbackPoll id) s = .next { s with issuing := id :: s.issuing }) ∧
  (∀ (s : State) (k i : Nat) (w : Walker), (s.cluster k).walks[i]? = some w →
    ∀ ev, (ev = Instr.pageWalkComplete k i ∧ w.migrating = false) ∨
      (ev = Instr.migrationWalkRetry k i ∧ w.migrating = true ∧ w.retryAt ≤ s.netNow) →
    (∀ d l table key e, s.dom? w.ctx.dom = some d → s.keyFault w.ctx.dom w.ctx.key = none →
      w.pos = some ⟨l, table, key, some e⟩ → e % 4 = 1 → e.testBit 5 = true → s.entryFault d l e 0 = none → w.waiters ≠ [] →
      completes ev s (fun t => t.ms.mem = s.ms.mem ∧ t.net = s.net ∧ (t.cluster k).walks = modAt (fun _ =>
        { w with migrating := false, pos := some ⟨l - 1, e / 2 ^ 12 % 2 ^ 40 * 4096, e / 2 ^ 52 % 2 ^ 12, none⟩ }) (s.cluster k).walks i)) ∧
    (∀ s1 a, s.walkAct (k / 128) w.ctx (w.page * 4096) w.ts (w.waiters.map (fun m => m.2.2)) w.fresh w.pos = (s1, a) →
      (a = .busy → exec ev s = .next s1) ∧
      (∀ p, a = .go p → exec ev s = .next (s1.setWalk k i { w with pos := some p, migrating := false })) ∧
      (a = .restart → exec ev s = .next (s1.setWalk k i { w with pos := none, fresh := true, migrating := false })) ∧
      (∀ core slot kind, w.waiters = [(core, slot, kind)] → slot < 8 →
        let ended := fun (t : State) => t.ms = s1.ms ∧ (t.cluster k).walks = dropAt (s1.cluster k).walks i
        let told := fun (t : State) (c l : Nat) => (t.wave ⟨core, slot⟩).answers =
          (s1.wave ⟨core, slot⟩).answers ++ [⟨w.page, kind, .sub c l⟩]
        (∀ c l, a = .fault (.sub c l) → completes ev s (fun t => ended t ∧ told t c l)) ∧
        (∀ l e, a = .leaf l e →
          (∀ x, s1.judgeLeaf w.ctx (w.page * 4096) kind l e = .leaf x → completes ev s (fun t => ended t ∧
            x ∈ (t.core core).tlb ∧ x ∈ (t.cluster k).tlb ∧
            (t.wave ⟨core, slot⟩).answers = (s1.wave ⟨core, slot⟩).answers ++ [⟨w.page, kind, .found x⟩])) ∧
          (∀ c n, s1.judgeLeaf w.ctx (w.page * 4096) kind l e = .fault (.sub c n) → completes ev s (fun t => ended t ∧ told t c n)) ∧
          (s1.judgeLeaf w.ctx (w.page * 4096) kind l e = .migrating → completes ev s (fun t =>
            ∃ x, (t.cluster k).walks = modAt (fun _ => x) (s1.cluster k).walks i ∧
              x.migrating = true ∧ x.retryAt = s.netNow + 1024 ∧ x.waiters = w.waiters)))))) ∧
  (∀ (s : State) (k i : Nat) (l : L1Line), (s.core k).l1[i]? = some l → l.filled + 2048 ≤ s.now →
    exec (.l1LineExpiry k i) s = .next (s.setCore k { s.core k with l1 := dropAt (s.core k).l1 i }))

/-- R363, R364, R377: in each core cycle a core issues from its set the oldest ready wave, or the oldest of those
passed over 32 times; a wave idle for 64 cycles leaves the set, one that has been ready outside for 256 cycles takes
the place of the youngest, a sleeper whose time has passed may enter again, and a free place goes to the oldest wave
that is ready outside. R330: the operations on synchronisation engines of a network cycle's first core cycle wait for its
second, and those of both take their turns in ascending order of core and slot. The model's own choices and readings in it: log
13, 43, 97, 108. -/
def Obligations.WavesAreScheduled : Prop :=  (∀ s, completes .issueCycle s (fun t =>
    t = (s.cores.foldl (fun (u : State) c => u.cycleCore c.1) ({ s with now := s.now + 1 } : State)).engineOrder ∧ t.now = s.now + 1)) ∧
  (∀ s : State,
    let t := s.engineOrder
    let runs := fun (id : WaveId) => ∃ i, (s.focus id).fetchDecode.2 = some i ∧ viewEngine i.view = true
    let before := fun (x y : WaveId) => 8 * x.core + x.slot ≤ 8 * y.core + y.slot
    (∀ id, id ∈ t.issuing ∨ id ∈ t.engine ↔ id ∈ s.issuing ∨ id ∈ s.engine) ∧
    (s.now % 2 = 0 → ∀ id ∈ s.issuing, if runs id then id ∈ t.engine ∧ id ∉ t.issuing else id ∈ t.issuing) ∧
    (s.now % 2 = 1 → t.engine = [] ∧ (s.issuing.Pairwise before → t.issuing.Pairwise before)) ∧
    t = { s with issuing := t.issuing, engine := t.engine }) ∧
  (∀ (s : State) (k : Nat),
    let u := State.refill k 4 ((s.expire k).retry k)
    ∃ pick : Option WaveId, (s.cycleCore k).issuing = u.issuing ++ pick.toList ∧
      (∀ id, pick = some id → u.issuable k id ∧ ∀ y, u.issuable k y →
        (u.isLate y → u.isLate id) ∧ ((u.isLate id → u.isLate y) → (u.wave id).sched.age ≤ (u.wave y).sched.age)) ∧
      (pick = none → ∀ y, ¬ u.issuable k y)) ∧
  (∀ (s : State) (k n : Nat),
    (4 ≤ (s.setOn k).length → State.refill k (n + 1) s = s) ∧
    ((s.setOn k).length < 4 → (∀ id ∈ s.wavesOn k, s.readyOutside id = false) → State.refill k (n + 1) s = s) ∧
    ((s.setOn k).length < 4 → (∃ id ∈ s.wavesOn k, s.readyOutside id = true ∧ (s.wave id).sched.sleepUntil = 0) →
      ∃ id ∈ s.wavesOn k, s.readyOutside id = true ∧ State.refill k (n + 1) s = State.refill k n (s.mapSched id Sched.enter) ∧
        ∀ y ∈ s.wavesOn k, s.readyOutside y = true → (s.wave y).sched.sleepUntil = 0 →
          (s.wave id).sched.age ≤ (s.wave y).sched.age)) ∧
  (∀ (s : State) (id : WaveId), let x := (s.wave id).sched
    x.live = true →
    (x.inSet = true → 64 ≤ x.idle →
      exec (.activeSetIdleExit id) s = .next (State.refill id.core 1 (s.mapSched id Sched.exit))) ∧
    (x.inSet = false → 256 ≤ x.readyOut → s.setOn id.core ≠ [] → ∃ y ∈ s.setOn id.core,
      (∀ z ∈ s.setOn id.core, (s.wave z).sched.age ≤ (s.wave y).sched.age) ∧
      exec (.activeSetLongWait id) s = .next ((s.mapSched y Sched.exit).mapSched id Sched.enter)) ∧
    (x.inSet = false → x.sleepUntil ≠ 0 → x.sleepUntil ≤ s.now →
      exec (.sleepExpiry id) s = .next (State.refill id.core 4 (s.mapSched id (fun x => { x with sleepUntil := 0 })))))

/-- R360, R311: a wave that EXIT has ended waits for its counters and ENQs, takes a tile fault that is pending, and
otherwise frees its slot; its block keeps the waves that still run, or has retired. R361, R356, R218, R393: the
dispatcher places the next block, or the blocks of the next gang, on the cores where it fits: their waves stand in
free slots, at the code base, with the launch's timestamp and nothing in flight. The model's own choices and readings
in it: log 3, 42, 44, 45, 65, 95, 96. -/
def Obligations.WavesAndBlocks : Prop :=
  (∀ (s : State) (id : WaveId), let w := s.wave id
    w.sched.live = true → w.waits.ending = true → s.stopped w = false →
    (w.cnt ≠ ⟨0, 0, 0, 0, 0⟩ ∨ w.waits.enq ≠ 0 → exec (.waveEnd id) s = .next s) ∧
    (w.cnt = ⟨0, 0, 0, 0, 0⟩ → w.waits.enq = 0 →
      (∀ t, w.tile = some t → w.halt = none → exec (.waveEnd id) s = .next ((s.focus id).takeTile t)) ∧
      (w.tile = none ∨ w.halt ≠ none → id.slot < 8 →
        completes (.waveEnd id) s (fun t =>
          t.wave id = { Wave.reset with sched := { Wave.reset.sched with stalls := w.sched.stalls } } ∧
          t.sameMemory s ∧
          ∀ b ∈ (t.core id.core).blocks, b.grid = w.ident.grid → b.b = w.ident.block →
            ((s.core id.core).blocks.map (fun x => (x.grid, x.b))).Nodup → id.slot ∉ b.waves ∧ b.waves ≠ [])))) ∧
  (∀ (s : State) (gid cluster : Nat) (g : Grid) (cores : List Nat), Map.get? s.fe.grids gid = some g →
    g.placed < g.count → (s.domOf g.ctx.dom).clusters.contains cluster = true → (s.ctx g.ctx.asr).stopping = false →
    s.placeFor gid cluster g = some cores → cores.Nodup → (s.argsOf gid g (g.nextBlocks cores.length)).2.isSome = true →
    completes (.dispatchBlock gid cluster) s (fun t =>
      Map.get? t.fe.grids gid = some { g with placed := g.placed + cores.length } ∧
      (∀ k, k ∉ cores → (t.core k).blocks = (s.core k).blocks) ∧
      ∀ j k, cores[j]? = some k → ∃ b, (t.core k).blocks = (s.core k).blocks ++ [b] ∧
        b.grid = gid ∧ b.b = g.placed + j ∧ b.amask = 0 ∧ b.waves.length = g.hdr.waves ∧
        (g.hdr.bonded = true → b.gang.isSome = true ∧ b.rho = j / g.hdr.cols ∧ b.gamma = j % g.hdr.cols) ∧
        ∀ i slot, b.waves[i]? = some slot → (s.wave ⟨k, slot⟩).sched.live = false ∧
          let w := t.wave ⟨k, slot⟩
          w.sched.live = true ∧ w.ctl.pc = BitVec.ofNat 57 g.codeBase ∧ w.ctl.path = [] ∧ w.ctl.ended = 0 ∧
            w.ctl.exec = (if g.hdr.prot then BitVec.ofNat 64 (2 ^ 32 - 1) else BitVec.allOnes 64) ∧ w.ident.grid = gid ∧
            w.ident.block = g.placed + j ∧ w.ident.wave = i ∧ w.win.cur = 0 ∧ w.win.nf = g.hdr.frames ∧ w.pts = g.startTs ∧
            w.cnt = ⟨0, 0, 0, 0, 0⟩ ∧ (g.hdr.narg = 0 → w.s = [])))

/-- R385, R384, R390, R400 to R402, R383: doorbells, the changes of a queue record in the order in which they come and its
acknowledgement, the errors that find the event ring full, the ring and what waits for it. The model's own choices and readings in
it: log 56. -/
def Obligations.QueueRecordsAndRings : Prop :=  (∀ (s : State) (n : Nat) (tail : BitVec 32), n < 4096 → let q := s.queue n
    let bell := { QueueChange.blank n with bell := some (tail, s.fe.hostTs) }
    (s.recordBusy n = true → exec (.doorbell n tail) s = .next (s.withFe { s.fe with changes := s.fe.changes ++ [bell] })) ∧
    (s.recordBusy n = false →
      (q.enable = false → exec (.doorbell n tail) s = .next (s.logError (n % 2) 9 4 true 0 0 n 0)) ∧
      (q.enable = true → q.takesTail tail → completes (.doorbell n tail) s (fun t =>
        s.recordNow t n { q with tail := tail, hts := max q.hts s.fe.hostTs })) ∧
      (q.enable = true → ¬ q.takesTail tail →
        (0 < (s.ring q.dom).room → exec (.doorbell n tail) s = .next (s.putEvent q.dom (eventRecord s.netNow 0x0B n 2))) ∧
        ((s.ring q.dom).room = 0 → completes (.doorbell n tail) s (fun t => s.recordNow t n { q with
          halt := true, ovfcnt := q.ovfcnt + 1
          pend := if q.pend.length < 4 then q.pend ++ [eventRecord s.netNow 0x0B n 2] else q.pend }))))) ∧
  (∀ (s : State) (n : Nat), let q := s.queue n
    (q.inval = true → exec (.queueRecordChange n) s = .next s) ∧
    (q.inval = false → q.counted ≠ q → completes (.queueRecordChange n) s (fun t => s.recordNow t n q.counted)) ∧
    (q.inval = false → q.counted = q → ∀ pre c post, s.fe.changes = pre ++ c :: post → c.queue = n → (∀ x ∈ pre, x.queue ≠ n) →
      let u := s.withFe { s.fe with changes := pre ++ post }
      (∀ tail ts, c.bell = some (tail, ts) → q.enable = true → q.takesTail tail → completes (.queueRecordChange n) s (fun t =>
        u.recordNow t n { q with tail := tail, hts := max q.hts ts })) ∧
      (∀ x, c.bell = none → c.note = some x →
        let q1 := if x.1 then { q with trigs := q.trigs ++ [x.2] } else { q with fins := q.fins ++ [x.2] }
        (q1.counted ≠ q1 → completes (.queueRecordChange n) s (fun t => u.recordNow t n q1.counted)) ∧
        (q1.counted = q1 → completes (.queueRecordChange n) s (fun t => t.queue n = q1 ∧ t.fe.changes = pre ++ post ∧ t.ms = s.ms ∧
          ∀ j, j ≠ n → t.queue j = s.queue j))) ∧
      (c.bell = none → c.note = none → completes (.queueRecordChange n) s (fun t => t.fe.changes = pre ++ post ∧
        (∀ j, j ≠ n → t.queue j = s.queue j) ∧
        (t.queue n).ver = q.ver + 1 ∧ (t.queue n).inval = true ∧ (t.queue n).head = (q.changed c).head ∧
        (t.queue n).nextseq = (q.changed c).nextseq ∧
        (c.err = none → t.queue n = { q.changed c with ver := q.ver + 1, inval := true } ∧ t.ms = s.ms) ∧
        ∀ e, c.err = some e → let r := q.changed c
          (0 < (s.ring r.dom).room → t.queue n = { r with ver := q.ver + 1, inval := true } ∧
            t.ms = (s.putEvent r.dom (eventRecord s.netNow e n 2)).ms) ∧
          ((s.ring r.dom).room = 0 → (t.queue n).halt = true ∧ (t.queue n).ovfcnt = q.ovfcnt + 1 ∧ t.ms = s.ms)))) ∧
    ((q.done + 1).toNat ∈ q.fins.map (fun e => e.1) → q.counted.done = q.done + 1 ∧ q.counted.trig = q.trig ∧ q.dts ≤ q.counted.dts ∧
        (q.counted.dts = q.dts ∨ ((q.done + 1).toNat, q.counted.dts) ∈ q.fins)) ∧
      ((q.done + 1).toNat ∉ q.fins.map (fun e => e.1) → q.counted.done = q.done ∧
        ((q.trig + 1).toNat ∈ q.trigs.map (fun e => e.1) → q.counted.trig = q.trig + 1 ∧ q.tts ≤ q.counted.tts ∧
          (q.counted.tts = q.tts ∨ ((q.trig + 1).toNat, q.counted.tts) ∈ q.trigs)) ∧
        ((q.trig + 1).toNat ∉ q.trigs.map (fun e => e.1) → q.counted = q)) ∧
    (∀ r, Map.get? s.fe.queues n = some r → completes (.replicaInvalAck n) s (fun t =>
      t = { s with fe := { s.fe with queues := t.fe.queues, replicas := t.fe.replicas } } ∧
        (Map.sorted s.fe.replicas = true → Map.get? t.fe.replicas n = none) ∧
        t.queue n = { r with inval := false } ∧ ∀ j, j ≠ n → t.queue j = s.queue j))) ∧
  (∀ (s : State) (d : Nat) (v : BitVec 128), s.memoryKept →
    let r := s.ring d
    let t := s.putEvent d v
    let slot := 2 ^ 51 + (r.base + 16 * (r.tail.toNat % 2 ^ r.logn)) % 2 ^ 50
    let word := 2 ^ 51 + r.tailAddr % 2 ^ 50
    t.ring d = { r with tail := r.tail + 1 } ∧ ∀ x, Memory.get t.ms.mem x =
      if word ≤ x ∧ x < word + 4 then (leBytes 4 (r.tail + 1).toNat).getD (x - word) 0
      else if slot ≤ x ∧ x < slot + 16 then (leBytes 16 v.toNat).getD (x - slot) 0 else Memory.get s.ms.mem x) ∧
  (∀ (s : State) (d : Nat) (head : BitVec 32), let r := s.ring d
    (r.set = true → completes (.eventHeadWrite d head) s (fun t =>
      t = { s with fe := { s.fe with rings := t.fe.rings } } ∧ t.ring d = { r with head := head } ∧
        ∀ j, j ≠ d → t.ring j = s.ring j)) ∧
    (r.set = false → exec (.eventHeadWrite d head) s = .next s) ∧
    (∀ n q, s.haltedQueue d = some (n, q) → s.recordBusy n = true → exec (.eventOverflowFlush d) s = .next s) ∧
    (∀ n q, s.haltedQueue d = some (n, q) → s.recordBusy n = false → q.pend.length < r.room → completes (.eventOverflowFlush d) s (fun t =>
      t.queue n = { q with ovfcnt := 0, pend := [], halt := false, ver := q.ver + 1, inval := true } ∧
      t.ms = (s.putEvents d (eventRecord s.netNow q.ovfcnt.toNat n 3 :: q.pend)).ms ∧
      (t.ring d).tail = r.tail + BitVec.ofNat 32 (1 + q.pend.length))) ∧
    (∀ n q, s.haltedQueue d = some (n, q) → r.room ≤ q.pend.length → exec (.eventOverflowFlush d) s = .next s) ∧
    (s.haltedQueue d = none → 0 < r.room → ∀ v vs, r.held = v :: vs → completes (.eventOverflowFlush d) s (fun t =>
      t.ms = (s.putEvent d v).ms ∧ t.ring d = { r with held := vs, tail := r.tail + 1 })))

/-- R380 to R382, R387: a free lane binds the ready queue of its domain with the highest PRIO; a step takes the packets
of the bound lanes of its die that may execute, by TYPE. R396, R73: WAIT, SIGNAL and COPY. The model's own choices
and readings in it: log 58; that a launch is read again at its start timestamp, log 93; that a packet which must wait is
put back and read again, log 102. -/
def Obligations.LanesAndPackets : Prop :=
  ((∀ (s : State) (die lane d n : Nat), s.box.dark.contains die = false → die < 2 → lane < 32 →
    (s.lane (32 * die + lane)).queue = none → s.laneDomain die lane = some d →
    ∀ s1, s1 = (s.fe.queues.filter (fun e => e.2.dom == d)).foldl (fun t e => t.refetch die e.1) s → s1.nextQueue die d = some n →
    completes (.laneBind die lane) s (fun t =>
      t = { s with fe := { s.fe with lanes := t.fe.lanes, rr := t.fe.rr, replicas := s1.fe.replicas } } ∧
      t.lane (32 * die + lane) = ⟨some n, 0⟩ ∧
      (∀ j, j ≠ 32 * die + lane → t.lane j = s.lane j) ∧ Map.getD t.fe.rr d 4095 = n ∧
      (∃ q, (n, q) ∈ s.fe.queues) ∧ (s1.queueAt die n).dom = d ∧ s1.queueReady die n = true ∧
        ∀ e ∈ s.fe.queues, (s1.queueAt die e.1).dom = d → s1.queueReady die e.1 = true →
          (s1.queueAt die e.1).prio ≤ (s1.queueAt die n).prio)) ∧
  (∀ (s : State) (die : Nat), s.box.dark.contains die = false → die < 2 → s.fe.todo = [] →
    completes (.cicadaStep die) s (fun t => t.fe.todo.Pairwise (fun x y => pktType x.2 ≤ pktType y.2) ∧
      (∃ layout : Nat → List DomainPlan, t.agenda = t.fe.todo.map (fun e => packetRow (layout e.1) e.1 e.2) ++ s.agenda) ∧
      (∀ e ∈ t.fe.todo, ∃ i, i < 32 ∧ (s.lane (32 * die + i)).queue = some e.1) ∧ t.fe.grids = s.fe.grids ∧ t.now = s.now)) ∧
  (∀ (s : State) (die i n : Nat), s.box.dark.contains die = false → die < 2 → s.fe.todo = [] → i < 32 →
    (s.lane (32 * die + i)).queue = some n → (s.lane (32 * die + i)).retired < 16 →
    (∀ j, j < 32 → j ≠ i → (s.lane (32 * die + j)).queue = none) →
    let q := s.queueAt die n
    let ctx := s.asrContext q.asr
    let va := q.base + 64 * (q.head.toNat % 2 ^ q.logn)
    s.current die n = true → s.mayChange die n = true → q.enable = true → q.halt = false → q.head ≠ q.tail →
    (s.ctx q.asr).stopping = false → Map.get? s.fe.hands n = none → ctx.dom = q.dom →
    ∀ s1 b, s.feLoad die (feOwner n 0) ctx va 64 q.hts = (s1, .done b) → packetBad b = false →
      (∀ e ∈ pktEntries b, s1.current die e.1 = true ∧ s1.entryBad die q.dom e = false ∧ s1.entryMet die e = true) →
      let ready := fun (t s2 : State) => t.fe.todo = [(n, b)] ∧ Map.get? t.fe.hands n = some b ∧ s.recordsStand t ∧ t.ms = s2.ms ∧
        ∃ layout, t.agenda = packetRow layout n b :: s.agenda
      (isLaunch (pktType b) = false ∨ s1.startTs die n b ≤ q.hts → completes (.cicadaStep die) s (fun t => ready t s1)) ∧
      (isLaunch (pktType b) = true → q.hts < s1.startTs die n b →
        ∀ s2 b2, s1.feLoad die (feOwner n 1) ctx va 64 (s1.startTs die n b) = (s2, .done b2) →
          (b2 = b → completes (.cicadaStep die) s (fun t => ready t s2)) ∧
          (b2 ≠ b → completes (.cicadaStep die) s (fun t => t.fe.todo = [] ∧ s.recordsStand t ∧ t.ms = s2.ms))))) ∧
  (∀ (s : State) (n i : Nat) (b : List Byte),
    let u := s.packetTaken
    let q := s.queueAt (i / 32) n
    let ctx := s.queueContext n
    let f := pktField b
    let took := fun (t : State) => s.tookPacket t i (plainChange n)
    (s.nextPacket n i b (.waitPacket n) →
      (f 24 8 = 0 → completes (.waitPacket n) s (fun t => took t ∧ t.ms = s.ms)) ∧
      (f 24 8 ≠ 0 → exec (.waitPacket n) s = .next (u.withFe { u.fe with polls := Map.set s.fe.polls n (s.netNow, b) }))) ∧
    (∀ tm, Map.get? s.fe.polls n = some (tm, b) → s.holder n = some i → pktType b = 1 → tm ≤ s.netNow →
      s.mayChange (i / 32) n = true → q.halt = false →
      ∀ s1 v, s.feLoad (i / 32) (feOwner n 2) ctx (f 24 8) 8 q.hts = (s1, .done v) →
      (f 32 8 ≤ leNat v → completes (.waitPoll n) s (fun t => took t ∧ t.ms = s1.ms)) ∧
      (leNat v < f 32 8 → completes (.waitPoll n) s (fun t => t.ms = s1.ms ∧ s.recordsStand t ∧
        Map.get? t.fe.polls n = some (s.netNow + 2000, b)))) ∧
    (s.nextPacket n i b (.signalPacket n) →
      (q.done ≠ q.nextseq → exec (.signalPacket n) s = .next (u.putBack n)) ∧
      (q.done = q.nextseq → Map.get? s.fe.polls n = none → ∀ s1 bs,
        (f 24 8 = 0 ∧ s1 = u ∨ f 24 8 ≠ 0 ∧
          u.feStore (i / 32) (feOwner n 2) ctx (f 24 8) (max q.hts q.dts) ((b.drop 32).take 8) = (s1, .done bs)) →
        (pktEvt b = false → completes (.signalPacket n) s (fun t => took t ∧ t.ms = s1.ms)) ∧
        (pktEvt b = true → 0 < (s1.ring q.dom).room → completes (.signalPacket n) s (fun t => took t ∧
          t.ms = (s1.putEvent q.dom (eventRecord s1.netNow q.nextseq.toNat n 1)).ms)) ∧
        (pktEvt b = true → (s1.ring q.dom).room = 0 → completes (.signalPacket n) s (fun t => s.recordsStand t ∧ t.ms = s1.ms)))) ∧
    (s.nextPacket n i b (.copyPacket n) → Map.get? s.fe.polls n = none →
      let src := f 24 8
      let dst := f 32 8
      let len := f 40 4
      ∀ s1 s2 x y, u.feWindow (i / 32) n ctx src false = (s1, .done [], x) → s1.feWindow (i / 32) n ctx dst true = (s2, .done [], y) →
        (x ≠ 2 → y ≠ 2 → exec (.copyPacket n) s = .next (s2.retiredWith n 0x01)) ∧
        (x = 2 ∨ y = 2 → 0 < len → len ≤ 64 - dst % 64 → ∀ s3 s4 bs cs,
          s2.feLoad (i / 32) (feOwner n 3) ctx src len 0 = (s3, .done bs) →
          s3.feStore (i / 32) (feOwner n 3) ctx dst 0 bs = (s4, .done cs) →
          completes (.copyPacket n) s (fun t => took t ∧ t.ms = s4.ms))))

/-- R390, R392, R395, R358: a launch takes the next sequence number. Judged fit it becomes a grid, a seed launch with a
spawn-tree counter of 1; with no block it completes at once, and refused it completes with its error. The model's own
choices and readings in it: log 46. -/
def Obligations.LaunchPackets : Prop :=  ∀ (s : State) (n i : Nat) (b : List Byte), ∀ row ∈ ([.launchPacket n, .seedlaunchPacket n, .indirectPacket n] : List Instr),
    s.nextPacket n i b row →
    let u := s.packetTaken
    let ctx := s.queueContext n
    let seed := row = .seedlaunchPacket n
    let ts := s.startTs (i / 32) n b
    let seq := ((s.queueAt (i / 32) n).nextseq + 1).toNat
    ∀ s1 r, u.judgeLaunch (i / 32) (feOwner n 2) ctx (pktType b) b (if pktType b = 4 then 1 else pktField b 32 4) ts = (s1, r) →
      (∀ h, r = .go h 0 → completes row s (fun t =>
        s.tookPacket t i { plainChange n with seq := true, ended := some ts } ∧ t.fe.grids = s.fe.grids)) ∧
      (∀ h count, r = .go h count → 0 < count → completes row s (fun t =>
        s.tookPacket t i { plainChange n with seq := true } ∧
        (∃ g, Map.get? t.fe.grids s.fe.nextGrid = some g ∧ g.launched h ctx n seq count ts b ∧
          (seed → g.seed = some s.fe.nextGrid) ∧ (¬ seed → g.seed = none)) ∧
        t.fe.nextGrid = s.fe.nextGrid + 1 ∧ (∀ j, j ≠ s.fe.nextGrid → Map.get? t.fe.grids j = Map.get? s.fe.grids j) ∧
        (seed → ∃ l, Map.get? t.fe.seeds s.fe.nextGrid = some l ∧ l.counter = 1 ∧ l.spawns = [] ∧ l.queue = n ∧ l.seq = seq) ∧
        (¬ seed → t.fe.seeds = s.fe.seeds))) ∧
      (∀ c, r = .refuse c → (i / 32 % 2 = n % 2 → s1.canPost n) → completes row s (fun t =>
          s.tookPacket t i { plainChange n with err := some c, seq := true, ended := some ts } ∧ t.fe.grids = s.fe.grids ∧
            t.ms = s1.erredMem n i c)) ∧
      (∀ c, r = .refuse c → i / 32 % 2 = n % 2 → (s1.ring (s.queue n).dom).room = 0 → completes row s (fun t =>
        t.fe.grids = s.fe.grids ∧ t.ms = s1.ms ∧ (t.queue n).halt = true ∧ (t.queue n).ovfcnt = (s.queue n).ovfcnt + 1 ∧
          (t.queue n).nextseq = (s.queue n).nextseq + 1))

/-- R379, R358, R390, R343, R384: what the front end does with an ENQ, with the spawns of a seed launch, and with a grid that
has triggered or retired: its completion and its trigger go to the owner of the queue's record in the order of the changes, and
its phasers are free, those saved with its context too. The model's own choices and readings in it: log 40, 47. -/
def Obligations.SpawnsAndGrids : Prop :=  (∀ (s : State) (i : Nat) (sp : Spawn), s.fe.enqs[i]? = some sp →
    let answered := fun (t : State) (ok : Bool) => t.fe.enqs = dropAt s.fe.enqs i ∧ t.fe.grids = s.fe.grids ∧ t.ms = s.ms ∧
      (t.wave sp.wave).waits.enq = (s.wave sp.wave).waits.enq - 1 ∧ (t.wave sp.wave).win = (s.wave sp.wave).win ∧
      (t.wave sp.wave).ctl = (s.wave sp.wave).ctl ∧
      ∀ k, k ≠ 7 → (t.wave sp.wave).getQ k = if k = sp.dst then ok else (s.wave sp.wave).getQ k
    (s.seed? sp.grid = none → completes (.enqRequest i) s (fun t => answered t false ∧ t.fe.seeds = s.fe.seeds)) ∧
    (∀ k l, s.seed? sp.grid = some (k, l) →
      let full := sp.record % 64 ≠ 0 ∨ 2 ^ 40 ≤ l.counter + sp.count ∨ 256 ≤ l.spawns.length
      (full → completes (.enqRequest i) s (fun t => answered t false ∧ t.fe.seeds = s.fe.seeds)) ∧
      (¬ full → completes (.enqRequest i) s (fun t => answered t true ∧ (∀ j, j ≠ k → Map.get? t.fe.seeds j = Map.get? s.fe.seeds j) ∧
        Map.get? t.fe.seeds k = some { l with counter := l.counter + sp.count, spawns := l.spawns ++ [sp] })))) ∧
  (∀ (s : State) (k : Nat) (l : SeedLaunch) (sp : Spawn) (rest : List Spawn), Map.get? s.fe.seeds k = some l →
    l.spawns = sp :: rest → s.recordBusy l.queue = false → ∀ s1 r b, s.judgeSpawn (l.queue % 2) k l sp = (s1, r, b) →
    (∀ h count, r = .go h count → completes (.spawnHandoff k) s (fun t => t.ms = s1.ms ∧
      (∃ g, Map.get? t.fe.grids s.fe.nextGrid = some g ∧ g.launched h l.ctx l.queue l.seq count sp.ts b ∧ g.seed = some k) ∧
      Map.get? t.fe.seeds k = some { l with spawns := rest })) ∧
    (∀ c, r = .refuse c → 0 < (s1.ring (s.queue l.queue).dom).room →
      completes (.spawnHandoff k) s (fun t => t.fe.grids = s.fe.grids ∧
        t.ms = (s1.putEvent (s.queue l.queue).dom (eventRecord s1.netNow c l.queue 2)).ms ∧
        (sp.count < l.counter →
          Map.get? t.fe.seeds k = some { l with spawns := rest, counter := l.counter - sp.count })))) ∧
  (∀ (s : State) (id : Nat) (g : Grid), Map.get? s.fe.grids id = some g → Map.sorted s.fe.grids = true →
    let note := fun (q : Nat) (trigger : Bool) (seq ts : Nat) => { QueueChange.blank q with note := some (trigger, seq, ts) }
    (g.retired ≠ g.count → g.trigDone = false → g.trigd = g.count → g.seed = none → completes (.gridComplete id) s (fun t =>
      Map.get? t.fe.grids id = some { g with trigDone := true } ∧
      t.fe.changes = s.fe.changes ++ [note g.queue true g.seq g.trigTs] ∧ (∀ j, t.queue j = s.queue j) ∧ t.ms = s.ms)) ∧
    (g.retired = g.count → g.trigDone = true → g.seed = none → completes (.gridComplete id) s (fun t =>
      Map.get? t.fe.grids id = none ∧ t.fe.changes = s.fe.changes ++ [note g.queue false g.seq g.finalTs] ∧
      (∀ j, t.queue j = s.queue j) ∧ t.ms = s.ms ∧
      (∀ k, ∀ p ∈ (t.cluster k).phasers, p.2.live = true → p.2.grid ≠ id) ∧
      ∀ c ∈ t.ctxs, ∀ x ∈ c.2.sync, ∀ p ∈ x.2.1, p.2.grid ≠ id)) ∧
    (g.retired = g.count → ∀ k l, g.seed = some k → Map.get? s.fe.seeds k = some l → l.counter = 0 →
      (∀ e ∈ s.fe.grids, e.1 ≠ id → e.2.seed ≠ some k) →
      Map.sorted s.fe.seeds = true → completes (.gridComplete id) s (fun t => Map.get? t.fe.seeds k = none ∧
        let ts := max l.finalTs g.finalTs
        t.fe.changes = s.fe.changes ++ [note l.queue false l.seq ts, note l.queue true l.seq ts] ∧ ∀ j, t.queue j = s.queue j)))

/-- R397, R306, R316, R398: the packets on a cluster's residencies: SETQUOTA with PRIV sets the domain's quota; REVOKEALL
frees every residency of the domain that no MLOOP and no load uses, and retires with the last of them. R398, R383,
R394, R127: RESUME takes HALT from a queue that has nothing latched; SETQ and SETASR write the fields of an image
that names the queue's domain; COUNTERS stores its values. The model's own choices and readings in it: log 41, 52,
57. -/
def Obligations.ResidencyAndRecordPackets : Prop :=
  (∀ (s : State) (n i : Nat) (b : List Byte),
    let q := s.queueAt (i / 32) n
    let k := pktField b 26 2
    (s.nextPacket n i b (.setquota n) →
      (s.ownCluster n k = true → q.priv = true → completes (.setquota n) s (fun t => s.tookPacket t i (plainChange n) ∧
        Map.getD (t.cluster k).quota q.dom 512 = pktField b 28 2 ∧
        (∀ d, d ≠ q.dom → Map.getD (t.cluster k).quota d 512 = Map.getD (s.cluster k).quota d 512) ∧
        ∀ j, j ≠ k → t.cluster j = s.cluster j)) ∧
      (s.ownCluster n k = false ∨ q.priv = false → (i / 32 % 2 = n % 2 → s.canPost n) →
        completes (.setquota n) s (fun t => s.tookPacket t i { plainChange n with err := some 0x08 } ∧ t.clusters = s.clusters ∧
          t.ms = s.erredMem n i 0x08))) ∧
    (s.nextPacket n i b (.revokeall n) → s.ownCluster n k = true →
      completes (.revokeall n) s (fun t =>
        (∀ j, j < 256 → let r := (s.cluster k).residency j
          (t.cluster k).residency j =
            if r.st ≠ .free ∧ r.dom = q.dom ∧ r.st ≠ .loading ∧ s.loopUses k j = false then { Residency.reset with gen := r.gen % 255 + 1 }
            else r) ∧
        ((∀ j, j < 256 → let r := (s.cluster k).residency j
          r.dom = q.dom → r.st ≠ .loading ∧ s.loopUses k j = false) → s.tookPacket t i (plainChange n)) ∧
        ((∃ j, j < 256 ∧ ((s.cluster k).residency j).dom = q.dom ∧ ((s.cluster k).residency j).st = .loading) → s.recordsStand t)))) ∧
  (∀ (s : State) (n i : Nat) (b : List Byte),
    let q := s.queueAt (i / 32) n
    let m := mgmtArg b 0
    let r := s.queueAt (i / 32) m
    let changed := fun (row : Instr) (s1 : State) (c : QueueChange) =>
      (i / 32 % 2 = m % 2 → s1.recordBusy m = false → completes row s (fun t => ∃ v : State,
        s1.tookRecord v i c ∧ v.waves = s.waves ∧ v.wv = s.wv ∧ v.tookPacket t i (plainChange n))) ∧
      (i / 32 % 2 ≠ m % 2 → s1.changing m = false → completes row s (fun t => s1.tookRecord t i c ∧
        Map.get? t.fe.polls n = some (1, b) ∧ t.ms = s1.ms))
    (s.nextPacket n i b (.resume n) → m < 4096 → s.current (i / 32) m = true → r.dom = q.dom →
      (m ≠ n → Map.get? s.fe.polls n = none → r.halt = true → r.pend = [] →
        changed (.resume n) s { plainChange m with pop := false, resume := true }) ∧
      (r.halt = false ∨ r.pend ≠ [] → Map.get? s.fe.polls n = none →
        completes (.resume n) s (fun t => s.tookPacket t i (plainChange n))) ∧
      ((Map.get? s.fe.polls n).isSome = true → i / 32 % 2 ≠ m % 2 → s.changing m = false →
        completes (.resume n) s (fun t => s.tookPacket t i (plainChange n)))) ∧
    (s.nextPacket n i b (.counters n) → m < 2 → ∀ s1 cs,
      s.packetTaken.feStore (i / 32) (feOwner n 2) (s.queueContext n) (mgmtArg b 1 % 2 ^ 57) 0
        ((if m = 0 then s.netCounters (s.domOf q.dom) else s.waveCounters (s.domOf q.dom)).flatMap (leBytes 8)) = (s1, .done cs) →
      completes (.counters n) s (fun t => s.tookPacket t i (plainChange n) ∧ (pktEvt b = false → t.ms = s1.ms))) ∧
    (∀ s1 bs, s.packetTaken.imageAt (i / 32) n (mgmtArg b 1) 16 s1 bs → q.priv = true → m < 4096 →
      let v := leNat bs
      (s.nextPacket n i b (.setq n) → s.current (i / 32) m = true → Map.get? s.fe.polls n = none → bitsOf 80 4 v = q.dom →
        (r.enable = true → r.dom = q.dom) → 4 ≤ bitsOf 64 4 v → bitsOf 0 57 v % 4096 = 0 →
        (m ≠ n → changed (.setq n) s1 { plainChange m with pop := false, fields := some v }) ∧
        (m = n → completes (.setq n) s (fun t => s.tookPacket t i { plainChange n with fields := some v }))) ∧
      (s.nextPacket n i b (.setasr n) → bitsOf 68 4 v = q.dom →
        (Map.getD s.fe.asrs m AddrSpace.reset = AddrSpace.reset ∨ (Map.getD s.fe.asrs m AddrSpace.reset).dom = q.dom) →
        completes (.setasr n) s (fun t => s.tookPacket t i (plainChange n) ∧
          Map.getD t.fe.asrs m AddrSpace.reset = ⟨q.dom, bitsOf 52 16 v, bitsOf 40 12 v, bitsOf 0 40 v⟩ ∧
          ∀ j, j ≠ m → Map.getD t.fe.asrs j AddrSpace.reset = Map.getD s.fe.asrs j AddrSpace.reset))))

/-- R83, R391, R89, R91, R92, R441: the invalidations drop every translation that they cover and retire once no access
that used one is in flight; a sealed blob whose seal is good loads or revokes the slot that it names. The model's own
choices and readings in it: log 41, 48, 51, 60; that the instruction-cache lines of the slot leave with INVALKEY is the
model's choice, log 90. -/
def Obligations.InvalidationsAndKeys : Prop :=  ∀ (s : State) (n i : Nat) (b : List Byte),
    let q := s.queueAt (i / 32) n
    let a := mgmtArg b 0
    let va := mgmtArg b 1 % 2 ^ 57
    let len := mgmtArg b 2
    (s.nextPacket n i b (.inval n) → a < 2 ^ 16 →
      completes (.inval n) s (fun t =>
        t.fe.headers = [] ∧
        (∀ k e, e ∈ (t.core k).tlb ↔ e ∈ (s.core k).tlb ∧ ¬ e.touches a va len) ∧
        (∀ k e, e ∈ (t.cluster k).tlb ↔ e ∈ (s.cluster k).tlb ∧ ¬ e.touches a va len) ∧
        (∀ id, ∃ as, t.wave id = { s.wave id with answers := as } ∧ ∀ x ∈ as, x ∈ (s.wave id).answers ∧
          ¬ ((s.wave id).ctx.asn = a ∧ overlaps (x.page * 4096) 4096 va len = true)) ∧
        (s.rangeInFlight a va len = false → s.tookRecord t i (plainChange n)) ∧
        (s.rangeInFlight a va len = true → s.recordsStand t))) ∧
    (s.nextPacket n i b (.invalkey n) → a < 4096 →
      let busy := s.inFlight (fun _ _ x => x == a)
      completes (.invalkey n) s (fun t =>
        (∀ k e, e ∈ (t.core k).tlb ↔ e ∈ (s.core k).tlb ∧ e.key ≠ a) ∧
        (∀ k e, e ∈ (t.cluster k).tlb ↔ e ∈ (s.cluster k).tlb ∧ e.key ≠ a) ∧
        (∀ k e, e ∈ (t.core k).icache ↔ e ∈ (s.core k).icache ∧ e.key ≠ a) ∧
        (busy = false → s.tookRecord t i (plainChange n) ∧ t.key a = { s.key a with cleared := true }) ∧
        (busy = true → s.recordsStand t ∧ t.key a = s.key a))) ∧
    (∀ r ∈ ([(.keyload n, 3), (.keyrevoke n, 4)] : List (Instr × Nat)), s.nextPacket n i b r.1 →
      ∀ s1 bs, s.packetTaken.imageAt (i / 32) n a blobBytes s1 bs → ∀ x, Map.get? s.box.sessions q.dom = some x →
      completes r.1 s (fun t => s.popped t n i ∧
        ((∀ v, openBlob x.secret bs = some v → ¬ (v.dom = q.dom ∧ v.op = r.2 ∧ x.counter ≤ v.counter ∧ v.slot < 4096)) →
          t.ms.keys = s.ms.keys ∧ t.box = s.box) ∧
        ∀ v, openBlob x.secret bs = some v → v.dom = q.dom → v.op = r.2 → x.counter ≤ v.counter → v.slot < 4096 →
          let y := s.key v.slot
          (∀ z, Map.get? t.box.sessions q.dom = some z → z = { x with counter := v.counter + 1 }) ∧
          (r.2 = 3 → t.key v.slot =
            if y.st = .empty ∨ (y.st = .revoked ∧ y.cleared = true) then ⟨.loaded, q.dom, y.epoch + 1, false⟩ else y) ∧
          (r.2 = 4 → y.st = .loaded → y.owner = q.dom →
            (t.key v.slot).st = .revoked ∧ (t.key v.slot).cleared = false ∧
            (∀ k, ∀ e ∈ (t.core k).tlb, e.key ≠ v.slot) ∧ (∀ k, ∀ e ∈ (t.core k).l1, e.key ≠ v.slot) ∧
            (∀ k, ∀ e ∈ (t.slice k).sets, ∀ w ∈ e.2, w.key ≠ v.slot) ∧
            ∀ e ∈ s.clusters, ∀ j, j < 256 → ((s.cluster e.1).residency j).st ≠ .free →
              ((s.cluster e.1).residency j).key = v.slot → ((t.cluster e.1).residency j).st = .revoked)))

/-- R85, R88, R131, R306: a MIGRATE passes through its parts: MIG in the leaf entries, the invalidation, the drain and
copy at every old home, the new FRAME, the release; it reads and writes the entries by packets of its die's port. A DOMAINCUT whose layout is sound gives its domains their parts anew, with no
packet of theirs under way. The model's own choices and readings in it: log 35, 53. -/
def Obligations.MigrationAndCut : Prop :=  (∀ (s : State) (n i : Nat) (b : List Byte), s.nextPacket n i b (.migrate n) →
    let u := s.packetTaken
    let q := s.queueAt (i / 32) n
    let d := s.domOf q.dom
    let ctx := s.queueContext n
    let va := mgmtArg b 0 % 2 ^ 57
    let frame := mgmtArg b 1
    (Map.get? s.fe.migs n = none → ∀ s1,
      let walked := State.leafFrom (i / 32) (feOwner n 2) d va q.hts 5 u 4 (ctx.root * 4096) ctx.key
      (walked = (s1, .later) → exec (.migrate n) s = .next s1) ∧
      (walked = (s1, .bad) → completes (.migrate n) s (fun t => s.popped t n i)) ∧
      ∀ pa level e key, walked = (s1, .found pa level e key) →
        let size := e.testBit 4
        let bits := leafBits level size
        let new := frame * 4096 / 2 ^ bits * 2 ^ bits
        let leaf := if size then pa / 128 * 128 else pa
        e.testBit 7 = false → leafBase level e < 2 ^ 50 → frame < 2 ^ 40 → (size = true ∨ frame * 4096 % 2 ^ bits = 0) →
        (frame * 4096 / 2 ^ 50 = 3 ∨ d.holds new = true ∧ d.holds (new + 2 ^ bits - 1) = true) →
        completes (.migrate n) s (fun t => s.recordsStand t ∧ t.ms = s1.ms ∧ (∀ r ∈ t.fe.reads, r.owner ≠ feOwner n 2) ∧
          Map.get? t.fe.migs n = some {
            asr := q.asr, va := va / 2 ^ bits * 2 ^ bits, base := leafBase level e, len := 2 ^ bits, new := new
            key := bitsOf 52 12 e, mt2 := bitsOf 8 2 e == 2, leaf := leaf, count := if size then 16 else 1
            tableKey := key, phase := 0 })) ∧
    (∀ m, Map.get? s.fe.migs n = some m →
      let old := fun k => (s.slice k).migrating.find? (fun v => v.base == m.base)
      let released := fun (t : State) => ∀ k ∈ d.slices, ∃ f ∈ t.net.wires, f.pkt.ty = .release ∧ f.pkt.slice = k ∧ f.pkt.addr = m.base
      let stopped := fun (t : State) => s.popped t n i ∧ Map.get? t.fe.migs n = none
      (m.phase = 0 → 0 < m.count → (∀ r ∈ s.fe.reads, r.owner ≠ feOwner n 2) →
        let me := .cicada (feOwner n 2) (2 ^ 58 + 2 * m.leaf + 1)
        u.asked (cicadaPort (i / 32)) me = false → ∀ x h, u.homeOf d.plan.num m.leaf = some (x, h) →
        exec (.migrate n) s = .next (u.portQueue (cicadaPort (i / 32)) { fePacket .red d.plan.num m.tableKey m.leaf 8 q.hts (leBytes 8 0x80)
          with slice := h, opx := 4 } me)) ∧
      (m.phase = 0 → ∀ s1,
        let marked := State.markLeaves (i / 32) (feOwner n 2) d.plan.num q.hts m m.count u
        (marked = (s1, .later) → exec (.migrate n) s = .next s1) ∧
        (∀ bs, marked = (s1, .done bs) → completes (.migrate n) s (fun t => s.recordsStand t ∧ t.ms = s1.ms ∧
          Map.get? t.fe.migs n = some { m with phase := 1 })) ∧
        (marked = (s1, .fail) → Map.sorted s.fe.migs = true → completes (.migrate n) s stopped)) ∧
      (m.phase = 1 → s.rangeInFlight ctx.asn m.va m.len = false → completes (.migrate n) s (fun t => s.recordsStand t ∧
        t.ms.mem = s.ms.mem ∧ Map.get? t.fe.migs n = some { m with phase := 2 } ∧
        (∀ k, ∀ e ∈ (t.core k).tlb, ¬ e.touches ctx.asn m.va m.len) ∧
        (∀ f ∈ t.net.wires, f ∈ s.net.wires ∨ f.pkt.ty = .migrate) ∧
        ∀ k ∈ d.slices, ∃ f ∈ t.net.wires, f.pkt.ty = .migrate ∧ f.pkt.slice = k ∧ f.pkt.addr = m.base ∧ f.pkt.len = m.len ∧
          f.pkt.ld = m.new ∧ f.pkt.mt2 = m.mt2)) ∧
      (m.phase = 1 → s.rangeInFlight ctx.asn m.va m.len = true → exec (.migrate n) s = .next (u.dropRange ctx.asn m.va m.len)) ∧
      (m.phase = 2 → s.keyUsable m.key d.plan.num = true →
        (∀ k ∈ d.slices, ∃ v, old k = some v ∧ v.failed = false ∧ s.migrated k v = true) →
        completes (.migrate n) s (fun t => s.recordsStand t ∧ t.ms = s.ms ∧ Map.get? t.fe.migs n = some { m with phase := 3 })) ∧
      (m.phase = 2 → s.keyUsable m.key d.plan.num = false ∨ (∃ k ∈ d.slices, ∃ v, old k = some v ∧ v.failed = true) →
        Map.sorted s.fe.migs = true → completes (.migrate n) s (fun t => stopped t ∧ released t)) ∧
      (m.phase = 3 → ∀ s1,
        let moved := State.moveLeaves (i / 32) (feOwner n 2) d.plan.num q.hts m (frame * 4096) m.count u
        (moved = (s1, .later) → exec (.migrate n) s = .next s1) ∧
        (∀ bs, moved = (s1, .done bs) → completes (.migrate n) s (fun t => s.recordsStand t ∧ t.ms = s1.ms ∧
          Map.get? t.fe.migs n = some { m with phase := 4 } ∧ released t)) ∧
        (moved = (s1, .fail) → Map.sorted s.fe.migs = true → completes (.migrate n) s (fun t => stopped t ∧ released t))) ∧
      (m.phase = 4 → (∀ k ∈ d.slices, old k = none) → Map.sorted s.fe.migs = true → completes (.migrate n) s (fun t =>
        s.tookPacket t i (plainChange n) ∧ Map.get? t.fe.migs n = none)))) ∧
  (∀ (s : State) (n i : Nat) (b : List Byte) (layout : List DomainPlan), s.nextPacket n i b (.domaincut n layout) →
    let lost := s.ms.lost
    (s.queueAt (i / 32) n).priv = true → ∀ s1 bs, s.packetTaken.imageAt (i / 32) n (mgmtArg b 1) 1 s1 bs →
    layoutOk lost (s.ms.doms.map (fun e => e.2)) (mgmtArg b 0) layout = true →
    (∀ e ∈ s.ms.doms, (∀ p ∈ layout, planDom lost p ≠ e.2) → s1.domStopped e.1 = true) →
    completes (.domaincut n layout) s (fun t => s.popped t n i ∧
      (∀ p ∈ layout, Map.get? t.ms.doms p.num = some (planDom lost p)) ∧
      (∀ d x, Map.get? t.ms.doms d = some x → ∃ p ∈ layout, p.num = d ∧ x = planDom lost p) ∧
      (∀ k d, Map.getD (t.cluster k).quota d 512 = 512) ∧ t.ms.xcache = [] ∧
      ∀ k, k < 512 → (∀ p ∈ layout, (planDom lost p).ownsSlice k = true → ∀ e ∈ s.ms.doms, e.2 ≠ planDom lost p) →
        (∃ p ∈ layout, (planDom lost p).ownsSlice k = true) → t.slice k = { Slice.reset with swept := (s.slice k).swept, fenced := (s.slice k).fenced }))

/-- R439 to R441, R466, R400, R430, R436, R444, R383: the commands of the mailbox, each with its own result and its
own effect; one that needs a session is refused without one. R97, R156, R463, R385: an access of the host to package
memory goes chunk by chunk, in the order received, as packets of port 513 to the homes, whose answers end it; host
memory takes the host's own writes; a write to a doorbell, an event head or CMD of BAR0 starts the event that it names,
behind the earlier writes. The model's own choices and readings in it: log 14, 36, 49, 50, 51, 99, 107. -/
def Obligations.HostAndMailbox : Prop :=
  (∀ (s : State), let a := s.box.arg
    (∀ r ∈ ([(.setring, 3), (.setslice, 4), (.readlog, 5), (.fwload, 6), (.route, 7), (.qread, 8)] : List (Instr × Nat)),
      s.box.cmd = r.2 → s.box.status = 0 → s.box.operator = none → (r.2 = 6 → s.box.dark = []) →
      exec r.1 s = .next (s.withBox { s.box with status := 2 })) ∧
    (s.box.cmd = 6 → s.box.status = 0 → s.box.operator = none → s.box.dark ≠ [] →
      completes .fwload s (fun t => t.answered [] ∧ t.ms = s.ms ∧
        t.box.staged = some (Memory.read s.ms.mem (2 ^ 51 + a 0 % 2 ^ 50) (a 1)) ∧ t.box.image = s.box.image)) ∧
    (s.box.cmd = 1 → s.box.status = 0 → a 0 < 16 → completes .session s (fun t => t.box.status = 1 ∧ t.box.operator = some (a 0) ∧
      (∃ x, Map.get? t.box.sessions (a 0) = some x) ∧ t.ms = s.ms ∧ t.fe = s.fe ∧
      ∀ x, 1120 ≤ x → Memory.get t.box.buf x = 0)) ∧
    (s.box.cmd = 2 → s.box.status = 0 → completes .getreport s (fun t => t.ms = s.ms ∧ t.fe = s.fe ∧ t.box.image = s.box.image ∧
      ∃ state sig1 sig2 : List Byte, sig1.length = 64 ∧ sig2.length = 3309 ∧
        let report := cutTo 48 (Config.sha384 Config.bootRom) ++ cutTo 48 (Config.sha384 s.box.image) ++ Config.fuses ++ state ++
          Memory.read s.box.buf 0 32 ++ sig1 ++ sig2
        t.answered (leBytes 8 report.length ++ report))) ∧
    (∀ d, (s.runs 3 d → a 0 < 16 → a 1 % 4096 = 0 → 4 ≤ a 2 → a 2 ≤ 16 → a 3 % 8 = 0 → s.haltedQueue (a 0) = none →
        (s.ring (a 0)).held = [] → (s.ring (a 0)).replace = false → completes .setring s (fun t => t.answered [] ∧ t.ms = s.ms ∧
          t.ring (a 0) = ⟨true, a 1, a 2, a 3, 0, 0, [], false⟩ ∧ ∀ j, j ≠ a 0 → t.ring j = s.ring j)) ∧
      (s.runs 3 d → 16 ≤ a 0 ∨ a 1 % 4096 ≠ 0 ∨ a 2 < 4 ∨ 16 < a 2 ∨ a 3 % 8 ≠ 0 →
        exec .setring s = .next (s.withBox { s.box with status := 2 })) ∧
      (s.runs 4 d → a 0 < 4096 → completes .setslice s (fun t => t.answered [] ∧ t.ms = s.ms ∧
        let c := s.ctx (a 0)
        let x := t.ctx (a 0)
        let short := a 1 < c.saveTime + c.restoreTime
        x.slice = a 1 ∧ (short → x.effective = 2 * c.saveTime + 20000 ∧ x.clamp = true) ∧
          (¬ short → x.effective = a 1 ∧ x.clamp = false) ∧ x.sliceEnd = s.netNow + 2 * x.effective ∧ x.stopping = c.stopping)) ∧
      (s.runs 5 d → a 0 < 2 → a 2 ≤ 2000 → completes .readlog s (fun t => t.health = s.health ∧ t.ms = s.ms ∧
        let may := (Map.getD s.health.mayfly (a 0) []).filter (fun v => v.getLsbD 51 || decide (v.toNat / 2 ^ 47 % 16 = d))
        let rs := (may.drop (a 1)).take (a 2)
        t.answered (leBytes 16 rs.length ++ rs.flatMap (fun v => leBytes 16 v.toNat)))) ∧
      (s.runs 5 d → 2 ≤ a 0 ∨ 2000 < a 2 → exec .readlog s = .next (s.withBox { s.box with status := 2 })) ∧
      (s.runs 6 d → completes .fwload s (fun t => t.answered [] ∧ t.ms = s.ms ∧
        t.box.staged = some (Memory.read s.ms.mem (2 ^ 51 + a 0 % 2 ^ 50) (a 1)) ∧ t.box.image = s.box.image)) ∧
      (s.runs 7 d → a 0 ≤ 8191 → a 1 ≤ 4000 → a 0 + a 1 ≤ 8192 → (∀ i, i < a 1 → a (2 + i) < 32) →
        completes .route s (fun t => t.answered [] ∧ t.ms = s.ms ∧
          ∀ j, Map.get? t.routes j =
            if a 0 ≤ j ∧ j < a 0 + a 1 then some (BitVec.ofNat 5 (a (2 + (j - a 0)))) else Map.get? s.routes j)) ∧
      (s.runs 8 d → a 0 < 4096 → (s.queue (a 0)).dom = d → completes .qread s (fun t => t.fe = s.fe ∧ t.ms = s.ms ∧
        ∃ r : List Byte, r.length = 128 ∧ t.answered r ∧ let q := s.queue (a 0)
          leNat (r.drop 12 |>.take 4) = q.head.toNat ∧ leNat (r.drop 16 |>.take 4) = q.tail.toNat ∧
            leNat (r.drop 24 |>.take 4) = q.done.toNat)) ∧
      (s.runs 8 d → (s.queue (a 0)).dom ≠ d → exec .qread s = .next (s.withBox { s.box with status := 2 })))) ∧
  ((∀ (s : State) (pa : PAddr) (bs : List Byte), let a := pa.toNat
    let answered := fun (error : Bool) => some (⟨a, true, [], error⟩ : HostReply)
    (a < 2 ^ 50 → bs ≠ [] →
      exec (.hostWrite pa bs) s = .next (s.hostReceive (hostSplit a true (bs.length + 1) a bs.length bs)) ∧
      (s.host.queue ≠ [] → s.host.sent = true → exec (.hostWrite pa bs) s =
        .next { s with host := { s.host with queue := s.host.queue ++ hostSplit a true (bs.length + 1) a bs.length bs } }) ∧
      (a % 64 + bs.length ≤ 64 → s.hostIdle →
        let c : HostChunk := ⟨a, a, bs.length, some bs, true⟩
        (s.placeOf a = none → exec (.hostWrite pa bs) s = .next { s with hostReply := answered true }) ∧
        (∀ d h, s.placeOf a = some (d, h) → exec (.hostWrite pa bs) s =
          .next (({ s with host := { s.host with queue := [c], sent := true } }).portQueue hostPort
            { fePacket .wr d.plan.num 0 a bs.length 0 bs with slice := h } .host)))) ∧
    (2 ^ 51 ≤ a → a + bs.length ≤ 2 ^ 51 + 2 ^ 50 → s.memoryKept → completes (.hostWrite pa bs) s (fun t =>
      t = { s.withMs { s.ms with mem := t.ms.mem } with hostReply := answered false } ∧
        ∀ x, Memory.get t.ms.mem x = if a ≤ x ∧ x < a + bs.length then bs.getD (x - a) 0 else Memory.get s.ms.mem x)) ∧
    (a / 2 ^ 50 = 1 → s.host.queue ≠ [] → s.host.sent = true → exec (.hostWrite pa bs) s =
      .next { s with host := { s.host with queue := s.host.queue ++ [⟨a, a, bs.length, some bs, true⟩] } }) ∧
    (a / 2 ^ 50 = 1 → s.hostIdle → let off := a % 2 ^ 50
      let v := BitVec.ofNat 32 (leNat (bs.take 4))
      (off < 0x8000 → off % 8 = 0 → exec (.hostWrite pa bs) s =
        .next { s with agenda := s.agenda ++ [.doorbell (off / 8) v], hostReply := answered false }) ∧
      (0x8000 ≤ off → off < 0x8080 → off % 8 = 0 → exec (.hostWrite pa bs) s =
        .next { s with agenda := s.agenda ++ [.eventHeadWrite ((off - 0x8000) / 8) v], hostReply := answered false }) ∧
      (off = 0x8080 → ∀ row, commandRow (leNat (bs.take 8)) = some row →
        (s.box.dark = [] ∨ leNat (bs.take 8) = 6 → exec (.hostWrite pa bs) s = .next { s with
          agenda := s.agenda ++ [row]
          box := { s.box with cmd := leNat (bs.take 8), status := 0 }
          hostReply := answered false }) ∧
        (s.box.dark ≠ [] → leNat (bs.take 8) ≠ 6 → exec (.hostWrite pa bs) s = .next { s with
          box := { s.box with cmd := leNat (bs.take 8), status := 2 }
          hostReply := answered false })))) ∧
  (∀ (s : State) (pa : PAddr) (n : Nat), let a := pa.toNat
    let gives := fun (bs : List Byte) => exec (.hostRead pa n) s = .next { s with hostReply := some ⟨a, false, bs, false⟩ }
    completes (.hostRead pa n) s (fun t => s.sameMemory t ∧ t.wv = s.wv ∧ t.cores = s.cores ∧
      (s.host.sent = true ∨ s.host.queue = [] → t.box = s.box)) ∧
    (a < 2 ^ 50 → 0 < n →
      exec (.hostRead pa n) s = .next (s.hostReceive (hostSplit a false (n + 1) a n [])) ∧
      (a % 64 + n ≤ 64 → s.hostIdle →
        (s.placeOf a = none → exec (.hostRead pa n) s =
          .next { s with hostReply := some ⟨a, false, List.replicate n 0, true⟩ }) ∧
        (∀ d h, s.placeOf a = some (d, h) → exec (.hostRead pa n) s =
          .next (({ s with host := { s.host with queue := [⟨a, a, n, none, true⟩], sent := true } }).portQueue hostPort
            { fePacket .rd d.plan.num 0 (coverBlock a n).1 (coverBlock a n).2 0 [] with slice := h } .host)))) ∧
    (2 ^ 51 ≤ a → a < 2 ^ 51 + 2 ^ 50 → gives (Memory.read s.ms.mem a n)) ∧
    (a / 2 ^ 50 = 1 → a % 8 = 0 → s.hostIdle → let off := a % 2 ^ 50
      (off < 0x8000 → let q := s.queue (off / 8)
        (q.enable = true → gives (leBytes 8 (q.head.toNat + 2 ^ 32 * q.done.toNat))) ∧ (q.enable = false → gives (leBytes 8 0))) ∧
      (0x8000 ≤ off → off < 0x8080 → let r := s.ring ((off - 0x8000) / 8)
        gives (leBytes 8 (r.head.toNat + 2 ^ 32 * r.tail.toNat))) ∧
      (off = 0x8080 → gives (leBytes 8 s.box.cmd)) ∧ (off = 0x8088 → gives (leBytes 8 s.box.status)) ∧
      (0x8100 ≤ off → off + 8 ≤ 0x10000 → gives (Memory.read s.box.buf (off - 0x8100) 8)))) ∧
  (∀ (s : State) (i : Nat) (p : Packet) (o : Outstanding) (c : HostChunk),
    s.host.queue = [c] → s.host.sent = true → s.host.accesses = [] → o.client = .host → (s.port hostPort).waiting = [] →
    (s.replyAt hostPort i .rdata = some (p, some o) → c.data = none → p.trim = false → p.addr ≤ c.pa →
      c.pa + c.len ≤ p.addr + p.data.length →
      let bs := (p.data.drop (c.pa - p.addr)).take c.len
      completes (.portRdata hostPort i) s (fun t => s.sameMemory t ∧ t.box = s.box ∧
        t.host = { s.host with queue := [], sent := false, data := t.host.data, error := t.host.error } ∧
        (c.last = true → t.hostReply = some ⟨c.addr, false, s.host.data ++ bs, s.host.error || p.opx % 2 == 1⟩ ∧ t.host.data = []) ∧
        (c.last = false → t.hostReply = s.hostReply ∧ t.host.data = s.host.data ++ bs))) ∧
    (s.replyAt hostPort i .wdone = some (p, some o) → c.data.isSome = true →
      completes (.portWdone hostPort i) s (fun t => s.sameMemory t ∧ t.box = s.box ∧ t.host.queue = [] ∧ t.host.sent = false ∧
        (c.last = true → t.hostReply = some ⟨c.addr, true, s.host.data, s.host.error || p.opx % 2 == 1⟩) ∧
        (c.last = false → t.hostReply = s.hostReply)))))

/-- R443 to R445, R436, R437: a link accepts the flit that it expects and refuses any other; a port is down after eight
replays or ten microseconds without a flit, is announced after a second, and comes up anew. The model's own choices
and readings in it: log 55; that a peer's access acts at the aperture which the link's domain exports is the model's
choice, log 54. -/
def Obligations.LinksAcceptAndFail : Prop :=  ∀ (s : State) (j : Nat), let n := s.nport j
    (∀ f : NopelFlit, j < 16 → n.up = true →
      let good := f.crc = Config.crc64 f.bits ∧ f.seq.toNat = n.rxSeq
      (¬ good → n.nakSent = true → exec (.nopelFlitReceive j f) s = .next (s.setNport j { n with lastFlit := s.netNow })) ∧
      (¬ good → n.nakSent = false → n.egress = [] → n.replay.length < 1024 → completes (.nopelFlitReceive j f) s (fun t =>
        ∃ g : NopelFlit, g.nak = true ∧ g.ty = 2 ∧ g.seq = BitVec.ofNat 12 n.txSeq ∧ g.ack = BitVec.ofNat 12 (n.rxSeq + 4095) ∧
          g.packets = [] ∧ g.crc = Config.crc64 g.bits ∧
          t = s.setNport j { n with
            lastFlit := s.netNow, nakSent := true, txSeq := (n.txSeq + 1) % 4096, replay := n.replay ++ [g] })) ∧
      (good → completes (.nopelFlitReceive j f) s (fun t =>
        let m := t.nport j
        m.rxSeq = (n.rxSeq + 1) % 4096 ∧ m.nakSent = false ∧ m.asked = (n.asked || f.nak) ∧ m.lastFlit = s.netNow ∧ m.up = true ∧
          t.ms = s.ms ∧ t.net = s.net ∧
          (f.ty ≠ 0 ∨ f.dom.toNat = n.dom ∧ f.packets = [] → t = { s with nopel := t.nopel } ∧
            (n.egress = [] → ∀ g, g ∈ m.replay ↔ g ∈ n.replay ∧ 2048 ≤ (f.ack.toNat + 4096 - g.seq.toNat) % 4096))))) ∧
    (n.up = true → n.asked = true → n.replay ≠ [] → n.replays < 7 →
      exec (.nopelReplay j) s = .next (s.setNport j { n with asked := false, replays := n.replays + 1 })) ∧
    (∀ r ∈ ([.nopelReplay j, .nopelIdleTimeout j] : List Instr), j < 16 → n.up = true →
      (r = .nopelReplay j → n.asked = true ∧ n.replay ≠ [] ∧ 7 ≤ n.replays) →
      (r = .nopelIdleTimeout j → n.lastFlit + 20000 ≤ s.netNow) → n.sent = [] → completes r s (fun t =>
        (t.nport j).up = false ∧ (t.nport j).downSince = s.netNow ∧ t.ms = s.ms ∧ (∀ k, k ≠ j → t.nport k = s.nport k) ∧
        ∃ v ∈ Map.getD t.health.mayfly (j / 8) [], v.toNat / 2 ^ 56 % 256 = 6)) ∧
    (n.up = false → n.announced = false → n.downSince + 2000000000 < s.netNow → completes (.nopelPortDownExpiry j) s (fun t =>
      (t.nport j).announced = true ∧
      (0 < (s.ring n.dom).room → (t.ring n.dom).tail = (s.ring n.dom).tail + 1) ∧
      ((s.ring n.dom).room = 0 → (t.ring n.dom).replace = true))) ∧
    (n.up = false → completes (.nopelPortUp j) s (fun t => t.ms = s.ms ∧ let m := t.nport j
      m.up = true ∧ m.txSeq = 0 ∧ m.rxSeq = 0 ∧ m.replay = [] ∧ m.dom = n.dom ∧ m.lastFlit = s.netNow)) ∧
    (∀ src p rest, n.ingress = (src, p) :: rest → p.ty.isAnswer = false →
      (p.ty ≠ .atom ∨ p.rpl = false) → ∀ d h, s.homeOf n.dom (apertureAt n.dom p.addr) = some (d, h) → j < 16 →
      (s.port (nopelService j)).outstanding = [] → (s.port (nopelService j)).waiting = [] →
      0 < (s.port (nopelService j)).window →
      completes (.peerAccess j) s (fun t => (t.nport j).ingress = rest ∧ t.ms = s.ms ∧
        ∃ o, (t.port (nopelService j)).outstanding = [o] ∧ o.slice = h ∧ o.pkt.ty = p.ty ∧ o.pkt.addr = apertureAt n.dom p.addr ∧
          o.client = .peer j { p with ld := src }))

/-- R418 to R420, R297, R310, R349: the end of a slice, and what each engine does as it acknowledges the stop, in the
order of the save. The model's own choices and readings in it: log 26, 94, 102. -/
def Obligations.SlicesEndAndEnginesStop : Prop :=  ∀ (s : State) (x : Nat), let c := s.ctx x
    (x < 4096 → c.effective ≠ 0 → c.sliceEnd ≤ s.netNow → c.stopping = false → c.away = false → s.coresIn x ≠ [] →
      s.blockStopping x = false →
      (s.otherReady x = true → exec (.timeSliceExpiry x) s =
        .next (s.mapCtx x (fun c => { c with stopping := true, stopAt := s.netNow, acks := [] }))) ∧
      (s.otherReady x = false → exec (.timeSliceExpiry x) s =
        .next (s.mapCtx x (fun c => { c with sliceEnd := s.netNow + 2 * c.effective })))) ∧
    (∀ e, c.stopping = true → c.away = false → e ∉ c.acks →
      (e = .waves → s.wavesStill x = true) → (e = .cicada → x < 4096 → s.lanesStill x = true) →
      (e ≠ .waves → e ≠ .cicada → Engine.waves ∈ c.acks ∧ Engine.cicada ∈ c.acks) →
      (e = .copies → s.copiesStill x = true) →
      (e = .sync → ∀ k ∈ s.clusters, ∀ a ∈ k.2.adds, a.core ∉ s.coresIn x) →
      (e = .sequencers → Engine.copies ∈ c.acks ∧ Engine.sync ∈ c.acks ∧ Engine.interface ∈ c.acks ∧
        ∀ k ∈ s.coresIn x, ∀ y ∈ (s.core k).tiles, s.tileIn x y = true → y.flying = []) →
      completes (.engineStopAck x e) s (fun t => (t.ctx x).acks = c.acks ++ [e] ∧ t.ms = s.ms ∧
        (e = .cicada → x < 4096 → ∀ n ∈ s.queuesIn x, t.queue n = s.queue n ∧
          ∀ i, s.holder n = some i → (t.lane i).queue = none) ∧
        (e = .copies → ∀ k ∈ s.coresIn x, (t.core k).copies =
          (s.core k).copies.map (fun y => if y.isIn x then y.stopped else y)) ∧
        (e = .sequencers → ∀ k ∈ s.coresIn x, ∀ y ∈ (t.core k).tiles, y.core = k → s.tileIn x y = true → y.stop = true) ∧
        (e ∈ ([.waves, .sync, .interface] : List Engine) ∨ e = .cicada ∧ 4096 ≤ x → t = { s with ctxs := t.ctxs }))) ∧
    (∀ e, c.stopping = false ∨ c.away = true ∨ e ∈ c.acks → exec (.engineStopAck x e) s = .next s)

/-- R420, R423, R298, R161: with every acknowledgement the save takes the context's waves and blocks off their cores,
keeps them, gives up the leases, and measures its time. R428 to R430: a restore puts each saved core where the
placement says with its waves, gives the gangs their cores and leases, and begins a slice whose length the last times
measured may have raised. The model's own choices and readings in it: log 26, 27, 28, 71, 94. -/
def Obligations.SaveAndRestore : Prop :=
  (∀ (s : State) (x : Nat), let c := s.ctx x
    (s.mayEvict x = true → exec (.mantisSave x) s =
      .next (s.mapCtx x (fun c => { c with stopping := true, stopAt := s.netNow, acks := [] }))) ∧
    (c.stopping = true → c.away = false → (∀ e ∈ ([.waves, .copies, .sequencers, .sync, .interface, .cicada] : List Engine), e ∈ c.acks) →
    completes (.mantisSave x) s (fun t => let v := t.ctx x
      v.away = true ∧ (s.netNow - c.stopAt) / 2 ≤ v.saveTime ∧
      v.saved.map (fun y => y.core) = s.coresIn x ∧
      (∀ k ∈ s.coresIn x, ∃ y ∈ v.saved, y.core = k ∧ y.body.spad = (s.core k).spad ∧ y.body.abuf = (s.core k).abuf ∧
        y.body.cbuf = (s.core k).cbuf ∧ y.body.blocks = (s.core k).blocks.filter (fun b => s.blockIn x b) ∧
        ∀ id ∈ s.wavesIn x k, ∃ w, (id.slot, w) ∈ y.waves ∧ w.ctl = (s.wave id).ctl ∧
          w.win = { (s.wave id).win with held := [], mirrors := [] } ∧ w.s = (s.wave id).s ∧ w.p = (s.wave id).p ∧ w.q = (s.wave id).q ∧ w.pts = (s.wave id).pts ∧ w.csr = (s.wave id).csr) ∧
      (∀ k ∈ s.coresIn x, ∀ b ∈ (t.core k).blocks, b ∈ (s.core k).blocks ∧ s.blockIn x b = false) ∧
      (∀ k ∈ s.coresIn x, ∀ id ∈ s.wavesIn x k, (t.wave id).sched.live = false) ∧
      (∀ g ∈ t.gangs, g ∈ s.gangs) ∧
      (x < 4096 → (∀ k ∈ s.clustersIn x, (k, s.phasersIn x k, s.streamsIn x k) ∈ v.sync) ∧
        ∀ k, Map.sorted (s.cluster k).phasers = true → ∀ p ∈ (t.cluster k).phasers, p.2.live = true → s.gridIn x p.2.grid = false)))) ∧
  (∀ (s : State) (x : Nat) (placement : List (Nat × Nat)), let c := s.ctx x
    let d := s.domOf (s.domIn x)
    c.away = true → s.placementOk c d placement = true → (4096 ≤ x → (s.ctx (s.unitCtx x)).stopping = false) →
    (∀ v ∈ c.saved, v.waves.all (fun w => decide (w.1 < 8)) = true) →
    (∀ v ∈ c.saved, (v.waves.map (fun w => w.1)).Nodup) → Map.sorted c.gangs = true →
    (∀ v ∈ c.saved, ∀ w ∈ v.waves, ∃ b ∈ v.body.blocks, w.2.ident.grid = b.grid ∧ w.2.ident.block = b.b) →
    completes (.mantisRestore x placement) s (fun t => let v := t.ctx x
      (x < 4096 → v.away = false ∧ v.saved = [] ∧ v.stopping = false ∧ v.saveTime = c.saveTime ∧
        v.sliceEnd = s.netNow + 2 * v.effective ∧
        (c.slice < c.saveTime + v.restoreTime → v.effective = 2 * c.saveTime + 20000 ∧ v.clamp = true) ∧
        (c.saveTime + v.restoreTime ≤ c.slice → v.effective = c.slice ∧ v.clamp = false)) ∧
      (4096 ≤ x → Map.sorted s.ctxs = true → v = CtxSched.reset) ∧
      (∀ n g, Map.get? c.gangs n = some g → ∃ h, Map.get? t.gangs n = some h ∧ h.lease = g.lease ∧
        h.cores = g.cores.map (fun k => (placedAt placement k).getD k)) ∧
      ((c.sync.map (fun y => y.1)).Nodup → ∀ y ∈ c.sync, Map.sorted y.2.1 = true → ∀ p ∈ y.2.1,
        Map.get? (t.cluster y.1).phasers p.1 = some p.2) ∧
      ∀ y ∈ c.saved, ∃ k, placedAt placement y.core = some k ∧ (t.core k).blocks = (s.core k).blocks ++ y.body.blocks ∧
        ∀ w ∈ y.waves, let z := t.wave ⟨k, w.1⟩
          z.ctl = w.2.ctl ∧ z.win = { w.2.win with held := z.win.held, mirrors := z.win.mirrors } ∧ z.s = w.2.s ∧ z.p = w.2.p ∧
            z.q = w.2.q ∧ z.pts = w.2.pts ∧
            (z.halt = w.2.halt ∨ w.2.halt = none ∧ z.halt = some 6 ∧
              (w.1 ∈ s.wavesHurt d (Config.saveKey x).toNat (saveBase d x) y))))

/-- R432, R437, R76, R438, R439, R440: the SRAM rail with its sweep, a lost channel group, the re-initialisation of a
domain, throttling, and the resets. The model's own choices and readings in it: log 29, 61, 62, 63, 64. -/
def Obligations.FailuresAndResets : Prop :=  (∀ (s : State) (die : Nat), die < 2 →
    (s.sweptAll die = true → completes (.sramRailLower die) s (fun t => die ∈ t.health.railLow ∧ t.net = s.net ∧ t.ms = s.ms)) ∧
    (s.sweptAll die = false → completes (.sramRailLower die) s (fun t => t.health.railLow = s.health.railLow ∧ t.ms = s.ms ∧
      ∀ i, i / 256 = die → ∀ set, (List.range 512).find? (fun k => !((s.slice i).swept.contains k)) = some set →
        let n := (s.slice i).winvs.length +
          ((Map.getD (s.slice i).sets set []).filter (fun w => decide (14 ≤ w.way) && w.watch)).length
        (n ≤ 64 → (t.slice i).swept = (s.slice i).swept ++ [set] ∧
          ∀ w ∈ Map.getD (t.slice i).sets set [], w.way < 14) ∧
        (64 < n → t.slice i = s.slice i))) ∧
    (die ∈ s.health.railLow → completes (.sramRailRaise die) s (fun t => die ∉ t.health.railLow ∧ t.net = s.net ∧ t.ms = s.ms)) ∧
    (die ∉ s.health.railLow → completes (.sramRailRaise die) s (fun t => t.health = s.health ∧ t.ms = s.ms ∧
      ∀ i, i / 256 = die → t.slice i = { s.slice i with swept := (s.slice i).swept.drop 1 }))) ∧
  (∀ (s : State) (g : Nat), g < 128 → g ∉ s.ms.lost → completes (.channelGroupFailure g) s (fun t =>
    t.ms.lost = s.ms.lost ++ [g] ∧ (∃ v ∈ Map.getD t.health.mayfly (g / 64) [], v.toNat / 2 ^ 56 % 256 = 2) ∧
    ∀ e, s.ms.doms.find? (fun e => e.2.groups.contains g) = some e → 0 < (s.ring e.1).room →
      (t.ring e.1).tail = (s.ring e.1).tail + 1)) ∧
  (∀ (s : State) (dom : Nat) (d : Dom), s.dom? dom = some d → s.domStopped dom = true →
    completes (.domainReinitialisation dom) s (fun t =>
      Map.get? t.ms.doms dom = some (planDom s.ms.lost d.plan) ∧
      (∀ k, (s.key k).owner = dom → (t.key k).st = .empty) ∧ (∀ k, (s.key k).owner ≠ dom → t.key k = s.key k))) ∧
  (∀ (s : State) (level : Nat), exec (.throttling level) s = .next { s with health := { s.health with throttle := level } }) ∧
  (∀ s : State, completes .warmReset s (fun t =>
    let image := s.box.staged.getD s.box.image
    t.box.image = image ∧ t.box.staged = none ∧ t.box.sessions = [] ∧ t.box.operator = none ∧
      t.box.dark = (if Config.cryptoOk 1 image && Config.cryptoOk 2 image then [] else [0, 1]) ∧ t.ms = s.ms ∧ t.cores = s.cores ∧
      t.waves = s.waves ∧ t.fe.queues = s.fe.queues)) ∧
  (∀ s : State, completes .coldReset s (fun t =>
    t.wv = Wave.reset ∧ t.waves = [] ∧ t.cores = [] ∧ t.clusters = [] ∧ t.gangs = [] ∧ t.ctxs = [] ∧ t.fe = State.reset.fe ∧
      t.now = 0 ∧ t.ms.keys = [] ∧ t.ms.poison = [] ∧ t.ms.lost = s.ms.lost ∧ t.health.spares = s.health.spares ∧
      t.health.railLow = [] ∧ (∀ die, (Map.getD t.health.mayfly die []).length ≤ 1) ∧
      ∀ c ∈ t.ms.mem, 2 ^ 50 ≤ c.1 ∧ c ∈ s.ms.mem))
end

