-- ==== Sys2Proof/Laws/Tables.lean ====
section
/-! SUPPORT. Laws of the tables (read after write, on any table, in order or not) and of memory: what a read gives after
a write, and that every memory operation keeps the canonical form. -/

namespace Sys2Proof.Machine

section Tables
variable {α : Type}

/-- The entry written is the entry read. -/
@[simp] theorem Map.get?_set_self (m : Map α) (i : Nat) (v : α) : Map.get? (Map.set m i v) i = some v := by
  induction m with
  | nil => simp [Map.set, Map.get?]
  | cons e m ih =>
    obtain ⟨k, w⟩ := e
    unfold Map.set
    split
    · simp [Map.get?]
    · split
      · simp [Map.get?]
      · simp [Map.get?, *]

/-- Writing one entry leaves every other. -/
theorem Map.get?_set_other (m : Map α) (i j : Nat) (v : α) (h : j ≠ i) : Map.get? (Map.set m i v) j = Map.get? m j := by
  induction m with
  | nil => simp [Map.set, Map.get?]; omega
  | cons e m ih =>
    obtain ⟨k, w⟩ := e
    by_cases h1 : i < k
    · simp only [Map.set, h1, if_true, Map.get?, h, if_false]
      split_ifs <;> first | rfl | omega
    · by_cases h2 : i = k
      · subst h2; simp [Map.set, Map.get?, h]
      · simp [Map.set, Map.get?, h1, h2, ih]

/-- What a table holds after one entry has been written. -/
theorem Map.get?_set (m : Map α) (i j : Nat) (v : α) :
    Map.get? (Map.set m i v) j = if j = i then some v else Map.get? m j := by
  split
  · subst j; simp
  · exact Map.get?_set_other m i j v ‹_›

/-- The same for reads with a default. -/
theorem Map.getD_set (m : Map α) (i j : Nat) (v d : α) :
    Map.getD (Map.set m i v) j d = if j = i then v else Map.getD m j d := by
  unfold Map.getD
  rw [Map.get?_set]
  split <;> simp

@[simp] theorem Map.getD_set_self (m : Map α) (i : Nat) (v d : α) : Map.getD (Map.set m i v) i d = v := by
  simp [Map.getD_set]

/-- The first index of a table, if it has one, exceeds a bound. -/
def Map.above (m : Map α) (b : Nat) : Prop := ∀ e ∈ m.head?, b < e.1

/-- An ordered table is an entry before an ordered rest. -/
theorem Map.sorted_cons (k : Nat) (w : α) (m : Map α) :
    Map.sorted ((k, w) :: m) = true ↔ Map.above m k ∧ Map.sorted m = true := by
  cases m with
  | nil => simp [Map.sorted, Map.above]
  | cons e m => obtain ⟨l, x⟩ := e; simp [Map.sorted, Map.above]

/-- An entry written above a bound stays above it. -/
theorem Map.above_set (m : Map α) (i : Nat) (v : α) (b : Nat) (h : Map.above m b) (hi : b < i) :
    Map.above (Map.set m i v) b := by
  cases m with
  | nil => simpa [Map.set, Map.above] using hi
  | cons e m =>
    obtain ⟨k, w⟩ := e
    have hk : b < k := h (k, w) (by simp)
    unfold Map.set
    split_ifs <;> simp [Map.above, *]

/-- Writing an entry keeps a table in order. -/
theorem Map.sorted_set (m : Map α) (i : Nat) (v : α) (h : Map.sorted m = true) : Map.sorted (Map.set m i v) = true := by
  induction m with
  | nil => simp [Map.set, Map.sorted]
  | cons e m ih =>
    obtain ⟨k, w⟩ := e
    have hm := (Map.sorted_cons k w m).1 h
    unfold Map.set
    split_ifs with h1 h2
    · exact (Map.sorted_cons i v _).2 ⟨by simpa [Map.above] using h1, h⟩
    · subst h2; exact (Map.sorted_cons i v m).2 hm
    · exact (Map.sorted_cons k w _).2 ⟨Map.above_set m i v k hm.1 (by omega), ih hm.2⟩

/-- In an ordered table every index after the first exceeds it. -/
theorem Map.above_all (m : Map α) (b : Nat) (ha : Map.above m b) (h : Map.sorted m = true) : ∀ e ∈ m, b < e.1 := by
  induction m generalizing b with
  | nil => simp
  | cons e m ih =>
    obtain ⟨k, w⟩ := e
    have hm := (Map.sorted_cons k w m).1 h
    have hk : b < k := ha (k, w) (by simp)
    intro e he
    rcases List.mem_cons.1 he with rfl | he
    · exact hk
    · exact Nat.lt_trans hk (ih k hm.1 hm.2 e he)

/-- Deleting an entry keeps a table in order. -/
theorem Map.sorted_del (m : Map α) (i : Nat) (h : Map.sorted m = true) : Map.sorted (Map.del m i) = true := by
  induction m with
  | nil => simp [Map.del, Map.sorted]
  | cons e m ih =>
    obtain ⟨k, w⟩ := e
    have hm := (Map.sorted_cons k w m).1 h
    unfold Map.del
    split_ifs with h1 h2
    · exact h
    · exact hm.2
    · refine (Map.sorted_cons k w _).2 ⟨?_, ih hm.2⟩
      have hall := Map.above_all m k hm.1 hm.2
      have hsub : ∀ (l : Map α) (j : Nat), ∀ x ∈ Map.del l j, x ∈ l := by
        intro l j
        induction l with
        | nil => simp [Map.del]
        | cons a l ihl =>
          obtain ⟨p, q⟩ := a
          unfold Map.del
          split_ifs
          · intro x hx; exact hx
          · intro x hx; exact List.mem_cons_of_mem _ hx
          · intro x hx
            rcases List.mem_cons.1 hx with rfl | hx
            · simp
            · exact List.mem_cons_of_mem _ (ihl x hx)
      intro x hx
      exact hall x (hsub m i x (List.mem_of_mem_head? hx))

/-- The entries of a table after a write are the new one and old ones. -/
theorem Map.mem_set (m : Map α) (i : Nat) (v : α) : ∀ x ∈ Map.set m i v, x = (i, v) ∨ x ∈ m := by
  induction m with
  | nil => simp [Map.set]
  | cons e m ih =>
    obtain ⟨k, w⟩ := e
    intro x hx
    unfold Map.set at hx
    split_ifs at hx
    · simpa using hx
    · simp only [List.mem_cons] at hx ⊢; tauto
    · simp only [List.mem_cons] at hx ⊢
      rcases hx with rfl | hx
      · tauto
      · rcases ih x hx with h | h <;> tauto

/-- The entries of a table after a deletion are old ones. -/
theorem Map.mem_del (m : Map α) (i : Nat) : ∀ x ∈ Map.del m i, x ∈ m := by
  induction m with
  | nil => simp [Map.del]
  | cons e m ih =>
    obtain ⟨k, w⟩ := e
    intro x hx
    unfold Map.del at hx
    split_ifs at hx
    · exact hx
    · exact List.mem_cons_of_mem _ hx
    · rcases List.mem_cons.1 hx with rfl | hx
      · simp
      · exact List.mem_cons_of_mem _ (ih x hx)

/-- An index below a table's bound is not in it. -/
theorem Map.get?_above (m : Map α) (b j : Nat) (ha : Map.above m b) (h : j ≤ b) : Map.get? m j = none := by
  cases m with
  | nil => rfl
  | cons e m =>
    obtain ⟨k, w⟩ := e
    have : b < k := ha (k, w) (by simp)
    simp [Map.get?, Nat.lt_of_le_of_lt h this]

/-- What an ordered table holds after one entry has been deleted. -/
theorem Map.get?_del (m : Map α) (i j : Nat) (h : Map.sorted m = true) :
    Map.get? (Map.del m i) j = if j = i then none else Map.get? m j := by
  induction m with
  | nil => simp [Map.del, Map.get?]
  | cons e m ih =>
    obtain ⟨k, w⟩ := e
    have hm := (Map.sorted_cons k w m).1 h
    by_cases h1 : i < k
    · by_cases hj : j = i
      · subst hj; simp [Map.del, Map.get?, h1]
      · simp [Map.del, h1, hj]
    · by_cases h2 : i = k
      · subst h2
        by_cases hj : j = i
        · subst hj; simp [Map.del, Map.get?_above m j j hm.1 (Nat.le_refl _)]
        · by_cases h3 : j < i
          · simp [Map.del, Map.get?, hj, h3, Map.get?_above m i j hm.1 (by omega)]
          · simp [Map.del, Map.get?, hj, h3]
      · by_cases hj : j = i
        · subst hj; simp [Map.del, Map.get?, h1, h2, ih hm.2]
        · simp [Map.del, Map.get?, h1, h2, hj, ih hm.2]

end Tables

/-! ## Memory -/

/-- The canonical form, as its two parts. -/
theorem Memory.wf_iff (m : List Host.Cell) :
    Memory.wf m = true ↔ Map.sorted m = true ∧ ∀ c ∈ m, c.2 ≠ Memory.unlisted := by
  simp [Memory.wf]

/-- Writing a byte keeps the canonical form. -/
theorem Memory.wf_put (m : List Host.Cell) (a : Nat) (b : Byte) (h : Memory.wf m = true) :
    Memory.wf (Memory.put m a b) = true := by
  obtain ⟨h1, h2⟩ := (Memory.wf_iff m).1 h
  unfold Memory.put
  split
  · exact (Memory.wf_iff _).2 ⟨Map.sorted_del m a h1, fun c hc => h2 c (Map.mem_del m a c hc)⟩
  · refine (Memory.wf_iff _).2 ⟨Map.sorted_set m a b h1, fun c hc => ?_⟩
    rcases Map.mem_set m a b c hc with rfl | hc
    · assumption
    · exact h2 c hc

/-- Writing bytes keeps the canonical form. -/
theorem Memory.wf_write (bs : List Byte) : ∀ (m : List Host.Cell) (a : Nat), Memory.wf m = true →
    Memory.wf (Memory.write m a bs) = true := by
  induction bs with
  | nil => intro m a h; exact h
  | cons b bs ih => intro m a h; exact ih _ _ (Memory.wf_put m a b h)

/-- A byte read after a byte written, in memory in canonical form. -/
theorem Memory.get_put (m : List Host.Cell) (a x : Nat) (b : Byte) (h : Memory.wf m = true) :
    Memory.get (Memory.put m a b) x = if x = a then b else Memory.get m x := by
  have hs := ((Memory.wf_iff m).1 h).1
  unfold Memory.get Memory.put Map.getD
  split
  · rw [Map.get?_del m a x hs]
    split <;> simp [*]
  · rw [Map.get?_set]
    split <;> simp

/-- A byte read after bytes written. -/
theorem Memory.get_write (bs : List Byte) : ∀ (m : List Host.Cell) (a x : Nat), Memory.wf m = true →
    Memory.get (Memory.write m a bs) x = if a ≤ x ∧ x < a + bs.length then bs.getD (x - a) 0 else Memory.get m x := by
  induction bs with
  | nil => intro m a x _; simp [Memory.write]
  | cons b bs ih =>
    intro m a x h
    simp only [Memory.write, ih _ _ x (Memory.wf_put m a b h), Memory.get_put m a x b h, List.length_cons]
    by_cases h1 : x = a
    · subst h1; simp
    · by_cases h2 : a + 1 ≤ x ∧ x < a + 1 + bs.length
      · have : x - a = (x - (a + 1)) + 1 := by omega
        rw [if_pos h2, if_pos (by omega), this, List.getD_cons_succ]
      · rw [if_neg h2, if_neg h1, if_neg (by omega)]

end Sys2Proof.Machine
end

