-- ==== Sys2Proof/Laws/Registers.lean ====
section
/-! SUPPORT. Laws of the registers of a wave: what each reads after a write, and what a write of a destination leaves as
it was. The laws of a v register hold of every window, whatever frames it has. -/

namespace Sys2Proof.Machine

/-! ## Frames and windows -/

@[simp] theorem Window.frame_mapFrame (w : Window) (i j : Nat) (f : Frame → Frame) :
    (w.mapFrame i f).frame j = if j = i then f (w.frame i) else w.frame j := by
  simp only [Window.frame, Window.mapFrame, Map.getD_set]

@[simp] theorem Window.cur_mapFrame (w : Window) (i : Nat) (f : Frame → Frame) : (w.mapFrame i f).cur = w.cur := rfl
@[simp] theorem Window.lo_mapFrame (w : Window) (i : Nat) (f : Frame → Frame) : (w.mapFrame i f).lo = w.lo := rfl
@[simp] theorem Window.nf_mapFrame (w : Window) (i : Nat) (f : Frame → Frame) : (w.mapFrame i f).nf = w.nf := rfl
@[simp] theorem Window.place_mapFrame (w : Window) (i : Nat) (f : Frame → Frame) : (w.mapFrame i f).place = w.place := rfl
@[simp] theorem Window.phys_mapFrame (w : Window) (i k : Nat) (f : Frame → Frame) : (w.mapFrame i f).phys k = w.phys k := rfl

@[simp] theorem Frame.link_setReg (fr : Frame) (r : Nat) (f : Nat → Word) : (fr.setReg r f).link = fr.link := rfl

/-- A word of a frame after one register has been rewritten. -/
theorem Frame.word_setReg (fr : Frame) (r k l : Nat) (f : Nat → Word) :
    (fr.setReg r f).word k l = if k = r then (if l < 64 then f l else 0) else fr.word k l := by
  simp only [Frame.word, Frame.setReg, Map.getD_set]
  split
  · by_cases h : l < 64
    · simp [List.getD, h]
    · simp [List.getD, h]
  · rfl

@[simp] theorem Window.setV_cur (w : Window) (r : Nat) (f : Nat → Word) : (w.setV r f).cur = w.cur := rfl
@[simp] theorem Window.setV_phys (w : Window) (r k : Nat) (f : Nat → Word) : (w.setV r f).phys k = w.phys k := rfl

/-- A v register after one has been rewritten: the one written, one that shares its place, or another. -/
theorem Window.getV_setV (w : Window) (r k l : Nat) (f : Nat → Word) :
    (w.setV r f).getV k l =
      if w.phys (w.cur + k / 16) = w.phys (w.cur + r / 16) ∧ k % 16 = r % 16 then (if l < 64 then f l else 0)
      else w.getV k l := by
  unfold Window.getV Window.setV
  simp only [Window.frame_mapFrame, Window.phys_mapFrame, Window.cur_mapFrame]
  by_cases h : w.phys (w.cur + k / 16) = w.phys (w.cur + r / 16)
  · simp [h, Frame.word_setReg]
  · simp [h]

/-- A rewritten v register leaves the rest of the window. -/
theorem Window.keepsBut_setV (w v : Window) (r : Nat) (f : Nat → Word) (ps : List (Nat × Nat))
    (h : w.keepsBut v ps) : w.keepsBut (v.setV r f) ((v.phys (v.cur + r / 16), r % 16) :: ps) := by
  obtain ⟨h1, h2, h3, h4, h5⟩ := h
  refine ⟨h1, h2, h3, h4, fun i => ⟨?_, fun k l hk => ?_⟩⟩
  · rw [← (h5 i).1]; simp only [Window.setV, Window.frame_mapFrame]; split <;> simp [*]
  · simp only [List.mem_cons, not_or, Prod.mk.injEq, not_and] at hk
    rw [← (h5 i).2 k l hk.2]
    simp only [Window.setV, Window.frame_mapFrame]
    split
    · rw [Frame.word_setReg, if_neg (hk.1 ‹_›), ‹i = _›]
    · rfl

theorem Window.keepsBut_refl (w : Window) : w.keepsBut w [] := ⟨rfl, rfl, rfl, rfl, fun _ => ⟨rfl, fun _ _ _ => rfl⟩⟩

/-! ## Writing a vector destination -/

/-- Only the window changes when a vector destination is written. -/
theorem Wave.putWords_eq (w : Wave) (act : Nat → Bool) (r : Nat) (val : Nat → Nat) (n : Nat) :
    Wave.putWords w act r val n = { w with win := (Wave.putWords w act r val n).win } := by
  induction n with
  | zero => rfl
  | succ n ih => unfold Wave.putWords Wave.setV; rw [ih]

theorem Wave.putV_eq (w : Wave) (act : Nat → Bool) (d : BitVec 8) (width : Nat) (val : Nat → Nat) :
    w.putV act d width val = { w with win := (w.putV act d width val).win } := Wave.putWords_eq ..

/-- The window after a vector destination of `n` registers: the rest of it stands. -/
theorem Wave.putWords_keeps (w : Wave) (act : Nat → Bool) (r : Nat) (val : Nat → Nat) (n : Nat) :
    w.win.keepsBut (Wave.putWords w act r val n).win (w.win.places r n) := by
  induction n with
  | zero => exact Window.keepsBut_refl _
  | succ n ih =>
    have h := Window.keepsBut_setV _ _ (r + n) (fun l => if act l then wordAt (val l) n else w.getV (r + n) l) _ ih
    obtain ⟨h1, h2, h3, h4, h5⟩ := ih
    have hp : ∀ k, (Wave.putWords w act r val n).win.phys k = w.win.phys k := fun k => by simp [Window.phys, h4]
    obtain ⟨g1, g2, g3, g4, g5⟩ := h
    refine ⟨g1, g2, g3, g4, fun i => ⟨(g5 i).1, fun k l hk => (g5 i).2 k l ?_⟩⟩
    simp only [Window.places, List.range_succ, List.map_append, List.mem_append, not_or] at hk
    simp only [List.mem_cons, not_or, hp, h1]
    exact ⟨by simpa using hk.2, hk.1⟩

/-- The registers of a destination of up to 16 hold what was written. -/
theorem Wave.putWords_get (w : Wave) (act : Nat → Bool) (r : Nat) (val : Nat → Nat) (n : Nat) (hn : n ≤ 16) :
    ∀ l, l < 64 → ∀ k, k < n →
      (Wave.putWords w act r val n).getV (r + k) l = if act l then wordAt (val l) k else w.getV (r + k) l := by
  induction n with
  | zero => intro l _ k hk; omega
  | succ n ih =>
    intro l hl k hk
    simp only [Wave.putWords, Wave.getV, Wave.setV, Window.getV_setV]
    by_cases h : k = n
    · subst h; simp [hl]
    · rw [if_neg (by omega)]
      exact ih (by omega) l hl k (by omega)

/-- Every destination has at most 16 registers where its width is at most 512 bits. -/
theorem regCount_le (w : Nat) (h : w ≤ 512) : regCount w ≤ 16 := by
  unfold regCount; split <;> omega

/-- A wave whose vector destination has been written, as the relation of Safety.lean has it. -/
theorem State.wroteV_putV (s : State) (n : Nat) (w : Wave) (d : BitVec 8) (width : Nat) (act : Nat → Bool)
    (val : Nat → Nat) (hw : w.win = s.wv.win) (h : width ≤ 512) :
    s.wroteV ((s.withWv (w.putV act d width val)).advance n) n w d.toNat width act val := by
  have hg := Wave.putWords_get w act d.toNat val (regCount width) (regCount_le width h)
  have hk := Wave.putWords_keeps w act d.toNat val (regCount width)
  refine ⟨?_, ?_, ?_⟩
  · rw [Wave.putV_eq]; rfl
  · rw [hw] at hk; exact hk
  · intro l hl k hk'
    have := hg l hl k hk'
    simp only [Wave.getV, hw] at this
    exact this

/-! ## Uniform registers and predicates -/

@[simp] theorem Wave.getS_setS (w : Wave) (n k : Nat) (v : Word) : (w.setS n v).getS k = if k = n then v else w.getS k := by
  simp only [Wave.getS, Wave.setS, Map.getD_set]

/-- Only the uniform registers change when a uniform destination is written. -/
theorem Wave.putSs_eq (w : Wave) (r v n : Nat) : Wave.putSs w r v n = { w with s := (Wave.putSs w r v n).s } := by
  induction n with
  | zero => rfl
  | succ n ih => unfold Wave.putSs Wave.setS; rw [ih]

/-- The uniform registers after a destination of `n` of them has been written. -/
theorem Wave.putSs_get (w : Wave) (r v n k : Nat) :
    (Wave.putSs w r v n).getS k = if r ≤ k ∧ k < r + n then wordAt v (k - r) else w.getS k := by
  induction n with
  | zero => rw [if_neg (by omega)]; rfl
  | succ n ih =>
    simp only [Wave.putSs, Wave.getS_setS, ih]
    by_cases h : k = r + n
    · subst h; simp
    · by_cases h2 : r ≤ k ∧ k < r + n
      · rw [if_neg h, if_pos h2, if_pos (by omega)]
      · rw [if_neg h, if_neg h2, if_neg (by omega)]

/-- A wave whose uniform destination has been written, as the relation of Safety.lean has it. -/
theorem State.wroteS_putS (s : State) (n : Nat) (w : Wave) (d : BitVec 8) (width v : Nat) (hw : w.s = s.wv.s) :
    s.wroteS ((s.withWv (w.putS d width v)).advance n) n w d.toNat width v := by
  refine ⟨?_, fun k => ?_⟩
  · unfold Wave.putS; rw [Wave.putSs_eq]; rfl
  · have := Wave.putSs_get w (d.toNat - 0x20) v (regCount width) k
    simp only [Wave.getS, hw] at this
    exact this

/-- A mask made from its bits. -/
theorem maskOf_getLsbD (f : Nat → Bool) (l : Nat) (hl : l < 64) : (maskOf f).getLsbD l = f l := by
  have key : ∀ (xs : List Nat), xs.Nodup → (∀ x ∈ xs, x < 64) →
      (xs.foldr (fun i acc => if f i then acc ||| (1#64 <<< i) else acc) 0#64).getLsbD l =
        (decide (l ∈ xs) && f l) := by
    intro xs hx hb
    induction xs with
    | nil => simp
    | cons x xs ih =>
      have ih := ih (List.nodup_cons.1 hx).2 (fun y hy => hb y (List.mem_cons_of_mem _ hy))
      simp only [List.foldr_cons]
      by_cases hf : f x
      · by_cases hxl : l = x
        · subst hxl; simp [hf, hl]
        · have : decide (l < x) || (!decide (l - x = 0)) := by
            simp only [Bool.or_eq_true, decide_eq_true_eq, Bool.not_eq_true', decide_eq_false_iff_not]; omega
          simp only [hf, if_true, BitVec.getLsbD_or, ih, List.mem_cons, hxl, false_or, BitVec.getLsbD_shiftLeft]
          by_cases hlt : l < x
          · simp [hlt]
          · have : l - x ≠ 0 := by omega
            simp [BitVec.getLsbD_one, this]
      · by_cases hxl : l = x
        · subst hxl; simp [hf, ih]
        · simp [hf, ih, hxl]
  have := key (List.range 64) List.nodup_range (by simp)
  exact this.trans (by rw [decide_eq_true (List.mem_range.2 hl), Bool.true_and])

/-- A lane predicate after one has been written. -/
theorem Wave.getP_setP (w : Wave) (k j l : Nat) (f : Nat → Bool) (hl : l < 64) :
    (w.setP k f).getP j l = if j = k ∧ j ≠ 7 then f l else w.getP j l := by
  unfold Wave.getP Wave.setP
  by_cases h7 : j = 7
  · simp [h7]
  · simp only [h7, if_false, Map.getD_set]
    by_cases h : j = k
    · simp [h, maskOf_getLsbD f l hl, h ▸ h7]
    · simp [h]

/-- A uniform predicate after one has been written. -/
theorem Wave.getQ_setQ (w : Wave) (k j : Nat) (b : Bool) :
    (w.setQ k b).getQ j = if j = k ∧ j ≠ 7 then b else w.getQ j := by
  unfold Wave.getQ Wave.setQ
  by_cases h7 : j = 7
  · simp [h7]
  · simp only [h7, if_false, Map.getD_set]
    by_cases h : j = k
    · simp [h, h ▸ h7]
    · simp [h]

end Sys2Proof.Machine
end

