-- ==== Sys2Proof/Laws/Alu.lean ====
section
/-! SUPPORT. What the shared forms of the ALU instructions do, each said once: the destination written, the flags raised,
PC past the instruction, and nothing else. -/

namespace Sys2Proof.Machine

/-- FLAGS raised and a uniform destination written, in either order. -/
theorem State.wroteS_raise (s : State) (n : Nat) (d : BitVec 8) (width v : Nat) (fl : BitVec 8) :
    s.wroteS ((s.withWv ((s.wv.putS d width v).raise fl)).advance n) n (s.wv.raise fl) d.toNat width v := by
  have h : (s.wv.putS d width v).raise fl = (s.wv.raise fl).putS d width v := by
    unfold Wave.putS
    generalize regCount width = k
    induction k with
    | zero => rfl
    | succ k ih => simp only [Wave.putSs, Wave.setS, ← ih]; rfl
  rw [h]
  exact State.wroteS_putS s n (s.wv.raise fl) d width v rfl

/-- FLAGS raised and a vector destination written, in either order. -/
theorem State.wroteV_raise (s : State) (n : Nat) (d : BitVec 8) (width : Nat) (act : Nat → Bool) (val : Nat → Nat)
    (fl : BitVec 8) (hw : width ≤ 512) :
    s.wroteV ((s.withWv ((s.wv.putV act d width val).raise fl)).advance n) n (s.wv.raise fl) d.toNat width act val := by
  have h : (s.wv.putV act d width val).raise fl = (s.wv.raise fl).putV act d width val := by
    unfold Wave.putV
    generalize regCount width = k
    induction k with
    | zero => rfl
    | succ k ih => simp only [Wave.putWords, ← ih]; rfl
  rw [h]
  exact State.wroteV_putV s n (s.wv.raise fl) d width act val rfl hw

/-- What a uniform integer instruction of format A does where its guard holds. -/
theorem uniInt_completes (op : IntOp) (wa wb wc wd : Nat) (f : InsA) (s : State) (hg : s.wv.guardUni f.g = true) :
    ∃ t, uniInt op wa wb wc wd f s = .next t ∧
      let r := op f (s.srcU f.lit wa f.a) (s.srcU f.lit wb f.b) (s.srcU f.lit wc f.c)
      s.wroteS t (lenA f) (s.wv.raise (satFlag r.2)) f.d.toNat wd r.1 := by
  refine ⟨_, rfl, ?_⟩
  simp only [hg, if_true]
  exact State.wroteS_raise ..

/-- What a vector integer instruction of format A does. -/
theorem vecInt_completes (op : IntOp) (wa wb wc wd : Nat) (f : InsA) (s : State) (hw : wd ≤ 512) :
    ∃ t, vecInt op wa wb wc wd f s = .next t ∧
      let r := fun l => op f (s.src f.lit (.bits wa) f.a l) (s.src f.lit (.bits wb) f.b l) (s.src f.lit (.bits wc) f.c l)
      s.wroteV t (lenA f) (s.wv.raise (flagsOver (s.wv.activeLane f.g) (fun l => satFlag (r l).2))) f.d.toNat wd
        (s.wv.activeLane f.g) (fun l => (r l).1) :=
  ⟨_, rfl, State.wroteV_raise _ _ _ _ _ _ _ hw⟩

/-- What a vector floating-point instruction that takes no draws does. -/
theorem vecFloat_completes (f : InsA) (wd : Nat) (op : State → Nat → Nat → Nat × BitVec 8) (s : State) (hw : wd ≤ 512) :
    ∃ t, vecFloat f wd (fun _ => false) op s = .next t ∧
      s.wroteV t (lenA f) (s.wv.raise (flagsOver (s.wv.activeLane f.g) (fun l => (op s l 0).2))) f.d.toNat wd
        (s.wv.activeLane f.g) (fun l => (op s l 0).1) := by
  refine ⟨_, rfl, ?_⟩
  have h := State.wroteV_raise s (lenA f) f.d wd (s.wv.activeLane f.g) (fun l => (op s l 0).1)
    (flagsOver (s.wv.activeLane f.g) (fun l => (op s l 0).2)) hw
  have e : ∀ w : Wave, w.gens = s.wv.gens → { w with gens := s.wv.gens } = w := fun w hw => by rw [← hw]
  have hd : s.drawsFor false f.g = (s.wv.gens, []) := rfl
  simp only [hd]
  rw [e]
  · exact h
  · unfold Wave.raise; rw [Wave.putV_eq]

/-! ### The widths, the saturation and the bit loops that the meanings share -/

/-- A width of a TYPE is at most 512 bits. -/
theorem InsA_width_le (f : InsA) : InsA_width f ≤ 512 := by
  unfold InsA_width intWidth; split <;> (try split) <;> (try split) <;> omega

/-- A register width is at most 512 bits where the width is. -/
theorem regWidth_le (w : Nat) (h : w ≤ 512) : regWidth w ≤ 512 := by
  unfold regWidth; split <;> omega

/-- A width of a floating-point format is at most 512 bits. -/
theorem fmtWidth_le (n : Nat) : fmtWidth n ≤ 512 := by unfold fmtWidth; split <;> omega

/-- Clamping keeps exactly the numbers of the range. -/
theorem clampInt_eq_self (sg : Bool) (w : Nat) (x : Int) :
    clampInt sg w x = x ↔ ¬ (x < intMin sg w ∨ intMax sg w < x) := by
  have h : intMin sg w ≤ intMax sg w := by
    unfold intMin intMax; split
    · have : (0 : Int) < 2 ^ (w - 1) := by positivity
      omega
    · have : (0 : Int) < 2 ^ w := by positivity
      omega
  unfold clampInt; omega

/-- The count of POPC is the number of bits that are 1. -/
theorem popCount_eq (w a : Nat) : popCount w a = ((List.range w).filter (fun i => a.testBit i)).length := by
  unfold popCount
  have : ∀ (l : List Nat) (n : Nat),
      l.foldl (fun n i => n + (a.testBit i).toNat) n = n + (l.filter (fun i => a.testBit i)).length := by
    intro l; induction l with
    | nil => intro n; simp
    | cons x l ih => intro n; simp only [List.foldl_cons, ih, List.filter_cons]; split <;> simp_all; omega
  simpa using this (List.range w) 0

/-- Bit `i` of LOP3 is the entry of its table at the three bits. -/
theorem lop3_testBit (tt w a b c i : Nat) : (lop3 tt w a b c).testBit i =
    (decide (i < w) && tt.testBit (4 * (a.testBit i).toNat + 2 * (b.testBit i).toNat + (c.testBit i).toNat)) := by
  unfold lop3
  have : ∀ (n m i : Nat), ((List.range' m n).foldr (fun i acc =>
      (tt.testBit (4 * (a.testBit i).toNat + 2 * (b.testBit i).toNat + (c.testBit i).toNat)).toNat + 2 * acc) 0).testBit i =
      (decide (i < n) &&
        tt.testBit (4 * (a.testBit (m + i)).toNat + 2 * (b.testBit (m + i)).toNat + (c.testBit (m + i)).toNat)) := by
    intro n; induction n with
    | zero => intro m i; simp
    | succ n ih =>
      intro m i; rw [List.range'_succ, List.foldr_cons]
      cases i with
      | zero => rw [Nat.testBit_zero]; generalize tt.testBit _ = x; cases x <;> (simp; try omega)
      | succ i =>
        have h2 : ∀ (x : Bool) (y : Nat), (x.toNat + 2 * y).testBit (i + 1) = y.testBit i := by
          intro x y; rw [Nat.testBit_succ]; congr 1; cases x <;> (simp; try omega)
        rw [h2, ih]; simp [Nat.add_assoc, Nat.add_comm 1 i]
  simpa [List.range_eq_range'] using this w 0 i

/-- A uniform source is below its width's power, from 4 bits on. -/
theorem State.srcU_lt (s : State) (lit : Option (BitVec 32)) (w : Nat) (code : BitVec 8) (hw : 4 ≤ w) :
    s.srcU lit w code < 2 ^ w := by
  have hp : 0 < 2 ^ w := Nat.two_pow_pos w
  have h16 : 2 ^ 4 ≤ 2 ^ w := Nat.pow_le_pow_right (by omega) hw
  unfold State.srcU State.src; dsimp only
  split
  · unfold Wave.readReg; split <;> exact Nat.mod_lt _ hp
  · split
    · omega
    · split
      · exact Nat.mod_lt _ hp
      · split
        · unfold literalIn; split
          · next h => cases h; exact BitVec.isLt _
          · next h => cases h
          · exact Nat.mod_lt _ hp
        · exact Nat.mod_lt _ hp

/-- Writing a uniform predicate changes no other and no register. -/
theorem State.wroteQ_setQ (s : State) (n k : Nat) (b : Bool) :
    s.wroteQ ((s.withWv (s.wv.setQ k b)).advance n) n s.wv k b :=
  ⟨rfl, fun _ => Wave.getQ_setQ _ _ _ _⟩

/-- Writing a lane predicate changes no other, no lane outside and no register. -/
theorem State.wroteP_putP (s : State) (n : Nat) (w : Wave) (d : Nat) (act val : Nat → Bool) (h : w.p = s.wv.p) :
    s.wroteP ((s.withWv (w.putP act d val)).advance n) n w d act val := by
  refine ⟨rfl, fun k l hl => ?_⟩
  show (w.setP d _).getP k l = _
  rw [Wave.getP_setP _ _ _ _ _ hl]
  have hg : ∀ k l, w.getP k l = s.wv.getP k l := by intro k l; unfold Wave.getP; rw [h]
  by_cases h1 : k = d <;> by_cases h2 : k = 7 <;> by_cases h3 : act l = true <;> simp_all

end Sys2Proof.Machine
end

