-- ==== Sys2Proof/Laws/Control.lean ====
section
/-! SUPPORT. What the masks of a wave, the votes of its lanes, its rejoin slots and its trap entry do, each said once. -/

namespace Sys2Proof.Machine

/-- Two lane masks are equal where every lane agrees. -/
theorem Mask.eq_iff (m n : Mask) : m = n ↔ ∀ l, l < 64 → m.getLsbD l = n.getLsbD l :=
  ⟨fun h _ _ => h ▸ rfl, fun h => BitVec.eq_of_getLsbD_eq h⟩

/-- A lane mask is empty where no lane is in it. -/
theorem Mask.eq_zero_iff (m : Mask) : m = 0 ↔ ∀ l, l < 64 → m.getLsbD l = false := by
  rw [Mask.eq_iff]; simp

/-- The threads that vote: those of EXEC whose lane predicate is 1 (R370). -/
theorem Wave.votes_get (w : Wave) (k l : Nat) (h : l < 64) :
    (w.votes k).getLsbD l = true ↔ l < w.threads ∧ w.ctl.exec.getLsbD l = true ∧ w.getP k (w.lane l) = true := by
  unfold Wave.votes
  rw [maskOf_getLsbD _ _ h]; simp [and_assoc]

/-- A thread that votes is one of the 64. -/
theorem Mask.lt_of_getLsbD (m : Mask) (l : Nat) (h : m.getLsbD l = true) : l < 64 := by
  by_contra hc
  rw [BitVec.getLsbD_of_ge _ _ (by omega)] at h; exact Bool.false_ne_true h

/-- .ANY: some thread votes (R370). -/
theorem voteHolds_any (m e : Mask) : voteHolds 0 m e = true ↔ ∃ l, m.getLsbD l = true := by
  simp only [voteHolds, bne_iff_ne, ne_eq, Mask.eq_zero_iff]
  constructor
  · intro h; push Not at h; obtain ⟨l, _, h⟩ := h; exact ⟨l, by simpa using h⟩
  · rintro ⟨l, hl⟩ h
    rw [h l (Mask.lt_of_getLsbD m l hl)] at hl; exact Bool.false_ne_true hl

/-- .ALL: every thread of EXEC votes, where none outside it can (R370). -/
theorem voteHolds_all (m e : Mask) (hm : ∀ l, m.getLsbD l = true → e.getLsbD l = true) :
    voteHolds 1 m e = true ↔ ∀ l, e.getLsbD l = true → m.getLsbD l = true := by
  simp only [voteHolds, beq_iff_eq, Mask.eq_iff]
  constructor
  · intro h l he; rw [h l (Mask.lt_of_getLsbD e l he)]; exact he
  · intro h l _
    cases he : e.getLsbD l with
    | true => exact h l he
    | false =>
      cases hv : m.getLsbD l with
      | false => rfl
      | true => rw [hm l hv] at he; exact absurd he (by simp)

/-- .NONE: no thread votes (R370). -/
theorem voteHolds_none (fn : Nat) (m e : Mask) (h0 : fn ≠ 0) (h1 : fn ≠ 1) :
    voteHolds fn m e = true ↔ ∀ l, m.getLsbD l = false := by
  have : voteHolds fn m e = (m == 0) := by unfold voteHolds; split <;> simp_all
  rw [this, beq_iff_eq, Mask.eq_zero_iff]
  constructor
  · intro h l
    by_contra hc
    have ht : m.getLsbD l = true := by simpa using hc
    exact hc (h l (Mask.lt_of_getLsbD m l ht))
  · exact fun h l _ => h l

/-- A rejoin slot after one has been written (R372). -/
theorem Wave.join_setJoin (w : Wave) (n m : Nat) (j : Join) : (w.setJoin n j).join m = if m = n then j else w.join m :=
  Map.getD_set _ _ _ _ _

/-- A table of which every entry is changed by a function that keeps the default. -/
theorem Map.getD_map {α β} (m : Map α) (f : α → β) (n : Nat) (d : α) :
    Map.getD (m.map (fun e => (e.1, f e.2))) n (f d) = f (Map.getD m n d) := by
  unfold Map.getD
  have : Map.get? (m.map (fun e => (e.1, f e.2))) n = (Map.get? m n).map f := by
    induction m with
    | nil => rfl
    | cons e m ih => obtain ⟨k, v⟩ := e; simp only [List.map_cons, Map.get?]; split <;> simp_all; split <;> rfl
  rw [this]; cases Map.get? m n <;> rfl

/-- The paths after EXIT: the rejoins that it completes, the highest slot on top (R375). -/
theorem exitJoins_path (l : Mask) (js : Map Join) (path : List PathEntry) :
    (exitJoins l js path).2 = ((js.filter (fun e => (e.2.arrived &&& ~~~l) != 0 &&
      (e.2.arrived &&& ~~~l) == (e.2.mask &&& ~~~l))).map
        (fun e => (⟨e.2.pc, e.2.mask &&& ~~~l⟩ : PathEntry))).reverse ++ path := by
  induction js generalizing path with
  | nil => rfl
  | cons e js ih =>
    obtain ⟨i, j⟩ := e
    simp only [exitJoins]
    split
    · next h =>
      have hb : ((j.arrived &&& ~~~l) != 0 && (j.arrived &&& ~~~l) == (j.mask &&& ~~~l)) = true := by
        rw [Bool.and_eq_true, bne_iff_ne, beq_iff_eq]; exact h
      rw [ih, List.filter_cons_of_pos (by exact hb)]; simp
    · next h =>
      have hb : ((j.arrived &&& ~~~l) != 0 && (j.arrived &&& ~~~l) == (j.mask &&& ~~~l)) = false := by
        by_contra hc; simp at hc; exact h (by simpa using hc)
      rw [ih]; simp only [List.filter_cons, hb]; simp

/-- The rejoin slots after EXIT: the ended lanes leave each, and a slot that is complete then holds no arrival (R375). -/
theorem exitJoins_slots (l : Mask) (js : Map Join) (path : List PathEntry) :
    (exitJoins l js path).1 = js.map (fun e => (e.1, ⟨e.2.mask &&& ~~~l,
      if e.2.arrived &&& ~~~l = e.2.mask &&& ~~~l then 0 else e.2.arrived &&& ~~~l, e.2.pc⟩)) := by
  induction js generalizing path with
  | nil => rfl
  | cons e js ih =>
    obtain ⟨i, j⟩ := e
    simp only [exitJoins]
    split
    · next h => simp [ih, h.2]
    · next h =>
      simp only [ih, List.map_cons]
      congr 3
      split
      · next h2 => by_contra hc; exact h ⟨hc, h2⟩
      · rfl

/-- A halt where a trap cannot be taken: the path stack is full (R407). -/
theorem State.trap_full (s : State) (cause info : Nat) (f : Mask) (next tpc : VAddr)
    (h1 : s.wv.ctl.exec &&& ~~~f ≠ 0) (h2 : 9 ≤ s.wv.ctl.path.length) :
    s.trap cause info f next tpc = s.halt 4 := by
  unfold State.trap; rw [if_pos ⟨h1, h2⟩]

/-- A trap without a handler: the wave is as the entry leaves it, and halts (R407). -/
theorem State.trap_without_handler (s : State) (cause info : Nat) (f : Mask) (next tpc : VAddr)
    (h : s.wv.ctl.exec &&& ~~~f = 0 ∨ s.wv.ctl.path.length < 9) (ht : s.wv.csr.tvOff = 0) :
    s.trap cause info f next tpc = (s.withWv (s.wv.enter cause info f next tpc)).halt 2 := by
  have hn : ¬(s.wv.ctl.exec &&& ~~~f ≠ 0 ∧ 9 ≤ s.wv.ctl.path.length) := by
    rintro ⟨h1, h2⟩; rcases h with h | h
    · exact h1 h
    · omega
  unfold State.trap; rw [if_neg hn]; dsimp only; rw [if_pos ht]

end Sys2Proof.Machine
end

