-- ==== Sys2Proof/Laws/State.lean ====
section
/-! SUPPORT. What each update of the state does to each field of it, one lemma per field, and what the reads of a part
give after an update of a part. -/

namespace Sys2Proof.Machine

/-! ### State.withWv -/

@[simp] theorem State.withWv_cur (s : State) (w : Wave) : (s.withWv w).cur = s.cur := rfl
@[simp] theorem State.withWv_wv (s : State) (w : Wave) : (s.withWv w).wv = w := rfl
@[simp] theorem State.withWv_waves (s : State) (w : Wave) : (s.withWv w).waves = s.waves := rfl
@[simp] theorem State.withWv_cores (s : State) (w : Wave) : (s.withWv w).cores = s.cores := rfl
@[simp] theorem State.withWv_clusters (s : State) (w : Wave) : (s.withWv w).clusters = s.clusters := rfl
@[simp] theorem State.withWv_gangs (s : State) (w : Wave) : (s.withWv w).gangs = s.gangs := rfl
@[simp] theorem State.withWv_net (s : State) (w : Wave) : (s.withWv w).net = s.net := rfl
@[simp] theorem State.withWv_ms (s : State) (w : Wave) : (s.withWv w).ms = s.ms := rfl
@[simp] theorem State.withWv_fe (s : State) (w : Wave) : (s.withWv w).fe = s.fe := rfl
@[simp] theorem State.withWv_box (s : State) (w : Wave) : (s.withWv w).box = s.box := rfl
@[simp] theorem State.withWv_hostReply (s : State) (w : Wave) : (s.withWv w).hostReply = s.hostReply := rfl
@[simp] theorem State.withWv_host (s : State) (w : Wave) : (s.withWv w).host = s.host := rfl
@[simp] theorem State.withWv_health (s : State) (w : Wave) : (s.withWv w).health = s.health := rfl
@[simp] theorem State.withWv_ctxs (s : State) (w : Wave) : (s.withWv w).ctxs = s.ctxs := rfl
@[simp] theorem State.withWv_nopel (s : State) (w : Wave) : (s.withWv w).nopel = s.nopel := rfl
@[simp] theorem State.withWv_routes (s : State) (w : Wave) : (s.withWv w).routes = s.routes := rfl
@[simp] theorem State.withWv_now (s : State) (w : Wave) : (s.withWv w).now = s.now := rfl
@[simp] theorem State.withWv_issuing (s : State) (w : Wave) : (s.withWv w).issuing = s.issuing := rfl
@[simp] theorem State.withWv_engine (s : State) (w : Wave) : (s.withWv w).engine = s.engine := rfl
@[simp] theorem State.withWv_agenda (s : State) (w : Wave) : (s.withWv w).agenda = s.agenda := rfl
@[simp] theorem State.withWv_draws (s : State) (w : Wave) : (s.withWv w).draws = s.draws := rfl
@[simp] theorem State.withWv_nextOp (s : State) (w : Wave) : (s.withWv w).nextOp = s.nextOp := rfl

/-! ### State.mapWv -/

@[simp] theorem State.mapWv_cur (s : State) (f : Wave → Wave) : (s.mapWv f).cur = s.cur := rfl
@[simp] theorem State.mapWv_wv (s : State) (f : Wave → Wave) : (s.mapWv f).wv = f s.wv := rfl
@[simp] theorem State.mapWv_waves (s : State) (f : Wave → Wave) : (s.mapWv f).waves = s.waves := rfl
@[simp] theorem State.mapWv_cores (s : State) (f : Wave → Wave) : (s.mapWv f).cores = s.cores := rfl
@[simp] theorem State.mapWv_clusters (s : State) (f : Wave → Wave) : (s.mapWv f).clusters = s.clusters := rfl
@[simp] theorem State.mapWv_gangs (s : State) (f : Wave → Wave) : (s.mapWv f).gangs = s.gangs := rfl
@[simp] theorem State.mapWv_net (s : State) (f : Wave → Wave) : (s.mapWv f).net = s.net := rfl
@[simp] theorem State.mapWv_ms (s : State) (f : Wave → Wave) : (s.mapWv f).ms = s.ms := rfl
@[simp] theorem State.mapWv_fe (s : State) (f : Wave → Wave) : (s.mapWv f).fe = s.fe := rfl
@[simp] theorem State.mapWv_box (s : State) (f : Wave → Wave) : (s.mapWv f).box = s.box := rfl
@[simp] theorem State.mapWv_hostReply (s : State) (f : Wave → Wave) : (s.mapWv f).hostReply = s.hostReply := rfl
@[simp] theorem State.mapWv_host (s : State) (f : Wave → Wave) : (s.mapWv f).host = s.host := rfl
@[simp] theorem State.mapWv_health (s : State) (f : Wave → Wave) : (s.mapWv f).health = s.health := rfl
@[simp] theorem State.mapWv_ctxs (s : State) (f : Wave → Wave) : (s.mapWv f).ctxs = s.ctxs := rfl
@[simp] theorem State.mapWv_nopel (s : State) (f : Wave → Wave) : (s.mapWv f).nopel = s.nopel := rfl
@[simp] theorem State.mapWv_routes (s : State) (f : Wave → Wave) : (s.mapWv f).routes = s.routes := rfl
@[simp] theorem State.mapWv_now (s : State) (f : Wave → Wave) : (s.mapWv f).now = s.now := rfl
@[simp] theorem State.mapWv_issuing (s : State) (f : Wave → Wave) : (s.mapWv f).issuing = s.issuing := rfl
@[simp] theorem State.mapWv_engine (s : State) (f : Wave → Wave) : (s.mapWv f).engine = s.engine := rfl
@[simp] theorem State.mapWv_agenda (s : State) (f : Wave → Wave) : (s.mapWv f).agenda = s.agenda := rfl
@[simp] theorem State.mapWv_draws (s : State) (f : Wave → Wave) : (s.mapWv f).draws = s.draws := rfl
@[simp] theorem State.mapWv_nextOp (s : State) (f : Wave → Wave) : (s.mapWv f).nextOp = s.nextOp := rfl

/-! ### State.setCore -/

@[simp] theorem State.setCore_cur (s : State) (i : Nat) (c : Core) : (s.setCore i c).cur = s.cur := rfl
@[simp] theorem State.setCore_wv (s : State) (i : Nat) (c : Core) : (s.setCore i c).wv = s.wv := rfl
@[simp] theorem State.setCore_waves (s : State) (i : Nat) (c : Core) : (s.setCore i c).waves = s.waves := rfl
@[simp] theorem State.setCore_cores (s : State) (i : Nat) (c : Core) : (s.setCore i c).cores = Map.set s.cores i c := rfl
@[simp] theorem State.setCore_clusters (s : State) (i : Nat) (c : Core) : (s.setCore i c).clusters = s.clusters := rfl
@[simp] theorem State.setCore_gangs (s : State) (i : Nat) (c : Core) : (s.setCore i c).gangs = s.gangs := rfl
@[simp] theorem State.setCore_net (s : State) (i : Nat) (c : Core) : (s.setCore i c).net = s.net := rfl
@[simp] theorem State.setCore_ms (s : State) (i : Nat) (c : Core) : (s.setCore i c).ms = s.ms := rfl
@[simp] theorem State.setCore_fe (s : State) (i : Nat) (c : Core) : (s.setCore i c).fe = s.fe := rfl
@[simp] theorem State.setCore_box (s : State) (i : Nat) (c : Core) : (s.setCore i c).box = s.box := rfl
@[simp] theorem State.setCore_hostReply (s : State) (i : Nat) (c : Core) : (s.setCore i c).hostReply = s.hostReply := rfl
@[simp] theorem State.setCore_host (s : State) (i : Nat) (c : Core) : (s.setCore i c).host = s.host := rfl
@[simp] theorem State.setCore_health (s : State) (i : Nat) (c : Core) : (s.setCore i c).health = s.health := rfl
@[simp] theorem State.setCore_ctxs (s : State) (i : Nat) (c : Core) : (s.setCore i c).ctxs = s.ctxs := rfl
@[simp] theorem State.setCore_nopel (s : State) (i : Nat) (c : Core) : (s.setCore i c).nopel = s.nopel := rfl
@[simp] theorem State.setCore_routes (s : State) (i : Nat) (c : Core) : (s.setCore i c).routes = s.routes := rfl
@[simp] theorem State.setCore_now (s : State) (i : Nat) (c : Core) : (s.setCore i c).now = s.now := rfl
@[simp] theorem State.setCore_issuing (s : State) (i : Nat) (c : Core) : (s.setCore i c).issuing = s.issuing := rfl
@[simp] theorem State.setCore_engine (s : State) (i : Nat) (c : Core) : (s.setCore i c).engine = s.engine := rfl
@[simp] theorem State.setCore_agenda (s : State) (i : Nat) (c : Core) : (s.setCore i c).agenda = s.agenda := rfl
@[simp] theorem State.setCore_draws (s : State) (i : Nat) (c : Core) : (s.setCore i c).draws = s.draws := rfl
@[simp] theorem State.setCore_nextOp (s : State) (i : Nat) (c : Core) : (s.setCore i c).nextOp = s.nextOp := rfl

/-! ### State.setMyCore -/

@[simp] theorem State.setMyCore_cur (s : State) (c : Core) : (s.setMyCore c).cur = s.cur := rfl
@[simp] theorem State.setMyCore_wv (s : State) (c : Core) : (s.setMyCore c).wv = s.wv := rfl
@[simp] theorem State.setMyCore_waves (s : State) (c : Core) : (s.setMyCore c).waves = s.waves := rfl
@[simp] theorem State.setMyCore_cores (s : State) (c : Core) : (s.setMyCore c).cores = Map.set s.cores s.cur.core c := rfl
@[simp] theorem State.setMyCore_clusters (s : State) (c : Core) : (s.setMyCore c).clusters = s.clusters := rfl
@[simp] theorem State.setMyCore_gangs (s : State) (c : Core) : (s.setMyCore c).gangs = s.gangs := rfl
@[simp] theorem State.setMyCore_net (s : State) (c : Core) : (s.setMyCore c).net = s.net := rfl
@[simp] theorem State.setMyCore_ms (s : State) (c : Core) : (s.setMyCore c).ms = s.ms := rfl
@[simp] theorem State.setMyCore_fe (s : State) (c : Core) : (s.setMyCore c).fe = s.fe := rfl
@[simp] theorem State.setMyCore_box (s : State) (c : Core) : (s.setMyCore c).box = s.box := rfl
@[simp] theorem State.setMyCore_hostReply (s : State) (c : Core) : (s.setMyCore c).hostReply = s.hostReply := rfl
@[simp] theorem State.setMyCore_host (s : State) (c : Core) : (s.setMyCore c).host = s.host := rfl
@[simp] theorem State.setMyCore_health (s : State) (c : Core) : (s.setMyCore c).health = s.health := rfl
@[simp] theorem State.setMyCore_ctxs (s : State) (c : Core) : (s.setMyCore c).ctxs = s.ctxs := rfl
@[simp] theorem State.setMyCore_nopel (s : State) (c : Core) : (s.setMyCore c).nopel = s.nopel := rfl
@[simp] theorem State.setMyCore_routes (s : State) (c : Core) : (s.setMyCore c).routes = s.routes := rfl
@[simp] theorem State.setMyCore_now (s : State) (c : Core) : (s.setMyCore c).now = s.now := rfl
@[simp] theorem State.setMyCore_issuing (s : State) (c : Core) : (s.setMyCore c).issuing = s.issuing := rfl
@[simp] theorem State.setMyCore_engine (s : State) (c : Core) : (s.setMyCore c).engine = s.engine := rfl
@[simp] theorem State.setMyCore_agenda (s : State) (c : Core) : (s.setMyCore c).agenda = s.agenda := rfl
@[simp] theorem State.setMyCore_draws (s : State) (c : Core) : (s.setMyCore c).draws = s.draws := rfl
@[simp] theorem State.setMyCore_nextOp (s : State) (c : Core) : (s.setMyCore c).nextOp = s.nextOp := rfl

/-! ### State.setCluster -/

@[simp] theorem State.setCluster_cur (s : State) (i : Nat) (c : Cluster) : (s.setCluster i c).cur = s.cur := rfl
@[simp] theorem State.setCluster_wv (s : State) (i : Nat) (c : Cluster) : (s.setCluster i c).wv = s.wv := rfl
@[simp] theorem State.setCluster_waves (s : State) (i : Nat) (c : Cluster) : (s.setCluster i c).waves = s.waves := rfl
@[simp] theorem State.setCluster_cores (s : State) (i : Nat) (c : Cluster) : (s.setCluster i c).cores = s.cores := rfl
@[simp] theorem State.setCluster_clusters (s : State) (i : Nat) (c : Cluster) : (s.setCluster i c).clusters = Map.set s.clusters i c := rfl
@[simp] theorem State.setCluster_gangs (s : State) (i : Nat) (c : Cluster) : (s.setCluster i c).gangs = s.gangs := rfl
@[simp] theorem State.setCluster_net (s : State) (i : Nat) (c : Cluster) : (s.setCluster i c).net = s.net := rfl
@[simp] theorem State.setCluster_ms (s : State) (i : Nat) (c : Cluster) : (s.setCluster i c).ms = s.ms := rfl
@[simp] theorem State.setCluster_fe (s : State) (i : Nat) (c : Cluster) : (s.setCluster i c).fe = s.fe := rfl
@[simp] theorem State.setCluster_box (s : State) (i : Nat) (c : Cluster) : (s.setCluster i c).box = s.box := rfl
@[simp] theorem State.setCluster_hostReply (s : State) (i : Nat) (c : Cluster) : (s.setCluster i c).hostReply = s.hostReply := rfl
@[simp] theorem State.setCluster_host (s : State) (i : Nat) (c : Cluster) : (s.setCluster i c).host = s.host := rfl
@[simp] theorem State.setCluster_health (s : State) (i : Nat) (c : Cluster) : (s.setCluster i c).health = s.health := rfl
@[simp] theorem State.setCluster_ctxs (s : State) (i : Nat) (c : Cluster) : (s.setCluster i c).ctxs = s.ctxs := rfl
@[simp] theorem State.setCluster_nopel (s : State) (i : Nat) (c : Cluster) : (s.setCluster i c).nopel = s.nopel := rfl
@[simp] theorem State.setCluster_routes (s : State) (i : Nat) (c : Cluster) : (s.setCluster i c).routes = s.routes := rfl
@[simp] theorem State.setCluster_now (s : State) (i : Nat) (c : Cluster) : (s.setCluster i c).now = s.now := rfl
@[simp] theorem State.setCluster_issuing (s : State) (i : Nat) (c : Cluster) : (s.setCluster i c).issuing = s.issuing := rfl
@[simp] theorem State.setCluster_engine (s : State) (i : Nat) (c : Cluster) : (s.setCluster i c).engine = s.engine := rfl
@[simp] theorem State.setCluster_agenda (s : State) (i : Nat) (c : Cluster) : (s.setCluster i c).agenda = s.agenda := rfl
@[simp] theorem State.setCluster_draws (s : State) (i : Nat) (c : Cluster) : (s.setCluster i c).draws = s.draws := rfl
@[simp] theorem State.setCluster_nextOp (s : State) (i : Nat) (c : Cluster) : (s.setCluster i c).nextOp = s.nextOp := rfl

/-! ### State.setSlice -/

@[simp] theorem State.setSlice_cur (s : State) (i : Nat) (x : Slice) : (s.setSlice i x).cur = s.cur := rfl
@[simp] theorem State.setSlice_wv (s : State) (i : Nat) (x : Slice) : (s.setSlice i x).wv = s.wv := rfl
@[simp] theorem State.setSlice_waves (s : State) (i : Nat) (x : Slice) : (s.setSlice i x).waves = s.waves := rfl
@[simp] theorem State.setSlice_cores (s : State) (i : Nat) (x : Slice) : (s.setSlice i x).cores = s.cores := rfl
@[simp] theorem State.setSlice_clusters (s : State) (i : Nat) (x : Slice) : (s.setSlice i x).clusters = s.clusters := rfl
@[simp] theorem State.setSlice_gangs (s : State) (i : Nat) (x : Slice) : (s.setSlice i x).gangs = s.gangs := rfl
@[simp] theorem State.setSlice_net (s : State) (i : Nat) (x : Slice) : (s.setSlice i x).net = { s.net with slices := Map.set s.net.slices i x } := rfl
@[simp] theorem State.setSlice_ms (s : State) (i : Nat) (x : Slice) : (s.setSlice i x).ms = s.ms := rfl
@[simp] theorem State.setSlice_fe (s : State) (i : Nat) (x : Slice) : (s.setSlice i x).fe = s.fe := rfl
@[simp] theorem State.setSlice_box (s : State) (i : Nat) (x : Slice) : (s.setSlice i x).box = s.box := rfl
@[simp] theorem State.setSlice_hostReply (s : State) (i : Nat) (x : Slice) : (s.setSlice i x).hostReply = s.hostReply := rfl
@[simp] theorem State.setSlice_host (s : State) (i : Nat) (x : Slice) : (s.setSlice i x).host = s.host := rfl
@[simp] theorem State.setSlice_health (s : State) (i : Nat) (x : Slice) : (s.setSlice i x).health = s.health := rfl
@[simp] theorem State.setSlice_ctxs (s : State) (i : Nat) (x : Slice) : (s.setSlice i x).ctxs = s.ctxs := rfl
@[simp] theorem State.setSlice_nopel (s : State) (i : Nat) (x : Slice) : (s.setSlice i x).nopel = s.nopel := rfl
@[simp] theorem State.setSlice_routes (s : State) (i : Nat) (x : Slice) : (s.setSlice i x).routes = s.routes := rfl
@[simp] theorem State.setSlice_now (s : State) (i : Nat) (x : Slice) : (s.setSlice i x).now = s.now := rfl
@[simp] theorem State.setSlice_issuing (s : State) (i : Nat) (x : Slice) : (s.setSlice i x).issuing = s.issuing := rfl
@[simp] theorem State.setSlice_engine (s : State) (i : Nat) (x : Slice) : (s.setSlice i x).engine = s.engine := rfl
@[simp] theorem State.setSlice_agenda (s : State) (i : Nat) (x : Slice) : (s.setSlice i x).agenda = s.agenda := rfl
@[simp] theorem State.setSlice_draws (s : State) (i : Nat) (x : Slice) : (s.setSlice i x).draws = s.draws := rfl
@[simp] theorem State.setSlice_nextOp (s : State) (i : Nat) (x : Slice) : (s.setSlice i x).nextOp = s.nextOp := rfl

/-! ### State.setPort -/

@[simp] theorem State.setPort_cur (s : State) (i : Nat) (x : Port) : (s.setPort i x).cur = s.cur := rfl
@[simp] theorem State.setPort_wv (s : State) (i : Nat) (x : Port) : (s.setPort i x).wv = s.wv := rfl
@[simp] theorem State.setPort_waves (s : State) (i : Nat) (x : Port) : (s.setPort i x).waves = s.waves := rfl
@[simp] theorem State.setPort_cores (s : State) (i : Nat) (x : Port) : (s.setPort i x).cores = s.cores := rfl
@[simp] theorem State.setPort_clusters (s : State) (i : Nat) (x : Port) : (s.setPort i x).clusters = s.clusters := rfl
@[simp] theorem State.setPort_gangs (s : State) (i : Nat) (x : Port) : (s.setPort i x).gangs = s.gangs := rfl
@[simp] theorem State.setPort_net (s : State) (i : Nat) (x : Port) : (s.setPort i x).net = { s.net with ports := Map.set s.net.ports i x } := rfl
@[simp] theorem State.setPort_ms (s : State) (i : Nat) (x : Port) : (s.setPort i x).ms = s.ms := rfl
@[simp] theorem State.setPort_fe (s : State) (i : Nat) (x : Port) : (s.setPort i x).fe = s.fe := rfl
@[simp] theorem State.setPort_box (s : State) (i : Nat) (x : Port) : (s.setPort i x).box = s.box := rfl
@[simp] theorem State.setPort_hostReply (s : State) (i : Nat) (x : Port) : (s.setPort i x).hostReply = s.hostReply := rfl
@[simp] theorem State.setPort_host (s : State) (i : Nat) (x : Port) : (s.setPort i x).host = s.host := rfl
@[simp] theorem State.setPort_health (s : State) (i : Nat) (x : Port) : (s.setPort i x).health = s.health := rfl
@[simp] theorem State.setPort_ctxs (s : State) (i : Nat) (x : Port) : (s.setPort i x).ctxs = s.ctxs := rfl
@[simp] theorem State.setPort_nopel (s : State) (i : Nat) (x : Port) : (s.setPort i x).nopel = s.nopel := rfl
@[simp] theorem State.setPort_routes (s : State) (i : Nat) (x : Port) : (s.setPort i x).routes = s.routes := rfl
@[simp] theorem State.setPort_now (s : State) (i : Nat) (x : Port) : (s.setPort i x).now = s.now := rfl
@[simp] theorem State.setPort_issuing (s : State) (i : Nat) (x : Port) : (s.setPort i x).issuing = s.issuing := rfl
@[simp] theorem State.setPort_engine (s : State) (i : Nat) (x : Port) : (s.setPort i x).engine = s.engine := rfl
@[simp] theorem State.setPort_agenda (s : State) (i : Nat) (x : Port) : (s.setPort i x).agenda = s.agenda := rfl
@[simp] theorem State.setPort_draws (s : State) (i : Nat) (x : Port) : (s.setPort i x).draws = s.draws := rfl
@[simp] theorem State.setPort_nextOp (s : State) (i : Nat) (x : Port) : (s.setPort i x).nextOp = s.nextOp := rfl

/-! ### State.withMs -/

@[simp] theorem State.withMs_cur (s : State) (m : MemSys) : (s.withMs m).cur = s.cur := rfl
@[simp] theorem State.withMs_wv (s : State) (m : MemSys) : (s.withMs m).wv = s.wv := rfl
@[simp] theorem State.withMs_waves (s : State) (m : MemSys) : (s.withMs m).waves = s.waves := rfl
@[simp] theorem State.withMs_cores (s : State) (m : MemSys) : (s.withMs m).cores = s.cores := rfl
@[simp] theorem State.withMs_clusters (s : State) (m : MemSys) : (s.withMs m).clusters = s.clusters := rfl
@[simp] theorem State.withMs_gangs (s : State) (m : MemSys) : (s.withMs m).gangs = s.gangs := rfl
@[simp] theorem State.withMs_net (s : State) (m : MemSys) : (s.withMs m).net = s.net := rfl
@[simp] theorem State.withMs_ms (s : State) (m : MemSys) : (s.withMs m).ms = m := rfl
@[simp] theorem State.withMs_fe (s : State) (m : MemSys) : (s.withMs m).fe = s.fe := rfl
@[simp] theorem State.withMs_box (s : State) (m : MemSys) : (s.withMs m).box = s.box := rfl
@[simp] theorem State.withMs_hostReply (s : State) (m : MemSys) : (s.withMs m).hostReply = s.hostReply := rfl
@[simp] theorem State.withMs_host (s : State) (m : MemSys) : (s.withMs m).host = s.host := rfl
@[simp] theorem State.withMs_health (s : State) (m : MemSys) : (s.withMs m).health = s.health := rfl
@[simp] theorem State.withMs_ctxs (s : State) (m : MemSys) : (s.withMs m).ctxs = s.ctxs := rfl
@[simp] theorem State.withMs_nopel (s : State) (m : MemSys) : (s.withMs m).nopel = s.nopel := rfl
@[simp] theorem State.withMs_routes (s : State) (m : MemSys) : (s.withMs m).routes = s.routes := rfl
@[simp] theorem State.withMs_now (s : State) (m : MemSys) : (s.withMs m).now = s.now := rfl
@[simp] theorem State.withMs_issuing (s : State) (m : MemSys) : (s.withMs m).issuing = s.issuing := rfl
@[simp] theorem State.withMs_engine (s : State) (m : MemSys) : (s.withMs m).engine = s.engine := rfl
@[simp] theorem State.withMs_agenda (s : State) (m : MemSys) : (s.withMs m).agenda = s.agenda := rfl
@[simp] theorem State.withMs_draws (s : State) (m : MemSys) : (s.withMs m).draws = s.draws := rfl
@[simp] theorem State.withMs_nextOp (s : State) (m : MemSys) : (s.withMs m).nextOp = s.nextOp := rfl

/-! ### State.withFe -/

@[simp] theorem State.withFe_cur (s : State) (f : FrontEnd) : (s.withFe f).cur = s.cur := rfl
@[simp] theorem State.withFe_wv (s : State) (f : FrontEnd) : (s.withFe f).wv = s.wv := rfl
@[simp] theorem State.withFe_waves (s : State) (f : FrontEnd) : (s.withFe f).waves = s.waves := rfl
@[simp] theorem State.withFe_cores (s : State) (f : FrontEnd) : (s.withFe f).cores = s.cores := rfl
@[simp] theorem State.withFe_clusters (s : State) (f : FrontEnd) : (s.withFe f).clusters = s.clusters := rfl
@[simp] theorem State.withFe_gangs (s : State) (f : FrontEnd) : (s.withFe f).gangs = s.gangs := rfl
@[simp] theorem State.withFe_net (s : State) (f : FrontEnd) : (s.withFe f).net = s.net := rfl
@[simp] theorem State.withFe_ms (s : State) (f : FrontEnd) : (s.withFe f).ms = s.ms := rfl
@[simp] theorem State.withFe_fe (s : State) (f : FrontEnd) : (s.withFe f).fe = f := rfl
@[simp] theorem State.withFe_box (s : State) (f : FrontEnd) : (s.withFe f).box = s.box := rfl
@[simp] theorem State.withFe_hostReply (s : State) (f : FrontEnd) : (s.withFe f).hostReply = s.hostReply := rfl
@[simp] theorem State.withFe_host (s : State) (f : FrontEnd) : (s.withFe f).host = s.host := rfl
@[simp] theorem State.withFe_health (s : State) (f : FrontEnd) : (s.withFe f).health = s.health := rfl
@[simp] theorem State.withFe_ctxs (s : State) (f : FrontEnd) : (s.withFe f).ctxs = s.ctxs := rfl
@[simp] theorem State.withFe_nopel (s : State) (f : FrontEnd) : (s.withFe f).nopel = s.nopel := rfl
@[simp] theorem State.withFe_routes (s : State) (f : FrontEnd) : (s.withFe f).routes = s.routes := rfl
@[simp] theorem State.withFe_now (s : State) (f : FrontEnd) : (s.withFe f).now = s.now := rfl
@[simp] theorem State.withFe_issuing (s : State) (f : FrontEnd) : (s.withFe f).issuing = s.issuing := rfl
@[simp] theorem State.withFe_engine (s : State) (f : FrontEnd) : (s.withFe f).engine = s.engine := rfl
@[simp] theorem State.withFe_agenda (s : State) (f : FrontEnd) : (s.withFe f).agenda = s.agenda := rfl
@[simp] theorem State.withFe_draws (s : State) (f : FrontEnd) : (s.withFe f).draws = s.draws := rfl
@[simp] theorem State.withFe_nextOp (s : State) (f : FrontEnd) : (s.withFe f).nextOp = s.nextOp := rfl

/-! ### State.withBox -/

@[simp] theorem State.withBox_cur (s : State) (b : Mailbox) : (s.withBox b).cur = s.cur := rfl
@[simp] theorem State.withBox_wv (s : State) (b : Mailbox) : (s.withBox b).wv = s.wv := rfl
@[simp] theorem State.withBox_waves (s : State) (b : Mailbox) : (s.withBox b).waves = s.waves := rfl
@[simp] theorem State.withBox_cores (s : State) (b : Mailbox) : (s.withBox b).cores = s.cores := rfl
@[simp] theorem State.withBox_clusters (s : State) (b : Mailbox) : (s.withBox b).clusters = s.clusters := rfl
@[simp] theorem State.withBox_gangs (s : State) (b : Mailbox) : (s.withBox b).gangs = s.gangs := rfl
@[simp] theorem State.withBox_net (s : State) (b : Mailbox) : (s.withBox b).net = s.net := rfl
@[simp] theorem State.withBox_ms (s : State) (b : Mailbox) : (s.withBox b).ms = s.ms := rfl
@[simp] theorem State.withBox_fe (s : State) (b : Mailbox) : (s.withBox b).fe = s.fe := rfl
@[simp] theorem State.withBox_box (s : State) (b : Mailbox) : (s.withBox b).box = b := rfl
@[simp] theorem State.withBox_hostReply (s : State) (b : Mailbox) : (s.withBox b).hostReply = s.hostReply := rfl
@[simp] theorem State.withBox_host (s : State) (b : Mailbox) : (s.withBox b).host = s.host := rfl
@[simp] theorem State.withBox_health (s : State) (b : Mailbox) : (s.withBox b).health = s.health := rfl
@[simp] theorem State.withBox_ctxs (s : State) (b : Mailbox) : (s.withBox b).ctxs = s.ctxs := rfl
@[simp] theorem State.withBox_nopel (s : State) (b : Mailbox) : (s.withBox b).nopel = s.nopel := rfl
@[simp] theorem State.withBox_routes (s : State) (b : Mailbox) : (s.withBox b).routes = s.routes := rfl
@[simp] theorem State.withBox_now (s : State) (b : Mailbox) : (s.withBox b).now = s.now := rfl
@[simp] theorem State.withBox_issuing (s : State) (b : Mailbox) : (s.withBox b).issuing = s.issuing := rfl
@[simp] theorem State.withBox_engine (s : State) (b : Mailbox) : (s.withBox b).engine = s.engine := rfl
@[simp] theorem State.withBox_agenda (s : State) (b : Mailbox) : (s.withBox b).agenda = s.agenda := rfl
@[simp] theorem State.withBox_draws (s : State) (b : Mailbox) : (s.withBox b).draws = s.draws := rfl
@[simp] theorem State.withBox_nextOp (s : State) (b : Mailbox) : (s.withBox b).nextOp = s.nextOp := rfl

/-! ### State.drawn -/

@[simp] theorem State.drawn_cur (s : State) : (s.drawn).cur = s.cur := rfl
@[simp] theorem State.drawn_wv (s : State) : (s.drawn).wv = s.wv := rfl
@[simp] theorem State.drawn_waves (s : State) : (s.drawn).waves = s.waves := rfl
@[simp] theorem State.drawn_cores (s : State) : (s.drawn).cores = s.cores := rfl
@[simp] theorem State.drawn_clusters (s : State) : (s.drawn).clusters = s.clusters := rfl
@[simp] theorem State.drawn_gangs (s : State) : (s.drawn).gangs = s.gangs := rfl
@[simp] theorem State.drawn_net (s : State) : (s.drawn).net = s.net := rfl
@[simp] theorem State.drawn_ms (s : State) : (s.drawn).ms = s.ms := rfl
@[simp] theorem State.drawn_fe (s : State) : (s.drawn).fe = s.fe := rfl
@[simp] theorem State.drawn_box (s : State) : (s.drawn).box = s.box := rfl
@[simp] theorem State.drawn_hostReply (s : State) : (s.drawn).hostReply = s.hostReply := rfl
@[simp] theorem State.drawn_host (s : State) : (s.drawn).host = s.host := rfl
@[simp] theorem State.drawn_health (s : State) : (s.drawn).health = s.health := rfl
@[simp] theorem State.drawn_ctxs (s : State) : (s.drawn).ctxs = s.ctxs := rfl
@[simp] theorem State.drawn_nopel (s : State) : (s.drawn).nopel = s.nopel := rfl
@[simp] theorem State.drawn_routes (s : State) : (s.drawn).routes = s.routes := rfl
@[simp] theorem State.drawn_now (s : State) : (s.drawn).now = s.now := rfl
@[simp] theorem State.drawn_issuing (s : State) : (s.drawn).issuing = s.issuing := rfl
@[simp] theorem State.drawn_engine (s : State) : (s.drawn).engine = s.engine := rfl
@[simp] theorem State.drawn_agenda (s : State) : (s.drawn).agenda = s.agenda := rfl
@[simp] theorem State.drawn_draws (s : State) : (s.drawn).draws = s.draws + 1 := rfl
@[simp] theorem State.drawn_nextOp (s : State) : (s.drawn).nextOp = s.nextOp := rfl

/-! ### State.advance -/

@[simp] theorem State.advance_cur (s : State) (n : Nat) : (s.advance n).cur = s.cur := rfl
@[simp] theorem State.advance_wv (s : State) (n : Nat) : (s.advance n).wv = { s.wv.advance n with answers := [], waits := { s.wv.waits with stall := none, rejects := 0 } } := rfl
@[simp] theorem State.advance_waves (s : State) (n : Nat) : (s.advance n).waves = s.waves := rfl
@[simp] theorem State.advance_cores (s : State) (n : Nat) : (s.advance n).cores = s.cores := rfl
@[simp] theorem State.advance_clusters (s : State) (n : Nat) : (s.advance n).clusters = s.clusters := rfl
@[simp] theorem State.advance_gangs (s : State) (n : Nat) : (s.advance n).gangs = s.gangs := rfl
@[simp] theorem State.advance_net (s : State) (n : Nat) : (s.advance n).net = s.net := rfl
@[simp] theorem State.advance_ms (s : State) (n : Nat) : (s.advance n).ms = s.ms := rfl
@[simp] theorem State.advance_fe (s : State) (n : Nat) : (s.advance n).fe = s.fe := rfl
@[simp] theorem State.advance_box (s : State) (n : Nat) : (s.advance n).box = s.box := rfl
@[simp] theorem State.advance_hostReply (s : State) (n : Nat) : (s.advance n).hostReply = s.hostReply := rfl
@[simp] theorem State.advance_host (s : State) (n : Nat) : (s.advance n).host = s.host := rfl
@[simp] theorem State.advance_health (s : State) (n : Nat) : (s.advance n).health = s.health := rfl
@[simp] theorem State.advance_ctxs (s : State) (n : Nat) : (s.advance n).ctxs = s.ctxs := rfl
@[simp] theorem State.advance_nopel (s : State) (n : Nat) : (s.advance n).nopel = s.nopel := rfl
@[simp] theorem State.advance_routes (s : State) (n : Nat) : (s.advance n).routes = s.routes := rfl
@[simp] theorem State.advance_now (s : State) (n : Nat) : (s.advance n).now = s.now := rfl
@[simp] theorem State.advance_issuing (s : State) (n : Nat) : (s.advance n).issuing = s.issuing := rfl
@[simp] theorem State.advance_engine (s : State) (n : Nat) : (s.advance n).engine = s.engine := rfl
@[simp] theorem State.advance_agenda (s : State) (n : Nat) : (s.advance n).agenda = s.agenda := rfl
@[simp] theorem State.advance_draws (s : State) (n : Nat) : (s.advance n).draws = s.draws := rfl
@[simp] theorem State.advance_nextOp (s : State) (n : Nat) : (s.advance n).nextOp = s.nextOp := rfl

/-! ### State.wait -/

@[simp] theorem State.wait_cur (s : State) (r : Nat) : (s.wait r).cur = s.cur := rfl
@[simp] theorem State.wait_wv (s : State) (r : Nat) : (s.wait r).wv = { s.wv with waits := { s.wv.waits with stall := some r } } := rfl
@[simp] theorem State.wait_waves (s : State) (r : Nat) : (s.wait r).waves = s.waves := rfl
@[simp] theorem State.wait_cores (s : State) (r : Nat) : (s.wait r).cores = s.cores := rfl
@[simp] theorem State.wait_clusters (s : State) (r : Nat) : (s.wait r).clusters = s.clusters := rfl
@[simp] theorem State.wait_gangs (s : State) (r : Nat) : (s.wait r).gangs = s.gangs := rfl
@[simp] theorem State.wait_net (s : State) (r : Nat) : (s.wait r).net = s.net := rfl
@[simp] theorem State.wait_ms (s : State) (r : Nat) : (s.wait r).ms = s.ms := rfl
@[simp] theorem State.wait_fe (s : State) (r : Nat) : (s.wait r).fe = s.fe := rfl
@[simp] theorem State.wait_box (s : State) (r : Nat) : (s.wait r).box = s.box := rfl
@[simp] theorem State.wait_hostReply (s : State) (r : Nat) : (s.wait r).hostReply = s.hostReply := rfl
@[simp] theorem State.wait_host (s : State) (r : Nat) : (s.wait r).host = s.host := rfl
@[simp] theorem State.wait_health (s : State) (r : Nat) : (s.wait r).health = s.health := rfl
@[simp] theorem State.wait_ctxs (s : State) (r : Nat) : (s.wait r).ctxs = s.ctxs := rfl
@[simp] theorem State.wait_nopel (s : State) (r : Nat) : (s.wait r).nopel = s.nopel := rfl
@[simp] theorem State.wait_routes (s : State) (r : Nat) : (s.wait r).routes = s.routes := rfl
@[simp] theorem State.wait_now (s : State) (r : Nat) : (s.wait r).now = s.now := rfl
@[simp] theorem State.wait_issuing (s : State) (r : Nat) : (s.wait r).issuing = s.issuing := rfl
@[simp] theorem State.wait_engine (s : State) (r : Nat) : (s.wait r).engine = s.engine := rfl
@[simp] theorem State.wait_agenda (s : State) (r : Nat) : (s.wait r).agenda = s.agenda := rfl
@[simp] theorem State.wait_draws (s : State) (r : Nat) : (s.wait r).draws = s.draws := rfl
@[simp] theorem State.wait_nextOp (s : State) (r : Nat) : (s.wait r).nextOp = s.nextOp := rfl

/-! ### State.setQueue -/

@[simp] theorem State.setQueue_cur (s : State) (i : Nat) (q : QueueRec) : (s.setQueue i q).cur = s.cur := rfl
@[simp] theorem State.setQueue_wv (s : State) (i : Nat) (q : QueueRec) : (s.setQueue i q).wv = s.wv := rfl
@[simp] theorem State.setQueue_waves (s : State) (i : Nat) (q : QueueRec) : (s.setQueue i q).waves = s.waves := rfl
@[simp] theorem State.setQueue_cores (s : State) (i : Nat) (q : QueueRec) : (s.setQueue i q).cores = s.cores := rfl
@[simp] theorem State.setQueue_clusters (s : State) (i : Nat) (q : QueueRec) : (s.setQueue i q).clusters = s.clusters := rfl
@[simp] theorem State.setQueue_gangs (s : State) (i : Nat) (q : QueueRec) : (s.setQueue i q).gangs = s.gangs := rfl
@[simp] theorem State.setQueue_net (s : State) (i : Nat) (q : QueueRec) : (s.setQueue i q).net = s.net := rfl
@[simp] theorem State.setQueue_ms (s : State) (i : Nat) (q : QueueRec) : (s.setQueue i q).ms = s.ms := rfl
@[simp] theorem State.setQueue_fe (s : State) (i : Nat) (q : QueueRec) : (s.setQueue i q).fe = { s.fe with queues := Map.set s.fe.queues i { q with ver := q.ver + 1, inval := true } } := rfl
@[simp] theorem State.setQueue_box (s : State) (i : Nat) (q : QueueRec) : (s.setQueue i q).box = s.box := rfl
@[simp] theorem State.setQueue_hostReply (s : State) (i : Nat) (q : QueueRec) : (s.setQueue i q).hostReply = s.hostReply := rfl
@[simp] theorem State.setQueue_host (s : State) (i : Nat) (q : QueueRec) : (s.setQueue i q).host = s.host := rfl
@[simp] theorem State.setQueue_health (s : State) (i : Nat) (q : QueueRec) : (s.setQueue i q).health = s.health := rfl
@[simp] theorem State.setQueue_ctxs (s : State) (i : Nat) (q : QueueRec) : (s.setQueue i q).ctxs = s.ctxs := rfl
@[simp] theorem State.setQueue_nopel (s : State) (i : Nat) (q : QueueRec) : (s.setQueue i q).nopel = s.nopel := rfl
@[simp] theorem State.setQueue_routes (s : State) (i : Nat) (q : QueueRec) : (s.setQueue i q).routes = s.routes := rfl
@[simp] theorem State.setQueue_now (s : State) (i : Nat) (q : QueueRec) : (s.setQueue i q).now = s.now := rfl
@[simp] theorem State.setQueue_issuing (s : State) (i : Nat) (q : QueueRec) : (s.setQueue i q).issuing = s.issuing := rfl
@[simp] theorem State.setQueue_engine (s : State) (i : Nat) (q : QueueRec) : (s.setQueue i q).engine = s.engine := rfl
@[simp] theorem State.setQueue_agenda (s : State) (i : Nat) (q : QueueRec) : (s.setQueue i q).agenda = s.agenda := rfl
@[simp] theorem State.setQueue_draws (s : State) (i : Nat) (q : QueueRec) : (s.setQueue i q).draws = s.draws := rfl
@[simp] theorem State.setQueue_nextOp (s : State) (i : Nat) (q : QueueRec) : (s.setQueue i q).nextOp = s.nextOp := rfl

/-! ### Parts by index -/

theorem State.core_setCore (s : State) (i j : Nat) (c : Core) : (s.setCore i c).core j = if j = i then c else s.core j :=
  Map.getD_set _ _ _ _ _

theorem State.cluster_setCluster (s : State) (i j : Nat) (c : Cluster) :
    (s.setCluster i c).cluster j = if j = i then c else s.cluster j := Map.getD_set _ _ _ _ _

theorem State.slice_setSlice (s : State) (i j : Nat) (x : Slice) :
    (s.setSlice i x).slice j = if j = i then x else s.slice j := Map.getD_set _ _ _ _ _

theorem State.port_setPort (s : State) (i j : Nat) (x : Port) :
    (s.setPort i x).port j = if j = i then x else s.port j := Map.getD_set _ _ _ _ _

theorem State.queue_setQueue (s : State) (i j : Nat) (q : QueueRec) :
    (s.setQueue i q).queue j = if j = i then { q with ver := q.ver + 1, inval := true } else s.queue j :=
  Map.getD_set _ _ _ _ _

@[simp] theorem State.core_withWv (s : State) (w : Wave) (i : Nat) : (s.withWv w).core i = s.core i := rfl
@[simp] theorem State.core_mapWv (s : State) (f : Wave → Wave) (i : Nat) : (s.mapWv f).core i = s.core i := rfl
@[simp] theorem State.core_advance (s : State) (n i : Nat) : (s.advance n).core i = s.core i := rfl
@[simp] theorem State.wave_cur (s : State) : s.wave s.cur = s.wv := if_pos rfl

/-- The wave of a slot after the wave of a slot has been set. -/
theorem State.wave_setWave_cur (s : State) (v : Wave) : (s.setWave s.cur v).wv = v := by
  simp [State.setWave]

@[simp] theorem State.setWave_cur (s : State) (w : WaveId) (v : Wave) : (s.setWave w v).cur = s.cur := by
  unfold State.setWave; split <;> rfl
@[simp] theorem State.setWave_cores (s : State) (w : WaveId) (v : Wave) : (s.setWave w v).cores = s.cores := by
  unfold State.setWave; split <;> rfl
@[simp] theorem State.setWave_ms (s : State) (w : WaveId) (v : Wave) : (s.setWave w v).ms = s.ms := by
  unfold State.setWave; split <;> rfl
@[simp] theorem State.setWave_net (s : State) (w : WaveId) (v : Wave) : (s.setWave w v).net = s.net := by
  unfold State.setWave; split <;> rfl
@[simp] theorem State.setWave_fe (s : State) (w : WaveId) (v : Wave) : (s.setWave w v).fe = s.fe := by
  unfold State.setWave; split <;> rfl
@[simp] theorem State.focus_ms (s : State) (w : WaveId) : (s.focus w).ms = s.ms := by unfold State.focus; split <;> rfl
@[simp] theorem State.focus_net (s : State) (w : WaveId) : (s.focus w).net = s.net := by unfold State.focus; split <;> rfl
@[simp] theorem State.focus_fe (s : State) (w : WaveId) : (s.focus w).fe = s.fe := by unfold State.focus; split <;> rfl
@[simp] theorem State.focus_cores (s : State) (w : WaveId) : (s.focus w).cores = s.cores := by
  unfold State.focus; split <;> rfl
@[simp] theorem State.logError_ms (s : State) (die cls synd : Nat) (g : Bool) (dom unit index reason : Nat) :
    (s.logError die cls synd g dom unit index reason).ms = s.ms := rfl
@[simp] theorem State.logError_wv (s : State) (die cls synd : Nat) (g : Bool) (dom unit index reason : Nat) :
    (s.logError die cls synd g dom unit index reason).wv = s.wv := rfl

/-! ### Halting and trapping: all that they can change of memory -/

@[simp] theorem State.haltAt_ms (s : State) (w : WaveId) (r : Nat) : (s.haltAt w r).ms = s.ms := by
  simp only [State.haltAt, State.logError_ms]; split <;> simp
@[simp] theorem State.halt_ms (s : State) (r : Nat) : (s.halt r).ms = s.ms := s.haltAt_ms _ _
@[simp] theorem State.trap_ms (s : State) (cause info : Nat) (f : Mask) (next tpc : VAddr) :
    (s.trap cause info f next tpc).ms = s.ms := by
  unfold State.trap; split
  · simp
  · dsimp only; split <;> simp
@[simp] theorem State.trapAll_ms (s : State) (cause info : Nat) : (s.trapAll cause info).ms = s.ms := s.trap_ms _ _ _ _ _

/-- A trap with a handler and room on the path stack: the wave as R407 leaves it, at its handler. -/
theorem State.trap_enters (s : State) (cause info : Nat) (f : Mask) (next tpc : VAddr)
    (h : s.wv.ctl.exec &&& ~~~f = 0 ∨ s.wv.ctl.path.length < 9) (ht : s.wv.csr.tvOff ≠ 0) :
    s.trap cause info f next tpc = (s.withWv (s.wv.enter cause info f next tpc)).mapWv (fun w =>
      { w.jump w.handlerPc with sched := { w.sched with notBefore := s.now + 6 } }) := by
  have hn : ¬(s.wv.ctl.exec &&& ~~~f ≠ 0 ∧ 9 ≤ s.wv.ctl.path.length) := by
    rintro ⟨h1, h2⟩; rcases h with h | h
    · exact h1 h
    · omega
  unfold State.trap; rw [if_neg hn]; dsimp only; rw [if_neg ht]

/-! ### Memory in its canonical form -/

theorem State.memoryKept_of_ms {s t : State} (h : t.ms = s.ms) (hs : s.memoryKept) : t.memoryKept := by
  unfold State.memoryKept; rw [h]; exact hs

/-- A write of bytes keeps the canonical form. -/
theorem State.memoryKept_write (s : State) (a : Nat) (bs : List Byte) (h : s.memoryKept) :
    (s.withMs { s.ms with mem := Memory.write s.ms.mem a bs }).memoryKept := Memory.wf_write bs _ _ h

theorem State.memoryKept_reset : State.reset.memoryKept := rfl

end Sys2Proof.Machine
end

