-- ==== Sys2Proof/Laws/Home.lean ====
section
/-! SUPPORT. What an access at its home does to memory, each said once: which operations leave memory as it was, and that
the others keep its canonical form. -/

namespace Sys2Proof.Machine

/-- Sending WINVs changes no byte of memory (R96). -/
theorem State.startWinv_ms (s : State) (slice dom line ts : Nat) (reply : Option Packet) :
    (s.startWinv slice dom line ts reply).ms = s.ms := rfl

/-- A line brought into its slice changes no byte of memory (R95). -/
theorem State.ensureLine_ms (s : State) (d : Dom) (pa key : Nat) : (s.ensureLine d pa key).ms = s.ms := by
  unfold State.ensureLine
  dsimp only
  repeat' split
  all_goals rfl

/-- Finding the way that serves an access changes no byte of memory (R95). -/
theorem State.lineFor_ms (s : State) (d : Dom) (pa key : Nat) (mt2 : Bool) : (s.lineFor d pa key mt2).1.ms = s.ms := by
  unfold State.lineFor
  dsimp only
  split
  · rfl
  · exact State.ensureLine_ms s d pa key

/-- Keeping a way, or giving it up, changes no byte of memory (R95). -/
theorem State.keepLine_ms (s : State) (d : Dom) (pa : Nat) (mt2 : Bool) (w : Way) : (s.keepLine d pa mt2 w).ms = s.ms := by
  unfold State.keepLine
  dsimp only
  split <;> rfl

/-- A read at the home changes no byte of memory (R135). -/
theorem State.homeRead_ms (s : State) (d : Dom) (key pa n ts : Nat) (mt2 : Bool) :
    (s.homeRead d key pa n ts mt2).1.ms = s.ms := by
  have hk := fun w => (State.keepLine_ms _ d pa mt2 w).trans (State.lineFor_ms s d pa key mt2)
  unfold State.homeRead
  dsimp only
  repeat' split
  all_goals first | rfl | exact hk _

/-- Writing a line keeps memory's canonical form. -/
theorem State.writeLine_wf (s : State) (k a : Nat) (bs : List Byte) (h : Memory.wf s.ms.mem = true) :
    Memory.wf (s.writeLine k a bs).ms.mem = true := by
  unfold State.writeLine
  refine Memory.wf_write _ _ _ ?_
  repeat' split
  all_goals first | exact h | exact Memory.wf_write _ _ _ h

/-- A write at the home keeps memory's canonical form (R135). -/
theorem State.homeWrite_wf (s : State) (d : Dom) (key pa n ts : Nat) (mt2 rmw : Bool) (new : List Byte → List Byte)
    (h : Memory.wf s.ms.mem = true) : Memory.wf (s.homeWrite d key pa n ts mt2 rmw new).1.ms.mem = true := by
  have hl := State.lineFor_ms s d pa key mt2
  unfold State.homeWrite
  dsimp only
  split
  · exact h
  · split
    · rw [State.keepLine_ms, hl]; exact h
    · refine State.writeLine_wf _ _ _ _ ?_
      rw [State.keepLine_ms]
      show Memory.wf (s.lineFor d pa key mt2).1.ms.mem = true
      rw [hl]; exact h

/-- A write by an engine keeps memory's canonical form (R96). -/
theorem State.engineWrite_wf (s : State) (d : Dom) (key pa ts : Nat) (mt2 : Bool) (bs : List Byte)
    (h : Memory.wf s.ms.mem = true) :
    Memory.wf (s.engineWrite d key pa ts mt2 bs).1.ms.mem = true := by
  have hw := State.homeWrite_wf s d key pa bs.length ts mt2 false (fun _ => bs) h
  unfold State.engineWrite
  dsimp only
  split
  · rw [State.startWinv_ms]; exact hw
  · exact hw

/-! ## Mixed size (R143) -/

/-- With no write that it may miss, an access reads the bytes that its home holds. -/
@[simp] theorem mixedBytes_nil (a c : Nat) (bs : List Byte) : mixedBytes [] a c bs = bs := by
  simp [mixedBytes, mixedByte, Nat.mod_one, List.zipIdx_map_fst]

/-- An access reads as many bytes as its home holds for it. -/
@[simp] theorem mixedBytes_length (es : List MonitorEntry) (a c : Nat) (bs : List Byte) :
    (mixedBytes es a c bs).length = bs.length := by
  simp [mixedBytes]

/-- An access misses only writes that stand after its reader's timestamp, and none 1,024 network cycles after it (R132,
R139). -/
theorem mem_missable {es : List MonitorEntry} {a n pts now : Nat} {e : MonitorEntry} (h : e ∈ missable es a n pts now) :
    e ∈ es ∧ pts < e.wts ∧ now < e.time + 1024 ∧ e.same a n = false := by
  have h1 := List.mem_takeWhile_imp h
  have h2 := (List.takeWhile_sublist _).subset h
  simp only [Bool.and_eq_true, Bool.not_eq_true', decide_eq_true_eq] at h1
  exact ⟨(List.mem_filter.mp h2).1, h1.1.2, h1.2, h1.1.1⟩

end Sys2Proof.Machine
end

