-- ==== Sys2Proof/Tests/Slice0.lean ====
section
/-! SUPPORT. The model's own tests: instruction words written from the encodings, ill-formed terms that the checks refuse,
states and operands that meet the premises of the statements, and single steps with the results of worked examples. -/
namespace Sys2Proof.Tests

open Sys2Proof.Machine

-- One theorem after another: every worker that waits for the kernel holds a stack.
set_option Elab.async false

/-- R29, R38, R61: control and window instructions. -/
theorem test_words_control :
    decodeTableWord 96 0x1C01 = some (.nop ⟨⟨7, false⟩, 0x0, 0x00, 0, true⟩) ∧
    decodeTableWord 64 0xFFFFFE2C04 = some (.bra ⟨⟨3, true⟩, 0xFFFFFE, 0x00, 0, false⟩) ∧
    decodeTableWord 64 0x2067FFFFF1C08 = some (.brq ⟨⟨7, false⟩, 0x7FFFFF, 0x06, 2, false⟩) ∧
    decodeTableWord 64 0x1070000051C0C = some (.brv ⟨⟨7, false⟩, 0x5, 0x07, 1, false⟩) ∧
    decodeTableWord 64 0x420000001C10 = some (.brx ⟨⟨7, false⟩, 0x0, 0x42, 0, false⟩) ∧
    decodeTableWord 64 0xFFFFFF1C14 = some (.call ⟨⟨7, false⟩, 0xFFFFFF, 0x00, 0, false⟩) ∧
    decodeTableWord 64 0x9E0000001C18 = some (.callx ⟨⟨7, false⟩, 0x0, 0x9E, 0, false⟩) ∧
    decodeTableWord 64 0x1C = some (.ret ⟨⟨0, false⟩, 0x0, 0x00, 0, false⟩) ∧
    decodeTableWord 64 0x70000091C20 = some (.jenrol ⟨⟨7, false⟩, 0x9, 0x07, 0, false⟩) ∧
    decodeTableWord 64 0x10000001C24 = some (.jpark ⟨⟨7, false⟩, 0x0, 0x01, 0, false⟩) ∧
    decodeTableWord 64 0x20000001C28 = some (.jstrike ⟨⟨7, false⟩, 0x0, 0x02, 0, false⟩) ∧
    decodeTableWord 64 0x1C2C = some (.exit ⟨⟨7, false⟩, 0x0, 0x00, 0, false⟩) ∧
    decodeTableWord 64 0xA50000001C34 = some (.sleep ⟨⟨7, false⟩, 0x0, 0xA5, 0, false⟩) ∧
    decodeTableWord 64 0x1C38 = some (.yield ⟨⟨7, false⟩, 0x0, 0x00, 0, false⟩) ∧
    decodeTableWord 64 0x1C3C = some (.etrig ⟨⟨7, false⟩, 0x0, 0x00, 0, false⟩) ∧
    decodeTableWord 64 0x3F000000001C44 = some (.trap ⟨⟨7, false⟩, 0x0, 0x00, 63, false⟩) ∧
    decodeTableWord 64 0x1C48 = some (.eret ⟨⟨7, false⟩, 0x0, 0x00, 0, false⟩) ∧
    decodeTableWord 64 0x385C = some (.bkpt ⟨⟨6, true⟩, 0x0, 0x00, 0, false⟩) := by decide +kernel

/-- R39, R61, R232, R376: waits, spawns, CSRs, bonds. -/
theorem test_words_system :
    decodeTableWord 128 0x3F03FFFF0000000000001C32 = some (.waitc ⟨⟨7, false⟩, 0x00, 0x00, 0x00, 0x00, 0, some 0x3F03FFFF⟩) ∧
    decodeTableWord 64 0x2624061C40 = some (.enq ⟨⟨7, false⟩, 0x06, 0x24, 0x26, 0x00, 0, none⟩) ∧
    decodeTableWord 64 0x1C4C = some (.bond ⟨⟨7, false⟩, 0x00, 0x00, 0x00, 0x00, 0, none⟩) ∧
    decodeTableWord 64 0x850 = some (.unbond ⟨⟨2, false⟩, 0x00, 0x00, 0x00, 0x00, 0, none⟩) ∧
    decodeTableWord 128 0x4300000000002A1C56 = some (.csrr ⟨⟨7, false⟩, 0x2A, 0x00, 0x00, 0x00, 0, some 0x43⟩) ∧
    decodeTableWord 128 0x12000200002B001C5A = some (.csrw ⟨⟨7, false⟩, 0x00, 0x2B, 0x00, 0x00, 2, some 0x12⟩) := by decide +kernel

/-- R32, R39, R61: uniform instructions. -/
theorem test_words_uniform :
    decodeTableWord 96 0xFFFFFFFF00050000B89F1C61 = some (.smov ⟨⟨7, false⟩, 0x9F, 0xB8, 0x00, 0x00, 5, 0, false, false, false, false, false, some 0xFFFFFFFF⟩) ∧
    decodeTableWord 64 0x20400AF22211C64 = some (.sadd ⟨⟨7, false⟩, 0x21, 0x22, 0xAF, 0x00, 4, 0, true, false, false, false, false, none⟩) ∧
    decodeTableWord 64 0x6002624221C68 = some (.ssub ⟨⟨7, false⟩, 0x22, 0x24, 0x26, 0x00, 6, 0, false, false, false, false, false, none⟩) ∧
    decodeTableWord 64 0x5002322211C6C = some (.smul ⟨⟨7, false⟩, 0x21, 0x22, 0x23, 0x00, 5, 0, false, false, false, false, false, none⟩) ∧
    decodeTableWord 64 0x4002322211C70 = some (.smulhi ⟨⟨7, false⟩, 0x21, 0x22, 0x23, 0x00, 4, 0, false, false, false, false, false, none⟩) ∧
    decodeTableWord 64 0x204232221201C74 = some (.smad ⟨⟨7, false⟩, 0x20, 0x21, 0x22, 0x23, 4, 0, true, false, false, false, false, none⟩) ∧
    decodeTableWord 64 0x4002322211C78 = some (.smin ⟨⟨7, false⟩, 0x21, 0x22, 0x23, 0x00, 4, 0, false, false, false, false, false, none⟩) ∧
    decodeTableWord 64 0x5002322211C7C = some (.smax ⟨⟨7, false⟩, 0x21, 0x22, 0x23, 0x00, 5, 0, false, false, false, false, false, none⟩) ∧
    decodeTableWord 128 0x960007282624221C82 = some (.slop3 ⟨⟨7, false⟩, 0x22, 0x24, 0x26, 0x28, 7, some 0x96⟩) ∧
    decodeTableWord 64 0x7002624221C84 = some (.sshl ⟨⟨7, false⟩, 0x22, 0x24, 0x26, 0x00, 7, 0, false, false, false, false, false, none⟩) ∧
    decodeTableWord 64 0x600A324221C88 = some (.sshr ⟨⟨7, false⟩, 0x22, 0x24, 0xA3, 0x00, 6, 0, false, false, false, false, false, none⟩) ∧
    decodeTableWord 64 0x4002322211C8C = some (.sbfe ⟨⟨7, false⟩, 0x21, 0x22, 0x23, 0x00, 4, 0, false, false, false, false, false, none⟩) ∧
    decodeTableWord 64 0x5242322211C90 = some (.sbfi ⟨⟨7, false⟩, 0x21, 0x22, 0x23, 0x24, 5, 0, false, false, false, false, false, none⟩) ∧
    decodeTableWord 64 0x7000022211C94 = some (.spopc ⟨⟨7, false⟩, 0x21, 0x22, 0x00, 0x00, 7, 0, false, false, false, false, false, none⟩) ∧
    decodeTableWord 64 0x5000022211C98 = some (.sclz ⟨⟨7, false⟩, 0x21, 0x22, 0x00, 0x00, 5, 0, false, false, false, false, false, none⟩) ∧
    decodeTableWord 64 0x2C002322061C9C = some (.scmp ⟨⟨7, false⟩, 0x06, 0x22, 0x23, 0x00, 44, 0, false, false, false, false, false, none⟩) ∧
    decodeTableWord 64 0x5072322211CA0 = some (.ssel ⟨⟨7, false⟩, 0x21, 0x22, 0x23, 0x07, 5, 0, false, false, false, false, false, none⟩) ∧
    decodeTableWord 128 0xE80000020107061CA6 = some (.qlop ⟨⟨7, false⟩, 0x06, 0x07, 0x01, 0x02, 0, some 0xE8⟩) := by decide +kernel

/-- R32, R39, R61: vector integer instructions, first half. -/
theorem test_words_vector :
    decodeTableWord 64 0x50000C01F18C0 = some (.vmov ⟨⟨6, false⟩, 0x1F, 0xC0, 0x00, 0x00, 5, 0, false, false, false, false, false, none⟩) ∧
    decodeTableWord 64 0x204000302011CC4 = some (.vadd ⟨⟨7, false⟩, 0x01, 0x02, 0x03, 0x00, 4, 0, true, false, false, false, false, none⟩) ∧
    decodeTableWord 64 0x5000302011CC8 = some (.vsub ⟨⟨7, false⟩, 0x01, 0x02, 0x03, 0x00, 5, 0, false, false, false, false, false, none⟩) ∧
    decodeTableWord 64 0x6000604021CCC = some (.vmul ⟨⟨7, false⟩, 0x02, 0x04, 0x06, 0x00, 6, 0, false, false, false, false, false, none⟩) ∧
    decodeTableWord 64 0x5000302011CD0 = some (.vmulhi ⟨⟨7, false⟩, 0x01, 0x02, 0x03, 0x00, 5, 0, false, false, false, false, false, none⟩) ∧
    decodeTableWord 64 0x4040302011CD4 = some (.vmad ⟨⟨7, false⟩, 0x01, 0x02, 0x03, 0x04, 4, 0, false, false, false, false, false, none⟩) ∧
    decodeTableWord 64 0x5000302011CD8 = some (.vmin ⟨⟨7, false⟩, 0x01, 0x02, 0x03, 0x00, 5, 0, false, false, false, false, false, none⟩) ∧
    decodeTableWord 64 0x4000302011CDC = some (.vmax ⟨⟨7, false⟩, 0x01, 0x02, 0x03, 0x00, 4, 0, false, false, false, false, false, none⟩) ∧
    decodeTableWord 64 0x206000004021CE0 = some (.vabs ⟨⟨7, false⟩, 0x02, 0x04, 0x00, 0x00, 6, 0, true, false, false, false, false, none⟩) ∧
    decodeTableWord 128 0xCA0005040302011CE6 = some (.vlop3 ⟨⟨7, false⟩, 0x01, 0x02, 0x03, 0x04, 5, some 0xCA⟩) ∧
    decodeTableWord 64 0x5000302011CE8 = some (.vshl ⟨⟨7, false⟩, 0x01, 0x02, 0x03, 0x00, 5, 0, false, false, false, false, false, none⟩) ∧
    decodeTableWord 64 0x4000302011CEC = some (.vshr ⟨⟨7, false⟩, 0x01, 0x02, 0x03, 0x00, 4, 0, false, false, false, false, false, none⟩) ∧
    decodeTableWord 64 0xD040302011CF0 = some (.vshf ⟨⟨7, false⟩, 0x01, 0x02, 0x03, 0x04, 13, 0, false, false, false, false, false, none⟩) ∧
    decodeTableWord 64 0x5000302011CF4 = some (.vbfe ⟨⟨7, false⟩, 0x01, 0x02, 0x03, 0x00, 5, 0, false, false, false, false, false, none⟩) ∧
    decodeTableWord 64 0x5040302011CF8 = some (.vbfi ⟨⟨7, false⟩, 0x01, 0x02, 0x03, 0x04, 5, 0, false, false, false, false, false, none⟩) ∧
    decodeTableWord 64 0x7000002011CFC = some (.vpopc ⟨⟨7, false⟩, 0x01, 0x02, 0x00, 0x00, 7, 0, false, false, false, false, false, none⟩) := by decide +kernel

/-- R32, R39, R61: vector integer instructions, second half. -/
theorem test_words_lanes :
    decodeTableWord 64 0x5000002011D00 = some (.vclz ⟨⟨7, false⟩, 0x01, 0x02, 0x00, 0x00, 5, 0, false, false, false, false, false, none⟩) ∧
    decodeTableWord 64 0x5000002011D04 = some (.vbrev ⟨⟨7, false⟩, 0x01, 0x02, 0x00, 0x00, 5, 0, false, false, false, false, false, none⟩) ∧
    decodeTableWord 64 0xD000302051D08 = some (.vcmp ⟨⟨7, false⟩, 0x05, 0x02, 0x03, 0x00, 13, 0, false, false, false, false, false, none⟩) ∧
    decodeTableWord 64 0x5060302011D0C = some (.vsel ⟨⟨7, false⟩, 0x01, 0x02, 0x03, 0x06, 5, 0, false, false, false, false, false, none⟩) ∧
    decodeTableWord 128 0xFF0000070201001D12 = some (.plop ⟨⟨7, false⟩, 0x00, 0x01, 0x02, 0x07, 0, some 0xFF⟩) ∧
    decodeTableWord 64 0x208040302011D14 = some (.vdot4 ⟨⟨7, false⟩, 0x01, 0x02, 0x03, 0x04, 8, 0, true, false, false, false, false, none⟩) ∧
    decodeTableWord 64 0x38000002011D18 = some (.vcvti ⟨⟨7, false⟩, 0x01, 0x02, 0x00, 0x00, 56, 0, false, false, false, false, false, none⟩) ∧
    decodeTableWord 64 0x1F000304021D1C = some (.vshfl ⟨⟨7, false⟩, 0x02, 0x04, 0x03, 0x00, 31, 0, false, false, false, false, false, none⟩) ∧
    decodeTableWord 64 0x5002302211D20 = some (.vrdlane ⟨⟨7, false⟩, 0x21, 0x02, 0x23, 0x00, 5, 0, false, false, false, false, false, none⟩) ∧
    decodeTableWord 64 0x5002322011D24 = some (.vwrlane ⟨⟨7, false⟩, 0x01, 0x22, 0x23, 0x00, 5, 0, false, false, false, false, false, none⟩) ∧
    decodeTableWord 64 0x7221D28 = some (.vballot ⟨⟨7, false⟩, 0x22, 0x07, 0x00, 0x00, 0, 0, false, false, false, false, false, none⟩) ∧
    decodeTableWord 64 0x2D000002211D2C = some (.vredux ⟨⟨7, false⟩, 0x21, 0x02, 0x00, 0x00, 45, 0, false, false, false, false, false, none⟩) ∧
    decodeTableWord 64 0x4000002011D30 = some (.vscan ⟨⟨7, false⟩, 0x01, 0x02, 0x00, 0x00, 4, 0, false, false, false, false, false, none⟩) := by decide +kernel

/-- R32, R61: floating-point instructions. -/
theorem test_words_float :
    decodeTableWord 64 0x582000302011D40 = some (.vfadd ⟨⟨7, false⟩, 0x01, 0x02, 0x03, 0x00, 2, 6, false, true, false, false, false, none⟩) ∧
    decodeTableWord 64 0x900000302011D44 = some (.vfmul ⟨⟨7, false⟩, 0x01, 0x02, 0x03, 0x00, 0, 4, false, false, true, false, false, none⟩) ∧
    decodeTableWord 64 0x3043080604021D48 = some (.vfma ⟨⟨7, false⟩, 0x02, 0x04, 0x06, 0x08, 3, 1, false, false, false, true, true, none⟩) ∧
    decodeTableWord 64 0x2000302011D4C = some (.vfmin ⟨⟨7, false⟩, 0x01, 0x02, 0x03, 0x00, 2, 0, false, false, false, false, false, none⟩) ∧
    decodeTableWord 64 0x1000302011D50 = some (.vfmax ⟨⟨7, false⟩, 0x01, 0x02, 0x03, 0x00, 1, 0, false, false, false, false, false, none⟩) ∧
    decodeTableWord 64 0x203A000302031D54 = some (.vfcmp ⟨⟨7, false⟩, 0x03, 0x02, 0x03, 0x00, 58, 0, false, false, false, false, true, none⟩) ∧
    decodeTableWord 64 0xC2000002011D58 = some (.vfrnd ⟨⟨7, false⟩, 0x01, 0x02, 0x00, 0x00, 2, 3, false, false, false, false, false, none⟩) ∧
    decodeTableWord 64 0x2000002011D5C = some (.vfclass ⟨⟨7, false⟩, 0x01, 0x02, 0x00, 0x00, 2, 0, false, false, false, false, false, none⟩) ∧
    decodeTableWord 64 0x354000002011D60 = some (.vcvt ⟨⟨7, false⟩, 0x01, 0x02, 0x00, 0x00, 20, 5, true, false, false, false, false, none⟩) ∧
    decodeTableWord 64 0x1040302011D64 = some (.vfma2 ⟨⟨7, false⟩, 0x01, 0x02, 0x03, 0x04, 1, 0, false, false, false, false, false, none⟩) ∧
    decodeTableWord 64 0xA040302011D68 = some (.vfdot2 ⟨⟨7, false⟩, 0x01, 0x02, 0x03, 0x04, 10, 0, false, false, false, false, false, none⟩) ∧
    decodeTableWord 64 0x82000302011D6C = some (.vfldexp ⟨⟨7, false⟩, 0x01, 0x02, 0x03, 0x00, 2, 2, false, false, false, false, false, none⟩) := by decide +kernel

/-- R32, R61: special functions and quantisation. -/
theorem test_words_special :
    decodeTableWord 64 0x2000002011D80 = some (.vrcp ⟨⟨7, false⟩, 0x01, 0x02, 0x00, 0x00, 2, 0, false, false, false, false, false, none⟩) ∧
    decodeTableWord 64 0x3000004021D84 = some (.vrsq ⟨⟨7, false⟩, 0x02, 0x04, 0x00, 0x00, 3, 0, false, false, false, false, false, none⟩) ∧
    decodeTableWord 64 0x102000002011D88 = some (.vsqrt ⟨⟨7, false⟩, 0x01, 0x02, 0x00, 0x00, 2, 4, false, false, false, false, false, none⟩) ∧
    decodeTableWord 64 0x1000002011D8C = some (.vexp2 ⟨⟨7, false⟩, 0x01, 0x02, 0x00, 0x00, 1, 0, false, false, false, false, false, none⟩) ∧
    decodeTableWord 64 0x1002000002011D90 = some (.vlog2 ⟨⟨7, false⟩, 0x01, 0x02, 0x00, 0x00, 2, 0, false, false, false, true, false, none⟩) ∧
    decodeTableWord 64 0x2011D94 = some (.vsin ⟨⟨7, false⟩, 0x01, 0x02, 0x00, 0x00, 0, 0, false, false, false, false, false, none⟩) ∧
    decodeTableWord 64 0x2000002011D98 = some (.vcos ⟨⟨7, false⟩, 0x01, 0x02, 0x00, 0x00, 2, 0, false, false, false, false, false, none⟩) ∧
    decodeTableWord 64 0x2000002011D9C = some (.vsinpi ⟨⟨7, false⟩, 0x01, 0x02, 0x00, 0x00, 2, 0, false, false, false, false, false, none⟩) ∧
    decodeTableWord 64 0x1000002011DA0 = some (.vcospi ⟨⟨7, false⟩, 0x01, 0x02, 0x00, 0x00, 1, 0, false, false, false, false, false, none⟩) ∧
    decodeTableWord 64 0x402000002011DA4 = some (.vtanh ⟨⟨7, false⟩, 0x01, 0x02, 0x00, 0x00, 2, 0, false, true, false, false, false, none⟩) ∧
    decodeTableWord 64 0x355040302011DC0 = some (.vqnt ⟨⟨7, false⟩, 0x01, 0x02, 0x03, 0x04, 21, 5, true, false, false, false, false, none⟩) ∧
    decodeTableWord 64 0x11000302011DC4 = some (.vdqnt ⟨⟨7, false⟩, 0x01, 0x02, 0x03, 0x00, 17, 0, false, false, false, false, false, none⟩) ∧
    decodeTableWord 64 0x204040302011DC8 = some (.vpack ⟨⟨7, false⟩, 0x01, 0x02, 0x03, 0x04, 4, 0, true, false, false, false, false, none⟩) ∧
    decodeTableWord 64 0x16000302011DCC = some (.vunpk ⟨⟨7, false⟩, 0x01, 0x02, 0x03, 0x00, 22, 0, false, false, false, false, false, none⟩) ∧
    decodeTableWord 96 0xB80002211DD1 = some (.vamax ⟨⟨7, false⟩, 0x21, 0x02, 0x00, 0xB8, 0, 0, false, false, false, false, false, some 0x0⟩) ∧
    decodeTableWord 64 0x7000504021DD4 = some (.vunp3 ⟨⟨7, false⟩, 0x02, 0x04, 0x05, 0x00, 7, 0, false, false, false, false, false, none⟩) ∧
    decodeTableWord 64 0x20D040302011DD8 = some (.vtdot4 ⟨⟨7, false⟩, 0x01, 0x02, 0x03, 0x04, 13, 0, true, false, false, false, false, none⟩) := by decide +kernel

/-- R36, R37, R61: memory instructions. -/
theorem test_words_memory :
    decodeTableWord 64 0xFFFC5B0022041E00 = some (.ld ⟨⟨7, false⟩, 0x04, 0x22, 0x00, 27, 1, 0xFFFC, none⟩) ∧
    decodeTableWord 96 0xFFFFFFFE000082B706001E05 = some (.st ⟨⟨7, false⟩, 0x00, 0x06, 0xB7, 2, 2, 0x0000, some 0xFFFFFFFE⟩) ∧
    decodeTableWord 64 0x2490002011E08 = some (.lds ⟨⟨7, false⟩, 0x01, 0x02, 0x00, 9, 1, 0x0002, none⟩) ∧
    decodeTableWord 64 0x800302001E0C = some (.sts ⟨⟨7, false⟩, 0x00, 0x02, 0x03, 0, 2, 0x0000, none⟩) ∧
    decodeTableWord 64 0x40022241E10 = some (.ldu ⟨⟨7, false⟩, 0x24, 0x22, 0x00, 4, 0, 0x0000, none⟩) ∧
    decodeTableWord 64 0x83A122001E14 = some (.stu ⟨⟨7, false⟩, 0x00, 0x22, 0xA1, 3, 2, 0x0000, none⟩) ∧
    decodeTableWord 64 0xFB0804021E18 = some (.atom ⟨⟨7, false⟩, 0x02, 0x04, 0x08, 59, 3, 0x0000, none⟩) ∧
    decodeTableWord 64 0xB20302001E1C = some (.red ⟨⟨7, false⟩, 0x00, 0x02, 0x03, 50, 2, 0x0000, none⟩) ∧
    decodeTableWord 64 0x4A0302011E20 = some (.atoms ⟨⟨7, false⟩, 0x01, 0x02, 0x03, 10, 1, 0x0000, none⟩) ∧
    decodeTableWord 64 0x100000001E24 = some (.fence ⟨⟨7, false⟩, 0x00, 0x00, 0x00, 16, 0, 0x0000, none⟩) ∧
    decodeTableWord 96 0x50000180002001E29 = some (.cctl ⟨⟨7, false⟩, 0x00, 0x02, 0x00, 24, 0, 0x0000, some 0x5⟩) ∧
    decodeTableWord 64 0x10140001041E2C = some (.ldb ⟨⟨7, false⟩, 0x04, 0x01, 0x00, 20, 0, 0x0010, none⟩) ∧
    decodeTableWord 64 0xA0201001E30 = some (.stb ⟨⟨7, false⟩, 0x00, 0x01, 0x02, 10, 0, 0x0000, none⟩) ∧
    decodeTableWord 64 0x9A03A0211E34 = some (.msend ⟨⟨7, false⟩, 0x21, 0xA0, 0x03, 26, 2, 0x0000, none⟩) := by decide +kernel

/-- R39, R61, R210: tensor copies and tags. -/
theorem test_words_copies :
    decodeTableWord 128 0x3F000A252422001E82 = some (.tcopy ⟨⟨7, false⟩, 0x00, 0x22, 0x24, 0x25, 10, some 0x3F⟩) ∧
    decodeTableWord 128 0x10000000011000012002422001E86 = some (.tcopym ⟨⟨7, false⟩, 0x00, 0x22, 0x24, 0x00, 18, some 0x1000000001100⟩) ∧
    decodeTableWord 64 0x22211E88 = some (.tshape ⟨⟨7, false⟩, 0x21, 0x22, 0x00, 0x00, 0, none⟩) ∧
    decodeTableWord 64 0x1000022001E8C = some (.tsfence ⟨⟨7, false⟩, 0x00, 0x22, 0x00, 0x00, 1, none⟩) ∧
    decodeTableWord 64 0x24221E90 = some (.twany ⟨⟨7, false⟩, 0x22, 0x24, 0x00, 0x00, 0, none⟩) ∧
    decodeTableWord 64 0x24001E94 = some (.twall ⟨⟨7, false⟩, 0x00, 0x24, 0x00, 0x00, 0, none⟩) ∧
    decodeTableWord 64 0x24211E98 = some (.tfirst ⟨⟨7, false⟩, 0x21, 0x24, 0x00, 0x00, 0, none⟩) ∧
    decodeTableWord 64 0xAF001E9C = some (.tclr ⟨⟨7, false⟩, 0x00, 0xAF, 0x00, 0x00, 0, none⟩) := by decide +kernel

/-- R39, R61, R310: array, residency and tile instructions. -/
theorem test_words_matrix :
    decodeTableWord 64 0xB0211EC0 = some (.aclaim ⟨⟨7, false⟩, 0x21, 0xB0, 0x00, 0x00, 0, none⟩) ∧
    decodeTableWord 64 0x22001EC4 = some (.afree ⟨⟨7, false⟩, 0x00, 0x22, 0x00, 0x00, 0, none⟩) ∧
    decodeTableWord 128 0x1200001000000211ECA = some (.walloc ⟨⟨7, false⟩, 0x21, 0x00, 0x00, 0x00, 1, some 0x120⟩) ∧
    decodeTableWord 64 0x2221001ECC = some (.wload ⟨⟨7, false⟩, 0x00, 0x21, 0x22, 0x00, 0, none⟩) ∧
    decodeTableWord 64 0x21001ED0 = some (.wpin ⟨⟨7, false⟩, 0x00, 0x21, 0x00, 0x00, 0, none⟩) ∧
    decodeTableWord 64 0x21001ED4 = some (.wunpin ⟨⟨7, false⟩, 0x00, 0x21, 0x00, 0x00, 0, none⟩) ∧
    decodeTableWord 64 0x21001ED8 = some (.wrevoke ⟨⟨7, false⟩, 0x00, 0x21, 0x00, 0x00, 0, none⟩) ∧
    decodeTableWord 64 0xA021221EDC = some (.wquery ⟨⟨7, false⟩, 0x22, 0x21, 0xA0, 0x00, 0, none⟩) ∧
    decodeTableWord 128 0xC08044000200002A001EE2 = some (.mloop ⟨⟨7, false⟩, 0x00, 0x2A, 0x00, 0x00, 2, some 0xC08044⟩) ∧
    decodeTableWord 64 0xAF001EE4 = some (.mzero ⟨⟨7, false⟩, 0x00, 0xAF, 0x00, 0x00, 0, none⟩) ∧
    decodeTableWord 128 0x4540000000002221001EEA = some (.mepi ⟨⟨7, false⟩, 0x00, 0x21, 0x22, 0x00, 0, some 0x454000⟩) ∧
    decodeTableWord 64 0xF002221001EEC = some (.mcorr ⟨⟨7, false⟩, 0x00, 0x21, 0x22, 0x00, 15, none⟩) := by decide +kernel

/-- R39, R61, R341: phasers, barrier, ring and stream queues. -/
theorem test_words_sync :
    decodeTableWord 64 0x1000022211F00 = some (.phnew ⟨⟨7, false⟩, 0x21, 0x22, 0x00, 0x00, 1, none⟩) ∧
    decodeTableWord 64 0x21001F04 = some (.phfree ⟨⟨7, false⟩, 0x00, 0x21, 0x00, 0x00, 0, none⟩) ∧
    decodeTableWord 64 0x3000021001F08 = some (.phreg ⟨⟨7, false⟩, 0x00, 0x21, 0x00, 0x00, 3, none⟩) ∧
    decodeTableWord 64 0x21001F0C = some (.phdrop ⟨⟨7, false⟩, 0x00, 0x21, 0x00, 0x00, 0, none⟩) ∧
    decodeTableWord 64 0xA021001F10 = some (.phsig ⟨⟨7, false⟩, 0x00, 0x21, 0xA0, 0x00, 0, none⟩) ∧
    decodeTableWord 64 0x2221201F14 = some (.phwait ⟨⟨7, false⟩, 0x20, 0x21, 0x22, 0x00, 0, none⟩) ∧
    decodeTableWord 64 0x2221201F18 = some (.phsw ⟨⟨7, false⟩, 0x20, 0x21, 0x22, 0x00, 0, none⟩) ∧
    decodeTableWord 64 0x2221001F1C = some (.phexp ⟨⟨7, false⟩, 0x00, 0x21, 0x22, 0x00, 0, none⟩) ∧
    decodeTableWord 64 0x1F20 = some (.bar ⟨⟨7, false⟩, 0x00, 0x00, 0x00, 0x00, 0, none⟩) ∧
    decodeTableWord 64 0x2322211F24 = some (.rwait ⟨⟨7, false⟩, 0x21, 0x22, 0x23, 0x00, 0, none⟩) ∧
    decodeTableWord 64 0x2221001F28 = some (.qpush ⟨⟨7, false⟩, 0x00, 0x21, 0x22, 0x00, 0, none⟩) ∧
    decodeTableWord 64 0x60022211F2C = some (.qpop ⟨⟨7, false⟩, 0x21, 0x22, 0x00, 0x06, 0, none⟩) ∧
    decodeTableWord 64 0xA721001F30 = some (.qmark ⟨⟨7, false⟩, 0x00, 0x21, 0xA7, 0x00, 0, none⟩) ∧
    decodeTableWord 64 0xA0211F34 = some (.qstat ⟨⟨7, false⟩, 0x21, 0xA0, 0x00, 0x00, 0, none⟩) ∧
    decodeTableWord 64 0x1F80 = some (.spillf ⟨⟨7, false⟩, 0x00, 0x00, 0x00, 0x00, 0, none⟩) ∧
    decodeTableWord 64 0x2784 = some (.fillf ⟨⟨1, true⟩, 0x00, 0x00, 0x00, 0x00, 0, none⟩) := by decide +kernel

/-! ## WellFormed: an ill-formed term for each check, which the check refuses -/

/-- The instruction is refused under 128 uniform registers, with the fault and the bit that R49 and R50 name. -/
def refusedAs (i : Instr) (k : DecodeKind) (n : Nat) : Bool :=
  !i.wf 128 && checkView 128 [] i.view == some ⟨k, n⟩

/-- No guard (R31). -/
def free : Guard := ⟨7, false⟩

/-- VADD.I32 v1, v2, v3. -/
def plainAdd : InsA := ⟨free, 1, 2, 3, 0, 4, 0, false, false, false, false, false, none⟩

/-- LD.B32 v4, [s2:s3]. -/
def plainLd : InsM := ⟨free, 4, 0x22, 0, 2, 0, 0, none⟩

/-- The fields of a format B instruction that uses none of them. -/
def plainB : InsB := ⟨free, 0, 0, 0, false⟩

/-- The fields of a format T instruction that uses none of them. -/
def plainT : InsT := ⟨free, 0, 0, 0, 0, 0, none⟩

theorem test_wf_accepts : [Instr.vadd plainAdd, .ld plainLd, .nop plainB, .bar plainT, .vfadd { plainAdd with fn := 2 }].all
    (fun i => i.wf 128) = true := by decide +kernel

/-- R31: PRED 7 with PN 1, in each format. -/
theorem test_wf_guard : refusedAs (.vadd { plainAdd with g := ⟨7, true⟩ }) .illegalField 13 ∧
    refusedAs (.ld { plainLd with g := ⟨7, true⟩ }) .illegalField 13 ∧
    refusedAs (.nop { plainB with g := ⟨7, true⟩ }) .illegalField 13 ∧
    refusedAs (.bar { plainT with g := ⟨7, true⟩ }) .illegalField 13 := by decide +kernel

/-- R47: an unused position that does not hold 0x00. -/
theorem test_wf_unused : refusedAs (.vadd { plainAdd with c := 1 }) .illegalField 40 ∧
    refusedAs (.vmov { plainAdd with fn := 5 }) .illegalField 32 ∧
    refusedAs (.st { plainLd with data := 4 }) .illegalField 16 ∧
    refusedAs (.ret { plainB with x := 1 }) .illegalField 40 ∧ refusedAs (.bar { plainT with a := 1 }) .illegalField 24 := by
  decide +kernel

/-- R34: RND 7, SR where it is not listed, and RND of an instruction that does not round. -/
theorem test_wf_rnd : refusedAs (.vfadd { plainAdd with fn := 2, rnd := 7 }) .illegalField 54 ∧
    refusedAs (.vfadd { plainAdd with fn := 2, rnd := 5 }) .illegalField 54 ∧
    refusedAs (.vadd { plainAdd with rnd := 1 }) .illegalField 54 := by decide +kernel

/-- R35: SAT, negation and absolute value where the instruction does not list them. -/
theorem test_wf_modifiers : refusedAs (.vmin { plainAdd with sat := true }) .illegalField 57 ∧
    refusedAs (.vadd { plainAdd with na := true }) .illegalField 58 ∧
    refusedAs (.vfldexp { plainAdd with fn := 2, nb := true }) .illegalField 59 ∧
    refusedAs (.vadd { plainAdd with aa := true }) .illegalField 60 ∧
    refusedAs (.vadd { plainAdd with ab := true }) .illegalField 61 := by decide +kernel

/-- R33: a literal word that no operand reads, and a literal code without the word. -/
theorem test_wf_literal : refusedAs (.vadd { plainAdd with lit := some 1 }) .illegalField 64 ∧
    refusedAs (.vadd { plainAdd with a := 0xB8 }) .illegalOpnd 24 ∧
    (Instr.vadd { plainAdd with a := 0xB8, lit := some 1 }).wf 128 = true ∧
    (Instr.vadd { plainAdd with lit := some 0 }).wf 128 = true := by decide +kernel

/-- R37, R40, R61: the orderings, the offset beside an extension word, a length the opcode does not have. -/
theorem test_wf_memory_fields : refusedAs (.ld { plainLd with so := 2 }) .illegalField 46 ∧
    refusedAs (.ld { plainLd with off := 1, ext := some 4 }) .illegalField 48 ∧
    refusedAs (.fence { plainLd with d := 0, addr := 0, fn := 0, off := 1 }) .illegalField 48 ∧
    refusedAs (.fence { plainLd with d := 0, addr := 0, fn := 0, ext := some 0 }) .illegalField 0 ∧
    refusedAs (.st { plainLd with d := 0, data := 4, so := 3 }) .illegalField 46 := by decide +kernel

/-- R38, R40: a target where none is taken, and the 96-bit form of another instruction than NOP. -/
theorem test_wf_branch_fields : refusedAs (.brx { plainB with x := 0x22, rel := 1 }) .illegalField 16 ∧
    refusedAs (.bra { plainB with wide := true }) .illegalField 0 ∧ refusedAs (.jpark { plainB with x := 8 }) .illegalOpnd 40 := by
  decide +kernel

/-- R39, R40, R210, R310, R376: the length of the 128-bit group, and the fields of W1. -/
theorem test_wf_w1 : refusedAs (.waitc plainT) .illegalField 0 ∧ refusedAs (.bar { plainT with w1 := some 0 }) .illegalField 0 ∧
    refusedAs (.waitc { plainT with w1 := some (2 ^ 30) }) .illegalField 94 ∧
    refusedAs (.csrr { plainT with d := 0x20, w1 := some 0x003 }) .illegalField 64 ∧
    refusedAs (.qlop { plainT with w1 := some 0x100 }) .illegalField 72 ∧
    refusedAs (.tcopy { plainT with a := 0x22, b := 0x24, w1 := some 0x40 }) .illegalField 70 ∧
    refusedAs (.walloc { plainT with d := 0x20, w1 := some 33 }) .illegalField 64 ∧
    refusedAs (.mloop { plainT with a := 0x20, w1 := some 0 }) .illegalField 79 ∧
    refusedAs (.mepi { plainT with a := 0x20, w1 := some (7 * 2 ^ 14) }) .illegalField 78 := by decide +kernel

/-- R49 order 6, R50: a sub-function that is not listed, with the lowest bit of FN in its format. -/
theorem test_wf_fn : refusedAs (.vadd { plainAdd with fn := 3 }) .illegalFn 48 ∧
    refusedAs (.ld { plainLd with fn := 5 }) .illegalFn 40 ∧ refusedAs (.brq { plainB with fn := 3 }) .illegalFn 48 ∧
    refusedAs (.bar { plainT with fn := 1 }) .illegalFn 48 := by decide +kernel

/-- R42, R44 to R46, R236: kinds of operand, alignment, and the wave's own uniform registers. -/
theorem test_wf_operands : refusedAs (.vadd { plainAdd with d := 0x20 }) .illegalOpnd 16 ∧
    refusedAs (.vadd { plainAdd with a := 0xC9 + 7 }) .illegalOpnd 24 ∧
    refusedAs (.vadd { plainAdd with d := 2, a := 3, b := 4, fn := 7 }) .illegalOpnd 24 ∧
    refusedAs (.vcmp { plainAdd with d := 7 }) .illegalOpnd 16 ∧
    refusedAs (.ld { plainLd with addr := 0x23 }) .illegalOpnd 24 ∧
    refusedAs (.ld { plainLd with d := 2, fn := 4 }) .illegalOpnd 16 ∧
    (Instr.vadd { plainAdd with a := 0x29 }).wf 10 = true ∧ (Instr.vadd { plainAdd with a := 0x2A }).wf 10 = false := by
  decide +kernel

/-- R30, R32, R38, R39, R62, R26, R49: what no field keeps is refused by the decoder: reserved bits, lengths, opcodes,
LEN 3, and an instruction that does not lie inside its fetch window. -/
theorem test_decode_refuses :
    decode 128 0 (leBytes 8 0x5C00) = .error ⟨.illegalField, 14⟩ ∧
    decode 128 0 (leBytes 16 (0x4004000302011CC4)) = .error ⟨.illegalField, 62⟩ ∧
    decode 128 0 (leBytes 8 (2 ^ 54 + 0x1C00)) = .error ⟨.illegalField, 54⟩ ∧
    decode 128 0 (leBytes 12 (2 ^ 64 + 0x1C01)) = .error ⟨.illegalField, 64⟩ ∧
    decode 128 0 (leBytes 16 0x1CC6) = .error ⟨.illegalField, 0⟩ ∧
    decode 128 0 (leBytes 8 (4 * 0x2A)) = .error ⟨.illegalOp, 0⟩ ∧
    decode 128 0 (leBytes 8 3) = .error ⟨.illegalLength, 0⟩ ∧
    decode 128 24 (leBytes 12 0x1C01) = .error ⟨.fetchAlign, 0⟩ ∧ decode 128 2 (leBytes 8 0x1C00) = .error ⟨.fetchAlign, 0⟩ := by
  decide +kernel

/-- R423, R75, R97: an occurrence of an event names something that the package has. -/
theorem test_wf_events : [Instr.impreciseTrap ⟨4096, 0⟩, .waveEnd ⟨0, 8⟩, .sliceRd 512 0, .portRdata 1024 0, .phaserByteAdd 256 0,
    .copyRecordStage 4096, .laneBind 2 0, .nopelReplay 16, .channelGroupFailure 128, .eventOverflowFlush 16].all
      (fun i => !i.wf 128) = true ∧
    [Instr.impreciseTrap ⟨4095, 7⟩, .sliceRd 511 0, .portRdata 1023 0, .nopelReplay 15, .issueCycle, .coldReset].all
      (fun i => i.wf 128) = true := by decide +kernel

/-- R49: the encoding of an event is none, and every other instruction is read back from its word. -/
theorem test_encode : encode .issueCycle = none ∧ encode (.vadd plainAdd) = some (leBytes 8 0x0004000302011CC4) ∧
    decode 128 0 (leBytes 8 0x0004000302011CC4) = .ok (.vadd plainAdd) := by decide +kernel

/-! ## Witnesses: states and operands that meet the premises of the statements, clause by clause -/

/-- A small state: one live wave of 64 threads in slot 0 of core 0 at address 0, its lanes all running, its handler at
offset 1, identity translation for the first page, and key slot 0 loaded for domain 0. -/
def small (nbits w : Nat) : State :=
  (State.reset.withFetchWord nbits w).mapWv (fun v => { v with
    ctl := { v.ctl with exec := BitVec.allOnes 64 }
    csr := { v.csr with tvOff := 0x10 }
    sched := { v.sched with inSet := true } })

/-- The same with no instruction placed. -/
def idle : State := small 64 0

/-- A property of the bits of a mask follows from its instances below 64. -/
theorem mask_bits (m : Mask) (p : Nat → Prop) (h : ∀ i : Fin 64, m.getLsbD i = true → p i) :
    ∀ t, m.getLsbD t = true → p t := by
  intro t ht
  have : t < 64 := by
    rcases Nat.lt_or_ge t 64 with h1 | h1
    · exact h1
    · rw [BitVec.getLsbD_of_ge _ _ h1] at ht; exact absurd ht (by decide)
  exact h ⟨t, this⟩ ht

/-- VADD.I32 v1, v2, v3 as it is fetched: its first half-word 1CC4, its fields, and zeros. -/
def vaddWord : Nat := 0x0004000302011CC4

theorem witness_step_imprecise : ∃ (s : State) (w : WaveId) (rest : List WaveId) (u : State),
    s.issuing = w :: rest ∧ u = { s with issuing := rest }.focus w ∧ u.wv.running = true ∧ u.wv.waits.ending = false ∧
      (u.wv.impKey.isSome || u.wv.impMixed.isSome) = true :=
  ⟨idle.mapWv (fun v => { v with impKey := some 5 }), ⟨0, 0⟩, [], _, rfl, rfl, by decide +kernel⟩

/-- The line of the instruction cache that holds the instruction of a small state. -/
def placedLine (w : Nat) : ILine := ⟨0, 0, 0, leBytes 16 w ++ List.replicate 112 0, 0⟩

theorem witness_step_decoded : ∃ (s : State) (w : WaveId) (rest : List WaveId) (u : State) (e : TlbEntry) (u1 : State)
    (l : ILine) (bs : List Byte) (i : Instr),
    s.issuing = w :: rest ∧ u = { s with issuing := rest }.focus w ∧ u.wv.running = true ∧ u.wv.waits.ending = false ∧
      u.wv.impKey = none ∧ u.wv.impMixed = none ∧ u.find u.wv.ctl.pc.toNat 3 = (.ok e, u1) ∧
      u1.myCore.icache.find? (fun v => v.line == e.phys u.wv.ctl.pc.toNat / 128 && v.key == e.key) = some l ∧ l.opx % 2 = 0 ∧
      bs = (l.bytes.drop (e.phys u.wv.ctl.pc.toNat % 128)).take (windowLen u.wv.ctl.pc.toNat) ∧
      decode u1.wv.ident.scalars u.wv.ctl.pc.toNat bs = .ok i ∧ u1.wv.parity = [] := by
  let s := small 64 vaddWord
  have h : let u : State := { s with issuing := [] }.focus ⟨0, 0⟩
      u.wv.running = true ∧ u.wv.waits.ending = false ∧ u.wv.impKey = none ∧ u.wv.impMixed = none ∧
      (u.find u.wv.ctl.pc.toNat 3).1 = .ok fetchEntry ∧
      (u.find u.wv.ctl.pc.toNat 3).2.myCore.icache.find? (fun v => v.line == fetchEntry.phys u.wv.ctl.pc.toNat / 128 &&
        v.key == fetchEntry.key) = some (placedLine vaddWord) ∧
      decode (u.find u.wv.ctl.pc.toNat 3).2.wv.ident.scalars u.wv.ctl.pc.toNat (leBytes 16 vaddWord ++ List.replicate 16 0) =
        .ok (.vadd plainAdd) ∧ (u.find u.wv.ctl.pc.toNat 3).2.wv.parity = [] := by decide +kernel
  exact ⟨s, ⟨0, 0⟩, [], _, fetchEntry, _, _, _, _, rfl, rfl, h.1, h.2.1, h.2.2.1, h.2.2.2.1, Prod.ext h.2.2.2.2.1 rfl,
    h.2.2.2.2.2.1, rfl, rfl, h.2.2.2.2.2.2.1, h.2.2.2.2.2.2.2⟩

/-- With a decode fault: opcode 2A is reserved (R62); and with a misaligned PC. -/
theorem witness_step_decode_faults : ∀ q ∈ [(0, 4 * 0x2A, DecodeKind.illegalOp), (2, vaddWord, DecodeKind.fetchAlign)],
    let u := ((small 64 q.2.1).mapWv (fun v => { v with ctl := { v.ctl with pc := BitVec.ofNat 57 q.1 } })).focus ⟨0, 0⟩
    u.wv.running = true ∧ u.wv.waits.ending = false ∧ u.wv.impKey = none ∧ u.wv.impMixed = none ∧
      (u.find q.1 3).1 = .ok fetchEntry ∧
      (u.find q.1 3).2.myCore.icache.find? (fun v => v.line == fetchEntry.phys q.1 / 128 && v.key == fetchEntry.key) =
        some (placedLine q.2.1) ∧
      ∃ bs, bs = ((placedLine q.2.1).bytes.drop (fetchEntry.phys q.1 % 128)).take (windowLen q.1) ∧
        decode (u.find q.1 3).2.wv.ident.scalars q.1 bs = .error ⟨q.2.2, 0⟩ := by
  intro q hq
  fin_cases hq
  · exact ⟨by decide +kernel, by decide +kernel, rfl, rfl, by decide +kernel, by decide +kernel, _, rfl, by decide +kernel⟩
  · exact ⟨by decide +kernel, by decide +kernel, rfl, rfl, by decide +kernel, by decide +kernel, _, rfl, by decide +kernel⟩

/-- With a walk that found no translation: sub-code 2 at level 3 is recorded for the fetch of page 5. -/
theorem witness_step_fetch_fault :
    let u := (idle.mapWv (fun v => { v with ctl := { v.ctl with pc := 0x5000 }, answers := [⟨5, 3, .sub 2 3⟩] })).focus ⟨0, 0⟩
    u.wv.running = true ∧ u.wv.waits.ending = false ∧ u.wv.impKey = none ∧ u.wv.impMixed = none ∧
      (u.find u.wv.ctl.pc.toNat 3).1 = .fault (.sub 2 3) := by decide +kernel

/-- With nothing to issue and an event due. -/
theorem witness_step_event : ∃ (s : State) (e : Instr) (rest : List Instr),
    s.issuing = [] ∧ s.agenda = e :: rest ∧ e.view = .event := ⟨{ State.reset with agenda := [.issueCycle] }, _, [], rfl, rfl, rfl⟩

/-- With nothing to issue and nothing due, as after reset. -/
theorem witness_step_free : State.reset.issuing = [] ∧ State.reset.agenda = [] := by decide +kernel

/-- The premises of DecodeEncode, at the last place of the fetch window where the instruction fits. -/
theorem witness_decode_encode : (Instr.vadd plainAdd).wf 128 = true ∧
    encode (.vadd plainAdd) = some (leBytes 8 vaddWord) ∧ (24 : Nat) % 4 = 0 ∧ 24 % 32 + (leBytes 8 vaddWord).length ≤ 32 ∧
    (Instr.vadd plainAdd).view ≠ .event := by decide +kernel

/-- The premises of MemoryKept: memory of the small state, which steps on. -/
theorem witness_memory_kept : ∃ s t, State.memoryKept s ∧ step s = .next t :=
  ⟨{ idle with issuing := [], agenda := [.throttling 3] }, _, by unfold State.memoryKept; decide +kernel, rfl⟩

/-- FailedUniformGuardOnlyAdvances: guard q0, which is false; and !q1 with q1 true. -/
theorem witness_failed_guard : idle.wv.guardUni ⟨0, false⟩ = false ∧
    (idle.mapWv (fun v => { v with q := [(1, true)] })).wv.guardUni ⟨1, true⟩ = false ∧
    (Instr.sadd { plainAdd with g := ⟨0, false⟩ }, (⟨0, false⟩ : Guard), 8) ∈
      guardedRows { plainAdd with g := ⟨0, false⟩ } plainB plainT := by decide +kernel

/-- The statements whose only premise is that the uniform guard holds: no guard, and a guard q6 that is true. -/
theorem witness_guard : idle.wv.guardUni free = true ∧
    (idle.mapWv (fun v => { v with q := [(6, true)] })).wv.guardUni ⟨6, false⟩ = true ∧
    (Instr.sclz plainAdd, 13, 32, 32, 32, 32) ∈ uniformRows plainAdd ∧
    (Instr.vcvti plainAdd, 18, intWidth (fnHi plainAdd.fn), 32, 32, regWidth (InsA_width plainAdd)) ∈ vectorRows plainAdd := by
  decide +kernel

/-- CrossLaneResults: a predicate that agrees with its shadow in a protected wave. -/
theorem witness_ballot : (idle.mapWv (fun v => { v with csr := { v.csr with prot := true } })).wv.shadowDiffers 3
    ((idle.mapWv (fun v => { v with csr := { v.csr with prot := true } })).wv.activeMask free) = false := by decide +kernel

/-- FloatResults: thread 63 is active and its operand A, register v2 of .F32, holds a NaN. -/
theorem witness_nan :
    let f : InsA := { plainAdd with fn := 2 }
    let s := idle.mapWv (fun v => { v with win := { v.win with frames := [(0, ⟨0, [(2, List.replicate 64 0x7FC00001)]⟩)] } });
    (63 : Nat) < 64 ∧ s.wv.activeLane f.g 63 = true ∧ (s.fA f (fnLo f.fn) 63).isNan = true ∧ fmtWidth (fnLo f.fn) ≤ 32 ∧
      Instr.vfma f ∈ ([.vfadd f, .vfmul f, .vfma f] : List Instr) ∧
      (Instr.vfadd f, fmtWidth (fnLo f.fn)) ∈ (floatRows f s).map (fun r => (r.1, r.2.1)) := by decide +kernel

/-- ConversionsAndTernary: an active thread whose byte is the last T5 code, and one whose byte is no code; the rows. -/
theorem witness_trits : ∀ x ∈ [(242 : Nat), 243],
    let g : InsA := { plainAdd with fn := 7, d := 2, a := 2, b := 0xA0 }
    let s := idle.mapWv (fun v => { v with win := { v.win with frames := [(0, ⟨0, [(2, List.replicate 64 (BitVec.ofNat 32 x))]⟩)] } });
    (0 : Nat) < 64 ∧ s.wv.activeLane g.g 0 = true ∧
      (s.src g.lit (.bits 32) g.a 0 / 2 ^ (8 * (s.src g.lit (.bits 32) g.b 0 % 4)) % 256 = x) ∧
      (Instr.vtdot4 g, 32, false) ∈ (conversionRows g s).map (fun r => (r.1, r.2.1, r.2.2.1)) ∧
      Instr.vtanh g ∈ (specialRows g).map (fun r => r.1) := by decide +kernel

/-- The results of the special functions: beyond the largest finite .F32, tiny under FTZ, and in between. -/
theorem witness_deliver :
    (⟨false, 1, 1, 200⟩ : Enclosure).tooLarge 2 = true ∧
    (⟨false, 1, 1, -140⟩ : Enclosure).tooLarge 2 = false ∧ (⟨false, 1, 1, -140⟩ : Enclosure).tiny 2 = true ∧
    (⟨false, 1, 1, 0⟩ : Enclosure).tooLarge 2 = false ∧ (⟨false, 1, 1, 0⟩ : Enclosure).tiny 2 = false ∧
    deliverable 2 1 ⟨false, 1, 1, 0⟩ true ≠ [] := by decide +kernel

/-- BranchesMovePc: threads vote with p1, which only thread 5 holds: BRQ.ANY is taken, BRQ.ALL and BRQ.NONE are not. -/
def voting : State := idle.mapWv (fun v => { v with p := [(1, 0x20)] })

theorem voting_votes : ∀ t, voting.wv.votesFor 1 t ↔ t = 5 := by
  intro t
  constructor
  · rintro ⟨h1, h2, h3⟩
    have h : ∀ i : Fin 64, voting.wv.getP 1 (voting.wv.lane i) = true → i.val = 5 := by decide +kernel
    have h64 : t < 64 := by
      have : voting.wv.threads = 64 := by decide +kernel
      omega
    exact h ⟨t, h64⟩ h3
  · rintro rfl
    exact ⟨by decide +kernel, by decide +kernel, by decide +kernel⟩

theorem witness_brq : voting.wv.shadowDiffers 1 voting.wv.ctl.exec = false ∧ voting.wv.brqTaken 0 1 ∧
    ¬ voting.wv.brqTaken 1 1 ∧ ¬ voting.wv.brqTaken 2 1 := by
  refine ⟨by decide +kernel, ⟨5, (voting_votes 5).2 rfl⟩, fun h => ?_, fun h => h 5 ((voting_votes 5).2 rfl)⟩
  exact absurd ((voting_votes 6).1 (h 6 (by decide +kernel))) (by decide)

/-- BRV: both sides hold threads, with room for the path and with eight pending; all threads on one side (p7, !p7). -/
theorem witness_brv : voting.wv.guardUni free = true ∧ voting.wv.shadowDiffers 1 voting.wv.ctl.exec = false ∧
    (∀ l, l < 64 → ((0x20 : Mask).getLsbD l = true ↔ voting.wv.ctl.exec.getLsbD l = true ∧ voting.wv.votesFor 1 l)) ∧
    (∀ l, l < 64 → ((0xFFFFFFFFFFFFFFDF : Mask).getLsbD l = true ↔
      voting.wv.ctl.exec.getLsbD l = true ∧ (0x20 : Mask).getLsbD l = false)) ∧
    (voting.mapWv (fun v => { v with ctl := { v.ctl with path := List.replicate 8 ⟨0, 1⟩ } })).wv.ctl.path.length = 8 := by
  refine ⟨by decide +kernel, by decide +kernel, fun l hl => ?_, fun l hl => ?_, by decide +kernel⟩
  · rw [voting_votes]
    have h : ∀ i : Fin 64, ((0x20 : Mask).getLsbD i = true ↔ voting.wv.ctl.exec.getLsbD i = true ∧ i.val = 5) := by decide +kernel
    exact h ⟨l, hl⟩
  · have h : ∀ i : Fin 64, ((0xFFFFFFFFFFFFFFDF : Mask).getLsbD i = true ↔
      voting.wv.ctl.exec.getLsbD i = true ∧ (0x20 : Mask).getLsbD i = false) := by decide +kernel
    exact h ⟨l, hl⟩

/-- A wave of lanes 0 to 3 of which `e` run, with the rejoin mask j0 = `j` and the paths `ps` pending. -/
def parked (e : Mask) (j : Join) (ps : List PathEntry) : State :=
  idle.mapWv (fun v => { v with ctl := { v.ctl with exec := e, joins := [(0, j)], path := ps } })

/-- Eight paths pending. -/
def eight : List PathEntry := List.replicate 8 ⟨0x40, 0x100⟩

/-- RejoinsAndExit, clause by clause. JENROL: no lane has arrived, and one has. JPARK: all arrived, alone and with other
lanes at seven and at eight pending paths; not all, with other lanes, with a path to run, and with none. -/
theorem witness_rejoin :
    ((parked 3 ⟨3, 0, 0⟩ []).wv.join 0).arrived = 0 ∧ ((parked 3 ⟨7, 4, 0⟩ []).wv.join 0).arrived ≠ 0 ∧
    (let s := parked 3 ⟨7, 4, 8⟩ []
      let c := s.wv.ctl
      let j := s.wv.join 0;
      c.exec &&& j.mask ≠ 0 ∧ (j.arrived ||| (c.exec &&& j.mask)) = j.mask ∧ c.exec &&& ~~~j.mask = 0) ∧
    (∀ n ∈ [7, 8], let s := parked 0xF ⟨7, 0, 8⟩ (eight.take n)
      let c := s.wv.ctl
      let j := s.wv.join 0;
      c.exec &&& j.mask ≠ 0 ∧ (j.arrived ||| (c.exec &&& j.mask)) = j.mask ∧ c.exec &&& ~~~j.mask ≠ 0 ∧ c.path.length = n) ∧
    (let s := parked 0xF ⟨0x13, 0, 8⟩ [];
      (s.wv.join 0).arrived ||| (s.wv.ctl.exec &&& (s.wv.join 0).mask) ≠ (s.wv.join 0).mask ∧
        s.wv.ctl.exec &&& ~~~(s.wv.join 0).mask ≠ 0) ∧
    (∀ n ∈ [0, 1], let s := parked 3 ⟨0x13, 0, 8⟩ (eight.take n);
      (s.wv.join 0).arrived ||| (s.wv.ctl.exec &&& (s.wv.join 0).mask) ≠ (s.wv.join 0).mask ∧
        s.wv.ctl.exec &&& ~~~(s.wv.join 0).mask = 0 ∧ s.wv.ctl.path.length = n) := by decide +kernel

/-- JSTRIKE: nobody waits; those left have all arrived, at seven and at eight pending paths. EXIT: a path is pending, none
is and nobody waits, none is while a lane waits, and nine would be pending. -/
theorem witness_strike_exit :
    ((parked 3 ⟨7, 0, 0⟩ []).wv.join 0).arrived = 0 ∧
    (∀ n ∈ [7, 8], let s := parked 3 ⟨7, 4, 8⟩ (eight.take n);
      (s.wv.join 0).arrived ≠ 0 ∧ (s.wv.join 0).arrived = (s.wv.join 0).mask &&& ~~~s.wv.ctl.exec ∧ s.wv.ctl.path.length = n) ∧
    (let s := parked 3 ⟨7, 4, 8⟩ (eight.take 7);
      (s.wv.rejoined.reverse ++ s.wv.ctl.path).length = 8) ∧
    (let s := parked 3 ⟨7, 0, 8⟩ [];
      s.wv.rejoined.reverse ++ s.wv.ctl.path = [] ∧ s.wv.rejoined = [] ∧ ∀ e ∈ s.wv.ctl.joins, e.2.arrived &&& ~~~s.wv.ctl.exec = 0) ∧
    (let s := parked 3 ⟨0x17, 4, 8⟩ [];
      s.wv.rejoined.reverse ++ s.wv.ctl.path = [] ∧ s.wv.rejoined = [] ∧ ∃ e ∈ s.wv.ctl.joins, e.2.arrived &&& ~~~s.wv.ctl.exec ≠ 0) ∧
    (let s := parked 3 ⟨7, 4, 8⟩ eight;
      8 < (s.wv.rejoined.reverse ++ s.wv.ctl.path).length ∧ s.wv.rejoined ≠ []) := by decide +kernel

/-- WaitsOfAWave: every counter at its limit, with no tile fault pending, with one that the limit lets pass, and with one
that it requires. -/
theorem witness_waitc :
    let f : InsT := { plainT with w1 := some 0x41041041 }
    let s := idle.mapWv (fun v => { v with cnt := ⟨1, 1, 1, 1, 1⟩, tlIssued := 1 })
    let u := fun n => s.mapWv (fun v => { v with tile := some ⟨0x33, 0, n⟩ });
    s.wv.cnt.ld ≤ w1Of f % 64 ∧ s.wv.cnt.st ≤ w1Of f / 2 ^ 6 % 64 ∧ s.wv.cnt.cp ≤ w1Of f / 2 ^ 12 % 64 ∧
      s.wv.cnt.tl ≤ w1Of f / 2 ^ 18 % 64 ∧ s.wv.cnt.ms ≤ w1Of f / 2 ^ 24 % 64 ∧ s.wv.tile = none ∧
      (∀ t, (u 1).wv.tile = some t → (u 1).wv.tlIssued < t.order + w1Of f / 2 ^ 18 % 64) ∧
      (∃ t, (u 0).wv.tile = some t ∧ t.order + w1Of f / 2 ^ 18 % 64 ≤ (u 0).wv.tlIssued) := by
  refine ⟨by decide, by decide, by decide, by decide, by decide, rfl, fun t h => ?_, ⟨_, rfl, by decide⟩⟩
  cases h; decide

/-- TriggerAndSpawn: nothing outstanding; a wave that has triggered; a count of 0 and one of 1. -/
theorem witness_trigger : idle.wv.trig = none ∧ idle.releaseDone = true ∧ idle.writesDone = true ∧
    (idle.mapWv (fun v => { v with trig := some 7 })).wv.trig = some 7 ∧
    idle.srcU none 32 (0xA0 : BitVec 8) = 0 ∧ idle.srcU none 32 (0xA1 : BitVec 8) ≠ 0 := by decide +kernel

/-- TrapsAndReturn: every running lane faults; one of them does, with eight paths pending and with nine; without a
handler; the handler's lanes to return to, and none, with and without a path. -/
theorem witness_traps :
    idle.wv.ctl.exec &&& ~~~(BitVec.allOnes 64) = 0 ∧ idle.wv.csr.tvOff ≠ 0 ∧
    (∀ n ∈ [8, 9], let s := idle.mapWv (fun v => { v with ctl := { v.ctl with path := List.replicate n ⟨0, 0⟩ } });
      s.wv.ctl.exec &&& ~~~(1 : Mask) ≠ 0 ∧ s.wv.ctl.path.length = n) ∧
    (let s := idle.mapWv (fun v => { v with csr := { v.csr with tvOff := 0 } }); s.wv.csr.tvOff = 0 ∧ s.wv.guardUni free = true) ∧
    idle.wv.guardUni free = true := by decide +kernel

/-- Its imprecise traps, with the key fault at sub-codes 7, 6 (KEY_DENIED, marked imprecise), 2 and 0, each with its cause, and
with the mixed-size one alone. -/
theorem witness_imprecise :
    (∀ q ∈ [(7, 0x12), (0x4006, 0x11), (2, 0x10), (0, 0x12)],
      let s := idle.mapWv (fun v => { v with impKey := some (BitVec.ofNat 22 q.1), impMixed := some 3 });
      s.wv.sched.live = true ∧ s.wv.halt = none ∧ s.wv.waits.ending = false ∧ s.wv.csr.tvOff ≠ 0 ∧
        s.wv.impKey = some (BitVec.ofNat 22 q.1) ∧ impreciseCause (BitVec.ofNat 22 q.1).toNat = q.2) ∧
    (let s := idle.mapWv (fun v => { v with impMixed := some 3 }); s.wv.impKey = none ∧ s.wv.impMixed = some 3) := by decide +kernel

/-- Its returns. -/
theorem witness_eret :
    (let s := idle.mapWv (fun v => { v with csr := { v.csr with tmask := 1 } }); s.wv.csr.tmask &&& ~~~s.wv.ctl.ended ≠ 0) ∧
    (let s := idle.mapWv (fun v => { v with ctl := { v.ctl with path := [⟨8, 1⟩] } });
      s.wv.csr.tmask &&& ~~~s.wv.ctl.ended = 0 ∧ s.wv.ctl.path = [⟨8, 1⟩]) ∧
    (idle.wv.csr.tmask &&& ~~~idle.wv.ctl.ended = 0 ∧ idle.wv.ctl.path = [] ∧ ∀ e ∈ idle.wv.ctl.joins, e.2.arrived = 0) ∧
    (let s := parked 3 ⟨7, 4, 0x40⟩ [];
      s.wv.csr.tmask &&& ~~~s.wv.ctl.ended = 0 ∧ s.wv.ctl.path = [] ∧ ∃ e ∈ s.wv.ctl.joins, e.2.arrived ≠ 0) := by
  decide +kernel

/-- CsrAccess: FLAGS with no tile operation that may still write it. -/
theorem witness_csr : idle.flagsPending = false ∧ idle.wv.guardUni free = true ∧ w1Of { plainT with w1 := some 1 } % 2 ^ 12 = 1 := by
  decide +kernel

/-- A window at frame `c`, resident from `l`, of `n` physical frames, the two of the window in frames 0 and 1. -/
def windowAt (c l n : Nat) : State :=
  idle.mapWv (fun v => { v with win := { v.win with cur := c, lo := l, nf := n, place := [(c, 0), (c + 1, 1)] } })

/-- FrameWindow: calls with the last physical frame free, at frame 0 and at the last frame number; returns; the three faults at
their boundaries. -/
theorem witness_window :
    (∀ c ∈ [0, 4093], let w := (windowAt c c 3).wv.win;
      w.cur ≤ 4093 ∧ w.cur + 3 ≤ w.nf + w.lo ∧ 2 < w.nf ∧ ∀ p ∈ w.place, p.2 ≠ 2) ∧
    (let s := windowAt 1 0 3; 0 < s.wv.win.cur ∧ s.wv.win.lo ≤ s.wv.win.cur - 1 ∧ s.frameFilling (s.wv.win.cur - 1) = false) ∧
    4093 < (windowAt 4094 4094 3).wv.win.cur ∧
    (let w := (windowAt 4093 4093 2).wv.win; w.cur ≤ 4093 ∧ w.nf + w.lo < w.cur + 3) ∧ idle.wv.win.cur = 0 ∧
    (let w := (windowAt 1 1 3).wv.win; 0 < w.cur ∧ w.cur - 1 < w.lo) := by decide +kernel

/-- The pieces of an access that passed its checks. -/
def okPieces : Checked → List Piece
  | .ok ps => ps
  | _ => []

/-- Whether an access passed its checks, all of it in package memory. -/
def inPackage : Checked → Bool
  | .ok ps => ps.all (fun p => decide (p.pa < 2 ^ 50))
  | _ => false

theorem inPackage_ok (c : Checked) (h : inPackage c = true) : c = .ok (okPieces c) ∧ ∀ p ∈ okPieces c, p.pa < 2 ^ 50 := by
  cases c <;> simp_all [inPackage, okPieces]


/-- The small state with the first 2 MiB of the address space mapped to the same addresses, and no more. -/
def mapped : State := idle.setMyCore { idle.myCore with tlb := [{ fetchEntry with size := 21 }] }
/-- SPILLF of the lowest of three frames, and FILLF of the frame below the window: the slots translate. -/
theorem witness_spill :
    let s := mapped.mapWv (fun v => { v with win := { v.win with cur := 2, lo := 0, nf := 4, place := [(2, 0), (3, 1)] } })
    s.acquireSysPending = false ∧ s.wv.win.lo + 2 ≤ s.wv.win.cur ∧ s.wv.frameBusy s.wv.win.lo = false ∧
      ∃ ps, (s.checkPieces 1 (slotPieces (s.wv.frameSlot s.wv.win.lo))).2 = .ok ps ∧ ∀ p ∈ ps, p.pa < 2 ^ 50 :=
  ⟨by decide +kernel, by decide +kernel, by decide +kernel, _, inPackage_ok _ (by decide +kernel)⟩

theorem witness_fill :
    let s := mapped.mapWv (fun v => { v with win := { v.win with cur := 1, lo := 1, nf := 3, place := [(1, 0), (2, 1)] } })
    0 < s.wv.win.lo ∧ s.wv.win.cur + 2 - s.wv.win.lo ≠ s.wv.win.nf ∧
      ∃ ps, (s.checkPieces 0 (slotPieces (s.wv.frameSlot (s.wv.win.lo - 1)))).2 = .ok ps ∧ ∀ p ∈ ps, p.pa < 2 ^ 50 :=
  ⟨by decide +kernel, by decide +kernel, _, inPackage_ok _ (by decide +kernel)⟩

/-- The frame faults: SPILLF with the window at the lowest resident frame and one above it; FILLF with nothing spilled, and with no
free physical frame. -/
theorem witness_frame_faults : idle.acquireSysPending = false ∧
    (∀ c ∈ [1, 2], (windowAt c 1 4).wv.win.cur < (windowAt c 1 4).wv.win.lo + 2 ∧ (windowAt c 1 4).acquireSysPending = false) ∧
    (windowAt 1 0 4).wv.win.lo = 0 ∧
    (let w := (windowAt 1 1 2).wv.win; w.lo ≠ 0 ∧ w.cur + 2 - w.lo = w.nf) := by decide +kernel

/-- Two lanes of the small state run, the first 2 MiB translate, and the block of the wave holds 4 KiB of scratchpad from
address 1,024 on, array-buffer slot 3, and accumulator tile 15 with its side vector. -/
def aBlock : Block :=
  { grid := 0, b := 0, gang := none, rho := 0, gamma := 0, sb := 1024, spad := 4096, amax := 4, amask := 8, freeing := 0,
    cmask := 0x8000, waves := [0], trig := [], trigd := false, trigTs := 0, finalTs := 0, nwaves := 1, bonded := false,
    left := false, abandoned := false, dom := 0, asn := 0 }

def two : State :=
  ((idle.setMyCore { idle.myCore with tlb := [{ fetchEntry with size := 21 }], blocks := [aBlock] }).mapWv (fun v => { v with
    ctl := { v.ctl with exec := 3 } }))

/-- A 4-byte access whose address is s2:s3 plus an offset, with the inline constant 1 as its data and v2 as its destination. -/
def accessAt (off : BitVec 16) (fn : BitVec 6) : InsM := ⟨free, 2, 0x22, 0xA1, fn, 0, off, none⟩

/-- Every thread's access passed, outside the host window. -/
def allPass (l : List (Nat × Checked)) : Bool :=
  l.all (fun e => match e.2 with
    | .ok ps => ps.all (fun p => decide (p.pa / 2 ^ 50 ≠ 2))
    | _ => false)

theorem allPass_ok {l : List (Nat × Checked)} (h : allPass l = true) :
    ∀ e ∈ l, ∃ ps, e.2 = .ok ps ∧ (∀ p ∈ ps, p.pa / 2 ^ 50 ≠ 2) := by
  intro e he
  have h1 := List.all_eq_true.1 h e he
  match h2 : e.2 with
  | .ok ps => simp [h2] at h1; exact ⟨ps, rfl, fun p hp => h1 p hp⟩
  | .fault _ _ => simp [h2] at h1
  | .wait => simp [h2] at h1

/-- AccessesIssue: each of the six instructions, the last word of the page as its place, with .REL where it is admitted. -/
theorem witness_accesses_issue : ∀ n : Fin 6, ∃ r ∈ accessRows { accessAt 0xFFC 2 with so := if n.val % 2 = 0 then 0 else 2 } two,
    (accessRows { accessAt 0xFFC 2 with so := if n.val % 2 = 0 then 0 else 2 } two)[n.val]? = some r ∧
    two.wv.activeMask free ≠ 0 ∧ two.acquireSysPending = false ∧
    (∀ m, r.data = some m → two.shadowsAgree (accessAt 0xFFC 2) 64 m) ∧
    (∀ e ∈ (two.checkThreads r.kind r.pieces r.ts).2, ∃ ps, e.2 = .ok ps ∧ (r.host = false → ∀ p ∈ ps, p.pa / 2 ^ 50 ≠ 2)) ∧
    two.releaseDone = true ∧ (r.sys (two.checkThreads r.kind r.pieces r.ts).2 = true → two.accessesDone = true) := by
  intro n
  have h : ∀ n : Fin 6, ∀ r ∈ (accessRows { accessAt 0xFFC 2 with so := if n.val % 2 = 0 then 0 else 2 } two)[n.val]?,
      allPass (two.checkThreads r.kind r.pieces r.ts).2 = true := by decide +kernel
  have hn : n.val < (accessRows { accessAt 0xFFC 2 with so := if n.val % 2 = 0 then 0 else 2 } two).length := n.isLt
  refine ⟨_, List.getElem_mem hn, List.getElem?_eq_getElem hn, by decide +kernel, by decide +kernel,
    fun m _ hp => absurd hp (by decide), fun e he => ?_, by decide +kernel, fun _ => by decide +kernel⟩
  obtain ⟨ps, h1, h2⟩ := allPass_ok (h n _ (List.getElem?_eq_getElem hn)) e he
  exact ⟨ps, h1, fun _ => h2⟩

/-- AccessesTrap: a walk has found no leaf for the page (LD, ST and ATOM kinds); an atomic at an odd address. -/
theorem witness_accesses_trap : ∀ n : Fin 6,
    let s := two.mapWv (fun v => { v with answers := [⟨0, 0, .sub 2 1⟩, ⟨0, 1, .sub 2 1⟩, ⟨0, 2, .sub 2 1⟩] });
    s.wv.activeMask free ≠ 0 ∧ s.acquireSysPending = false ∧
    ∀ r ∈ (accessRows (accessAt 8 2) s)[n.val]?,
      (s.checkThreads r.kind r.pieces r.ts).2.all (fun e => e.2 == .fault 0x10 (faultInfo 2 1 r.kind)) = true ∧
      (s.checkThreads r.kind r.pieces r.ts).2.head?.map (fun e => e.2) = some (.fault 0x10 (faultInfo 2 1 r.kind)) := by
  decide +kernel

theorem witness_atomic_misaligned : ∀ t, (two.wv.activeMask free).getLsbD t = true →
    two.effAddr (accessAt 3 2) 64 57 t % sizeBytes (accessAt 3 2).fn ≠ 0 :=
  mask_bits _ _ (by decide +kernel)

/-- Whether the first of two threads commits and the second faults. -/
def splits (l : List (Nat × Checked)) : Bool :=
  match l with
  | [(0, .ok _), (1, .fault _ _)] => true
  | _ => false

theorem splits_ok {l : List (Nat × Checked)} (h : splits l = true) : someCommit l ∧ ∃ c i, lowestFault l 1 c i := by
  unfold splits at h
  split at h
  · rename_i ps c i
    exact ⟨⟨by simp, 0, ps, by simp⟩, c, i, by simp, by simp; intros; omega⟩
  · cases h

/-- Two running lanes with the addresses `a` and `b` in v2, zeros in v3, and the walks of pages 2^9 and above without a leaf. -/
def lanesAt (a b : BitVec 32) : State :=
  two.mapWv (fun v => { v with
    win := { v.win with frames := [(0, ⟨0, [(2, a :: b :: List.replicate 62 0), (3, List.replicate 64 0)]⟩)] }
    answers := [⟨512, 0, .sub 2 1⟩, ⟨512, 1, .sub 2 1⟩, ⟨512, 2, .sub 2 1⟩] })

/-- Partial faults: thread 0 inside the first 2 MiB and thread 1 above them, of LD, ST, ATOM and RED. -/
theorem witness_partial_accesses : ∀ n ∈ ([0, 1, 4, 5] : List Nat), let s := lanesAt 8 0x200000
    let f : InsM := { accessAt 0 2 with addr := 2, so := if n = 4 then 2 else 0 }
    s.wv.activeMask f.g ≠ 0 ∧ s.acquireSysPending = false ∧ s.releaseDone = true ∧ s.accessesDone = true ∧
    ∀ r ∈ (accessRows f s)[n]?, (∀ m, r.data = some m → s.shadowsAgree f 64 m) ∧
      let rs := (s.checkThreads r.kind r.pieces r.ts).2.map (fun e => (e.1, hostAtomic r.host e.2))
      someCommit rs ∧ ∃ c i, lowestFault rs 1 c i := by
  intro n hn
  have h : ∀ n ∈ ([0, 1, 4, 5] : List Nat), ∀ r ∈ (accessRows { accessAt 0 2 with addr := 2, so := if n = 4 then 2 else 0 }
      (lanesAt 8 0x200000))[n]?,
      splits (((lanesAt 8 0x200000).checkThreads r.kind r.pieces r.ts).2.map (fun e => (e.1, hostAtomic r.host e.2))) = true := by
    decide +kernel
  have h1 : (lanesAt 8 0x200000).wv.activeMask free ≠ 0 ∧ (lanesAt 8 0x200000).acquireSysPending = false ∧
    (lanesAt 8 0x200000).releaseDone = true ∧ (lanesAt 8 0x200000).accessesDone = true := by decide +kernel
  exact ⟨h1.1, h1.2.1, h1.2.2.1, h1.2.2.2, fun r hr => ⟨fun m _ hp => absurd hp (by decide), splits_ok (h n hn r hr)⟩⟩

/-- Of LDS, STS and ATOMS with thread 1 past the block's scratchpad; of LDB and STB with thread 1 in a slot not held. -/
theorem witness_partial_core : ∀ n ∈ ([0, 1, 2, 3, 4] : List Nat),
    let s := if n = 2 ∨ n = 3 then lanesAt 6144 0 else lanesAt 0 4096
    let f : InsM := { accessAt 0 2 with addr := 2 }
    s.wv.activeMask f.g ≠ 0 ∧ ∀ r ∈ (coreRows f s)[n]?, r.held = false ∧ (∀ m, r.data = some m → s.shadowsAgree f 32 m) ∧
      let rs := (threadsOf (s.wv.activeMask f.g)).map (fun t => (t, r.check t))
      someCommit rs ∧ ∃ c i, lowestFault rs 1 c i := by
  intro n hn
  have h : ∀ n ∈ ([0, 1, 2, 3, 4] : List Nat),
      let s := if n = 2 ∨ n = 3 then lanesAt 6144 0 else lanesAt 0 4096
      let f : InsM := { accessAt 0 2 with addr := 2 }
      s.wv.activeMask f.g ≠ 0 ∧ s.wv.csr.prot = false ∧ ∀ r ∈ (coreRows f s)[n]?, r.held = false ∧
        splits ((threadsOf (s.wv.activeMask f.g)).map (fun t => (t, r.check t))) = true := by decide +kernel
  obtain ⟨h1, h2, h3⟩ := h n hn
  exact ⟨h1, fun r hr => ⟨(h3 r hr).1, fun m _ hp => absurd (h2.symm.trans hp) (by decide), splits_ok (h3 r hr).2⟩⟩

/-- LDS and STS at the first byte past the block's scratchpad; LDB and STB at an odd place and at one that the block does
not hold, in each of the three spaces. -/
theorem witness_core_memory_trap :
    two.wv.activeMask free ≠ 0 ∧ two.spadRange.2 ≤ 2 ^ 17 ∧
    (∀ t, (two.wv.activeMask free).getLsbD t = true → two.spadRange.2 ≤ two.effAddr (accessAt 4096 2) 32 17 t) ∧
    two.coreScopeHeld false = false ∧ two.coreScopeHeld true = false ∧ two.acquireSysPending = false ∧
    (∀ sp : Fin 3, let f := accessAt 2 (BitVec.ofNat 6 (8 * sp + 2));
      ∀ t, (two.wv.activeMask free).getLsbD t = true → two.effAddr f 32 (bufWidth (fnHi f.fn)) t % sizeBytes f.fn ≠ 0) ∧
    (∀ sp : Fin 3, let f := accessAt 0 (BitVec.ofNat 6 (8 * sp + 2));
      ∀ t, (two.wv.activeMask free).getLsbD t = true → two.effAddr f 32 (bufWidth (fnHi f.fn)) t % sizeBytes f.fn = 0 ∧
        two.holdsBuf (fnHi f.fn) (two.effAddr f 32 (bufWidth (fnHi f.fn)) t) = false) := by
  refine ⟨by decide +kernel, by decide +kernel, mask_bits _ _ (by decide +kernel), by decide +kernel, by decide +kernel,
    by decide +kernel, fun sp => ?_, fun sp => ?_⟩
  · have h : ∀ sp : Fin 3, ∀ i : Fin 64, (two.wv.activeMask free).getLsbD i = true →
      two.effAddr (accessAt 2 (BitVec.ofNat 6 (8 * sp + 2))) 32 (bufWidth (fnHi (accessAt 2 (BitVec.ofNat 6 (8 * sp + 2))).fn)) i %
        sizeBytes (accessAt 2 (BitVec.ofNat 6 (8 * sp + 2))).fn ≠ 0 := by decide +kernel
    exact mask_bits _ _ (h sp)
  · have h : ∀ sp : Fin 3, ∀ i : Fin 64, (two.wv.activeMask free).getLsbD i = true →
      let f := accessAt 0 (BitVec.ofNat 6 (8 * sp + 2));
      two.effAddr f 32 (bufWidth (fnHi f.fn)) i % sizeBytes f.fn = 0 ∧
        two.holdsBuf (fnHi f.fn) (two.effAddr f 32 (bufWidth (fnHi f.fn)) i) = false := by decide +kernel
    exact mask_bits _ _ (h sp)

/-- ScratchpadAccess: the last four bytes of the block's scratchpad. -/
theorem witness_scratchpad : two.wv.activeMask free ≠ 0 ∧ fnLo (accessAt 4092 2).fn ≤ 4 ∧ two.spadRange.2 ≤ 2 ^ 17 ∧
    (∀ t, (two.wv.activeMask free).getLsbD t = true → two.effAddr (accessAt 4092 2) 32 17 t + sizeBytes 2 ≤ two.spadRange.2) ∧
    two.coreScopeHeld false = false ∧ two.coreScopeHeld true = false ∧ two.shadowsAgree (accessAt 4092 2) 32 32 :=
  ⟨by decide +kernel, by decide, by decide +kernel, mask_bits _ _ (by decide +kernel), by decide +kernel, by decide +kernel,
    fun hp => absurd hp (by decide)⟩

/-- BufferAccess: the last word of slot 3 of the array buffer, of tile 15, and of side vector 15. -/
theorem witness_buffers : ∀ q ∈ [(0, 8188), (1, 65532), (2, 2044)],
    two.wv.activeMask free ≠ 0 ∧ two.acquireSysPending = false ∧
    let f : InsM := { accessAt 0 (BitVec.ofNat 6 (8 * q.1 + 2)) with ext := some (BitVec.ofNat 32 q.2) };
    fnLo f.fn ≤ 4 ∧ (∀ i : Fin 64, (two.wv.activeMask free).getLsbD i = true →
      two.effAddr f 32 (bufWidth (fnHi f.fn)) i % sizeBytes f.fn = 0 ∧
        two.holdsBuf (fnHi f.fn) (two.effAddr f 32 (bufWidth (fnHi f.fn)) i) = true) ∧ fnHi f.fn ≤ 2 := by
  decide +kernel

/-- The operation that an instruction on the core's memories leaves at the port. -/
def atPort (i : Instr) : State × MemOp :=
  match exec i two with
  | .next s => (s, s.myCore.ops.getD 0 (newOp s .load none (accessAt 0 2) 4 0 []))
  | _ => (two, newOp two .load none (accessAt 0 2) 4 0 [])

theorem only_op {s : State} {o : MemOp} (h : (s.core 0).ops = [o]) :
    ∀ j v, (s.core 0).ops[j]? = some v → v.id = o.id → j = 0 := by
  intro j v hj _
  rw [h] at hj
  cases j with
  | zero => rfl
  | succ n => simp at hj

/-- A turn at a port for the beat of a load (LDS), of a store (STB into tile 15), and for the first word operation of an ATOMS; no
turn for an operation with no beat left; and a load that meets a poisoned word. -/
theorem witness_port_turns : ∀ q ∈ [(Instr.lds (accessAt 4092 2), OpKind.coreLoad),
      (.stb { accessAt 0 10 with ext := some 65532 }, .coreStore), (.atoms (accessAt 4092 2), .coreAtom)],
    (atPort q.1).1.mayServe 0 0 (atPort q.1).2 q.2 ∧ 0 ∈ (atPort q.1).2.unit ∧
      (q.2 = .coreAtom → (atPort q.1).2.unit = [0] ∧ (atPort q.1).2.reqs.length = 2) := by
  intro q hq
  fin_cases hq
  · exact ⟨⟨by decide +kernel, by decide +kernel, by decide +kernel, only_op (by decide +kernel), fun j hj r hr => by
      have h : ∀ r ∈ (atPort (.lds (accessAt 4092 2))).2.reqs, ((atPort (.lds (accessAt 4092 2))).1.core 0).meetsPoison
        (atPort (.lds (accessAt 4092 2))).2 r = false := by decide +kernel
      exact h r (List.mem_of_getElem? hr)⟩, by decide +kernel, fun h => absurd h (by decide)⟩
  · exact ⟨⟨by decide +kernel, by decide +kernel, by decide +kernel, only_op (by decide +kernel), fun j hj r hr => by
      have h : ∀ r ∈ (atPort (.stb { accessAt 0 10 with ext := some 65532 })).2.reqs,
        ((atPort (.stb { accessAt 0 10 with ext := some 65532 })).1.core 0).meetsPoison
          (atPort (.stb { accessAt 0 10 with ext := some 65532 })).2 r = false := by decide +kernel
      exact h r (List.mem_of_getElem? hr)⟩, by decide +kernel, fun h => absurd h (by decide)⟩
  · exact ⟨⟨by decide +kernel, by decide +kernel, by decide +kernel, only_op (by decide +kernel), fun j hj r hr => by
      have h : ∀ r ∈ (atPort (.atoms (accessAt 4092 2))).2.reqs, ((atPort (.atoms (accessAt 4092 2))).1.core 0).meetsPoison
        (atPort (.atoms (accessAt 4092 2))).2 r = false := by decide +kernel
      exact h r (List.mem_of_getElem? hr)⟩, by decide +kernel, fun _ => by decide +kernel⟩

theorem witness_port_rest :
    (let s := (atPort (.lds (accessAt 4092 2))).1.portStep 0 0;
      ∃ o, (s.core 0).ops[0]? = some o ∧ (s.core 0).beatReady o = false) ∧
    (let s := (atPort (.lds (accessAt 4092 2))).1
      let t := s.setMyCore { s.myCore with spad := s.myCore.spad.spoil ((1024 + 4092) / 4) }
      let o := (atPort (.lds (accessAt 4092 2))).2;
      (t.core 0).ops[0]? = some o ∧ (t.core 0).beatReady o = true ∧ 0 ∈ o.unit ∧
        ∃ r, o.reqs[0]? = some r ∧ (t.core 0).meetsPoison o r = true) :=
  ⟨⟨_, rfl, by decide +kernel⟩, by decide +kernel, by decide +kernel, by decide +kernel, _, rfl, by decide +kernel⟩

/-- ScratchpadAtomics: the block's own last word; a core of the domain; and a core outside a domain of one cluster. -/
theorem witness_scratchpad_atomics :
    (∀ t, (two.wv.activeMask free).getLsbD t = true →
      two.atomsTarget (accessAt 4092 2) t < 2 ^ 17 ∧ two.atomsTarget (accessAt 4092 2) t + sizeBytes 2 ≤ two.spadRange.2 ∧
      two.atomsTarget (accessAt 4092 2) t % sizeBytes 2 = 0) ∧
    (let s := two.mapWv (fun v => { v with s := [(2, 0x80020000)] });
      ∀ t, (s.wv.activeMask free).getLsbD t = true →
        (2 ^ 31 ≤ s.atomsTarget (accessAt 8 2) t ∧ bitsOf 29 2 (s.atomsTarget (accessAt 8 2) t) = 0 ∧
          s.atomsTarget (accessAt 8 2) t % sizeBytes 2 = 0) ∧
        (s.domOf s.wv.ctx.dom).clusters.contains (clusterOf (atomsCore (s.atomsTarget (accessAt 8 2) t))) = true) ∧
    (let s := (two.mapWv (fun v => { v with s := [(2, 0x80020000)] })).withMs { two.ms with
        doms := [(0, ⟨⟨0, 16, 1, false, 0, 0, []⟩, [0]⟩)] };
      ∀ t, (s.wv.activeMask free).getLsbD t = true →
        (s.domOf s.wv.ctx.dom).clusters.contains (clusterOf (atomsCore (s.atomsTarget (accessAt 8 2) t))) = false) :=
  ⟨mask_bits _ _ (by decide +kernel), mask_bits _ _ (by decide +kernel), mask_bits _ _ (by decide +kernel)⟩

/-- FencesAndCaches: nothing outstanding at any scope; lines that translate. MessageSend: a core of the domain and one
outside it. -/
theorem witness_fence_cctl_msend :
    two.wv.activeMask free ≠ 0 ∧ two.acquireSysPending = false ∧ two.acquirePending = false ∧ two.releaseDone = true ∧
    two.writesDone = true ∧ two.accessesDone = true ∧
    (∀ b ∈ [true, false], ((two.cctlLines b (((threadsOf (two.wv.activeMask free)).map
      (fun t => two.effAddr (accessAt 0 0) 64 57 t / 128 * 128)).eraseDups)).2.all (fun c => c != .wait)) = true) ∧
    two.shadowsAgree (accessAt 0 2) 32 (8 * sizeBytes 2) ∧
    (two.domOf two.wv.ctx.dom).clusters.contains (clusterOf (msgCore (two.srcU none 32 (0x22 : BitVec 8) % 2 ^ 15))) = true ∧
    (let s := two.withMs { two.ms with doms := [(0, ⟨⟨0, 16, 1, false, 0, 0, []⟩, [0]⟩)] };
      (s.domOf s.wv.ctx.dom).clusters.contains (clusterOf (msgCore (s.srcU none 32 (0x22 : BitVec 8) % 2 ^ 15))) = false) := by
  refine ⟨by decide +kernel, by decide +kernel, by decide +kernel, by decide +kernel, by decide +kernel, by decide +kernel,
    by decide +kernel, fun hp => absurd hp (by decide), by decide +kernel, by decide +kernel⟩

/-- CopiesIssue: room for one more command, tag 63 FREE, and tag 0 DONE. -/
theorem witness_copies_issue :
    let s := two.setMyCore { two.myCore with tags := [(0, .done 4)] }
    s.wv.guardUni free = true ∧ s.myCore.copies.length < 16 ∧ s.acquirePending = false ∧
      Map.getD s.myCore.tags (w1Of { plainT with w1 := some 63 } % 64) Tag.free = .free ∧
      Map.getD s.myCore.tags (w1Of { plainT with w1 := some 0 } % 64) Tag.free ≠ .free := by decide +kernel

/-- A wave whose s2:s3 names tag 63 alone, which stands in the given state. -/
def tagged (t : Tag) : State :=
  (two.setMyCore { two.myCore with tags := [(63, t)] }).mapWv (fun v => { v with s := [(3, 0x80000000)] })

/-- The tag wait on s2:s3. -/
def tagWait : InsT := { plainT with a := 0x22 }

theorem tagged_mask (t : Tag) (e : (tagged t).srcU none 64 tagWait.a = 2 ^ 63) (i : Nat)
    (h : (decide (i < 64) && ((tagged t).srcU none 64 tagWait.a).testBit i) = true) : i = 63 := by
  rw [e, Nat.testBit_two_pow] at h
  simp at h
  exact h.2.symm

theorem tagged_tag (t : Tag) : (tagged t).tag 63 = t := rfl

/-- CopyTags: tag 63 DONE (TWALL, TWANY and TFIRST return it), FREE (TFIRST returns 64), and in ERROR (each of them traps). -/
theorem witness_tags :
    (∀ t, (tagged t).wv.guardUni free = true) ∧
    (∀ i, (decide (i < 64) && ((tagged (.done 9)).srcU none 64 tagWait.a).testBit i) = true → (tagged (.done 9)).tag i ≠ .busy) ∧
    (∀ i c l, (decide (i < 64) && ((tagged (.done 9)).srcU none 64 tagWait.a).testBit i) = true →
      (tagged (.done 9)).tag i ≠ .error c l) ∧
    (decide (63 < 64) && ((tagged (.done 9)).srcU none 64 tagWait.a).testBit 63 && ((tagged (.done 9)).tag 63).ready) = true ∧
    (∀ i, i < 63 → (decide (i < 64) && ((tagged (.done 9)).srcU none 64 tagWait.a).testBit i &&
      ((tagged (.done 9)).tag i).ready) = false) ∧
    (∀ i, (decide (i < 64) && ((tagged .free).srcU none 64 tagWait.a).testBit i && ((tagged .free).tag i).ready) = false) ∧
    (∀ i, (decide (i < 64) && ((tagged .free).srcU none 64 tagWait.a).testBit i) = true → (tagged .free).tag i ≠ .busy) ∧
    (∀ i, (decide (i < 64) && ((tagged (.error 2 1)).srcU none 64 tagWait.a).testBit i) = true → (tagged (.error 2 1)).tag i ≠ .busy) ∧
    (decide (63 < 64) && ((tagged (.error 2 1)).srcU none 64 tagWait.a).testBit 63) = true ∧
    (tagged (.error 2 1)).tag 63 = .error 2 1 ∧
    (∀ i, i < 63 → (decide (i < 64) && ((tagged (.error 2 1)).srcU none 64 tagWait.a).testBit i) = true →
      (∀ c l, (tagged (.error 2 1)).tag i ≠ .error c l) ∧ ((tagged (.error 2 1)).tag i).ready = false) := by
  refine ⟨fun t => rfl, fun i h => ?_, fun i c l h => ?_, by decide +kernel, fun i hi => ?_, fun i => ?_, fun i h => ?_,
    fun i h => ?_, by decide +kernel, rfl, fun i hi h => ?_⟩
  · rw [tagged_mask _ (by decide +kernel) i h, tagged_tag]; decide
  · rw [tagged_mask _ (by decide +kernel) i h, tagged_tag]; exact Tag.noConfusion
  · cases h : decide (i < 64) && ((tagged (.done 9)).srcU none 64 tagWait.a).testBit i
    · rfl
    · exact absurd (tagged_mask _ (by decide +kernel) i h) (by omega)
  · cases h : decide (i < 64) && ((tagged .free).srcU none 64 tagWait.a).testBit i
    · rfl
    · rw [tagged_mask _ (by decide +kernel) i h, tagged_tag]; rfl
  · rw [tagged_mask _ (by decide +kernel) i h, tagged_tag]; decide
  · rw [tagged_mask _ (by decide +kernel) i h, tagged_tag]; decide
  · exact absurd (tagged_mask _ (by decide +kernel) i h) (by omega)

/-- A copy record: 64 bytes at address 64, and a command of slot 0 that names it. -/
def lineShape : BitVec 512 := BitVec.ofNat 512 (8 + 2 ^ 64 * 64 + 2 ^ 128 * 64)

def aCopy (op : OpT) (fn : Nat) : CopyEntry :=
  { id := 7, op := op, a := 0, b := 2048, c := 0, fn := fn, w1 := 5 + 2 ^ 8, dst := 0x21, slot := 0, grid := 0, block := 0,
    ctx := ⟨0, 0, 0, 0, 0⟩, before := 9, bound := none, ts := 0, total := 0, moved := 0, chunks := [], flying := [],
    wts := none, err := none, stop := false, reading := false, far := [], added := 0, source := [], arrived := [], base := 0 }

/-- Core 0 with such a command, its tag 5 BUSY. -/
def copying (e : CopyEntry) : State :=
  two.setMyCore { two.myCore with copies := [e], tags := [(5, .busy)], recs := [⟨0, 0, lineShape⟩] }

/-- An engine's address translates into package memory, its home is in the domain, and a port has room for the request. -/
def finds (q : State × EngineFound) (dom port : Nat) : Bool :=
  match q.2 with
  | .ok pa _ _ => decide (pa < 2 ^ 50) && (q.1.homeOf dom pa).isSome && (q.1.port port).hasRoom
  | _ => false

theorem finds_ok {q : State × EngineFound} {dom port : Nat} (h : finds q dom port = true) :
    ∃ s1 pa key mt d x, q = (s1, .ok pa key mt) ∧ pa < 2 ^ 50 ∧ s1.homeOf dom pa = some (d, x) ∧ (s1.port port).hasRoom = true := by
  obtain ⟨s1, f⟩ := q
  cases f with
  | ok pa key mt =>
    simp [finds, Option.isSome_iff_exists] at h
    obtain ⟨⟨h1, d, x, h2⟩, h3⟩ := h
    exact ⟨s1, pa, key, mt, d, x, rfl, h1, h2, h3⟩
  | _ => simp [finds] at h

/-- RecordStage: TSFENCE of one record and of all; a copy whose record the cache holds, and one whose record address is
misaligned; a read of a record, by a copy and by a TSHAPE; the answer of a TSHAPE. -/
theorem witness_record_stage :
    (∀ fn ∈ [0, 1], let e := aCopy .tsfence fn
      ((copying e).core 0).copies.find? (fun e => e.bound.isNone && e.err.isNone) = some e ∧ e.stop = false ∧
        e.reading = false ∧ e.op = .tsfence) ∧
    (∀ op ∈ [OpT.tcopy, OpT.tcopym], ∀ a ∈ [0, 63], let e := { aCopy op 2 with a := a }
      ((copying e).core 0).copies.find? (fun e => e.bound.isNone && e.err.isNone) = some e ∧ e.stop = false ∧ e.reading = false ∧
        ((copying e).core 0).writesBefore e.slot e.before = false ∧
        ((copying e).core 0).recs.find? (fun r => r.asn == e.ctx.asn && r.va == e.a / 64) = some ⟨0, 0, lineShape⟩) := by
  decide +kernel

theorem witness_record_read : ∀ q ∈ [(OpT.tcopy, 64), (OpT.tcopym, 64), (OpT.tshape, 0)],
    let e := { aCopy q.1 2 with a := q.2 }
    let c := (copying e).core 0
    c.copies.find? (fun e => e.bound.isNone && e.err.isNone) = some e ∧ e.op ≠ .tsfence ∧ c.writesBefore e.slot e.before = false ∧
      e.a % 64 = 0 ∧ (e.op = .tshape ∨ c.recs.find? (fun r => r.asn == e.ctx.asn && r.va == e.a / 64) = none) ∧
      finds ((copying e).engineFind 0 e.ctx e.a 4 ((copying e).wave ⟨0, e.slot⟩).pts) e.ctx.dom (portOf 0) = true := by
  decide +kernel

theorem witness_record_answer :
    let e := { aCopy .tshape 0 with reading := true }
    let s := (copying e).mapWv (fun v => { v with sb := [(SbReg.s 1, 7)] })
    let bs := leBytes 64 lineShape.toNat
    (s.core 0).copies.find? (fun x => x.id == 7 && x.reading) = some e ∧ shapeBad (BitVec.ofNat 512 (leNat bs)) = false ∧
      (s.wave ⟨0, e.slot⟩).sb.any (fun r => r.2 == e.id) = true := by decide +kernel

/-- A running copy. -/
def running (op : OpT) (fn : Nat) : CopyEntry := { aCopy op fn with bound := some lineShape, total := 64 }

/-- CopiesRunAndEnd: a copy runs, its block done, on its way, or still to move. -/
theorem witness_copy_runs :
    let e : CopyEntry := { running .tcopy 2 with chunks := [64], flying := [128] }
    let s := copying e
    (s.core 0).copies[0]? = some e ∧ e.stop = false ∧ (s.core 0).running.any (fun x => x.id == e.id) = true ∧
      (∀ a ∈ [64, 128, 192], s.mayBegin e a = true) ∧ 64 ∈ e.chunks ∧ 128 ∈ e.flying := by decide +kernel

/-- A chunk to read, into SPAD and into ABUF. -/
theorem witness_copy_inward : ∀ fn ∈ [0, 2],
    let e := running .tcopy fn
    let s := copying e
    (s.core 0).running.any (fun x => x.id == e.id) = true ∧ s.mayBegin e 64 = true ∧ 64 ∉ e.chunks ∧ 64 ∉ e.flying ∧
      e.multi = false ∧ e.outward = false ∧ 64 % 64 = 0 ∧ e.due 64 ≠ [] ∧
      finds (s.engineFind 0 e.ctx 64 4 e.ts) e.ctx.dom (portOf 0) = true := by decide +kernel

/-- A block of 64 bytes to write, from SPAD and from CBUF. -/
theorem witness_copy_outward : ∀ fn ∈ [1, 3],
    let e := running .tcopy fn
    let s := copying e
    let all := e.due 64
    let n := outBlock (all.map (fun q => q.1)) 0 6
    let mine := all.filter (fun q => decide (0 ≤ q.1) && decide (q.1 < 0 + n))
    let s0 := (s.mapCopy 0 e.id (fun _ => s.readSource 0 e (mine.map (fun q => q.2)))).drawn
    s.mayBegin e 64 = true ∧ e.multi = false ∧ e.outward = true ∧ n = 64 ∧
      s.sourcePoisoned 0 e (mine.map (fun q => q.2)) = false ∧
      finds (s0.engineFind 0 e.ctx 64 5 e.ts) e.ctx.dom (portOf 0) = true := by decide +kernel

theorem witness_copy_multicast :
    let e := running .tcopym 2
    let s := copying e
    s.mayBegin e 0 = true ∧ 0 ∉ e.chunks ∧ 0 ∉ e.flying ∧ e.multi = true ∧ 0 < e.total ∧
      finds (s.engineFind 0 e.ctx (e.chunkVa 0) 4 e.ts) e.ctx.dom (portOf 0) = true := by decide +kernel

/-- The bytes of a chunk fill a chunk of the core side. -/
theorem witness_copy_lands : ∀ fn ∈ [0, 2],
    let e : CopyEntry := { running .tcopy fn with flying := [64] }
    ((copying e).core 0).copies.find? (fun x => x.id == e.id) = some e ∧ e.multi = false ∧ e.outward = false ∧
      (0, 0) ∈ e.due 64 ∧ (63, 63) ∈ e.due 64 ∧
      ∀ p ∈ e.due 64, p.2 < e.total ∧ (e.sideChunk (e.placed p.2 / 64)).all (fun q => (e.due 64).any (fun r => r.2 == q.2)) = true := by
  decide +kernel

/-- A copy that has moved every byte, and one that has met an error. -/
theorem witness_copy_ends :
    (let e : CopyEntry := { running .tcopy 10 with moved := 64, chunks := [64] };
      ((copying e).core 0).copies[0]? = some e ∧ e.flying = [] ∧ e.bound.isSome = true ∧ e.err = none ∧ e.moved = e.total ∧
        e.ph = true ∧ e.multi = false) ∧
    (let e : CopyEntry := { running .tcopy 10 with err := some (2, 1) };
      ((copying e).core 0).copies[0]? = some e ∧ e.flying = [] ∧ e.err = some (2, 1) ∧ e.far = [] ∧ e.reading = false ∧
        e.ph = true ∧ e.bound.isSome = true) := by decide +kernel

/-- Phasers: the two ways to be full, at their boundaries, and one signaller short. -/
theorem witness_phaser_full :
    ({ Phaser.reset with nsig := 2, narr := 2, exp := 16, bytes := 16 } : Phaser).full ∧
    ({ Phaser.reset with exp := 1, bytes := 1 } : Phaser).full ∧ ¬ ({ Phaser.reset with nsig := 2, narr := 1 } : Phaser).full := by
  unfold Phaser.full; decide

/-- A wave whose s0 holds the handle of phaser 0 of its cluster, which is live for its grid, with the wave's registration. -/
def phasing (p : Phaser) (r : Option Registration) : State :=
  (two.setCluster 0 { two.cluster 0 with phasers := [(0, { p with live := true })] }).mapWv (fun v => { v with
    s := [(0, phHandle 0 0 1)]
    slots := match r with
      | some r => [(0, r)]
      | none => [] })

/-- The phaser instructions' operands: handle s0, second operand the constant 1, mode 3. -/
def phaserOp : InsT := { plainT with a := 0x20, b := 0xA1, fn := 3 }

theorem names_phaser {s : State} {f : InsT} (h1 : phRemote s.cur.core (phRef (s.handleA f)) = false)
    (h2 : s.acquirePending = false ∧ s.coreScopeDone = true) (h3 : s.recordPoisoned (phRef (s.handleA f)) = false)
    (h4 : s.phDead (phRef (s.handleA f)) (some s.wv.ident.grid) = false) : s.namesPhaser f := ⟨h1, fun _ => h2, h3, h4⟩

/-- PHNEW: object 127 is free, or none; PHFREE and PHREG on a phaser without and with registrations. -/
theorem witness_phasers :
    two.wv.guardUni free = true ∧
    ({ two.cluster 0 with phasers := (List.range 127).map (fun i => (i, { Phaser.reset with live := true })) } : Cluster).freePhaser = some 127 ∧
    ({ two.cluster 0 with phasers := (List.range 128).map (fun i => (i, { Phaser.reset with live := true })) } : Cluster).freePhaser = none ∧
    (phasing Phaser.reset none).namesPhaser phaserOp ∧ ((phasing Phaser.reset none).phaserAt (phRef ((phasing Phaser.reset none).handleA phaserOp))).regs = 0 ∧
    ((phasing { Phaser.reset with regs := 1 } none).phaserAt (phRef ((phasing Phaser.reset none).handleA phaserOp))).regs ≠ 0 ∧
    (phasing Phaser.reset none).wv.freeSlot = some 0 ∧
    (phasing Phaser.reset none).wv.regSlot ((phasing Phaser.reset none).handleA phaserOp) = none := by
  refine ⟨by decide +kernel, by decide +kernel, by decide +kernel, names_phaser (by decide +kernel) (by decide +kernel) (by decide +kernel) (by decide +kernel), by decide +kernel,
    by decide +kernel, by decide +kernel, by decide +kernel⟩

/-- A fallback record: its place misaligned, past the block's scratchpad, and the last 64 bytes of it. -/
theorem witness_fallback : two.spadRange.2 = 4096 ∧ 4032 % 64 = 0 ∧ 4032 + 64 ≤ two.spadRange.2 ∧ two.spadRange.2 < 4096 + 64 ∧
    4033 % 64 ≠ 0 ∧ two.acquirePending = false ∧
    ({ phaserOp with fn := 1 } : InsT).fn = 1 ∧ phaserOp.fn ≠ 1 := by decide +kernel

/-- The registrations that PHDROP, PHSIG and PHWAIT meet: WAIT; SIG_WAIT at the phase, with and without arrivals; past it;
a wait that is over and one that is not. -/
theorem witness_registered : ∀ q ∈ [(2, 0, 0), (3, 0, 1), (3, 0, 0), (3, 1, 0), (1, 0, 0)],
    let s := phasing { Phaser.reset with regs := 1, nsig := 1, narr := q.2.2 } (some ⟨phHandle 0 0 1, q.1, q.2.1⟩)
    let p := s.phaserAt (phRef (s.handleA phaserOp))
    s.wv.regSlot (s.handleA phaserOp) = some (0, ⟨phHandle 0 0 1, q.1, q.2.1⟩) ∧ p.phase = 0 ∧ p.narr = q.2.2 ∧
      s.syncReleased = true ∧ s.wv.waits.polls = 0 := by decide +kernel

theorem witness_phase_wait :
    (let n := (1 + 2 ^ 16 - 0 % 2 ^ 16) % 2 ^ 16; 1 ≤ n ∧ n ≤ 32767) ∧ (let n := (0 + 2 ^ 16 - 0 % 2 ^ 16) % 2 ^ 16; ¬ (1 ≤ n ∧ n ≤ 32767)) ∧
    (let n := (32767 + 2 ^ 16 - 0 % 2 ^ 16) % 2 ^ 16; 1 ≤ n ∧ n ≤ 32767) ∧ (let n := (32768 + 2 ^ 16 - 0 % 2 ^ 16) % 2 ^ 16; ¬ (1 ≤ n ∧ n ≤ 32767)) := by
  decide

/-- BarriersAndQueues: the last running wave of its block. -/
theorem witness_barrier :
    let s := two
    let arrived := s.withWv { s.wv with waits := { s.wv.waits with barrier := true } };
    s.coreScopeDone = true ∧ s.myBlock? = some aBlock ∧ s.cur.slot ∈ aBlock.waves ∧ s.wv.halt = none ∧ s.wv.waits.ending = false ∧
      aBlock.waves.Nodup ∧ ∀ i ∈ aBlock.waves, (arrived.wave ⟨s.cur.core, i⟩).halt = none →
        (arrived.wave ⟨s.cur.core, i⟩).waits.ending = false → (arrived.wave ⟨s.cur.core, i⟩).waits.barrier = true := by
  decide +kernel

/-- A ring 7 of core 0 with two 16-byte entries at 256, its head word at 288 and its tail word at 292. -/
def ringed : State :=
  two.setMyCore { two.myCore with
    blocks := [{ aBlock with sb := 0 }]
    spad := (Store.empty.write 112 (leBytes 4 (2 ^ 31 + 2 ^ 17 + 256) ++ leBytes 4 288 ++ leBytes 4 292)).write 292 [1, 0, 0, 0] }

/-- RWAIT on ring 7, whose tail has moved, and on ring 0, which is not enabled. -/
theorem witness_rwait : ringed.acquirePending = false ∧ ringed.myCore.ringPoisoned 7 = false ∧
    ringed.myCore.ring 7 = some ⟨16, 1, 256, 288, 292⟩ ∧ ringed.myCore.spad.poisoned 292 4 = false ∧
    ringed.myCore.spadWord 292 ≠ 0 ∧ ringed.myCore.ringPoisoned 0 = false ∧ ringed.myCore.ring 0 = none := by decide +kernel

/-- A grid of one block, of the wave's context, that holds stream queue 31 and has handed out no block yet. -/
def aGrid : Grid :=
  { hdr := ⟨1, 2, 128, 0, 0, 0, 0, 0, 0, false, false, false, [], 0, 0⟩, ctx := ⟨0, 0, 0, 0, 0⟩, queue := 0, seq := 1, count := 1
    placed := 0, retired := 0, trigd := 0, trigDone := false, finalTs := 0, trigTs := 0, startTs := 0, seed := none
    seedVal := 0, sqmask := 0x80000000, args := 0, spill := 0, codeBase := 64 }

/-- The stream queue 31 with some entries. -/
def streaming (es : List StreamEntry) : State :=
  ({ two with fe := { two.fe with grids := [(0, aGrid)] } }).setCluster 0 { two.cluster 0 with streams := [(31, ⟨some 0, es⟩)] }

/-- QPUSH with one free place, QPOP with one entry; a queue that the grid does not hold. -/
theorem witness_streams : (streaming []).holdsQueue 31 ∧ ¬ (streaming []).holdsQueue 30 ∧ (streaming []).syncReleased = true ∧
    (((streaming (List.replicate 63 ⟨1, false, 0⟩)).cluster 0).stream 31).entries.length < 64 ∧
    (((streaming [⟨1, true, 0⟩]).cluster 0).stream 31).entries = [⟨1, true, 0⟩] := by
  refine ⟨⟨aGrid, rfl, by decide⟩, ?_, by decide +kernel, by decide +kernel, by decide +kernel⟩
  rintro ⟨g, h, h1⟩
  cases h
  exact absurd h1 (by decide)

/-- A gang of one block on core 0, of one row and one column, with the lease or without. -/
def aGang (lease : Bool) : Gang := ⟨0, 1, [0], 0, 0, false, if lease then [0] else [], lease, false⟩

/-- The block as that gang's. -/
def gangBlock (lease : Bool) : Block := { aBlock with gang := some 1, bonded := lease }

/-- A residency of one I8 step and one outlier on planes 0 and 1 of core 0, in the given state. -/
def aResidency (st : ResState) : Residency :=
  { Residency.reset with
    st := st, fmt := 5, nstep := 1, nout := 1, planes := [(0, [0])], sidePlane := [(0, 1)], csum := List.replicate 32 0,
    osum := List.replicate 32 0 }

/-- The bonded wave, whose s0 holds the handle of entry 5, with such a residency there and operations in the queue. -/
def bonded (lease : Bool) (st : ResState) (tiles : List SeqEntry) : State :=
  ((({ two with gangs := [(1, aGang lease)] } : State).setMyCore { two.myCore with
    blocks := [gangBlock lease], wowner := [(0, 5), (1, 5)], tiles := tiles }).setCluster 0 { two.cluster 0 with
      residencies := [(5, aResidency st)] }).mapWv (fun v => { v with s := [(0, 0x105)] })

/-- BondsAndSlots: the last block of its gang at BOND, a gang to leave, no gang; a slot taken by another block, or kept for one that
has been saved, one too many, and the last that is allowed. -/
theorem witness_bonds :
    (let s := bonded false .free []
      let g := aGang false;
      s.myBlock? = some (gangBlock false) ∧ (gangBlock false).gang = some 1 ∧ Map.get? s.gangs 1 = some g ∧
        (gangBlock false).bonded = false ∧ s.wv.waits.bond = false ∧ g.barred = false ∧ ∀ k ∈ g.cores, k ∈ g.bonded ∨ k = s.cur.core) ∧
    (two.myBlock? = some aBlock ∧ aBlock.gang = none) ∧
    (let s := two.setMyCore { two.myCore with blocks := [aBlock, { aBlock with b := 1, amask := 1 }] };
      s.myBlock? = some aBlock ∧ two.myCore.kept = 0 ∧
        s.myCore.blocks.any (fun x => !(x.grid == aBlock.grid && x.b == aBlock.b) && (x.amask &&& (1 : BitVec 32)) != 0) = true) ∧
    (two.setMyCore { two.myCore with kept := 1 }).myCore.kept &&& (1 : BitVec 32) ≠ 0 ∧
    (two.myCore.blocks.any (fun x => !(x.grid == aBlock.grid && x.b == aBlock.b) && (x.amask &&& (1 : BitVec 32)) != 0) = false ∧
      ({ aBlock with amax := 1 } : Block).amax < countBits (aBlock.amask ||| (1 : BitVec 32)) ∧
      countBits (aBlock.amask ||| (1 : BitVec 32)) ≤ ({ aBlock with amax := 2 } : Block).amax) := by decide +kernel

theorem bonded_leases (st : ResState) (tiles : List SeqEntry) : (bonded true st tiles).leases (gangBlock true) (aGang true) :=
  ⟨rfl, rfl, rfl, rfl, rfl⟩

theorem bonded_names (st : ResState) (h : st ≠ .free) : (bonded true st []).namesResidency 0x105 := by
  refine ⟨by decide, ?_⟩
  cases st <;> first | exact absurd rfl h | decide +kernel

/-- ResidencyInstructions: 33 planes asked for on a core, and 32 with a free entry; a residency to pin, to revoke, to load and
to ask after; a dead handle. -/
theorem witness_residency_planes :
    (let w1 := w1Of { plainT with w1 := some (32 + 5 * 2 ^ 6 + 2 ^ 10) }; 32 < w1 % 64 * bytesPerUnit (w1 / 2 ^ 6 % 8) + 1) ∧
    (let s := bonded true .free []
      let g := aGang true;
      s.quotaRoom s.wv.ctx.dom 30 0 g.rows g.cols g.cores = true ∧
        (List.range 256).find? (fun i => ((s.cluster g.home).residency i).st == .free) = some 0 ∧
        ((s.mapResidency g.home 0 (fun r => { r with planes := [], sidePlane := [] })).takePlanes g.home 0 s.wv.ctx.dom 30 0
          g.rows g.cols g.cores g.cores).isSome = true) := by decide +kernel

theorem witness_residencies :
    let s := bonded true .ready []
    let r := (s.cluster (s.tableOf s.cur)).residency 5
    s.wv.guardUni free = true ∧ s.namesResidency (s.srcU none 32 (0x20 : BitVec 8)) ∧ r.st ≠ .revoked ∧ r.st ≠ .loading ∧
      s.loopUses 0 5 = false ∧ s.acquirePending = false ∧ r.elsewhere (aGang true) = false ∧
      s.srcU none 64 (0xA0 : BitVec 8) % 2 ^ 57 % 128 = 0 ∧ (∀ c ∈ (aGang true).cores, (s.core c).tiles.length < 8) ∧
      (aGang true).cores.Nodup ∧ ¬ s.namesResidency 0x205 := by
  refine ⟨by decide +kernel, bonded_names .ready (by decide), by decide +kernel, by decide +kernel, by decide +kernel,
    by decide +kernel, by decide +kernel, by decide +kernel, by decide +kernel, by decide, fun h => ?_⟩
  exact absurd h.2 (by decide +kernel)

/-- MLOOP of K-step 0 into tile 15, its activations in slot 3, INT8. -/
def loopW1 : Nat := 3 + 15 * 2 ^ 5 + 2 ^ 15 + 5 * 2 ^ 21

/-- TileOperationsIssue: MLOOP on a READY residency, and on an EVICTED one with a reload; MZERO, MEPI and MCORR on tile 15. -/
theorem witness_tile_issue : ∀ q ∈ [(ResState.ready, (2 : BitVec 6)), (ResState.evicted, 1)],
    let s := bonded true q.1 []
    let r := (s.cluster (s.tableOf s.cur)).residency 5
    let g := aGang true
    r.st ≠ .revoked ∧ r.elsewhere g = false ∧ afmtOk r.fmt (loopW1 / 2 ^ 21 % 8) = true ∧ (q.2.getLsbD 1 = true → 5 ≤ r.fmt) ∧
      loopW1 / 2 ^ 9 % 64 + loopW1 / 2 ^ 15 % 64 ≤ r.nstep ∧
      (∀ c ∈ g.cores, (⟨g, r, loopW1, q.2.getLsbD 1, 0⟩ : Loop).held s g.num g.grid c = true) ∧
      (r.st = .stale ∨ r.st = .evicted → q.2.getLsbD 0 = true) ∧ (∀ c ∈ g.cores, (s.core c).tiles.length < 8) ∧ g.cores.Nodup := by
  decide +kernel

theorem witness_tile_issue_plain :
    let s := bonded true .ready []
    let r := (s.cluster (s.tableOf s.cur)).residency 5
    s.myCore.tiles.length < 8 ∧ (∀ i, i < 16 → (0x8000 : Nat).testBit i = true → s.tilesHeld [i] = true) ∧ s.tilesHeld [] = true ∧
      s.tilesHeld [15, 15, 15] = true ∧ r.loaded = true ∧ 5 ≤ r.fmt ∧
      (r.southColumn (s.tableOf s.cur) s.cur.core).isSome = true ∧ s.tilesHeld [(15 : BitVec 6).toNat % 16] = true := by
  decide +kernel

/-- An operation at the head of core 0's queue. -/
def anEntry (op : OpT) : SeqEntry :=
  { id := 3, op := op, handle := 0x105, a := 0x8000, b := 2, fn := 15, w1 := if op = .mloop then loopW1 else 15 + 15 * 2 ^ 4,
    core := 0, table := 0, back := 0, slot := 0, block := 0, order := 1, before := 3, ts := 0, steps := 0, loading := false,
    lines := [], flying := [], image := [], first := true, stop := false }

/-- TileOperationsRun: each of the three at the head of the queue, tile 15 without poison and without block scales. -/
theorem witness_tile_run :
    (∀ op ∈ [OpT.mzero, .mepi, .mcorr], (bonded true .ready [anEntry op]).nextTile 0 op = some (anEntry op)) ∧
    (let s := bonded true .ready [anEntry .mepi]
      let e := anEntry .mepi;
      e.w1.testBit 13 = (s.core 0).scaled.getLsbD (e.w1 % 16) ∧ e.mepiPoisoned (s.core 0) = false) ∧
    (∀ st ∈ [ResState.ready, .pinned, .loading],
      let s := bonded true st [anEntry .mcorr]
      let e := anEntry .mcorr
      let r := s.entryResidency e;
      e.table = s.tableOf ⟨0, e.slot⟩ ∧ (r.southColumn e.table 0).isSome = true ∧
        r.deadFor e.handle (s.wave ⟨0, e.slot⟩).ctx = false ∧ r.st = st ∧
        (s.core 0).cbuf.poisoned (4096 * 15) 4096 = false ∧ (s.core 0).sideVec.poisoned (128 * 15) 128 = false) ∧
    (∀ q ∈ [(0x205, true), (0x105, false)],
      let s := ((bonded true .ready [{ anEntry .mcorr with handle := q.1, table := 1 }]).setCluster 1 { two.cluster 1 with
        residencies := [(5, aResidency .ready)] })
      let e := { anEntry .mcorr with handle := q.1, table := 1 }
      let r := s.entryResidency e;
      s.nextTile 0 .mcorr = some e ∧ r.deadFor e.handle (s.wave ⟨0, e.slot⟩).ctx = q.2 ∧ e.table ≠ s.tableOf ⟨0, e.slot⟩ ∧
        (s.wave ⟨0, e.slot⟩).tile = none) := by
  decide +kernel

/-- No access of the memory pipe waits at a core's ports: no operation is there, or one whose beats are done. -/
theorem witness_ports_idle (st : ResState) (tiles : List SeqEntry) : (bonded true st tiles).portsIdle 0 ∧
    ((atPort (.lds (accessAt 4092 2))).1.portStep 0 0).portsIdle 0 := by
  have h1 : ((bonded true st tiles).core 0).ops = [] := rfl
  refine ⟨fun o h => absurd (h1 ▸ h) (by simp), ?_⟩
  unfold State.portsIdle; decide +kernel

/-- LoadsAndSteps: a load that has not begun, and one with every chunk read. -/
theorem witness_loads :
    (let e := anEntry .wload
      let s := bonded true .loading [e]
      let r := s.entryResidency e;
      0 ∈ s.entryCores e ∧ (s.core 0).tiles[0]? = some e ∧ e.core = 0 ∧ e.stop = false ∧ e.loading = false ∧ s.turnOf e = true ∧
        s.stopped (s.wave ⟨0, 0⟩) = false ∧ s.gangAt ⟨0, 0⟩ = some (aGang true) ∧ e.flying = [] ∧ e.table = (aGang true).home ∧
        r.deadFor e.handle (s.wave ⟨0, 0⟩).ctx = false ∧ r.elsewhere (aGang true) = false ∧ r.st ≠ .revoked ∧
        (s.core 0).writesBefore e.slot e.before = false ∧ r.planes ≠ []) ∧
    (let e : SeqEntry := { anEntry .wload with loading := true }
      let s := bonded true .loading [e];
      0 ∈ s.entryCores e ∧ (s.core 0).tiles[0]? = some e ∧ e.loading = true ∧ e.lines = [] ∧ (s.entryResidency e).st = .loading) := by
  decide +kernel

/-- A WLOAD restored on cores of another cluster than its table's, its residency LOADING. -/
theorem witness_load_elsewhere :
    let e := { anEntry .wload with table := 1 }
    let s := (bonded true .loading [e]).setCluster 1 { two.cluster 1 with residencies := [(5, aResidency .loading)] }
    let r := s.entryResidency e
    0 ∈ s.entryCores e ∧ (s.core 0).tiles[0]? = some e ∧ e.core = 0 ∧ e.stop = false ∧ e.loading = false ∧ s.turnOf e = true ∧
      s.stopped (s.wave ⟨0, 0⟩) = false ∧ s.gangAt ⟨0, 0⟩ = some (aGang true) ∧ e.table ≠ (aGang true).home ∧
      r.deadFor e.handle (s.wave ⟨0, 0⟩).ctx = false ∧ r.st = .loading ∧ s.loadBehind e = none ∧ (s.wave ⟨0, 0⟩).tile = none := by
  decide +kernel

/-- A K-step of a residency that is ready, pinned, revoked, stale or evicted (the last two with the wave's writes done, so that a
.RELOAD may begin), one with a dead handle, one of another table, and one of a residency that a gang of another shape holds. -/
theorem witness_steps : ∀ st ∈ [ResState.revoked, .ready, .pinned, .stale, .evicted],
    let e := anEntry .mloop
    let s := bonded true st [e]
    let r := s.entryResidency e
    let g := aGang true
    0 ∈ s.entryCores e ∧ s.nextTile 0 .mloop = some e ∧ e.loading = false ∧ e.core = 0 ∧ s.gangAt ⟨0, e.slot⟩ = some g ∧
      s.stopped (s.wave ⟨0, 0⟩) = false ∧ e.table = g.home ∧ e.first = true ∧ (s.core 0).writesBefore e.slot e.before = false ∧
      e.flying = [] ∧ r.planes ≠ [] ∧
      (s.wave ⟨0, e.slot⟩).tile = none ∧ r.deadFor e.handle (s.wave ⟨0, e.slot⟩).ctx = false ∧ r.elsewhere g = false ∧
      r.seen (s.loadBehind e).isSome = st ∧ (⟨g, r, e.w1, e.fn.testBit 1, e.steps⟩ : Loop).poisoned s = false ∧ g.south.Nodup := by
  decide +kernel

theorem witness_steps_dead :
    (let e : SeqEntry := { anEntry .mloop with handle := 0x205 }
      let s := bonded true .ready [e];
      s.nextTile 0 .mloop = some e ∧ e.table = (aGang true).home ∧ (s.entryResidency e).deadFor e.handle (s.wave ⟨0, 0⟩).ctx = true) ∧
    (let e : SeqEntry := { anEntry .mloop with table := 1 }
      let s := bonded true .ready [e];
      s.nextTile 0 .mloop = some e ∧ 0 ∈ s.entryCores e ∧ e.table ≠ (aGang true).home) ∧
    ({ aResidency .ready with rlog := 1 } : Residency).elsewhere (aGang true) = true := by decide +kernel

/-- A packet of port 2 for slice 0, at address 0 under key slot 0, with a payload of the given length. -/
def aPacket (ty : PType) (n : Nat) (data : List Byte) : Packet :=
  { ty := ty, port := 2, slice := 0, seq := 0, dom := 0, key := 0, mark := false, trim := false, rpl := false, retry := 0, len := n,
    opx := 0, mgrp := 0, mcast := 0, addr := 0, ts := 0, ld := 0, mt2 := false, watch := false, again := false, born := 0, data := data }

/-- The network with one packet on a wire, and another in the payload queue of output 4352, `n` times over. -/
def onWire (f : Flight) (n : Nat) : State :=
  { two with net := { two.net with
    wires := [f]
    outs := [(4352, ⟨List.replicate n ⟨aPacket .rdata 128 (List.replicate 128 0), 0, [], []⟩, [], 0, 0, 0⟩)] } }

/-- PacketsInTheNetwork: a packet with another output ahead: its payload fits exactly, does not fit, or it has none, or the
output is another domain's; a WINV at its port; at its slice and at its port. A payload of 128 bytes takes 8 flits. -/
theorem witness_wires :
    (let f : Flight := ⟨aPacket .wr 128 (List.replicate 128 0), 0, [4352], []⟩
      let s := onWire f 7;
      s.net.wires[0]? = some f ∧ (∀ g ∈ s.net.wires.take 0, wireBehind g f = false) ∧ f.pkt.ty ≠ .mdata ∧ f.path = [4352] ∧
        f.pkt.data ≠ [] ∧ (s.domOf f.pkt.dom).ownsOut 4352 = true ∧ queueFlits (s.out 4352).queue - ((s.out 4352).done - 1) + f.pkt.flits ≤ 64) ∧
    (let f : Flight := ⟨aPacket .wr 128 (List.replicate 128 0), 0, [4352], []⟩
      let s := onWire f 8; f.pkt.data ≠ [] ∧ 64 < queueFlits (s.out 4352).queue - ((s.out 4352).done - 1) + f.pkt.flits) ∧
    (let f : Flight := ⟨aPacket .rd 64 [], 0, [4352], []⟩
      let s := onWire f 1; f.pkt.data = [] ∧ (∀ g ∈ (s.out 4352).queue, sameFlow g.pkt f.pkt = false)) ∧
    (let f : Flight := ⟨aPacket .wr 128 (List.replicate 128 0), 0, [4352], []⟩
      let s := (onWire f 1).withMs { two.ms with doms := [(0, ⟨⟨0, 16, 1, false, 0, 0, []⟩, [0]⟩)] };
      (s.domOf f.pkt.dom).ownsOut 4352 = false) ∧
    (let f : Flight := ⟨aPacket .winv 0 [], 0, replyPath Dom.undivided 0 2, [2]⟩
      let s := onWire f 0;
      f.pkt.ty = .winv ∧ f.arrived (s.domOf f.pkt.dom) = true ∧ Dom.undivided.ownsPort 2 = true) ∧
    (let f : Flight := ⟨aPacket .wr 128 (List.replicate 128 0), 0, [], []⟩
      let s := onWire f 0;
      f.path = [] ∧ s.dom? f.pkt.dom = some Dom.undivided ∧ f.pkt.ty.isRequest = true ∧ Dom.undivided.ownsSlice f.pkt.slice = true ∧
        (s.slice f.pkt.slice).inputFlits + f.pkt.flits ≤ 64) ∧
    (let f : Flight := ⟨aPacket .rdata 128 (List.replicate 128 0), 0, [], []⟩;
      f.path = [] ∧ f.pkt.ty.isRequest = false ∧ Dom.undivided.ownsPort f.pkt.port = true) := by decide +kernel

/-- An MDATA with one output before it; an output that no residue copy waits for; a residue copy 256 network cycles old. -/
theorem witness_residues :
    (let f : Flight := ⟨aPacket .mdata 64 (List.replicate 64 0), 0, [], [2]⟩
      let s := onWire f 0;
      s.net.wires[0]? = some f ∧ f.pkt.ty = .mdata ∧ f.arrived (s.domOf f.pkt.dom) = false ∧
        forkOutputs (s.domOf f.pkt.dom) f = [(4352, [2])] ∧ f.pkt.data ≠ [] ∧
        (s.domOf f.pkt.dom).ownsOut 4352 = true ∧ (s.out 4352).load + f.pkt.flits ≤ 64) ∧
    two.waitingSwitches 4352 = [] ∧
    (∀ n ∈ [0, 8], let o : SwitchOut := { (onWire ⟨aPacket .rd 64 [], 0, [4352], []⟩ 1).out 4352 with done := n };
      ∀ f ∈ o.queue, o.done ≤ f.pkt.flits) ∧
    (let f : Flight := ⟨aPacket .mdata 64 (List.replicate 64 0), 0, [], [2]⟩
      let s : State := { two with now := 512, net := { two.net with residues := [(1, ⟨[(f, 4352, 0)], 0⟩)] } };
      (s.residue 1).held[0]? = some (f, 4352, 0) ∧ 0 + 256 ≤ s.netNow ∧ f.pkt.ty = .mdata) := by decide +kernel

/-- A line of slice 0 that its home holds, watched or not. -/
def aWay (watch : Bool) : Way := ⟨0, 0, 0, false, watch, 5, 9, 0⟩

/-- Slice 0 with that line and some packets at its input. -/
def atSlice (watch : Bool) (ps : List Packet) : State :=
  two.setSlice 0 { Slice.reset with sets := [(0, [aWay watch])], inbox := ps }

theorem atSlice_ready (watch : Bool) (p : Packet) (h : p.slice = 0) (h1 : p.trim = false) : (atSlice watch [p]).ready 0 0 p :=
  ⟨rfl, h, h1, by simp [Slice.inputBlocked, atSlice, State.setSlice, State.slice, Map.getD_set_self], rfl, rfl⟩

theorem two_memory : two.memoryKept := by unfold State.memoryKept; decide +kernel

/-- SlicesApplyRequests: each of the five requests, on a line that is watched and on one that is not. -/
theorem witness_slices : ∀ watch ∈ [true, false], ∀ ty ∈ [PType.rd, .cprdm, .wr, .atom, .red],
    let p := aPacket ty 4 (if ty = .rd ∨ ty = .cprdm then [] else [1, 2, 3, 4])
    let s := atSlice watch [p]
    p.slice = 0 ∧ p.trim = false ∧ p.rpl = false ∧ p.retry = 0 ∧ (s.slice 0).behind p = false ∧
      (s.dom? p.dom = some Dom.undivided ∧ Dom.undivided.plan.num = p.dom ∧ Dom.undivided.home p.addr = p.slice ∧
        s.keyUsable p.key p.dom = true ∧ (s.slice p.slice).way? (Dom.undivided.set p.addr) (p.addr / 128) = some (aWay watch) ∧
        (aWay watch).key = p.key ∧ (s.slice p.slice).flagged p.addr p.len s.netNow = false ∧
        s.rangePoisoned Dom.undivided p.addr p.len = false ∧ (s.slice p.slice).winvs.length < 64) ∧
      p.addr % 128 + p.len ≤ 128 ∧ (ty = .wr → p.data.length = p.len) ∧ Memory.wf s.ms.mem = true ∧ s.keyed p = p ∧
      missable ((s.slice 0).recent p.addr p.len s.netNow) p.addr p.len p.ts s.netNow = [] := by decide +kernel

/-- HolesPullsAndWacks: a payload sent again for the hole of its header; a hole whose spacing has passed; the last WACK, and one
of two. -/
theorem witness_holes :
    (let p : Packet := { aPacket .wr 4 [1, 2, 3, 4] with retry := 1 }
      let h : Hole := ⟨{ aPacket .wr 4 [] with trim := true }, false⟩
      let s := two.setSlice 0 { Slice.reset with sets := [(0, [aWay false])], inbox := [p], holes := [h] };
      p.retry ≠ 0 ∧ p.ty = .wr ∧ (s.slice 0).holes = [h] ∧ (s.slice 0).holeOf p = some h ∧
        (s.slice 0).way? (Dom.undivided.set p.addr) (p.addr / 128) = some (aWay false) ∧ p.addr % 128 + p.len ≤ 128 ∧
        p.data.length = p.len ∧ (s.slice 0).inbox[0]? = some p ∧ (s.slice 0).inputBlocked 0 p = false) ∧
    (let h : Hole := ⟨{ aPacket .wr 4 [] with trim := true }, false⟩
      let s := ({ two with now := 200 } : State).setSlice 0 { Slice.reset with holes := [h], lastPull := [(2, 68)] };
      (s.slice 0).holes[0]? = some h ∧ h.pulled = false ∧ h.pkt.ty ≠ .msg ∧
        Map.get? (s.slice 0).lastPull h.pkt.port = some 68 ∧ 68 + min 1024 (32 * 2 ^ h.pkt.retry) = s.netNow) ∧
    (∀ cs ∈ [[1], [1, 2]], let o : WinvOp := ⟨0, cs, some (aPacket .wdone 0 [])⟩
      let p := aPacket .wack 0 []
      let s := two.setSlice 0 { Slice.reset with inbox := [p], winvs := [o] };
      (s.slice 0).inbox[0]? = some p ∧ p.ty = .wack ∧ 128 * portDie p.port + p.port % 256 / 2 = 1 ∧ (s.slice 0).winvs = [o] ∧
        o.line = p.addr / 128 ∧ 1 ∈ o.clusters ∧ (s.slice 0).waiting = [] ∧ (s.slice 0).migrating = []) := by decide +kernel

/-- MessagesAreRelayed: a message that arrives; an offer answered, first refused or refused before; an offer due again, and one
whose 1,024 network cycles are over. -/
def aHeld (offered : Bool) (refused : Option Nat) : HeldMsg := ⟨aPacket .msg 16 (List.replicate 16 0), offered, 1, refused, 0⟩

theorem witness_messages :
    (let p := aPacket .msg 16 (List.replicate 16 0)
      let s := atSlice false [p]; p.rpl = false ∧ p.retry = 0 ∧ (s.slice 0).behind p = false ∧ (s.slice 0).msgs = [] ∧ (s.slice 0).msgRoom = true) ∧
    (∀ ty ∈ [PType.mack, .mnak], let p := aPacket ty 0 []
      let m := aHeld true none
      let s := two.setSlice 0 { Slice.reset with inbox := [p], msgs := [m] };
      (s.slice 0).inbox[0]? = some p ∧ (s.slice 0).msgs = [m] ∧ (s.slice 0).waiting = [] ∧ (s.slice 0).migrating = [] ∧
        m.pkt.slice = 0 ∧ m.offered = true ∧ p.addr % 2 ^ 15 = m.pkt.addr % 2 ^ 15 ∧ m.refusedAt = none ∧ p.opx = 0 ∧
        ({ p with opx := 1 } : Packet).opx = 1 ∧ 2 ≤ ({ p with opx := 2 } : Packet).opx) ∧
    (let m := aHeld false (some 0)
      let s := ({ two with now := 2048 } : State).setSlice 0 { Slice.reset with msgs := [m] };
      (s.slice 0).msgs = [m] ∧ m.offered = false ∧ m.offers ≠ 0 ∧ m.nextOffer ≤ s.netNow ∧ m.refusedAt = some 0 ∧
        0 + 1024 ≤ s.netNow) ∧
    (let m := aHeld false (some 0)
      let s := ({ two with now := 2046 } : State).setSlice 0 { Slice.reset with msgs := [m] };
      m.offers ≠ 0 ∧ m.nextOffer ≤ s.netNow ∧ s.netNow < 0 + 1024) ∧
    (∀ q ∈ [(2048, true), (2046, false)], let p := { aPacket .mack 0 [] with born := q.1 }
      let m := aHeld true (some 0)
      let s := two.setSlice 0 { Slice.reset with inbox := [p], msgs := [m] };
      (s.slice 0).inbox[0]? = some p ∧ (s.slice 0).msgs = [m] ∧ m.offered = true ∧ m.refusedAt = some 0 ∧
        decide (0 + 1024 ≤ p.born / 2) = q.2) := by decide +kernel

/-- SliceMaintenance: a migration that begins, under a key slot that may not be used, with a hole in its range, and drained; its
release; a fill, of a way and beside the ways; a line to scrub. -/
theorem witness_slice_maintenance :
    (let p := { aPacket .migrate 4096 [] with ld := 8192 }
      let m : Migrating := ⟨0, 4096, 8192, 0, 0, 0, false, false, false⟩
      let s := two.setSlice 0 { Slice.reset with inbox := [p] };
      (s.slice 0).inbox[0]? = some p ∧ (s.slice 0).migrating = [] ∧ s.keyUsable 1 p.dom = false ∧
        (({ s.slice 0 with holes := [⟨aPacket .wr 4 [], false⟩] } : Slice).drained m) = false ∧
        s.keyUsable p.key p.dom = true ∧ (s.slice 0).drained m = true ∧ s.dom? p.dom = some Dom.undivided ∧
        Dom.undivided.plan.num = p.dom ∧ p.addr % 128 = 0 ∧ p.len % 128 = 0 ∧ p.ld % 128 = 0 ∧ p.ld + p.len ≤ 2 ^ 50 ∧
        p.addr + p.len ≤ p.ld ∧ s.net.slices.all (fun x => x.2.winvs.length < 64 && x.2.sets == []) = true) ∧
    (let s := two.setSlice 0 { Slice.reset with inbox := [aPacket .release 4096 []] };
      (s.slice 0).inbox[0]? = some (aPacket .release 4096 [])) ∧
    (∀ mt2 ∈ [false, true], let s := two.setSlice 0 { Slice.reset with fills := [(0, 0, mt2)] };
      (s.slice 0).fills[0]? = some (0, 0, mt2) ∧
        s.ms.doms.find? (fun e => e.2.holds (128 * 0) && e.2.home (128 * 0) == 0) = some (0, Dom.undivided) ∧
        s.winvBlocked Dom.undivided (128 * 0) mt2 false = false ∧ (s.slice 0).way? (Dom.undivided.set (128 * 0)) 0 = none) ∧
    (((atSlice false []).slice 0).sets.flatMap (fun e => e.2.map (fun w => (e.1, w))))[0]? = some (0, aWay false) := by
  decide +kernel

/-- A load of core 0 that waits for one packet, sent through port 2. -/
def aRequest : Request :=
  { pa := 0, len := 4, key := 0, data := [], pieces := [], st := .sent 2 0 0, refused := 0, val := [], poison := false, wts := 0, rts := 0 }

def aLoad (kind : OpKind) : MemOp :=
  { id := 9, slot := 0, kind := kind, cls := some .ld, dst := none, frame := 0, uni := false, size := 4, sign := false, so := 0,
    scope := 0, opx := 0, threads := 1, reqs := [aRequest] }

/-- Port 2 with that request outstanding for a client, and a packet at its input. -/
def answered (client : Client) (p : Packet) : State :=
  (two.setMyCore { two.myCore with ops := [aLoad .load], copies := [running .tcopy 2] }).setPort 2 { Port.reset with
    outstanding := [⟨0, 0, aPacket .rd 4 [], client, 0⟩], inbox := [p] }

/-- RepliesAndHostWindow: the final replies to an operation; trimmed replies; a PULL; a REDIRECT of a copy's chunk. -/
theorem witness_replies : ∀ ty ∈ [PType.rdata, .wdone, .ares, .mdone, .pull],
    let p := aPacket ty 4 [1, 2, 3, 4]
    let c : Client := .op 0 9 0
    let s := answered c p;
    2 ≠ 513 ∧ (s.port 2).inbox[0]? = some p ∧ (s.port 2).find p.slice p.seq = some ⟨0, 0, aPacket .rd 4 [], c, 0⟩ ∧
      (s.port 2).waiting = [] ∧ p.trim = false ∧ p.opx = 0 ∧ p.olds = [] ∧ (s.core 0).ops.find? (fun y => y.id == 9) = some (aLoad .load) ∧
      (aLoad .load).reqs[0]? = some aRequest ∧ (aLoad .load).kind ≠ .prefetch ∧ ({ p with trim := true } : Packet).trim = true := by
  decide +kernel

/-- An operation of core 0 whose one request has its answer, for thread 0 at core cycle `w`, with its data poisoned or not. -/
def anEnded (kind : OpKind) (uni poison : Bool) (w : Nat) : MemOp :=
  { aLoad kind with
    dst := some (if uni then 0x22 else 2), uni := uni
    reqs := [{ aRequest with st := .done, val := [1, 2, 3, 4], pieces := [⟨0, 0, 0, 4, 0, 0, 0⟩], poison := poison, wts := w, rts := 9 }] }

theorem window_apart : (windowAt 0 0 3).wv.win.apart := by
  intro g h i hg hh
  have h1 : (windowAt 0 0 3).wv.win.place = [(0, 0), (1, 1)] := rfl
  rw [h1] at hg hh
  have at' : ∀ n, Map.get? [((0 : Nat), 0), (1, 1)] n = some i → n = i := fun n hn => by
    simp only [Map.get?] at hn
    split_ifs at hn with h0 h1 <;> simp_all
  rw [at' g hg, at' h hh]

/-- An operation that has its answers and may complete, of each kind; one of the core's memories whose port is still busy; a load
behind an earlier access of its wave; and one still without its answer. -/
theorem witness_settles :
    (∀ kind ∈ [OpKind.store, .red, .spill, .prefetch, .coreStore, .load, .fill, .msend, .atom, .coreLoad, .coreAtom, .ratoms],
      ∀ uni ∈ [false, true], ∀ poison ∈ [false, true],
      let o := anEnded kind uni poison 0
      let s := (windowAt 0 0 3).setMyCore { (windowAt 0 0 3).myCore with ops := [o] };
      o ∈ (s.core 0).ops ∧ (∀ r ∈ o.reqs, r.st = .done) ∧ (s.core 0).loadOpen o = true ∧
        o.leased (s.wave ⟨0, o.slot⟩).pts = true ∧ (∀ r ∈ o.reqs, r.olds = []) ∧ (∀ r ∈ o.reqs, r.wts ≤ s.now) ∧
        (∀ x ∈ (s.core 0).ops, x.slot = o.slot → x.kind = .coreAtom → x.cls = none → o.id ≤ x.id)) ∧
    (let o := anEnded .coreLoad false false 5
      let s := two.setMyCore { two.myCore with ops := [o] };
      o.kind.onCore = true ∧ ¬ ∀ r ∈ o.reqs, r.wts ≤ s.now) ∧
    (let o := anEnded .load false false 0
      let s := two.setMyCore { two.myCore with ops := [{ aLoad .store with id := 8 }, o] };
      o ∈ (s.core 0).ops ∧ (s.core 0).loadOpen o = false ∧ ∀ r ∈ o.reqs, r.st = .done) ∧
    (∃ r ∈ (aLoad .load).reqs, r.st ≠ .done) := by decide +kernel

theorem witness_redirect :
    let p := aPacket .redirect 4 []
    let c : Client := .chunk 0 7 64
    let s := answered c p;
    (s.port 2).find p.slice p.seq = some ⟨0, 0, aPacket .rd 4 [], c, 0⟩ ∧
      (s.core 0).copies.find? (fun y => y.id == 7) = some (running .tcopy 2) := by decide +kernel

/-- The host interface with each kind of access to the host window waiting, for no one and for a load. -/
theorem witness_host_window : ∀ ty ∈ [PType.rd, .wr, .red, .atom],
    let p := { aPacket ty 4 [1, 2, 3, 4] with addr := 2 ^ 51 }
    ∀ c ∈ [Client.none, .op 0 9 0],
      let u := two.setMyCore { two.myCore with ops := [aLoad .load] }
      let s := { u with host := { u.host with accesses := [(p, c)] } }
      s.host.accesses[0]? = some (p, c) ∧ p.olds = [] ∧ p.opx ≠ 6 ∧ Memory.wf s.ms.mem = true ∧
        (s.core 0).ops.find? (fun y => y.id == 9) = some (aLoad .load) ∧ (aLoad .load).reqs[0]? = some aRequest ∧
        (aLoad .load).kind ≠ .prefetch := by decide +kernel

/-- DeliveriesToACluster: multicast data and a WINV at an input; a WINV of a line that backs a residency, READY or LOADING. -/
theorem witness_deliveries :
    (let p := { aPacket .mdata 64 (List.replicate 64 0) with mcast := 1 }
      let s := two.setPort 2 { Port.reset with inbox := [p] };
      (s.port 2).inbox[0]? = some p ∧ p.mcast ≠ 0 ∧ p.trim = false ∧ p.opx % 2 = 0) ∧
    (∀ st ∈ [ResState.ready, .pinned, .loading], let p := aPacket .winv 0 []
      let r := { aResidency st with lines := [0] }
      let s := (two.setPort 2 { Port.reset with inbox := [p] }).setCluster 1 { Cluster.reset with residencies := [(5, r)] };
      (s.port 2).inbox[0]? = some p ∧ (5, r) ∈ (s.cluster (128 * portDie 2 + 2 % 256 / 2)).residencies ∧ p.addr / 128 ∈ r.lines ∧
        s.backs 1 5 r (p.addr / 128) = true) ∧
    (let p := aPacket .winv 0 []
      let r := { aResidency .ready with lines := [1] }
      let s := (two.setPort 2 { Port.reset with inbox := [p] }).setCluster 1 { Cluster.reset with residencies := [(5, r)] };
      r.st ≠ .loading ∧ p.addr / 128 ∉ r.lines ∧ s.backs 1 5 r (p.addr / 128) = false) := by
  decide +kernel

/-- Offered messages for ring 7 of core 0: trimmed; with one place left and with none; a byte count for a phaser. -/
theorem witness_offers :
    (∀ t ∈ [1, 2], let p := { aPacket .msgd 16 (List.replicate 16 0) with addr := 7 }
      let s := (ringed.setMyCore { ringed.myCore with spad := ringed.myCore.spad.write 292 [BitVec.ofNat 8 t] }).setPort 2
        { Port.reset with inbox := [p] }
      let c := s.core (msgCore p.addr);
      (s.port 2).inbox[0]? = some p ∧ p.trim = false ∧ p.opx < 16 ∧ c.ringPoisoned (p.addr % 8) = false ∧
        c.ring (p.addr % 8) = some ⟨16, 1, 256, 288, 292⟩ ∧ c.spad.poisoned 288 4 = false ∧ c.spad.poisoned 292 4 = false ∧
        p.data.length ≤ 16 ∧ (c.spadWord 292 + 2 ^ 32 - c.spadWord 288) % 2 ^ 32 = t) ∧
    (let p := { aPacket .msgd 32 (List.replicate 32 0) with addr := 7, opx := 24 }
      let s := two.setPort 2 { Port.reset with inbox := [p] };
      (s.port 2).inbox[0]? = some p ∧ p.opx = 24 ∧ p.trim = false ∧ ({ p with trim := true } : Packet).trim = true) := by
  decide +kernel

/-- EnginesAnswerWaves: a byte count for a live phaser; a poll that is due; an L1 line 2,048 core cycles old. -/
theorem witness_engines :
    (let s := (phasing Phaser.reset none).setCluster 0 { (phasing Phaser.reset none).cluster 0 with adds := [⟨0x10000, 64, none, 0, 0⟩] };
      (s.cluster 0).adds[0]? = some ⟨0x10000, 64, none, 0, 0⟩ ∧ phRef (BitVec.ofNat 32 0x10000) = .hardware 0 0 1 true ∧
        s.phDead (.hardware 0 0 1 true) none = false) ∧
    (let s := ({ two with issuing := [] } : State).mapWv (fun v => { v with waits := { v.waits with polls := 1 } });
      (s.wave ⟨0, 0⟩).sched.live = true ∧ (s.wave ⟨0, 0⟩).halt = none ∧ s.stopped (s.wave ⟨0, 0⟩) = false ∧
        (s.wave ⟨0, 0⟩).waits.polls ≠ 0 ∧ (s.wave ⟨0, 0⟩).waits.pollAt ≤ s.now ∧ (⟨0, 0⟩ : WaveId) ∉ s.issuing) ∧
    (let l : L1Line := ⟨0, [], 0, 0, 0, 0, 0, 0, []⟩
      let s := ({ two with now := 2048 } : State).setMyCore { two.myCore with l1 := [l] };
      (s.core 0).l1[0]? = some l ∧ l.filled + 2048 ≤ s.now) := by decide +kernel

/-- A walk of page 9 of the small state for a load, at a place. -/
def aWalk (pos : Option WalkPos) (m : Bool) : Walker := ⟨0, 9, ⟨0, 0, 0, 0, 0⟩, [(0, 0, 0)], 0, 0, m, pos, false⟩

/-- Its state: the entry of level 4 stands in the translation cache, and every slice is as given. -/
def walking (x : Slice) (w : Walker) : State :=
  let s := (idle.withMs { idle.ms with xcache := [⟨0, 0, 4, 0, 0x1021⟩] }).setCluster 0 { Cluster.reset with walks := [w] }
  s.setSlice (Dom.undivided.home 0x1000) x

/-- At the root, where the cache has the entry; at level 3, with an entry that passes to the next table. -/
theorem witness_walk_goes : ∀ m ∈ [false, true],
    (let w := aWalk none m
      let s := walking Slice.reset w;
      (s.cluster 0).walks[0]? = some w ∧ w.migrating = m ∧ w.retryAt ≤ s.netNow ∧ w.waiters ≠ [] ∧ s.dom? w.ctx.dom = some Dom.undivided ∧
        s.keyFault w.ctx.dom w.ctx.key = none ∧
        (s.walkAct 0 w.ctx (w.page * 4096) w.ts (w.waiters.map (fun m => m.2.2)) w.fresh w.pos).2 = .go ⟨4, 0, 0, some 0x1021⟩) ∧
    (let w := aWalk (some ⟨3, 0x1000, 0, some 0x2021⟩) m
      let s := walking Slice.reset w;
      w.pos = some ⟨3, 0x1000, 0, some 0x2021⟩ ∧ 0x2021 % 4 = 1 ∧ (0x2021 : Nat).testBit 5 = true ∧
        s.entryFault Dom.undivided 3 0x2021 0 = none) := by decide +kernel

/-- At level 3, where the entry's home is frozen, or its line's 16 ways are watched with 64 WINV operations open. -/
theorem witness_walk_waits :
    (let w := aWalk (some ⟨3, 0x1000, 0, none⟩) false
      let s := walking { Slice.reset with migrating := [⟨0, 2 ^ 20, 2 ^ 20, 0, 0, 0, false, false, false⟩] } w;
      (s.walkAct 0 w.ctx (w.page * 4096) w.ts (w.waiters.map (fun m => m.2.2)) w.fresh w.pos).2 = .restart) ∧
    (let w := aWalk (some ⟨3, 0x1000, 0, none⟩) false
      let ways := (List.range 16).map (fun i => { aWay true with way := i, line := 2 ^ 30 + i })
      let s := walking { Slice.reset with
        sets := [(Dom.undivided.set 0x1000, ways)], winvs := List.replicate 64 ⟨0, [1], none⟩ } w;
      (s.walkAct 0 w.ctx (w.page * 4096) w.ts (w.waiters.map (fun m => m.2.2)) w.fresh w.pos).2 = .busy) := by decide +kernel

/-- An entry that is not valid; a leaf of 1 GiB, which the load may use, may not because its key slot is not loaded, or finds
with MIG = 1. -/
theorem witness_walk_ends :
    let act := fun (s : State) (w : Walker) =>
      (s.walkAct 0 w.ctx (w.page * 4096) w.ts (w.waiters.map (fun m => m.2.2)) w.fresh w.pos).2
    let at' := fun (e : Nat) => aWalk (some ⟨2, 0x2000, 0, some e⟩) false
    let s := walking Slice.reset (at' 0)
    (at' 0).waiters = [(0, 0, 0)] ∧ act s (at' 0x20) = .fault (.sub 1 2) ∧ act s (at' 0x67) = .leaf 2 0x67 ∧
      act s (at' 0xE7) = .leaf 2 0xE7 ∧ act s (at' (0x67 + 2 ^ 52)) = .leaf 2 (0x67 + 2 ^ 52) ∧
      s.judgeLeaf (at' 0).ctx (9 * 4096) 0 2 0x67 = .leaf ⟨0, 0, 30, 0, 0, 0, true, false, true, 0⟩ ∧
      s.judgeLeaf (at' 0).ctx (9 * 4096) 0 2 0xE7 = .migrating ∧
      s.judgeLeaf (at' 0).ctx (9 * 4096) 0 2 (0x67 + 2 ^ 52) = .fault (.sub 6 2) := by decide +kernel

/-- The small state with three more live waves in the set of core 0, and one outside it. -/
def crowd : State :=
  { idle with issuing := [], waves := [(1, idle.wv), (2, idle.wv), (3, idle.wv), (4, { idle.wv with sched := { idle.wv.sched with inSet := false } })] }

/-- WavesAreScheduled: a full set; one with a place and nobody ready; one with a place and a ready wave outside; and the three
exits at their boundaries. -/
theorem witness_scheduled :
    4 ≤ (crowd.setOn 0).length ∧
    ((idle.setOn 0).length < 4 ∧ ∀ id ∈ idle.wavesOn 0, idle.readyOutside id = false) ∧
    (let s : State := { idle with waves := [(4, { idle.wv with sched := { idle.wv.sched with inSet := false } })] };
      (s.setOn 0).length < 4 ∧ ∃ id ∈ s.wavesOn 0, s.readyOutside id = true ∧ (s.wave id).sched.sleepUntil = 0) ∧
    (let x := ((idle.mapWv (fun v => { v with sched := { v.sched with idle := 64 } })).wave ⟨0, 0⟩).sched;
      x.live = true ∧ x.inSet = true ∧ 64 ≤ x.idle) ∧
    (let s : State := { crowd with waves := [(1, idle.wv), (4, { idle.wv with sched := { idle.wv.sched with inSet := false, readyOut := 256 } })] }
      let x := (s.wave ⟨0, 4⟩).sched; x.live = true ∧ x.inSet = false ∧ 256 ≤ x.readyOut ∧ s.setOn 0 ≠ []) ∧
    (let s := ({ idle with now := 7 } : State).mapWv (fun v => { v with sched := { v.sched with inSet := false, sleepUntil := 7 } })
      let x := (s.wave ⟨0, 0⟩).sched; x.live = true ∧ x.inSet = false ∧ x.sleepUntil ≠ 0 ∧ x.sleepUntil ≤ s.now) := by decide +kernel

/-- The engines' turns: in either core cycle of a network cycle, a wave whose instruction is an operation of an engine, and one
whose instruction is none. -/
theorem witness_engines_turn : ∀ now ∈ [0, 1], ∀ x ∈ [((.phsig { plainT with a := 0x20, b := 0xA1 } : Instr), true), (.vadd plainAdd, false)],
    let s : State := { small 64 (leNat ((encode x.1).getD [])) with now := now, issuing := [⟨0, 0⟩, ⟨0, 3⟩, ⟨1, 2⟩] };
    s.now % 2 = now ∧ s.issuing.Pairwise (fun x y => 8 * x.core + x.slot ≤ 8 * y.core + y.slot) ∧
      ((s.focus ⟨0, 0⟩).fetchDecode.2.map (fun i => viewEngine i.view)) = some x.2 := by decide +kernel

/-- WavesAndBlocks: a wave at its end with an operation, with a tile fault, and with neither; a grid with a block to place. -/
theorem witness_wave_end :
    (let s := two.mapWv (fun v => { v with waits := { v.waits with ending := true } })
      let w := s.wave ⟨0, 0⟩;
      w.sched.live = true ∧ w.waits.ending = true ∧ s.stopped w = false ∧ w.cnt = ⟨0, 0, 0, 0, 0⟩ ∧ w.waits.enq = 0 ∧ w.tile = none ∧
        ∀ b ∈ (s.core 0).blocks, b.grid = w.ident.grid ∧ b.b = w.ident.block) ∧
    ((two.core 0).blocks.map (fun x => (x.grid, x.b))).Nodup ∧
    (two.mapWv (fun v => { v with cnt := ⟨0, 0, 0, 0, 1⟩ })).wv.cnt ≠ ⟨0, 0, 0, 0, 0⟩ ∧
    (two.mapWv (fun v => { v with tile := some ⟨0x33, 0, 0⟩ })).wv.tile = some ⟨0x33, 0, 0⟩ ∧ two.wv.halt = none := by decide +kernel

theorem witness_dispatch :
    let s : State := { State.reset with fe := { State.reset.fe with grids := [(0, aGrid)] } };
    Map.get? s.fe.grids 0 = some aGrid ∧ aGrid.placed < aGrid.count ∧ (s.domOf aGrid.ctx.dom).clusters.contains 255 = true ∧
      (s.ctx aGrid.ctx.asr).stopping = false ∧ s.placeFor 0 255 aGrid = some [4080] ∧ [4080].Nodup ∧ (s.argsOf 0 aGrid (aGrid.nextBlocks 1)).2.isSome = true := by
  decide +kernel

/-- A front end with queue 1 of domain 0, held by lane `i` of 64, its record current at both dies; event ring 0 with 16 places of
which `full` are taken; the first GiB of the address space of package memory and the second of host memory, through the translation
caches; packet `b` to execute; and the answers that Cicada has had. -/
def frontedAt (i : Nat) (q : QueueRec) (full : Nat) (b : List Byte) (rs : List FeAnswered) : State :=
  { idle with
    issuing := []
    ms := { idle.ms with
      xcache := [0, 1].flatMap (fun die => ([⟨die, 0, 4, 0, 0x1021⟩, ⟨die, 0, 3, 0, 0x2021⟩, ⟨die, 0, 2, 0, 0x67⟩,
        ⟨die, 0, 2, 1, 2 ^ 51 + 0x67⟩] : List CachedEntry)) }
    fe := { idle.fe with
      queues := [(1, q)]
      lanes := [(i, ⟨some 1, 0⟩)]
      todo := if b = [] then [] else [(1, b)]
      rings := [(0, { EventRing.reset with set := true, logn := 4, tail := BitVec.ofNat 32 full })]
      reads := rs
      replicas := [(1, q)] } }

def fronted (q : QueueRec) (full : Nat) (b : List Byte) : State := frontedAt 0 q full b []

/-- The answer to a read of the packet's agent of queue 1, and to a write. -/
def hasRead (va : Nat) (bs : List Byte) : FeAnswered := ⟨feOwner 1 2, 2 * va, 0, bs⟩
def hasWritten (va : Nat) : FeAnswered := ⟨feOwner 1 2, 2 * va + 1, 0, []⟩

/-- A queue with one packet at 4096. -/
def aQueue : QueueRec := { QueueRec.reset with enable := true, logn := 4, base := 4096, tail := 1 }

/-- A packet of some type with 64-bit fields at bytes 24 and 32 and a 32-bit one at byte 40. -/
def aPkt (ty flags x y z : Nat) : List Byte :=
  [BitVec.ofNat 8 ty, BitVec.ofNat 8 flags] ++ List.replicate 22 0 ++ leBytes 8 x ++ leBytes 8 y ++ leBytes 4 z ++ List.replicate 20 0

/-- QueueRecordsAndRings: doorbells of a queue that is off, that waits for its replica, at the last place and past it; records to
change; a ring that is set; overflow records that fit exactly with the first record and that do not; records held. -/
theorem witness_doorbells :
    (0 : Nat) < 4096 ∧ (State.reset.queue 5).enable = false ∧
    (fronted { aQueue with inval := true } 0 []).recordBusy 1 = true ∧ (fronted { aQueue with enable := false } 0 []).recordBusy 1 = false ∧
    (let s := fronted aQueue 0 [] ; (s.withFe { s.fe with changes := [plainChange 1] }).recordBusy 1 = true) ∧
    ((fronted aQueue 16 []).recordBusy 1 = false ∧ ((fronted aQueue 16 []).ring 0).room = 0 ∧ (0 : Nat) = aQueue.pend.length) ∧
    (let q := (fronted aQueue 0 []).queue 1;
      (fronted aQueue 0 []).recordBusy 1 = false ∧
      q.enable = true ∧ q.inval = false ∧ ((16 - q.head).toNat ≤ 2 ^ q.logn ∧ (q.tail - q.head).toNat ≤ (16 - q.head).toNat) ∧
        ¬ ((17 - q.head).toNat ≤ 2 ^ q.logn ∧ (q.tail - q.head).toNat ≤ (17 - q.head).toNat) ∧
        ¬ ((0 - q.head).toNat ≤ 2 ^ q.logn ∧ (q.tail - q.head).toNat ≤ (0 - q.head).toNat) ∧ q.halt = false ∧
        0 < ((fronted aQueue 15 []).ring q.dom).room) := by decide +kernel

theorem witness_rings :
    (let q := (fronted { aQueue with fins := [(1, 4)] } 0 []).queue 1; q.inval = false ∧ q.counted ≠ q ∧
      (q.done + 1).toNat ∈ q.fins.map (fun e => e.1)) ∧
    (∀ b ∈ [({ QueueChange.blank 1 with bell := some (16, 5) } : QueueChange), { QueueChange.blank 1 with note := some (true, 1, 4) },
        { QueueChange.blank 1 with note := some (false, 2, 4) }],
      let s := fronted aQueue 0 []
      let q := s.queue 1;
      q.inval = false ∧ q.counted = q ∧ (∀ x ∈ [plainChange 0], x.queue ≠ 1) ∧ b.queue = 1 ∧ q.enable = true ∧
        (b.bell = some (16, 5) ∨ b.bell = none) ∧
        ((b.note.map (fun x => let q1 : QueueRec := if x.1 then { q with trigs := q.trigs ++ [x.2] } else { q with fins := q.fins ++ [x.2] };
          decide (x.1 = true ↔ q1.counted ≠ q1))).getD true = true)) ∧
    (let q := (fronted { aQueue with trigs := [(1, 4)] } 0 []).queue 1;
      (q.done + 1).toNat ∉ q.fins.map (fun e => e.1) ∧ (q.trig + 1).toNat ∈ q.trigs.map (fun e => e.1)) ∧
    ((aQueue.done + 1).toNat ∉ aQueue.fins.map (fun e => e.1) ∧ (aQueue.trig + 1).toNat ∉ aQueue.trigs.map (fun e => e.1)) ∧
    (∀ q ∈ [(none, 0), (some 7, 15), (some 7, 16)],
      let c : QueueChange := { plainChange 1 with err := q.1 }
      let s := (fronted aQueue q.2 []).withFe { (fronted aQueue q.2 []).fe with changes := [plainChange 0, c, plainChange 1] };
      (s.queue 1).inval = false ∧ s.fe.changes = [plainChange 0] ++ c :: [plainChange 1] ∧ c.queue = 1 ∧
        (∀ x ∈ [plainChange 0], x.queue ≠ 1) ∧ c.err = q.1 ∧ ((s.queue 1).changed c).halt = false ∧ (s.ring 0).room = 16 - q.2) ∧
    Map.get? (fronted aQueue 0 []).fe.queues 1 = some aQueue ∧ Map.sorted (fronted aQueue 0 []).fe.replicas = true ∧
    ((fronted aQueue 0 []).ring 0).set = true ∧
    (State.reset.ring 3).set = false ∧
    (let q := { aQueue with halt := true, pend := [7] }
      let s := fronted q 14 []; s.haltedQueue 0 = some (1, q) ∧ s.recordBusy 1 = false ∧ q.pend.length < (s.ring 0).room) ∧
    (let q := { aQueue with halt := true, pend := [7] }
      let s := fronted q 15 []; s.haltedQueue 0 = some (1, q) ∧ (s.ring 0).room ≤ q.pend.length) ∧
    (let q := { aQueue with halt := true, inval := true, pend := [7] }
      let s := fronted q 14 []; s.haltedQueue 0 = some (1, q) ∧ s.recordBusy 1 = true) ∧
    (let s := fronted aQueue 15 []
      let t := s.withFe { s.fe with rings := [(0, { s.ring 0 with held := [9] })] };
      t.haltedQueue 0 = none ∧ 0 < (t.ring 0).room ∧ (t.ring 0).held = [9]) := by decide +kernel

/-- LanesAndPackets: a lane of the other die to bind, whose die fetches the record; a step of a die with nothing to execute. -/
theorem witness_lanes :
    (let s := (fronted aQueue 0 []).withFe { (fronted aQueue 0 []).fe with lanes := [], replicas := [] }
      let s1 := (s.fe.queues.filter (fun e => e.2.dom == 0)).foldl (fun t e => t.refetch 0 e.1) s;
      s.box.dark.contains 0 = false ∧ (s.lane (32 * 0 + 31)).queue = none ∧ s.laneDomain 0 31 = some 0 ∧
        s1.nextQueue 0 0 = some 1) ∧
    (fronted aQueue 0 []).fe.todo = [] := by decide +kernel

/-- The first packet of queue 1 as a lane of either die reads it. -/
def stepsAt (i : Nat) (dts : Nat) (b b2 : List Byte) : State :=
  frontedAt i { aQueue with dts := dts } 0 [] [⟨feOwner 1 0, 2 * 4096, 0, b⟩, ⟨feOwner 1 1, 2 * 4096, 0, b2⟩]

/-- A SIGNAL without wait entries, and a launch that waits for completion 0 of queue 1. -/
def stepSignal : List Byte := 2 :: List.replicate 63 0
def stepLaunch : List Byte := [3, 1, 0, 0, 0, 0, 0, 0, 1] ++ List.replicate 55 0

/-- A step whose bound lane, of either die, holds such a packet; the launch, where DTS lies above HTS, is read again at its start
timestamp: the same, or another. -/
theorem witness_steps_lane : ∀ i ∈ [0, 32],
    let die := i / 32
    let s := stepsAt i 0 stepSignal []
    let q := s.queueAt die 1
    s.box.dark.contains die = false ∧ s.fe.todo = [] ∧ (s.lane (32 * die + 0)).queue = some 1 ∧ (s.lane (32 * die + 0)).retired < 16 ∧
      (∀ j, j < 32 → j ≠ 0 → (s.lane (32 * die + j)).queue = none) ∧ s.current die 1 = true ∧ s.mayChange die 1 = true ∧
      q.enable = true ∧ q.halt = false ∧ q.head ≠ q.tail ∧ (s.ctx q.asr).stopping = false ∧ Map.get? s.fe.hands 1 = none ∧
      (s.asrContext q.asr).dom = q.dom ∧ q.base + 64 * (q.head.toNat % 2 ^ q.logn) = 4096 := by decide +kernel

theorem witness_steps_packets : ∀ i ∈ [0, 32], ∀ b ∈ [stepSignal, stepLaunch],
    let die := i / 32
    let s := stepsAt i 0 b []
    let q := s.queueAt die 1
    let r := s.feLoad die (feOwner 1 0) (s.asrContext q.asr) 4096 64 q.hts
    r.2 = .done b ∧ packetBad b = false ∧ pktEntries b = (if b = stepLaunch then [(1, false, 0)] else []) ∧
      r.1.entryBad die q.dom (1, false, 0) = false ∧
      r.1.current die 1 = true ∧ r.1.entryMet die (1, false, 0) = true ∧ isLaunch (pktType b) = decide (b = stepLaunch) ∧
      r.1.startTs die 1 b ≤ q.hts := by decide +kernel

theorem witness_steps_again : ∀ i ∈ [0, 32], ∀ b2 ∈ [stepLaunch, stepSignal],
    let die := i / 32
    let s := stepsAt i 5 stepLaunch b2
    let q := s.queueAt die 1
    let s1 := (s.feLoad die (feOwner 1 0) (s.asrContext q.asr) 4096 64 q.hts).1
    q.hts < s1.startTs die 1 stepLaunch ∧
      (s1.feLoad die (feOwner 1 1) (s.asrContext q.asr) 4096 64 (s1.startTs die 1 stepLaunch)).2 = .done b2 := by decide +kernel

/-- WAIT without an address and with one; a poll that finds the value and one that does not. -/
theorem witness_wait_packet : ∀ i ∈ [0, 32],
    (∀ x ∈ [0, 8], let b := aPkt 1 0 x 0 0
      let s := frontedAt i aQueue 0 b [];
      s.fe.todo = [(1, b)] ∧ packetRow [] 1 b = .waitPacket 1 ∧ s.holder 1 = some i ∧ s.mayChange (i / 32) 1 = true ∧
        pktField b 24 8 = x) ∧
    (∀ v ∈ [0, 1], let b := aPkt 1 0 8 v 0
      let s0 := frontedAt i aQueue 0 [] [hasRead 8 (List.replicate 8 0)]
      let s := s0.withFe { s0.fe with polls := [(1, (0, b))] };
      Map.get? s.fe.polls 1 = some (0, b) ∧ s.holder 1 = some i ∧ pktType b = 1 ∧ 0 ≤ s.netNow ∧ s.mayChange (i / 32) 1 = true ∧
        (s.queueAt (i / 32) 1).halt = false ∧
        (s.feLoad (i / 32) (feOwner 1 2) (s.queueContext 1) (pktField b 24 8) 8 0).2 = .done (List.replicate 8 0) ∧
        pktField b 32 8 = v ∧ leNat (List.replicate 8 (0 : Byte)) = 0) := by decide +kernel

/-- SIGNAL with commands still to complete; without an address and with one; with an event record and room for it or none. -/
theorem witness_signal_waits : let q := (fronted { aQueue with nextseq := 1 } 0 (aPkt 2 0 0 0 0)).queueAt 0 1; q.done ≠ q.nextseq := by
  decide +kernel

theorem witness_signal_done : ∀ i ∈ [0, 32],
    (∀ q ∈ [(0, 0, 0), (8, 0, 0), (8, 4, 15), (8, 4, 16)],
      let b := aPkt 2 q.2.1 q.1 5 0
      let s := frontedAt i aQueue q.2.2 b [hasWritten 8]
      let u := s.packetTaken;
      s.fe.todo = [(1, b)] ∧ packetRow [] 1 b = .signalPacket 1 ∧ (s.queueAt (i / 32) 1).done = (s.queueAt (i / 32) 1).nextseq ∧
        Map.get? s.fe.polls 1 = none ∧ s.mayChange (i / 32) 1 = true ∧
        pktField b 24 8 = q.1 ∧ pktEvt b = decide (q.2.1 = 4) ∧
        (u.feStore (i / 32) (feOwner 1 2) (s.queueContext 1) 8 0 ((b.drop 32).take 8)).2 = .done [] ∧
        (s.ring 0).room = 16 - q.2.2) := by decide +kernel

/-- A state in which the walks of a COPY of queue 1, of a source and of a destination, have read their leaves. -/
def copyWalked (i : Nat) (b : List Byte) (src dst e f : Nat) (rs : List FeAnswered) : State :=
  let s := frontedAt i aQueue 0 b rs
  s.withFe { s.fe with walks := [⟨feOwner 1 3, 2 * src, some ⟨2, 0, 0, some e⟩, false⟩, ⟨feOwner 1 3, 2 * dst + 1, some ⟨2, 0, 0, some f⟩, false⟩] }

/-- COPY between two places of package memory, and of one whole chunk and of a part of one from host memory. -/
theorem witness_copy_packet : ∀ i ∈ [0, 32],
    (let b := aPkt 6 0 64 128 64
      let s := copyWalked i b 64 128 0x67 0x67 []
      let u := s.packetTaken
      let r := u.feWindow (i / 32) 1 (s.queueContext 1) 64 false;
      packetRow [] 1 b = .copyPacket 1 ∧ s.fe.todo = [(1, b)] ∧ s.holder 1 = some i ∧ s.mayChange (i / 32) 1 = true ∧
        Map.get? s.fe.polls 1 = none ∧ r.2 = (.done [], 0) ∧
        (r.1.feWindow (i / 32) 1 (s.queueContext 1) 128 true).2 = (.done [], 0)) ∧
    (∀ l ∈ [(64, 64, 64), (12, 16, 4)],
      let b := aPkt 6 0 (2 ^ 30) 128 l.1
      let s := copyWalked i b (2 ^ 30) 128 (2 ^ 51 + 0x67) 0x67 [⟨feOwner 1 3, 2 ^ 31, 0, List.replicate l.2.1 0⟩, ⟨feOwner 1 3, 257, 0, []⟩]
      let u := s.packetTaken
      let r := u.feWindow (i / 32) 1 (s.queueContext 1) (2 ^ 30) false
      let r2 := r.1.feWindow (i / 32) 1 (s.queueContext 1) 128 true
      let r3 := r2.1.feLoad (i / 32) (feOwner 1 3) (s.queueContext 1) (2 ^ 30) l.1 0
      let r4 := r3.1.feStore (i / 32) (feOwner 1 3) (s.queueContext 1) 128 0 (List.replicate l.1 0);
      packetRow [] 1 b = .copyPacket 1 ∧ r.2 = (.done [], 2) ∧ r2.2 = (.done [], 0) ∧ pktField b 40 4 ≤ 64 - pktField b 32 8 % 64 ∧
        r3.2 = .done (List.replicate l.1 0) ∧ r4.2 = .done []) := by decide +kernel

/-- A launch header (R391) of one wave, two frames and eight scalars, of a width of one block. -/
def aHeader : List Byte :=
  [0x48, 0x4B, 1, 2, 8, 0, 0, 0, 0, 0, 0, 0, 0, 1, 0, 0, 0, 0] ++ List.replicate 46 0

/-- The front end with such a packet on a lane of either die, that header in the cache, and a count of 0 read at 8. -/
def launching (i ty count full : Nat) (h : List Byte) : State :=
  let s := frontedAt i aQueue full (aPkt ty 0 0 count 0) [hasRead 8 (List.replicate 4 0)];
  s.withFe { s.fe with headers := [⟨i / 32, 0, 0, h⟩] }

/-- What such a launch is judged. -/
def judged (i ty count full : Nat) (h : List Byte) : LaunchJudged :=
  let s := launching i ty count full h
  let b := aPkt ty 0 0 count 0
  (s.packetTaken.judgeLaunch (i / 32) (feOwner 1 2) (s.queueContext 1) (pktType b) b (if pktType b = 4 then 1 else pktField b 32 4)
    (s.startTs (i / 32) 1 b)).2

/-- LaunchPackets: a launch with no block, with as many as fit the widths, with one too many, and with a bad header; a seed
launch; an INDIRECT whose count at 8 is 0; room for the event of the error and none. -/
theorem witness_launch : ∀ i ∈ [0, 32],
    (∀ ty ∈ [(3 : Nat), 4, 5], packetRow [] 1 (aPkt ty 0 0 8 0) ∈ ([.launchPacket 1, .seedlaunchPacket 1, .indirectPacket 1] : List Instr) ∧
      (launching i ty 8 0 aHeader).fe.todo = [(1, aPkt ty 0 0 8 0)] ∧ (launching i ty 8 0 aHeader).holder 1 = some i ∧
      (launching i ty 8 0 aHeader).mayChange (i / 32) 1 = true ∧ judged i ty 8 16 [] = .refuse qBadHdr) ∧
    (∀ n ∈ [0, 2], judged i 3 n 0 aHeader = .go (headerOf aHeader) n) ∧ judged i 3 3 0 aHeader = .refuse qTooMany ∧
    judged i 4 0 0 aHeader = .go (headerOf aHeader) 1 ∧ judged i 5 8 0 aHeader = .go (headerOf aHeader) 0 ∧
    (∀ full ∈ [15, 16], ((launching i 3 1 full []).ring 0).room = 16 - full ∧ ((launching i 3 1 full []).queue 1).halt = false) := by
  decide +kernel

/-- An ENQ of two blocks of grid 0. -/
def aSpawn (record : Nat) : Spawn := ⟨0, ⟨0, 0⟩, record, 2, 0, 1⟩

/-- The front end with that ENQ, grid 0 of seed launch `k` or of none, and the seed launch with a counter and its spawns. -/
def seeded (sp : Spawn) (k : Option Nat) (l : SeedLaunch) (g : Grid) : State :=
  let s := fronted aQueue 0 [];
  s.withFe { s.fe with enqs := [sp], grids := [(0, { g with seed := k })], seeds := [(0, l)], headers := [⟨0, 0, 0, aHeader⟩] }

def aSeed (counter : Nat) (spawns : List Spawn) : SeedLaunch := ⟨⟨0, 0, 0, 0, 0⟩, counter, spawns, 1, 1, 0⟩

/-- SpawnsAndGrids: an ENQ of a grid of no seed launch; one that fits exactly, and one that does not for each of the three reasons. -/
theorem witness_enq :
    (let s := seeded (aSpawn 64) none (aSeed 1 []) aGrid; s.fe.enqs[0]? = some (aSpawn 64) ∧ s.seed? (aSpawn 64).grid = none) ∧
    (let l := aSeed (2 ^ 40 - 3) (List.replicate 255 (aSpawn 64))
      let s := seeded (aSpawn 64) (some 0) l aGrid;
      s.seed? (aSpawn 64).grid = some (0, l) ∧
        ¬ ((aSpawn 64).record % 64 ≠ 0 ∨ 2 ^ 40 ≤ l.counter + (aSpawn 64).count ∨ 256 ≤ l.spawns.length)) ∧
    ((aSpawn 32).record % 64 ≠ 0 ∧ 2 ^ 40 ≤ (aSeed (2 ^ 40 - 2) []).counter + (aSpawn 64).count ∧
      256 ≤ (aSeed 1 (List.replicate 256 (aSpawn 64))).spawns.length) := by decide +kernel

/-- The hand-over of a spawn whose record at 4,096 is no launch record, and of one that is: it names the header at 0. -/
theorem witness_handoff :
    let judge := fun (ty : Nat) =>
      let l := aSeed 4 [aSpawn 4096]
      let s := seeded (aSpawn 64) (some 0) l aGrid
      (s.withFe { s.fe with headers := [⟨1, 0, 0, aHeader⟩], reads := [⟨feOwner 0 4, 2 * 4096, 0, aPkt ty 0 0 0 0⟩] }).judgeSpawn
        (l.queue % 2) 0 l (aSpawn 4096)
    let l := aSeed 4 [aSpawn 4096]
    let s := seeded (aSpawn 64) (some 0) l aGrid
    Map.get? s.fe.seeds 0 = some l ∧ s.recordBusy l.queue = false ∧ (judge 2).2.1 = .refuse qEnqRec ∧
      0 < (s.ring (s.queue l.queue).dom).room ∧ (s.queue l.queue).halt = false ∧ (aSpawn 4096).count < l.counter ∧
      (judge 3).2.1 = .go (headerOf aHeader) 2 := by decide +kernel

/-- A grid that has triggered, one that has retired, and the last grid of a seed launch. -/
theorem witness_grids :
    (let g := { aGrid with trigd := 1, queue := 1 };
      Map.sorted (seeded (aSpawn 0) none (aSeed 0 []) g).fe.grids = true ∧ g.retired ≠ g.count ∧ g.trigDone = false ∧ g.trigd = g.count ∧
        g.seed = none) ∧
    (let g := { aGrid with retired := 1, trigDone := true }; g.retired = g.count ∧ g.trigDone = true ∧ g.seed = none) ∧
    (let g := { aGrid with retired := 1 }
      let s := seeded (aSpawn 0) (some 0) (aSeed 0 []) g;
      Map.get? s.fe.grids 0 = some { g with seed := some 0 } ∧ Map.get? s.fe.seeds 0 = some (aSeed 0 []) ∧ (aSeed 0 []).counter = 0 ∧
        (∀ e ∈ s.fe.grids, e.1 ≠ 0 → e.2.seed ≠ some 0) ∧ Map.sorted s.fe.seeds = true) := by decide +kernel

/-- A management or residency packet: operation, cluster and quota, and three 64-bit arguments. -/
def aMgmt (ty op k v a1 a2 a3 : Nat) : List Byte :=
  [BitVec.ofNat 8 ty, 0] ++ List.replicate 22 0 ++ [BitVec.ofNat 8 op, 0] ++ leBytes 2 k ++ leBytes 2 v ++ [0, 0] ++ leBytes 8 a1 ++ leBytes 8 a2 ++
    leBytes 8 a3 ++ List.replicate 8 0

/-- ResidencyAndRecordPackets: SETQUOTA with and without PRIV and of a cluster outside the domain; REVOKEALL. -/
theorem witness_residency_packets : ∀ i ∈ [0, 32],
    packetRow [] 1 (aMgmt 7 0 255 40 0 0 0) = .setquota 1 ∧ packetRow [] 1 (aMgmt 7 1 0 0 0 0 0) = .revokeall 1 ∧
    (let s := frontedAt i { aQueue with priv := true } 0 (aMgmt 7 0 255 40 0 0 0) [];
      s.fe.todo = [(1, aMgmt 7 0 255 40 0 0 0)] ∧ s.holder 1 = some i ∧ s.mayChange (i / 32) 1 = true ∧ s.ownCluster 1 255 = true ∧
        s.ownCluster 1 256 = false ∧ (s.queueAt (i / 32) 1).priv = true) ∧
    (let s := frontedAt i aQueue 15 [] []; (s.queueAt (i / 32) 1).priv = false ∧ 0 < (s.ring 0).room ∧ (s.queue 1).halt = false) ∧
    (∀ j, j < 256 → ((two.cluster 0).residency j).st ≠ .loading ∧ two.loopUses 0 j = false) ∧
    (let s := bonded true .loading []; ((s.cluster 0).residency 5).dom = 0 ∧ ((s.cluster 0).residency 5).st = .loading) := by
  decide +kernel

/-- RESUME of a halted queue with nothing latched, of one that is not halted or has records latched, and of one of the other die
whose change has come back; COUNTERS to address 64; SETQ of another queue and of the packet's own, and SETASR, from an image at 64:
LOGN 4, ENABLE, domain 0. -/
theorem witness_record_packets : ∀ i ∈ [0, 32], ∀ m ∈ [2, 3],
    packetRow [] 1 (aMgmt 8 6 0 0 m 0 0) = .resume 1 ∧ packetRow [] 1 (aMgmt 8 7 0 0 1 64 0) = .counters 1 ∧
    packetRow [] 1 (aMgmt 8 8 0 0 m 64 0) = .setq 1 ∧ packetRow [] 1 (aMgmt 8 9 0 0 4095 64 0) = .setasr 1 ∧
    (let r : QueueRec := { QueueRec.reset with halt := true }
      let s0 := frontedAt i { aQueue with priv := true } 0 [] [hasRead 64 (leBytes 16 (0x14 * 2 ^ 64))]
      let s := s0.withFe { s0.fe with queues := [(1, { aQueue with priv := true }), (m, r)], replicas := [(1, { aQueue with priv := true }), (m, r)] };
      mgmtArg (aMgmt 8 6 0 0 m 0 0) 0 = m ∧ s.current (i / 32) m = true ∧ (s.queueAt (i / 32) m).dom = 0 ∧
        Map.get? s.fe.polls 1 = none ∧ r.halt = true ∧ r.pend = [] ∧ r.inval = false ∧ s.changing m = false ∧
        (s.queueAt (i / 32) 1).priv = true ∧ s.mayChange (i / 32) 1 = true ∧ ({ r with pend := [7] } : QueueRec).pend ≠ [] ∧
        (s.feLoad (i / 32) (feOwner 1 2) (s.queueContext 1) 64 16 (s.laneQueue 1).hts).2 = .done (leBytes 16 (0x14 * 2 ^ 64)) ∧
        (let v := leNat (leBytes 16 (0x14 * 2 ^ 64));
          bitsOf 80 4 v = 0 ∧ bitsOf 68 4 v = 1 ∧ 4 ≤ bitsOf 64 4 v ∧ bitsOf 0 57 v % 4096 = 0 ∧ r.enable = false ∧
            Map.getD s.fe.asrs 4095 AddrSpace.reset = AddrSpace.reset)) := by
  decide +kernel

/-- COUNTERS of the network in the smallest domain, whose stores have all been answered. -/
def smallDom : Dom := ⟨⟨0, 16, 1, false, 0, 0, []⟩, [0]⟩

theorem witness_counters : ∀ i ∈ [0, 32],
    let s0 := frontedAt i aQueue 0 [] ((List.range 64).map (fun j => hasWritten (64 + 64 * j)))
    let s := s0.withMs { s0.ms with doms := [(0, smallDom)] }
    mgmtArg (aMgmt 8 7 0 0 0 64 0) 0 = 0 ∧ mgmtArg (aMgmt 8 7 0 0 0 64 0) 1 = 64 ∧ s.mayChange (i / 32) 1 = true ∧
      s.domOf (s.queueAt (i / 32) 1).dom = smallDom ∧
      (s.packetTaken.feStore (i / 32) (feOwner 1 2) (s.queueContext 1) 64 0 ((s.netCounters smallDom).flatMap (leBytes 8))).2 = .done [] := by
  decide +kernel

/-- InvalidationsAndKeys: the packets at the last address space and the last key slot; a blob that can be read, in a session. -/
theorem witness_invalidations :
    packetRow [] 1 (aMgmt 8 1 0 0 65535 0 4096) = .inval 1 ∧ mgmtArg (aMgmt 8 1 0 0 65535 0 4096) 0 < 2 ^ 16 ∧
    packetRow [] 1 (aMgmt 8 2 0 0 4095 0 0) = .invalkey 1 ∧ mgmtArg (aMgmt 8 2 0 0 4095 0 0) 0 < 4096 ∧
    packetRow [] 1 (aMgmt 8 3 0 0 64 0 0) = .keyload 1 ∧ packetRow [] 1 (aMgmt 8 4 0 0 64 0 0) = .keyrevoke 1 ∧
    (fronted aQueue 0 []).rangeInFlight 65535 0 4096 = false ∧
    (∀ i ∈ [0, 32],
      let s := frontedAt i aQueue 0 (aMgmt 8 3 0 0 64 0 0) [hasRead 64 (List.replicate 64 0), hasRead 128 (List.replicate 64 0)]
      let t : State := { s with box := { s.box with sessions := [(0, ⟨5, 1⟩)] } };
      (t.packetTaken.feLoad (i / 32) (feOwner 1 2) (t.queueContext 1) 64 blobBytes 0).2 = .done (List.replicate 128 0) ∧
        Map.get? t.box.sessions (t.queueAt (i / 32) 1).dom = some ⟨5, 1⟩ ∧ t.fe.todo = [(1, aMgmt 8 3 0 0 64 0 0)] ∧ t.holder 1 = some i ∧
        t.mayChange (i / 32) 1 = true) := by decide +kernel

/-- A load in flight through a translation of address space 0 and key slot 0: neither invalidation is over. -/
theorem witness_in_flight :
    let s := (fronted aQueue 0 []).setMyCore { two.myCore with ops := [{ aLoad .load with reqs := [{ aRequest with pieces := [⟨0, 64, 64, 4, 0, 0, 0⟩] }] }] }
    s.rangeInFlight 0 0 4096 = true ∧ s.inFlight (fun _ _ x => x == 0) = true ∧ s.inFlight (fun _ _ x => x == 1) = false := by
  decide +kernel

/-- Its last premises rest on what the blob opens to, a free value (log 51): where the tag is good and the bytes are those of a
KEYLOAD of slot 7, they hold; where it is not, the blob is none. -/
theorem witness_blob (bs : List Byte) (h : Config.cryptoOk 5 bs = true)
    (h1 : Config.cryptoBytes 5 bs = [0, 7, 0, 3, 1, 0, 0, 0, 0, 0, 0, 0]) : openBlob 5 bs = some ⟨0, 7, 3, 1⟩ := by
  unfold openBlob
  rw [if_pos h, h1]
  decide

theorem witness_no_blob (bs : List Byte) (h : Config.cryptoOk 5 bs = false) (v : Blob) : openBlob 5 bs ≠ some v := by
  unfold openBlob
  rw [if_neg (by simp [h])]
  exact fun h => nomatch h

/-- What firmware of queue 1 has read and written in page tables: the three entries of a walk, and an access that failed. -/
def tableRead (pa e : Nat) : FeAnswered := ⟨feOwner 1 2, 2 ^ 58 + 2 * pa, 0, leBytes 8 e⟩
def tableWritten (pa st : Nat) : FeAnswered := ⟨feOwner 1 2, 2 ^ 58 + 2 * pa + 1, st, []⟩
def walkReads : List FeAnswered := [tableRead 0 0x1021, tableRead 4096 0x2021, tableRead 8192 0x67]

/-- MigrationAndCut: a MIGRATE of page 0 to 1 GiB, or to a peer package: nothing read yet; a table that cannot be read; the leaf found
at level 2. -/
theorem witness_migrate : ∀ i ∈ [0, 32], ∀ f ∈ [2 ^ 18, 3 * 2 ^ 38],
    let b := aMgmt 8 5 0 0 0 f 0
    let s := fun (rs : List FeAnswered) => frontedAt i aQueue 0 b rs
    let d := (s []).domOf ((s []).queueAt (i / 32) 1).dom
    let r := fun (rs : List FeAnswered) => State.leafFrom (i / 32) (feOwner 1 2) d (mgmtArg b 0 % 2 ^ 57) 0 5 (s rs).packetTaken 4
      (((s rs).queueContext 1).root * 4096) ((s rs).queueContext 1).key
    packetRow [] 1 b = .migrate 1 ∧ Map.get? (s []).fe.migs 1 = none ∧ (s []).fe.todo = [(1, b)] ∧ (s []).holder 1 = some i ∧
      (s []).mayChange (i / 32) 1 = true ∧ (r walkReads).2 = .found 8192 2 0x67 0 ∧ (r []).2 = .later ∧
      (r [⟨feOwner 1 2, 2 ^ 58, 1, []⟩]).2 = .bad ∧
      (0x67 : Nat).testBit 7 = false ∧ leafBase 2 0x67 < 2 ^ 50 ∧ mgmtArg b 1 < 2 ^ 40 ∧ mgmtArg b 1 * 4096 % 2 ^ leafBits 2 ((0x67 : Nat).testBit 4) = 0 ∧
      (mgmtArg b 1 * 4096 / 2 ^ 50 = 3 ∨ d.holds (mgmtArg b 1 * 4096) = true ∧ d.holds (mgmtArg b 1 * 4096 + 2 ^ leafBits 2 ((0x67 : Nat).testBit 4) - 1) = true) := by
  decide +kernel

/-- Its later phases, in the smallest domain: the leaf to be marked, marked, or failed; no access in flight or one; every old slice
copied, or failed; the leaf to be moved, moved, or failed; every one released. -/
def aMigration (phase : Nat) : Migration := ⟨0, 0, 0, 2 ^ 30, 2 ^ 30, 0, false, 8192, 1, 0, phase⟩

def migrating (phase : Nat) (old : Option (Bool × Bool)) (rs : List FeAnswered) : State :=
  let s := frontedAt 0 aQueue 0 (aMgmt 8 5 0 0 0 (2 ^ 18) 0) rs;
  { s with
    ms := { s.ms with doms := [(0, smallDom)] }
    fe := { s.fe with migs := [(1, aMigration phase)] }
    net := { s.net with slices := match old with
      | some c => smallDom.slices.map (fun i => (i, { Slice.reset with migrating := [⟨0, 2 ^ 30, 2 ^ 30, 0, 0, 0, c.1, c.2, false⟩] }))
      | none => [] } }

theorem witness_migrate_phases :
    (∀ phase ∈ [0, 1, 2, 3, 4], Map.get? (migrating phase none []).fe.migs 1 = some (aMigration phase) ∧ (aMigration phase).phase = phase ∧
      Map.sorted (migrating phase none []).fe.migs = true ∧ (migrating phase none []).domOf 0 = smallDom ∧ smallDom.slices ≠ []) ∧
    (let s := migrating 0 none [];
      0 < (aMigration 0).count ∧ s.fe.reads = [] ∧ s.packetTaken.asked (cicadaPort 0) (.cicada (feOwner 1 2) (2 ^ 58 + 2 * 8192 + 1)) = false ∧
        (s.packetTaken.homeOf 0 8192).isSome = true) ∧
    (∀ q ∈ [([], FeAnswer.later), ([tableWritten 8192 0], .done []), ([tableWritten 8192 1], .fail)],
      (State.markLeaves 0 (feOwner 1 2) 0 0 (aMigration 0) 1 (migrating 0 none q.1).packetTaken).2 = q.2) ∧
    (migrating 1 none []).rangeInFlight 0 0 (2 ^ 30) = false ∧
    ((migrating 1 none []).setMyCore { two.myCore with
      ops := [{ aLoad .load with reqs := [{ aRequest with pieces := [⟨0, 64, 64, 4, 0, 0, 0⟩] }] }] }).rangeInFlight 0 0 (2 ^ 30) = true ∧
    (∀ failed ∈ [false, true], ∀ k ∈ smallDom.slices,
      ((migrating 2 (some (true, failed)) []).slice k).migrating.find? (fun v => v.base == 0) =
        some ⟨0, 2 ^ 30, 2 ^ 30, 0, 0, 0, true, failed, false⟩ ∧
      (migrating 2 (some (true, failed)) []).migrated k ⟨0, 2 ^ 30, 2 ^ 30, 0, 0, 0, true, failed, false⟩ = true) ∧
    (migrating 2 none []).keyUsable 0 0 = true ∧ (migrating 2 none []).keyUsable 1 0 = false ∧
    (∀ q ∈ [([], FeAnswer.later), ([tableRead 8192 0xE7, tableWritten 8192 0], .done []), ([tableRead 8192 0xE7, tableWritten 8192 1], .fail)],
      (State.moveLeaves 0 (feOwner 1 2) 0 0 (aMigration 3) (2 ^ 30) 1 (migrating 3 none q.1).packetTaken).2 = q.2) ∧
    (∀ k ∈ smallDom.slices, ((migrating 4 none []).slice k).migrating.find? (fun v => v.base == 0) = none) := by decide +kernel

/-- A leaf moved: the new frame, MIG = 0, and every other field as it was. -/
theorem test_moved_leaf : movedLeaf (2 ^ 30) (0xE7 + 2 ^ 52 * 5 + 2 ^ 12 * 7) = 0x67 + 2 ^ 52 * 5 + 2 ^ 30 := by decide

/-- DOMAINCUT into the halves of both dies, from one spanning domain that is stopped. -/
theorem witness_cut : ∀ i ∈ [0, 32],
    let l : List DomainPlan := [⟨0, 2, 0, true, 0, 0, [0]⟩, ⟨1, 2, 1, true, 0, 2 ^ 49, [1]⟩]
    let b := aMgmt 8 10 0 0 2 64 0
    let s := (frontedAt i { aQueue with priv := true } 0 b [hasRead 64 [0]]).setCore 0 Core.reset
    let r := s.packetTaken.feLoad (i / 32) (feOwner 1 2) (s.queueContext 1) (mgmtArg b 1) 1 0
    packetRow l 1 b = .domaincut 1 l ∧ rowLayout (.domaincut 1 l) = l ∧ (s.queueAt (i / 32) 1).priv = true ∧ mgmtArg b 0 = 2 ∧
      s.mayChange (i / 32) 1 = true ∧ r.2 = .done [0] ∧ layoutOk s.ms.lost (s.ms.doms.map (fun e => e.2)) 2 l = true ∧
      (∀ e ∈ s.ms.doms, r.1.domStopped e.1 = true) := by decide +kernel

/-- A mailbox with command `cmd` running, for the operator's domain 0 or none, and its arguments. -/
def boxed (cmd : Nat) (op : Option Nat) (args : List Nat) : State :=
  { fronted aQueue 0 [] with box := ⟨cmd, 0, Memory.write [] 0 (args.flatMap (leBytes 8)), none, [], [], [], op⟩ }

/-- HostAndMailbox, the commands: without a session; each with arguments at the end of their ranges, and SETRING out of them. -/
theorem witness_commands :
    (∀ cmd ∈ [3, 4, 5, 6, 7, 8], (boxed cmd none []).box.cmd = cmd ∧ (boxed cmd none []).box.status = 0 ∧
      (boxed cmd none []).box.operator = none ∧ (boxed cmd none []).box.dark = []) ∧
    (let s := boxed 6 none [0, 4]; ({ s.box with dark := [1] } : Mailbox).dark ≠ []) ∧
    (boxed 1 none [15]).box.arg 0 < 16 ∧ (boxed 2 none []).box.status = 0 ∧
    (let s := boxed 3 (some 0) [15, 4096, 16, 8]
      let a := s.box.arg;
      s.runs 3 0 ∧ a 0 < 16 ∧ a 1 % 4096 = 0 ∧ 4 ≤ a 2 ∧ a 2 ≤ 16 ∧ a 3 % 8 = 0 ∧ s.haltedQueue (a 0) = none ∧ (s.ring (a 0)).held = [] ∧
        (s.ring (a 0)).replace = false) ∧
    16 ≤ (boxed 3 (some 0) [16, 0, 4, 0]).box.arg 0 ∧ (boxed 3 (some 0) [0, 0, 3, 0]).box.arg 2 < 4 ∧
    (boxed 4 (some 0) [4095, 0]).box.arg 0 < 4096 ∧
    (let s := boxed 5 (some 0) [1, 0, 2000]; s.box.arg 0 < 2 ∧ s.box.arg 2 ≤ 2000) ∧ 2 ≤ (boxed 5 (some 0) [2, 0, 0]).box.arg 0 ∧
    2000 < (boxed 5 (some 0) [0, 0, 2001]).box.arg 2 ∧ (boxed 6 (some 0) [0, 4]).runs 6 0 ∧
    (let a := (boxed 7 (some 0) [8191, 1, 31]).box.arg; a 0 ≤ 8191 ∧ a 1 ≤ 4000 ∧ a 0 + a 1 ≤ 8192 ∧ ∀ i, i < 1 → a (2 + i) < 32) ∧
    (let s := boxed 8 (some 0) [1]; s.box.arg 0 < 4096 ∧ (s.queue (s.box.arg 0)).dom = 0) ∧
    (let s := boxed 8 (some 1) [1]; (s.queue (s.box.arg 0)).dom ≠ 1) := by
  unfold State.runs; decide +kernel

/-- The host's accesses: package memory, a place of no domain, the end of host memory, and the parts of BAR0; a host interface
whose first chunk is on its way, and one that has just been answered; CMD with a die dark. -/
theorem witness_host :
    (let s := idle; (64 : PAddr).toNat < 2 ^ 50 ∧ (List.replicate 64 (1 : Byte)) ≠ [] ∧ (64 : PAddr).toNat % 64 + 64 ≤ 64 ∧
      (s.host.queue = [] ∧ s.host.sent = false ∧ s.host.data = [] ∧ s.host.error = false) ∧
      s.placeOf 64 = some (Dom.undivided, Dom.undivided.home 64) ∧ s.placeOf (2 ^ 50 - 64) = none) ∧
    (let s : State := { idle with host := { idle.host with queue := [⟨0, 0, 64, none, true⟩], sent := true } };
      s.host.queue ≠ [] ∧ s.host.sent = true) ∧
    (let a := (BitVec.ofNat 52 (2 ^ 51 + 2 ^ 50 - 8) : PAddr).toNat; 2 ^ 51 ≤ a ∧ a + 8 ≤ 2 ^ 51 + 2 ^ 50) ∧
    (∀ off ∈ [0x7FF8, 0x8000, 0x8078, 0x8080, 0x8088, 0x8100, 0xFFF8], let a := (BitVec.ofNat 52 (2 ^ 50 + off) : PAddr).toNat;
      a / 2 ^ 50 = 1 ∧ a % 2 ^ 50 = off ∧ off % 8 = 0) ∧
    (fronted aQueue 0 []).queueAt 1 1 = aQueue ∧ aQueue.enable = true ∧ (idle.queue 5).enable = false ∧
    idle.box.dark = [] ∧ commandRow (leNat (([8, 0, 0, 0, 0, 0, 0, 0] : List Byte).take 8)) = some .qread := by decide +kernel

/-- The host's port with an answer to the one chunk of the interface, a read's or a write's, the access's last or not. -/
theorem witness_host_answers : ∀ last ∈ [true, false], ∀ w ∈ [(none, PType.rdata, 64), (some [1, 2, 3, 4], PType.wdone, 0)],
    let p := { aPacket w.2.1 w.2.2 (List.replicate w.2.2 0) with addr := 64 }
    let c : HostChunk := ⟨68, 68, 4, w.1, last⟩
    let o : Outstanding := ⟨0, 0, aPacket .rd 4 [], .host, 0⟩
    let s := ({ two with host := { two.host with queue := [c], sent := true } } : State).setPort hostPort { Port.reset with
      outstanding := [o], inbox := [p] };
    s.host.queue = [c] ∧ s.host.sent = true ∧ s.host.accesses = [] ∧ o.client = .host ∧ (s.port hostPort).waiting = [] ∧
      s.replyAt hostPort 0 w.2.1 = some (p, some o) ∧ p.trim = false ∧
      (w.1 = none → p.addr ≤ c.pa ∧ c.pa + c.len ≤ p.addr + p.data.length) := by decide +kernel

/-- Nopel port 15 in a given state. -/
def linked (n : NopelPort) : State :=
  { idle with
    nopel := [(15, n)]
    fe := { idle.fe with rings := [(0, { EventRing.reset with set := true, logn := 4 })] } }

/-- A flit of SEQ 4095 that acknowledges SEQ 4095, with a given CRC, and with the one that its bits call for. -/
def aFlit (crc : BitVec 64) : NopelFlit := ⟨crc, List.replicate 15 0, 4095, 4095, false, 0, 0, 0, 0⟩
def goodFlit : NopelFlit := aFlit (Config.crc64 (aFlit 0).bits)

/-- LinksAcceptAndFail: a flit with a wrong CRC, one out of order, and the one expected, at the last SEQ, with a NAK out and with
none; a replay that is sent and the eighth; 20,000 cycles without a flit; a port that is down for one cycle more than the time
that it may be. -/
theorem witness_flits : goodFlit.crc = Config.crc64 goodFlit.bits ∧ goodFlit.seq.toNat = 4095 ∧ goodFlit.dom.toNat = 0 ∧
    goodFlit.packets = [] ∧ (aFlit (Config.crc64 (aFlit 0).bits + 1)).crc ≠ Config.crc64 (aFlit (Config.crc64 (aFlit 0).bits + 1)).bits ∧
    (∀ nak ∈ [false, true], let n := (linked { NopelPort.reset with rxSeq := 4095, nakSent := nak }).nport 15;
      n.up = true ∧ n.rxSeq = 4095 ∧ n.dom = 0 ∧ n.nakSent = nak ∧ n.egress = [] ∧ n.replay.length < 1024) ∧
    NopelPort.reset.rxSeq ≠ goodFlit.seq.toNat := by
  refine ⟨rfl, rfl, rfl, rfl, ?_, by decide +kernel, by decide⟩
  change Config.crc64 (aFlit 0).bits + 1 ≠ Config.crc64 (aFlit 0).bits
  generalize Config.crc64 (aFlit 0).bits = x
  bv_omega

theorem witness_links :
    (let n := (linked { NopelPort.reset with asked := true, replay := [aFlit 0], replays := 6 }).nport 15;
      n.up = true ∧ n.asked = true ∧ n.replay ≠ [] ∧ n.replays < 7) ∧
    (let s : State := { linked { NopelPort.reset with asked := true, replay := [aFlit 0], replays := 7 } with now := 40000 }
      let n := s.nport 15;
      n.up = true ∧ (n.asked = true ∧ n.replay ≠ [] ∧ 7 ≤ n.replays) ∧ n.lastFlit + 20000 = s.netNow ∧ n.sent = []) ∧
    (let s : State := { linked { NopelPort.reset with up := false } with now := 4000000002 }
      let n := s.nport 15;
      n.up = false ∧ n.announced = false ∧ n.downSince + 2000000000 + 1 = s.netNow ∧ 0 < (s.ring n.dom).room ∧
        s.haltedQueue n.dom = none) ∧
    (let r : EventRing := { EventRing.reset with set := true, logn := 4, tail := 16 }; r.room = 0) := by decide +kernel

/-- Its last clause rests on where firmware has put the aperture, a free value (log 15): at 64 GiB the premises hold. -/
theorem witness_peer (h : Config.apertureBase 0 = 2 ^ 36) :
    let p := aPacket .atom 4 [1, 2, 3, 4]
    let s := linked { NopelPort.reset with ingress := [(8191, p)] }
    let n := s.nport 15
    n.ingress = (8191, p) :: [] ∧ p.ty.isAnswer = false ∧ (p.ty ≠ .atom ∨ p.rpl = false) ∧
      (∃ k, s.homeOf n.dom (apertureAt n.dom p.addr) = some (Dom.undivided, k)) ∧ (s.port (nopelService 15)).outstanding = [] ∧
      (s.port (nopelService 15)).waiting = [] ∧ 0 < (s.port (nopelService 15)).window := by
  refine ⟨rfl, by decide, Or.inr rfl, ⟨Dom.undivided.home (2 ^ 36), ?_⟩, by decide +kernel, by decide +kernel, by decide +kernel⟩
  have h1 : apertureAt ((linked { NopelPort.reset with ingress := [(8191, aPacket .atom 4 [1, 2, 3, 4])] }).nport 15).dom
      (aPacket .atom 4 [1, 2, 3, 4]).addr = 2 ^ 36 := congrArg (· + 0) h
  rw [h1]
  decide +kernel

/-- The block of `two` in a grid of context 0, which is scheduled as given. -/
def sliced (c : CtxSched) : State :=
  { two with
    issuing := []
    ctxs := [(0, c)]
    fe := { two.fe with grids := [(0, aGrid)] } }

/-- SlicesEndAndEnginesStop: a slice that ends in this cycle, with another context away and with none; each engine as its turn
comes; an engine that has acknowledged. -/
theorem witness_slices_end :
    (let s : State := { sliced { CtxSched.reset with effective := 1, sliceEnd := 7 } with now := 14 }
      let c := s.ctx 0;
      c.effective ≠ 0 ∧ c.sliceEnd = s.netNow ∧ c.stopping = false ∧ c.away = false ∧ s.coresIn 0 ≠ [] ∧ s.otherReady 0 = false ∧ s.blockStopping 0 = false ∧
        ({ s with ctxs := s.ctxs ++ [(1, { CtxSched.reset with away := true })] } : State).otherReady 0 = true) ∧
    (let c : CtxSched := { CtxSched.reset with stopping := true, acks := [.waves] }; Engine.waves ∈ c.acks) := by decide +kernel

theorem witness_stops : ∀ q ∈ [(Engine.waves, []), (.cicada, [Engine.waves]), (.copies, [.waves, .cicada]), (.sync, [.waves, .cicada]),
        (.interface, [.waves, .cicada]), (.sequencers, [.waves, .cicada, .copies, .sync, .interface])],
      let s := sliced { CtxSched.reset with stopping := true, acks := q.2 }
      let c := s.ctx 0
      c.stopping = true ∧ c.away = false ∧ q.1 ∉ c.acks ∧ s.wavesStill 0 = true ∧ s.lanesStill 0 = true ∧ s.copiesStill 0 = true ∧
        (q.1 ≠ .waves → q.1 ≠ .cicada → Engine.waves ∈ c.acks ∧ Engine.cicada ∈ c.acks) ∧
        (∀ k ∈ s.clusters, ∀ a ∈ k.2.adds, a.core ∉ s.coresIn 0) ∧
        (∀ k ∈ s.coresIn 0, ∀ y ∈ (s.core k).tiles, s.tileIn 0 y = true → y.flying = []) ∧
        (q.1 = .sequencers → Engine.copies ∈ c.acks ∧ Engine.sync ∈ c.acks ∧ Engine.interface ∈ c.acks) := by decide +kernel

/-- Context 0 saved from core 0, with one wave in slot 7 and one in slot 0, and a phaser of cluster 0. -/
def saved : CtxSched :=
  { CtxSched.reset with
    away := true
    slice := 5
    saveTime := 6
    saved := [⟨0, { Core.reset with blocks := [{ aBlock with waves := [0, 7] }] }, [(0, Wave.reset), (7, Wave.reset)]⟩]
    sync := [(0, [(9, { Phaser.reset with live := true })], [])] }

/-- SaveAndRestore: every acknowledgement is there; a block that may be saved alone, since a block of another
grid waits, and one that may not; a placement of either on the last core of the cluster, which is free. -/
theorem witness_save :
    (let s := sliced { CtxSched.reset with stopping := true, acks := [.waves, .cicada, .copies, .sync, .interface, .sequencers] }
      let c := s.ctx 0;
      c.stopping = true ∧ c.away = false ∧ (∀ e ∈ ([.waves, .copies, .sequencers, .sync, .interface, .cicada] : List Engine), e ∈ c.acks) ∧
        s.coresIn 0 = [0] ∧ s.wavesIn 0 0 = [⟨0, 0⟩] ∧ Map.sorted (s.cluster 0).phasers = true) ∧
    (let s0 := sliced CtxSched.reset
      let s := s0.withFe { s0.fe with grids := [(0, aGrid), (1, aGrid)] };
      s.mayEvict 4096 = true ∧ s0.mayEvict 4096 = false) ∧
    (∀ x ∈ [0, 4096], let s : State := { idle with ctxs := [(x, saved)], fe := { idle.fe with grids := [(0, aGrid)] } }
      let c := s.ctx x;
      c.away = true ∧ s.placementOk c (s.domOf (s.domIn x)) [(0, 15)] = true ∧ (s.ctx (s.unitCtx 4096)).stopping = false ∧
        (∀ v ∈ c.saved, v.waves.all (fun w => decide (w.1 < 8)) = true) ∧ (∀ v ∈ c.saved, (v.waves.map (fun w => w.1)).Nodup) ∧
        (∀ v ∈ c.saved, ∀ w ∈ v.waves, ∃ b ∈ v.body.blocks, w.2.ident.grid = b.grid ∧ w.2.ident.block = b.b) ∧
        Map.sorted s.ctxs = true ∧ (c.sync.map (fun y => y.1)).Nodup ∧ (∀ y ∈ c.sync, Map.sorted y.2.1 = true) ∧
        Map.sorted c.gangs = true ∧ c.slice < c.saveTime) := by decide +kernel

/-- FailuresAndResets: a die that is swept and one that is not, a rail that is low, the last channel group, a domain that is
stopped. -/
def sweptDie : State :=
  { idle with net := { idle.net with slices := (List.range 256).map (fun i => (i, { Slice.reset with swept := List.range 512 })) } }

theorem witness_failures :
    (let s := idle.setSlice 0 { Slice.reset with winvs := List.replicate 65 ⟨0, [1], none⟩ }
      let n := fun (k : Nat) => (s.slice k).winvs.length +
        ((Map.getD (s.slice k).sets 0 []).filter (fun w => decide (14 ≤ w.way) && w.watch)).length
      (List.range 512).find? (fun k => !((s.slice 0).swept.contains k)) = some 0 ∧ 64 < n 0 ∧ n 1 ≤ 64) ∧
    sweptDie.sweptAll 0 = true ∧ sweptDie.sweptAll 1 = false ∧ State.reset.sweptAll 1 = false ∧
    (let s : State := { idle with health := { idle.health with railLow := [1] } }; 1 ∈ s.health.railLow ∧ 0 ∉ s.health.railLow) ∧
    127 ∉ idle.ms.lost ∧ (∃ e, (linked NopelPort.reset).ms.doms.find? (fun e => e.2.groups.contains 127) = some e ∧
      (linked NopelPort.reset).haltedQueue e.1 = none ∧ 0 < ((linked NopelPort.reset).ring e.1).room) ∧
    State.reset.dom? 0 = some Dom.undivided ∧ State.reset.domStopped 0 = true ∧ (idle.key 0).owner = 0 := by
  refine ⟨by decide +kernel, by decide +kernel, by decide +kernel, by decide +kernel, by decide +kernel, by decide +kernel,
    ⟨(0, Dom.undivided), by decide +kernel, by decide +kernel, by decide +kernel⟩, by decide +kernel, by decide +kernel,
    by decide +kernel⟩

/-! ## Single steps, with the results of the spec's own worked examples and tables -/

/-- `idle` with some v registers, thread by thread. -/
def lanes (l : List (Nat × (Nat → Nat))) : State :=
  idle.mapWv (fun v => { v with win := { v.win with
    frames := [(0, ⟨0, l.map (fun e => (e.1, (List.range 64).map (fun t => BitVec.ofNat 32 (e.2 t))))⟩)] } })

/-- What is read in the next state, where there is one. -/
def after {α : Type} (o : Out) (f : State → α) : Option α :=
  match o with
  | .next t => some (f t)
  | .fault _ => none
  | .refused _ => none

/-- v1 and FLAGS after an instruction on v2 = a, v3 = b and v4 = c in every thread. -/
def result (i : Instr) (a b c : Nat) : Option (Word × BitVec 8) :=
  after (exec i (lanes [(2, fun _ => a), (3, fun _ => b), (4, fun _ => c)])) (fun t => (t.wv.getV 1 63, t.wv.csr.flags))

/-- The worked example of R241. -/
theorem test_integer_arithmetic :
    result (.vadd plainAdd) 0x7FFFFFF0 0x20 0 = some (0x80000010, 0) ∧
    result (.vadd { plainAdd with sat := true }) 0x7FFFFFF0 0x20 0 = some (0x7FFFFFFF, 0x20) ∧
    result (.vsub { plainAdd with fn := 5, sat := true }) 3 5 0 = some (0, 0x20) ∧
    result (.vmulhi plainAdd) 0xFFFFFFFE 3 0 = some (0xFFFFFFFF, 0) ∧
    result (.vmulhi { plainAdd with fn := 5 }) 0xFFFFFFFE 3 0 = some (2, 0) ∧
    result (.vmad { plainAdd with c := 4, sat := true }) 0x40000000 4 0x80000000 = some (0x7FFFFFFF, 0x20) := by decide +kernel

/-- The worked examples of R242 and R251: the table 96 of LOP3 on F0, CC and AA is its own result. -/
theorem test_logic_and_conversion :
    (let s := idle.mapWv (fun v => { v with s := [(2, 0xF0), (3, 0xCC), (4, 0xAA)] });
      after (exec (.slop3 { plainT with d := 0x21, a := 0x22, b := 0x23, c := 0x24, fn := 5, w1 := some 0x96 }) s) (fun t => t.wv.getS 1) =
        some 0x96) ∧
    result (.vcvti { plainAdd with b := 0, fn := 0x20, sat := true }) 300 0 0 = some (0x7F, 0x20) ∧
    result (.vcvti { plainAdd with b := 0, fn := 0x20 }) 300 0 0 = some (0x2C, 0) ∧
    result (.vcvti { plainAdd with b := 0, fn := 0x2C, sat := true }) 0x80000000 0 0 = some (0x7FFFFFFF, 0x20) := by decide +kernel

/-- EXEC = F7, v1(t) = t + 1 and v6(t) = 10 t: the worked example of R252 to R256. -/
def crossing : State := (lanes [(1, fun t => t + 1), (6, fun t => 10 * t)]).mapWv (fun v => { v with ctl := { v.ctl with exec := 0xF7 } })

theorem test_cross_lane :
    after (exec (.vscan { plainAdd with d := 2, a := 1, b := 0 }) crossing) (fun t => [2, 3, 4, 7].map (fun l => t.wv.getV 2 l)) =
      some [6, 0, 11, 32] ∧
    after (exec (.vredux { plainAdd with d := 0x28, a := 1, b := 0 }) crossing) (fun t => t.wv.getS 8) = some 32 ∧
    after (exec (.vshfl { plainAdd with d := 5, a := 6, b := 0xA1, fn := 0x15 }) crossing)
      (fun t => [2, 3, 4, 7].map (fun l => t.wv.getV 5 l)) = some [30, 0, 50, 80] ∧
    after (exec (.vballot { plainAdd with d := 0x26, a := 7, b := 0, fn := 0 }) crossing) (fun t => [t.wv.getS 6, t.wv.getS 7]) =
      some [0xF7, 0] := by decide +kernel

/-- The worked example of VCVT to E4M3 and E5M2: 1.0625, 1.1875, 460, 464, 61,440 and 2^-11. -/
theorem test_vcvt :
    (let f : InsA := { plainAdd with b := 0, fn := 0x14, sat := true };
      result (.vcvt f) 0x3F880000 0 0 = some (0x38, 0x10) ∧ result (.vcvt f) 0x3F980000 0 0 = some (0x3A, 0x10) ∧
      result (.vcvt f) 0x43E60000 0 0 = some (0x7E, 0x10) ∧ result (.vcvt f) 0x43E80000 0 0 = some (0x7E, 0x30) ∧
      result (.vcvt { f with sat := false }) 0x43E80000 0 0 = some (0x7F, 0x14) ∧
      result (.vcvt { f with sat := false, rnd := 1 }) 0x43E80000 0 0 = some (0x7E, 0x10) ∧
      result (.vcvt { f with sat := false, fn := 0x15 }) 0x47700000 0 0 = some (0x7C, 0x14) ∧
      result (.vcvt f) 0x3A000000 0 0 = some (0x00, 0x18)) := by decide +kernel

/-- The worked example of R284 and R286: 20, 3, 0.00001 and -7.5 by the scale 64 in s4, with the counts at 7 and 0. -/
def quantising : State :=
  (lanes [(1, fun t => if t = 0 then 0x41A00000 else if t = 1 then 0x40400000 else if t = 2 then 0x3727C5AC else 0xC0F00000)]).mapWv
    (fun v => { v with
      s := [(4, 0x42800000)]
      ctl := { v.ctl with exec := 15 }
      csr := { v.csr with qsat := 7 } })

theorem test_quantise :
    after (exec (.vqnt { plainAdd with d := 2, a := 1, b := 0x24, fn := 0x10, sat := true }) quantising)
      (fun t => ([0, 1, 2, 3, 4].map (fun l => t.wv.getV 2 l), t.wv.csr.flags, t.wv.csr.qsat, t.wv.csr.qunder, t.wv.getS 4)) =
      some ([0x7E, 0x74, 0x00, 0xFE, 0], 0x38, 9, 1, 0x42800000) ∧
    after (exec (.vamax { plainAdd with d := 0x26, a := 1, b := 0, c := 0xA0, fn := 2 }) quantising) (fun t => t.wv.getS 6) =
      some 0x41A00000 := by decide +kernel

/-- The worked example of R288: T5 byte 200, and 250, which is no T5 byte. -/
theorem test_ternary :
    (let f : InsA := { plainAdd with c := 4 };
      result (.vtdot4 f) 200 0x0764FD05 10 = some (18, 0) ∧ result (.vtdot4 { f with fn := 12 }) 200 0xFE 18 = some (16, 0) ∧
      result (.vtdot4 f) 250 0x0764FD05 10 = some (10, 0x80)) ∧
    after (exec (.vunp3 { plainAdd with d := 6, b := 0xA0, fn := 7 }) (lanes [(2, fun _ => 200)]))
      (fun t => [t.wv.getV 6 0, t.wv.getV 7 0]) = some [0x0000FF01, 1] := by decide +kernel

/-- The worked examples of R29 and R38: BRA from 120 back to 100; CALL from 200 to 340 with NF 4, and the one that spills. -/
def framed (pc : VAddr) (cur : Nat) : State :=
  idle.mapWv (fun v => { v with ctl := { v.ctl with pc := pc }, win := { v.win with cur := cur, nf := 4, place := [(0, 0), (1, 1), (2, 2), (3, 3)] } })

theorem test_branch_call :
    after (exec (.bra { plainB with rel := 0xFFFFF8 }) (framed 0x120 0)) (fun t => t.wv.ctl.pc) = some 0x100 ∧
    after (exec (.call { plainB with rel := 0x50 }) (framed 0x200 0))
      (fun t => (t.wv.ctl.pc, t.wv.win.cur, (t.wv.win.frame (t.wv.win.phys 2)).link)) = some (0x340, 1, 0x208) ∧
    after (exec (.call { plainB with rel := 0x50 }) (framed 0x200 2)) (fun t => (t.wv.win.cur, t.wv.csr.cause, t.wv.csr.tpc, t.wv.ctl.pc)) =
      some (2, 0x20, 0x200, 0x40) := by decide +kernel

/-- The race of the core-memory chapter: word 200 of the block holds 10; threads 0 and 1 add 1, and receive 10 and 11. -/
def adding : State :=
  let s := two.setMyCore { two.myCore with spad := two.myCore.spad.write (1024 + 0x200) [10, 0, 0, 0] }
  s.mapWv (fun v => { v with win := { v.win with frames := [(0, ⟨0, [(0, List.replicate 64 0x200)]⟩)] } })

/-- The state after an access to the core's memories has had all its turns at its port, at a later cycle. -/
def served (s : State) : State :=
  let t := (List.range 64).foldl (fun (t : State) _ => t.portStep 0 0) s;
  ({ t with now := 1000 } : State).settleAll 0 (t.myCore.ops.map (fun o => o.id))

theorem test_atoms :
    after (exec (.atoms { plainLd with d := 1, addr := 0, data := 0xA1, fn := 2 }) adding)
      (fun u => let t := served u; (t.wv.getV 1 0, t.wv.getV 1 1, t.myCore.spad.read (1024 + 0x200) 4)) = some (10, 11, [12, 0, 0, 0]) := by decide +kernel

/-- The race of the same chapter: another wave's LDS of that word takes the port between the two word operations, and reads 11. -/
theorem test_race :
    (after (exec (.atoms { plainLd with d := 1, addr := 0, data := 0xA1, fn := 2 }) { adding with waves := [(1, adding.wv)] }) (fun t =>
      after (exec (.lds { plainLd with d := 1, addr := 0 }) (t.focus ⟨0, 1⟩)) (fun u =>
        let v := served ([0, 1, 0].foldl (fun (x : State) i => x.portStep 0 i) u)
        ((v.wave ⟨0, 1⟩).getV 1 0, (v.wave ⟨0, 0⟩).getV 1 0, (v.wave ⟨0, 0⟩).getV 1 1, v.myCore.spad.read (1024 + 0x200) 4)))) =
      some (some (11, 10, 11, [12, 0, 0, 0])) := by decide +kernel

/-- The worked example of R1: a store of 11223344 puts 44 at the lowest address, and a load reads it back. -/
theorem test_scratchpad :
    (let s := adding.mapWv (fun v => { v with s := [(6, 0x11223344)] });
      after (exec (.sts { plainLd with d := 0, addr := 0, data := 0x26 }) s) (fun t => (served t).myCore.spad.read (1024 + 0x200) 4) =
        some [0x44, 0x33, 0x22, 0x11]) ∧
    after (exec (.lds { plainLd with d := 1, addr := 0 }) adding) (fun u => let t := served u; (t.wv.getV 1 0, t.wv.getV 1 2)) = some (10, 0) := by decide +kernel

/-- The worked example of R75: the group and the home of 12345680 in the undivided package. -/
theorem test_home : Dom.undivided.group 0x12345680 = 70 ∧ Dom.undivided.home 0x12345680 = 281 := by decide +kernel

/-- CSRW and CSRR of MODE: RM keeps a legal code, and RM stays where 5 is written (R231, R233). -/
theorem test_csr :
    (let s := idle.mapWv (fun v => { v with s := [(0, 0x1A), (1, 0x0D)] });
      after (exec (.csrw { plainT with a := 0x20, w1 := some 0 }) s) (fun t => (t.wv.csr.rm, t.wv.csr.ftz, t.wv.csr.mixtrap)) =
        some (2, true, true) ∧
      after (exec (.csrw { plainT with a := 0x21, w1 := some 0 }) s) (fun t => (t.wv.csr.rm, t.wv.csr.ftz)) = some (0, true)) := by
  decide +kernel

/-- The worked example of R120: the paths to the ports of clusters 32, 33 and 40 run together through the first reply stage and part
into three branches at the second. -/
theorem test_branches :
    let at' := fun (stage : Nat) => ([64, 66, 80].map (fun port => (replyPath Dom.undivided 200 port)[stage]?)).eraseDups.length
    at' 0 = 1 ∧ at' 1 = 3 := by decide +kernel

end Sys2Proof.Tests
end

section
/-! SUPPORT. The uniform guard, the integer instructions and the CSRs: what the shared forms do, said once, and the statements
of the family 00_scope that rest on it. -/

namespace Sys2Proof.Machine

/-! ## The uniform guard (R11) -/

theorem guarded_of_guard {g : Guard} {s : State} (h : s.wv.guardUni g = true) (n : Nat) (body : State → State) :
    guarded g n body s = .next (body s) := by
  simp [guarded, h]

theorem guarded_of_guard_false {g : Guard} {s : State} (h : s.wv.guardUni g = false) (n : Nat) (body : State → State) :
    guarded g n body s = .next (s.advance n) := by
  simp [guarded, h]

/-- The guarded form of the uniform ALU is that of the control instructions, with PC moved past it in the body too. -/
theorem uniGuarded_eq_guarded (g : Guard) (n : Nat) (body : State → Wave) :
    uniGuarded g n body = guarded g n (fun s => (s.withWv (body s)).advance n) := by
  funext s
  unfold uniGuarded guarded
  split <;> rfl

theorem exists_guarded_of_uniGuarded {m : State → Out} {g : Guard} {n : Nat} (h : ∃ body, m = uniGuarded g n body) :
    ∃ body, m = guarded g n body := by
  obtain ⟨body, rfl⟩ := h
  exact ⟨_, uniGuarded_eq_guarded g n body⟩

/-- Every row's meaning is a body behind the row's own guard, with the row's own length. -/
theorem exec_guardedRows (a : InsA) (b : InsB) (t : InsT) :
    ∀ r ∈ guardedRows a b t, ∃ body, exec r.1 = guarded r.2.1 r.2.2 body := by
  intro r hr
  simp only [guardedRows, List.mem_append, List.mem_map] at hr
  obtain (⟨i, hi, rfl⟩ | ⟨i, hi, rfl⟩) | ⟨i, hi, rfl⟩ := hr
  · fin_cases hi <;> exact exists_guarded_of_uniGuarded ⟨_, rfl⟩
  · fin_cases hi <;> exact ⟨_, rfl⟩
  · fin_cases hi
    -- SLOP3 and QLOP, the seventh and eighth rows of format T, are carried out by the uniform ALU.
    on_goal 8 => exact exists_guarded_of_uniGuarded ⟨_, rfl⟩
    on_goal 7 => exact exists_guarded_of_uniGuarded ⟨_, rfl⟩
    all_goals exact ⟨_, rfl⟩

/-- Settles O7: every row of the list stands behind its guard, and a body behind a false guard does not run. -/
theorem failedUniformGuardOnlyAdvances : Obligations.FailedUniformGuardOnlyAdvances := by
  unfold Obligations.FailedUniformGuardOnlyAdvances
  intro a b t s r hr hg
  obtain ⟨body, hbody⟩ := exec_guardedRows a b t r hr
  rw [hbody, guarded_of_guard_false hg]

/-! ## The integer instructions -/

/-- The operations in the numbering of the twins SADD and VADD (`intResult`). -/
def intOp : Nat → IntOp
  | 0 => opMov
  | 1 => opAdd
  | 2 => opSub
  | 3 => opMul
  | 4 => opMulhi
  | 5 => opMad
  | 6 => opMin
  | 7 => opMax
  | 8 => opShl
  | 9 => opShr
  | 10 => opBfe
  | 11 => opBfi
  | 12 => opPopc
  | 13 => opClz
  | 14 => opAbs
  | 15 => opShf
  | 16 => opBrev
  | 17 => opDot4
  | _ => opCvti

/-- The end of R241's arithmetic clamps exactly where .SAT changes the value (R238). -/
theorem exactEnd_eq_opEnd (f : InsA) (x : Int) : exactEnd f x = ((opEnd f x).1, satFlag (opEnd f x).2) := by
  have hclamp := clampInt_eq_self (InsA_signed f) (InsA_width f) x
  unfold exactEnd opEnd finishInt satFlag
  cases f.sat with
  | false => simp
  | true =>
    by_cases hout : x < intMin (InsA_signed f) (InsA_width f) ∨ intMax (InsA_signed f) (InsA_width f) < x
    · have hne : clampInt (InsA_signed f) (InsA_width f) x ≠ x := fun h => hclamp.1 h hout
      simp [hout, hne]
    · simp [hout, hclamp.2 hout]

@[simp] theorem opBfe_snd (f : InsA) (a b c : Nat) : (opBfe f a b c).2 = false := by
  unfold opBfe; split <;> rfl

@[simp] theorem opBfi_snd (f : InsA) (a b c : Nat) : (opBfi f a b c).2 = false := by
  unfold opBfi; split <;> rfl

@[simp] theorem opShf_snd (f : InsA) (a b c : Nat) : (opShf f a b c).2 = false := by
  unfold opShf; dsimp only; split <;> rfl

/-- Result and flags of an operation are those that the rules give for its number. -/
theorem intResult_eq_intOp (f : InsA) (a b c : Nat) :
    ∀ k, intResult f a b c k = ((intOp k f a b c).1, satFlag (intOp k f a b c).2)
  | 0 | 4 | 6 | 7 | 8 | 9 | 13 | 16 | 17 | _ + 18 => rfl
  | 1 | 2 | 3 | 5 | 14 => exactEnd_eq_opEnd f _
  | 10 | 11 | 15 => by simp [intResult, intOp, satFlag]
  | 12 => by simp [intResult, intOp, opPopc, popCount_eq, satFlag]

theorem exec_uniformRows (f : InsA) : ∀ r ∈ uniformRows f,
    exec r.1 = uniInt (intOp r.2.1) r.2.2.1 r.2.2.2.1 r.2.2.2.2.1 r.2.2.2.2.2 f := by
  intro r hr
  simp only [uniformRows] at hr
  fin_cases hr <;> rfl

theorem exec_vectorRows (f : InsA) : ∀ r ∈ vectorRows f,
    exec r.1 = vecInt (intOp r.2.1) r.2.2.1 r.2.2.2.1 r.2.2.2.2.1 r.2.2.2.2.2 f := by
  intro r hr
  simp only [vectorRows] at hr
  fin_cases hr <;> rfl

/-- A vector destination spans at most 16 registers. -/
theorem vectorRows_width_le (f : InsA) : ∀ r ∈ vectorRows f, r.2.2.2.2.2 ≤ 512 := by
  have hw := InsA_width_le f
  have hr := regWidth_le _ hw
  simp [vectorRows, hw, hr]

/-- Settles O8: each row is its operation put through the shared uniform or vector form, and the result of the operation is
the one that the rules give. -/
theorem integerResults : Obligations.IntegerResults := by
  unfold Obligations.IntegerResults completes
  refine ⟨fun f s r hr hg => ?_, fun f s r hr => ?_⟩
  · simpa only [exec_uniformRows f r hr, intResult_eq_intOp] using uniInt_completes _ _ _ _ _ f s hg
  · simpa only [exec_vectorRows f r hr, intResult_eq_intOp] using
      vecInt_completes _ _ _ _ _ f s (vectorRows_width_le f r hr)

/-! ## The CSR fields after a write of a word (R7, R8, R231) -/

section Fields
variable (c : Csrs) (i v : Nat)

@[simp] theorem Csrs.write_seed : (c.write i v).seed = c.seed := by
  unfold Csrs.write; split <;> rfl

@[simp] theorem Csrs.write_cause : (c.write i v).cause = c.cause := by
  unfold Csrs.write; split <;> rfl

@[simp] theorem Csrs.write_tinfo : (c.write i v).tinfo = c.tinfo := by
  unfold Csrs.write; split <;> rfl

@[simp] theorem Csrs.write_latch : (c.write i v).latch = c.latch := by
  unfold Csrs.write; split <;> rfl

@[simp] theorem Csrs.write_flags : (c.write i v).flags = if i = 0x001 then BitVec.ofNat 8 v else c.flags := by
  unfold Csrs.write; split <;> simp_all

@[simp] theorem Csrs.write_tvOff : (c.write i v).tvOff = if i = 0x010 then BitVec.ofNat 30 (v / 4) else c.tvOff := by
  unfold Csrs.write; split <;> simp_all

/-- A write of one of the two CSRs of a long register leaves the half that the other shows. -/
@[simp] theorem Csrs.write_tpc : (c.write i v).tpc.toNat =
    if i = 0x012 then (c.tpc.toNat / 2 ^ 32 * 2 ^ 32 + v) % 2 ^ 57
    else if i = 0x013 then (c.tpc.toNat % 2 ^ 32 + 2 ^ 32 * v) % 2 ^ 57 else c.tpc.toNat := by
  unfold Csrs.write; split <;> simp_all

@[simp] theorem Csrs.write_tmask : (c.write i v).tmask.toNat =
    if i = 0x014 then (c.tmask.toNat / 2 ^ 32 * 2 ^ 32 + v) % 2 ^ 64
    else if i = 0x015 then (c.tmask.toNat % 2 ^ 32 + 2 ^ 32 * v) % 2 ^ 64 else c.tmask.toNat := by
  unfold Csrs.write; split <;> simp_all

@[simp] theorem Csrs.write_spill : (c.write i v).spill.toNat =
    if i = 0x021 then (c.spill.toNat / 2 ^ 32 * 2 ^ 32 + v / 128 * 128) % 2 ^ 57
    else if i = 0x022 then (c.spill.toNat % 2 ^ 32 + 2 ^ 32 * v) % 2 ^ 57 else c.spill.toNat := by
  unfold Csrs.write; split <;> simp_all

/-- A CSR other than MODE leaves MODE. -/
theorem Csrs.write_modeWord_other (h : i ≠ 0x000) : (c.write i v).modeWord = c.modeWord := by
  unfold Csrs.write; split
  case h_1 => exact absurd rfl h
  all_goals simp only [Csrs.modeWord]

/-- MODE takes SREN, MIXTRAP, FTZ and a legal RM; PROT stays. -/
theorem Csrs.write_modeWord : (c.write 0x000 v).modeWord =
    c.modeWord / 64 * 64 + v % 64 / 8 * 8 + if v % 8 < 5 then v % 8 else c.modeWord % 8 := by
  have hsren := c.sren.toNat_le
  have hmix := c.mixtrap.toNat_le
  have hftz := c.ftz.toNat_le
  have hrm := c.rm.isLt
  simp only [Csrs.write, Csrs.modeWord, Nat.toNat_testBit]
  split
  · simp only [BitVec.toNat_ofNat]; omega
  · omega

end Fields

/-! ## The wave after a write of a CSR (R233, R265) -/

section WriteCsr
variable (w : Wave) (i v : Nat)

/-- A write of a CSR changes the CSR fields and, for LFSR, the seed and the generators. -/
theorem Wave.writeCsr_eq :
    w.writeCsr i v = { w with
      csr := { w.csr.write i v with seed := if i = 0x002 then BitVec.ofNat 32 v else w.csr.seed }
      gens := if i = 0x002 then seedGens (BitVec.ofNat 32 v) else w.gens } := by
  unfold Wave.writeCsr
  split
  · subst i; rfl
  · rw [← Csrs.write_seed w.csr i v]

theorem Wave.writeCsr_csr : (w.writeCsr i v).csr =
    { w.csr.write i v with seed := if i = 0x002 then BitVec.ofNat 32 v else w.csr.seed } := by
  rw [Wave.writeCsr_eq]

@[simp] theorem Wave.writeCsr_modeWord : (w.writeCsr i v).csr.modeWord = (w.csr.write i v).modeWord := by
  rw [Wave.writeCsr_csr]; simp only [Csrs.modeWord]

@[simp] theorem Wave.writeCsr_win : (w.writeCsr i v).win = w.win := by rw [Wave.writeCsr_eq]
@[simp] theorem Wave.writeCsr_cnt : (w.writeCsr i v).cnt = w.cnt := by rw [Wave.writeCsr_eq]
@[simp] theorem Wave.writeCsr_ctx : (w.writeCsr i v).ctx = w.ctx := by rw [Wave.writeCsr_eq]
@[simp] theorem Wave.writeCsr_ident : (w.writeCsr i v).ident = w.ident := by rw [Wave.writeCsr_eq]

@[simp] theorem Wave.writeCsr_gens :
    (w.writeCsr i v).gens = if i = 0x002 then seedGens (BitVec.ofNat 32 v) else w.gens := by
  rw [Wave.writeCsr_eq]

end WriteCsr

/-! ## What a read of a CSR returns after a write -/

@[simp] theorem State.withWv_netNow (s : State) (w : Wave) : (s.withWv w).netNow = s.netNow := rfl
@[simp] theorem State.withWv_myCore (s : State) (w : Wave) : (s.withWv w).myCore = s.myCore := rfl

@[simp] theorem State.ctiles_writeCsr (s : State) (i v : Nat) :
    (s.withWv (s.wv.writeCsr i v)).ctiles = s.ctiles := by
  simp [State.ctiles, Core.blockOf?]

@[simp] theorem State.csrValue_advance (s : State) (n k : Nat) : (s.advance n).csrValue k = s.csrValue k := by
  unfold State.csrValue; split <;> rfl

/-- The register written reads as R231 says (`csrAfter`). -/
theorem State.csrValue_writeCsr_self (s : State) (i v : Nat) (hv : v < 2 ^ 32) :
    (s.withWv (s.wv.writeCsr i v)).csrValue i = csrAfter i (s.csrValue i) v := by
  unfold State.csrValue
  split
  case h_1 => simp [csrAfter, Csrs.write_modeWord] -- MODE
  case h_22 => simp_all [csrAfter] -- no CSR
  all_goals simp [csrAfter, Wave.writeCsr_csr]
  -- What is left is the arithmetic of the fields: SEED, TRAPVEC and the halves of the long registers.
  all_goals omega

/-- Every other register reads as before. -/
theorem State.csrValue_writeCsr_other (s : State) (i v k : Nat) (hv : v < 2 ^ 32) (hk : k ≠ i) :
    (s.withWv (s.wv.writeCsr i v)).csrValue k = s.csrValue k := by
  have htpc := s.wv.csr.tpc.isLt
  have htmask := s.wv.csr.tmask.isLt
  have hspill := s.wv.csr.spill.isLt
  unfold State.csrValue
  split
  case h_1 => simp [Csrs.write_modeWord_other _ _ _ hk.symm] -- MODE
  all_goals simp [Wave.writeCsr_csr, hk.symm]
  -- What is left are the halves of the long registers, where the other half may be the one written.
  all_goals split <;> omega

/-! ## What CSRW writes, and what the generators hold after a seed -/

/-- A number put together of `n` bits, the lowest first, is below the `n`th power of 2. -/
theorem foldr_bits_lt (b : Nat → Nat) (hb : ∀ k, b k ≤ 1) (l : List Nat) :
    l.foldr (fun k acc => b k + 2 * acc) 0 < 2 ^ l.length := by
  induction l with
  | nil => simp
  | cons k l ih =>
    have hk := hb k
    simp only [List.foldr_cons, List.length_cons, Nat.pow_succ]
    omega

theorem tagBitmap_lt (tags : Map Tag) (i : Nat) : tagBitmap tags i < 2 ^ 32 := by
  unfold tagBitmap
  refine foldr_bits_lt _ (fun k => ?_) (List.range 32)
  split <;> omega

theorem Csrs.modeWord_lt (c : Csrs) : c.modeWord < 2 ^ 32 := by
  have hprot := c.prot.toNat_le
  have hsren := c.sren.toNat_le
  have hmix := c.mixtrap.toNat_le
  have hftz := c.ftz.toNat_le
  have hrm := c.rm.isLt
  unfold Csrs.modeWord
  omega

theorem State.ctiles_lt (s : State) : s.ctiles < 2 ^ 32 := by
  unfold State.ctiles
  split
  · next b _ => have := b.cmask.isLt; omega
  · omega

/-- Every CSR reads as a word of 32 bits. -/
theorem State.csrValue_lt (s : State) (i : Nat) : s.csrValue i < 2 ^ 32 := by
  unfold State.csrValue
  split
  case h_1 => exact Csrs.modeWord_lt _ -- MODE
  case h_14 | h_15 => exact tagBitmap_lt _ _ -- the two words of TAGS
  case h_17 => exact State.ctiles_lt s -- CTILES
  all_goals simp only [Window.word, Counts.word]; omega

theorem csrNew_eq (fn : BitVec 6) (old v : Nat) : csrNew fn.toNat old v =
    if fn = 0 then v else if fn = 1 then old ||| v else old &&& (2 ^ 32 - 1 - v) := by
  unfold csrNew
  split <;> simp_all [BitVec.toNat_eq]

/-- Written, set or cleared, a word stays a word. -/
theorem csrNew_lt (fn old v : Nat) (ho : old < 2 ^ 32) (hv : v < 2 ^ 32) : csrNew fn old v < 2 ^ 32 := by
  unfold csrNew
  split
  · exact hv
  · exact Nat.or_lt_two_pow ho hv
  · exact Nat.lt_of_le_of_lt Nat.and_le_left ho

theorem length_seedGens (seed : Word) : (seedGens seed).length = 16 := by simp [seedGens]

theorem getD_seedGens (seed : Word) (l : Nat) (hl : l < 16) :
    (seedGens seed).getD l 0 =
      let g := seed ^^^ BitVec.ofNat 32 (0x9E3779B9 * (l + 1))
      if g = 0 then 1 else g := by
  simp [seedGens, List.getD, hl]

@[simp] theorem State.advance_gens (s : State) (n : Nat) : (s.advance n).wv.gens = s.wv.gens := rfl

/-! ## CSRR and CSRW (R233) -/

section Access
variable (f : InsT) (s : State) (hg : s.wv.guardUni f.g = true) (hp : w1Of f % 2 ^ 12 = 0x001 → s.flagsPending = false)

include hp in
/-- An access waits for FLAGS alone, and only while an earlier instruction may still set them. -/
theorem not_flags_pending : ¬(w1Of f % 2 ^ 12 = 0x001 ∧ s.flagsPending = true) := by
  rintro ⟨h, hpend⟩
  simp [hp h] at hpend

include hg hp

theorem exec_csrr : exec (.csrr f) s =
    .next ((s.withWv ((if w1Of f % 2 ^ 12 = 0x042 then
        { s.wv with csr := { s.wv.csr with latch := BitVec.ofNat 32 (s.netNow / 2 ^ 32) } }
      else s.wv).putS f.d 32 (s.csrValue (w1Of f % 2 ^ 12)))).advance (lenT f)) := by
  show execCsrr f s = _
  simp only [execCsrr, guarded_of_guard hg, if_neg (not_flags_pending f s hp)]

theorem exec_csrw : exec (.csrw f) s =
    .next ((s.withWv (s.wv.writeCsr (w1Of f % 2 ^ 12)
      (csrNew f.fn.toNat (s.csrValue (w1Of f % 2 ^ 12)) (s.srcU none 32 f.a)))).advance (lenT f)) := by
  show execCsrw f s = _
  simp only [execCsrw, guarded_of_guard hg, if_neg (not_flags_pending f s hp)]
  rfl

end Access

/-- Settles O19: CSRR writes a uniform destination, and CSRW is a write of one CSR, which every other read overlooks. -/
theorem csrAccess : Obligations.CsrAccess := by
  unfold Obligations.CsrAccess completes
  constructor
  · intro f s hg i hp
    refine ⟨_, exec_csrr f s hg hp, State.wroteS_putS _ _ _ _ _ _ ?_⟩
    split <;> rfl
  · intro f s hg i a old v hp
    have hv : csrNew f.fn.toNat old a = v := csrNew_eq f.fn old a
    have hlt : v < 2 ^ 32 :=
      hv ▸ csrNew_lt _ _ _ (State.csrValue_lt s i) (State.srcU_lt s none 32 f.a (by omega))
    have hexec := exec_csrw f s hg hp
    rw [hv] at hexec
    refine ⟨_, hexec, ?_, ?_, ?_, fun k hk => ?_⟩
    · rw [State.csrValue_advance]
      exact State.csrValue_writeCsr_self s i v hlt
    · exact ⟨_, _, congrArg (fun w => (s.withWv w).advance (lenT f)) (Wave.writeCsr_eq s.wv _ v)⟩
    · simp only [State.advance_gens, State.withWv_wv, Wave.writeCsr_gens]
      split
      · exact ⟨length_seedGens _, getD_seedGens _⟩
      · rfl
    · rw [State.csrValue_advance]
      exact State.csrValue_writeCsr_other s i v k hlt hk

end Sys2Proof.Machine
end

section
/-! SUPPORT. What the machine does next, said once per branch of a turn, of a fetch and of a decode, and the statement of the
family 01_device_at_a_glance that rests on it. -/

namespace Sys2Proof.Machine

/-! ## A step by its turn -/

theorem step_of_turn_some {s s1 : State} {i : Instr} (h : s.turn = (s1, some i)) : step s = exec i s1 := by
  simp [step, h]

theorem step_of_turn_none {s s1 : State} (h : s.turn = (s1, none)) : step s = .next s1 := by
  simp [step, h]

/-! ## The fetch of a line (R19, R28) -/

/-- The window is read from the first line of the cache under the address and its key, where that line came without an
error. -/
theorem State.fetchLine_of_hit {s : State} {e : TlbEntry} {pc : Nat} {l : ILine}
    (hl : s.myCore.icache.find? (fun v => v.line == e.phys pc / 128 && v.key == e.key) = some l) (hok : l.opx % 2 = 0) :
    s.fetchLine e pc = (s, .bytes ((l.bytes.drop (e.phys pc % 128)).take (windowLen pc))) := by
  simp [State.fetchLine, hl, hok]

/-! ## The instruction at the PC (R49, R84, R408) -/

section FetchDecode
variable {s s1 s2 : State}

theorem State.fetchDecode_of_find_fault {c l : Nat} (h : s.find s.wv.ctl.pc.toNat 3 = (.fault (.sub c l), s1)) :
    s.fetchDecode = (s1.fetchFault (faultCause c) (faultInfo c l 3), none) := by
  simp [State.fetchDecode, h]

variable {e : TlbEntry} {bs : List Byte} (hfind : s.find s.wv.ctl.pc.toNat 3 = (.ok e, s1))
  (hline : s1.fetchLine e s.wv.ctl.pc.toNat = (s2, .bytes bs))
include hfind hline

theorem State.fetchDecode_of_decode_ok {i : Instr} (h : decode s2.wv.ident.scalars s.wv.ctl.pc.toNat bs = .ok i) :
    s.fetchDecode = (s2.mapWv (fun w => { w with waits := { w.waits with handler := false } }), some i) := by
  simp [State.fetchDecode, hfind, hline, h]

theorem State.fetchDecode_of_decode_error {f : DecodeFault}
    (h : decode s2.wv.ident.scalars s.wv.ctl.pc.toNat bs = .error f) :
    s.fetchDecode =
      (if f.kind = .fetchAlign then s2.fetchFault 0x02 0 else s2.trapAll (decodeCause f.kind) f.info, none) := by
  simp [State.fetchDecode, hfind, hline, h]

end FetchDecode

/-! ## The instruction that a wave issues (R433) -/

theorem State.issued_of_fetchDecode_none {s s1 : State} (h : s.fetchDecode = (s1, none)) : s.issued = (s1, none) := by
  simp [State.issued, h]

theorem State.issued_of_parity_nil {s s1 : State} {i : Instr} (h : s.fetchDecode = (s1, some i))
    (hp : s1.wv.parity = []) : s.issued = (s1, some i) := by
  simp [State.issued, h, hp]

/-! ## The turn of a wave picked to issue (R404) -/

section Issuing
variable {s u : State} {w : WaveId} {rest : List WaveId} (hs : s.issuing = w :: rest)
  (hu : u = { s with issuing := rest }.focus w) (hrun : u.wv.running = true) (hend : u.wv.waits.ending = false)
include hs hu hrun hend

theorem State.turn_of_imprecise (himp : (u.wv.impKey.isSome || u.wv.impMixed.isSome) = true) :
    s.turn = (u, some (.impreciseTrap w)) := by
  subst hu
  simp [State.turn, hs, hrun, hend, himp]

theorem State.turn_of_precise (hkey : u.wv.impKey = none) (hmixed : u.wv.impMixed = none) : s.turn = u.issued := by
  subst hu
  simp [State.turn, hs, hrun, hend, hkey, hmixed]

end Issuing

/-! ## The turn with no wave to issue -/

section Idle
variable {s : State} (hs : s.issuing = [])
include hs

theorem State.turn_of_agenda {e : Instr} {rest : List Instr} (ha : s.agenda = e :: rest) :
    s.turn = ({ s with agenda := rest }, eventOf e) := by
  simp [State.turn, hs, ha]

variable (ha : s.agenda = [])
include ha

theorem State.turn_of_upset {x : Upset} (hx : Config.upset s.draws = some x) : s.turn = (s.drawn.strike x, none) := by
  simp [State.turn, hs, ha, hx]

variable (hup : Config.upset s.draws = none)
include hup

theorem State.turn_of_portTurn {x : Nat × Nat} (hx : Config.portTurn s.draws = some x) :
    s.turn = (s.drawn.portStep x.1 x.2, none) := by
  simp [State.turn, hs, ha, hup, hx]

theorem State.turn_of_nextEvent (hport : Config.portTurn s.draws = none) :
    s.turn = (s.drawn, eventOf (Config.nextEvent s.draws)) := by
  simp [State.turn, hs, ha, hup, hport]

end Idle

/-- An event takes place; anything else that stands in an event's place leaves the state as the choice found it. -/
theorem step_of_turn_eventOf {s s1 : State} {e : Instr} (h : s.turn = (s1, eventOf e)) :
    step s = if isEvent e then exec e s1 else .next s1 := by
  cases he : isEvent e with
  | true => exact step_of_turn_some (h.trans (by simp [eventOf, he]))
  | false => exact step_of_turn_none (h.trans (by simp [eventOf, he]))

theorem isEvent_of_view {e : Instr} (h : e.view = .event) : isEvent e = true := by
  simp [isEvent, h]

/-- Settles O1: each clause is one branch of the turn; a precise wave's turn is what its fetch and its decode answer. -/
theorem stepRunsDecodedInstruction : Obligations.StepRunsDecodedInstruction := by
  unfold Obligations.StepRunsDecodedInstruction
  intro s
  refine ⟨fun w rest hs u hu hrun hend => ⟨fun himp => ?imprecise, fun hkey hmixed => ?precise⟩,
    fun hs e rest ha he => ?agenda,
    fun hs ha => ⟨fun x hx => ?upset, fun x hup hx => ?portTurn, fun hup hport => ?nextEvent⟩⟩
  case imprecise => exact step_of_turn_some (State.turn_of_imprecise hs hu hrun hend himp)
  case precise =>
    have hturn : s.turn = u.issued := State.turn_of_precise hs hu hrun hend hkey hmixed
    refine ⟨fun e u1 l hfind hl hok bs hbs => ?_, fun c l u1 hfind => ?_⟩
    · have hline := State.fetchLine_of_hit hl hok
      rw [← hbs] at hline
      refine ⟨fun i hdec hpar => ?_, fun f hdec => ?_⟩
      · have hfetch := State.fetchDecode_of_decode_ok hfind hline hdec
        exact step_of_turn_some (hturn.trans (State.issued_of_parity_nil hfetch hpar))
      · have hstep := step_of_turn_none (hturn.trans
          (State.issued_of_fetchDecode_none (State.fetchDecode_of_decode_error hfind hline hdec)))
        exact ⟨fun hk => by rw [hstep, if_neg hk], fun hk => by rw [hstep, if_pos hk]; rfl⟩
    · exact step_of_turn_none (hturn.trans
        (State.issued_of_fetchDecode_none (State.fetchDecode_of_find_fault hfind)))
  case agenda => rw [step_of_turn_eventOf (State.turn_of_agenda hs ha), if_pos (isEvent_of_view he)]
  case upset => exact step_of_turn_none (State.turn_of_upset hs ha hx)
  case portTurn => exact step_of_turn_none (State.turn_of_portTurn hs ha hup hx)
  case nextEvent => exact step_of_turn_eventOf (State.turn_of_nextEvent hs ha hup hport)

end Sys2Proof.Machine
end

section
/-! SUPPORT. The instruction word, said once per layer: bytes, opcode map, first half-word, the fields of each format, the
decoder on a word; and the statements of the family 02_instruction_word on decoding that rest on them. -/

namespace Sys2Proof

/-! ## Bytes, lowest first (R6) -/

@[simp] theorem length_leBytes (n v : Nat) : (leBytes n v).length = n := by
  induction n generalizing v with
  | zero => rfl
  | succ n ih => simp [leBytes, ih]

theorem leNat_leBytes (n v : Nat) : leNat (leBytes n v) = v % 256 ^ n := by
  induction n generalizing v with
  | zero => simp [leBytes, leNat, Nat.mod_one]
  | succ n ih => simp [leBytes, leNat, ih, Nat.pow_succ', Nat.mod_mul]

theorem leNat_leBytes_of_lt {n v : Nat} (h : v < 256 ^ n) : leNat (leBytes n v) = v := by
  rw [leNat_leBytes, Nat.mod_eq_of_lt h]

/-! ## The opcode map (R61) -/

theorem Op.ofCode_code (o : Op) : Op.ofCode o.code = some o := by
  rcases o with o | o | o | o <;> cases o <;> rfl

theorem Op.code_lt (o : Op) : o.code < 2 ^ 8 := by
  rcases o with o | o | o | o <;> cases o <;> decide

/-! ## The first half-word (R26, R30) -/

theorem eight_le_of_lenBytes {len n : Nat} (h : lenBytes len = some n) : 8 ≤ n := by
  unfold lenBytes at h
  split at h <;> cases h <;> decide

theorem lt_four_of_lenBytes {len n : Nat} (h : lenBytes len = some n) : len < 4 := by
  unfold lenBytes at h
  split at h <;> cases h <;> decide

/-- A flag read from a number whose lowest bit holds it. -/
theorem beq_one_of_mod_two {n : Nat} {b : Bool} (h : n % 2 = b.toNat) : (n % 2 == 1) = b := by
  cases b <;> simp_all

/-- A field read from a number whose lowest bits hold it. -/
theorem ofNat_eq_of_mod {w n : Nat} {b : BitVec w} (h : n % 2 ^ w = b.toNat) : BitVec.ofNat w n = b :=
  BitVec.eq_of_toNat_eq (by rw [BitVec.toNat_ofNat, h])

section Head
variable {len : Nat} (hlen : len < 4) (o : Op) (g : Guard) (x : Nat)
include hlen

theorem headBits_lt : headBits len o g < 2 ^ 14 := by
  have hcode := o.code_lt
  have hpred := g.pred.isLt
  have hneg := g.neg.toNat_le
  unfold headBits
  omega

theorem headBits_len : (headBits len o g + 2 ^ 16 * x) % 4 = len := by
  unfold headBits
  omega

theorem headBits_code : bitsOf 2 8 (headBits len o g + 2 ^ 16 * x) = o.code := by
  have hcode := o.code_lt
  unfold headBits bitsOf
  rw [Nat.shiftRight_eq_div_pow]
  omega

theorem headBits_reserved : bitsOf 14 2 (headBits len o g + 2 ^ 16 * x) = 0 := by
  have h := headBits_lt hlen o g
  unfold bitsOf
  rw [Nat.shiftRight_eq_div_pow]
  omega

/-- Bits above fields of `k` bits are 0. -/
theorem headBits_above {k : Nat} (m : Nat) (hx : x < 2 ^ k) : bitsOf (16 + k) m (headBits len o g + 2 ^ 16 * x) = 0 := by
  have h := headBits_lt hlen o g
  have hlt : headBits len o g + 2 ^ 16 * x < 2 ^ (16 + k) := by
    rw [Nat.pow_add]
    omega
  rw [bitsOf, Nat.shiftRight_eq_div_pow, Nat.div_eq_of_lt hlt, Nat.zero_mod]

theorem headBits_guard : guardOf (headBits len o g + 2 ^ 16 * x) = g := by
  have hcode := o.code_lt
  obtain ⟨pred, neg⟩ := g
  have hpred := pred.isLt
  have hneg := neg.toNat_le
  simp only [guardOf, headBits, Guard.mk.injEq, Nat.shiftRight_eq_div_pow]
  exact ⟨ofNat_eq_of_mod (by omega), beq_one_of_mod_two (by omega)⟩

end Head

/-! ## The fields above the first half-word, in each format -/

/-- W0 above its first half-word, as format A lays it out (R32). -/
def InsA.body (f : InsA) : Nat :=
  f.d.toNat + 2 ^ 8 * f.a.toNat + 2 ^ 16 * f.b.toNat + 2 ^ 24 * f.c.toNat + 2 ^ 32 * f.fn.toNat + 2 ^ 38 * f.rnd.toNat +
    2 ^ 41 * f.sat.toNat + 2 ^ 42 * f.na.toNat + 2 ^ 43 * f.nb.toNat + 2 ^ 44 * f.aa.toNat + 2 ^ 45 * f.ab.toNat

/-- W0 above its first half-word, as format M lays it out (R36). -/
def InsM.body (f : InsM) : Nat :=
  f.d.toNat + 2 ^ 8 * f.addr.toNat + 2 ^ 16 * f.data.toNat + 2 ^ 24 * f.fn.toNat + 2 ^ 30 * f.so.toNat +
    2 ^ 32 * f.off.toNat

/-- W0 above its first half-word, as format B lays it out (R38). -/
def InsB.body (f : InsB) : Nat := f.rel.toNat + 2 ^ 24 * f.x.toNat + 2 ^ 32 * f.fn.toNat

/-- W0 above its first half-word, as format T lays it out (R39). -/
def InsT.body (f : InsT) : Nat :=
  f.d.toNat + 2 ^ 8 * f.a.toNat + 2 ^ 16 * f.b.toNat + 2 ^ 24 * f.c.toNat + 2 ^ 32 * f.fn.toNat

theorem InsA.body_lt (f : InsA) : f.body < 2 ^ 46 := by
  have := f.sat.toNat_le
  have := f.na.toNat_le
  have := f.nb.toNat_le
  have := f.aa.toNat_le
  have := f.ab.toNat_le
  unfold InsA.body
  omega

theorem InsM.body_lt (f : InsM) : f.body < 2 ^ 48 := by
  unfold InsM.body
  omega

theorem InsB.body_lt (f : InsB) : f.body < 2 ^ 38 := by
  unfold InsB.body
  omega

theorem InsT.body_lt (f : InsT) : f.body < 2 ^ 38 := by
  unfold InsT.body
  omega

section Fields
variable {len : Nat} (hlen : len < 4) (o : Op)
include hlen

theorem insAOf_word (f : InsA) : insAOf (headBits len o f.g + 2 ^ 16 * f.body) f.lit = f := by
  have hlow := headBits_lt hlen o f.g
  have hsat := f.sat.toNat_le
  have hna := f.na.toNat_le
  have hnb := f.nb.toNat_le
  have haa := f.aa.toNat_le
  have hab := f.ab.toNat_le
  rw [insAOf, headBits_guard hlen]
  simp only [Nat.shiftRight_eq_div_pow, InsA.body]
  refine InsA.mk.injEq .. ▸ ⟨rfl, ofNat_eq_of_mod ?_, ofNat_eq_of_mod ?_, ofNat_eq_of_mod ?_, ofNat_eq_of_mod ?_,
    ofNat_eq_of_mod ?_, ofNat_eq_of_mod ?_, beq_one_of_mod_two ?_, beq_one_of_mod_two ?_, beq_one_of_mod_two ?_,
    beq_one_of_mod_two ?_, beq_one_of_mod_two ?_, rfl⟩ <;> omega

theorem insMOf_word (f : InsM) : insMOf (headBits len o f.g + 2 ^ 16 * f.body) f.ext = f := by
  have hlow := headBits_lt hlen o f.g
  rw [insMOf, headBits_guard hlen]
  simp only [Nat.shiftRight_eq_div_pow, InsM.body]
  refine InsM.mk.injEq .. ▸ ⟨rfl, ofNat_eq_of_mod ?_, ofNat_eq_of_mod ?_, ofNat_eq_of_mod ?_, ofNat_eq_of_mod ?_,
    ofNat_eq_of_mod ?_, ofNat_eq_of_mod ?_, rfl⟩ <;> omega

theorem insBOf_word (f : InsB) : insBOf (headBits len o f.g + 2 ^ 16 * f.body) f.wide = f := by
  have hlow := headBits_lt hlen o f.g
  rw [insBOf, headBits_guard hlen]
  simp only [Nat.shiftRight_eq_div_pow, InsB.body]
  refine InsB.mk.injEq .. ▸ ⟨rfl, ofNat_eq_of_mod ?_, ofNat_eq_of_mod ?_, ofNat_eq_of_mod ?_, rfl⟩ <;> omega

theorem insTOf_word (f : InsT) : insTOf (headBits len o f.g + 2 ^ 16 * f.body) f.w1 = f := by
  have hlow := headBits_lt hlen o f.g
  rw [insTOf, headBits_guard hlen]
  simp only [Nat.shiftRight_eq_div_pow, InsT.body]
  refine InsT.mk.injEq .. ▸ ⟨rfl, ofNat_eq_of_mod ?_, ofNat_eq_of_mod ?_, ofNat_eq_of_mod ?_, ofNat_eq_of_mod ?_,
    ofNat_eq_of_mod ?_, rfl⟩ <;> omega

end Fields

/-! ## The word of an instruction -/

/-- A word that the decoder takes for instruction `i` before it checks the fields: W0 `w0`, the bits `hi` above it, and
`n` bytes of both. -/
structure WordOf (i : Instr) (w0 hi n : Nat) : Prop where
  len : lenBytes (w0 % 4) = some n
  fields : ∃ o, Op.ofCode (bitsOf 2 8 w0) = some o ∧ fieldsOf o n w0 hi = (i, [])
  w0_lt : w0 < 256 ^ 8
  hi_lt : hi < 256 ^ (n - 8)

/-- The word put together of a first half-word and the fields above it. -/
theorem WordOf.of_fieldsOf {i : Instr} {len n hi x : Nat} {o : Op} {g : Guard} (hlen : lenBytes len = some n)
    (hx : x < 2 ^ 48) (hhi : hi < 256 ^ (n - 8)) (hf : fieldsOf o n (headBits len o g + 2 ^ 16 * x) hi = (i, [])) :
    WordOf i (headBits len o g + 2 ^ 16 * x) hi n := by
  have h4 := lt_four_of_lenBytes hlen
  have hlow := headBits_lt h4 o g
  refine ⟨?_, ⟨o, ?_, hf⟩, by omega, hhi⟩
  · rw [headBits_len h4, hlen]
  · rw [headBits_code h4, Op.ofCode_code]

theorem encodeView_a (o : OpA) (f : InsA) : encodeView (.a o f) =
    some (headBits (if f.lit.isSome then 1 else 0) (.a o) f.g + 2 ^ 16 * f.body, (f.lit.getD 0).toNat,
      if f.lit.isSome then 12 else 8) := by
  simp only [encodeView, InsA.body, Option.some.injEq, Prod.mk.injEq, and_true]
  omega

theorem encodeView_m (o : OpM) (f : InsM) : encodeView (.m o f) =
    some (headBits (if f.ext.isSome then 1 else 0) (.m o) f.g + 2 ^ 16 * f.body, (f.ext.getD 0).toNat,
      if f.ext.isSome then 12 else 8) := by
  simp only [encodeView, InsM.body, Option.some.injEq, Prod.mk.injEq, and_true]
  omega

theorem encodeView_b (o : OpB) (f : InsB) : encodeView (.b o f) =
    some (headBits (if f.wide then 1 else 0) (.b o) f.g + 2 ^ 16 * f.body, 0, if f.wide then 12 else 8) := by
  simp only [encodeView, InsB.body, Option.some.injEq, Prod.mk.injEq, and_true]
  omega

theorem encodeView_t (o : OpT) (f : InsT) : encodeView (.t o f) =
    some (headBits (if f.w1.isSome then 2 else 0) (.t o) f.g + 2 ^ 16 * f.body, (f.w1.getD 0).toNat,
      if f.w1.isSome then 16 else 8) := by
  simp only [encodeView, InsT.body, Option.some.injEq, Prod.mk.injEq, and_true]
  omega

/-- An optional word above W0 in the forms with and without it: the bits read back are the word that was there. -/
theorem upper_eq {w n m : Nat} (hmn : m ≠ n) (u : Option (BitVec w)) :
    (if (if u.isSome then n else m) == n then some (BitVec.ofNat w (u.getD 0).toNat) else none) = u := by
  cases u <;> simp [hmn]

/-- Such a word fits the bytes above W0, and its absence too. -/
theorem upper_lt {w n : Nat} (hw : 2 ^ w = 256 ^ (n - 8)) (u : Option (BitVec w)) :
    (u.getD 0).toNat < 256 ^ ((if u.isSome then n else 8) - 8) := by
  cases u with
  | none => exact Nat.pow_pos (by decide)
  | some v => exact hw ▸ v.isLt

/-- The encoder has a word for a view, which the decoder takes for an instruction. -/
def HasWord (v : View) (i : Instr) : Prop := ∃ w0 hi n, encodeView v = some (w0, hi, n) ∧ WordOf i w0 hi n

theorem hasWord_a (o : OpA) (f : InsA) : HasWord (.a o f) (.ofA o f) := by
  have hlen : (if f.lit.isSome then 1 else 0) < 4 := by split <;> decide
  refine ⟨_, _, _, encodeView_a o f, .of_fieldsOf ?len (f.body_lt.trans (by decide)) (upper_lt rfl _) ?fields⟩
  case len => cases f.lit <;> rfl
  case fields =>
    have hn : (if f.lit.isSome then 12 else 8) ≠ 16 := by split <;> decide
    simp only [fieldsOf, upper_eq (by decide : 8 ≠ 12), headBits_reserved hlen, insAOf_word hlen,
      headBits_above hlen _ _ _ 2 f.body_lt]
    simp [failAt, hn]

theorem hasWord_m (o : OpM) (f : InsM) : HasWord (.m o f) (.ofM o f) := by
  have hlen : (if f.ext.isSome then 1 else 0) < 4 := by split <;> decide
  refine ⟨_, _, _, encodeView_m o f, .of_fieldsOf ?len f.body_lt (upper_lt rfl _) ?fields⟩
  case len => cases f.ext <;> rfl
  case fields =>
    have hn : (if f.ext.isSome then 12 else 8) ≠ 16 := by split <;> decide
    simp only [fieldsOf, upper_eq (by decide : 8 ≠ 12), headBits_reserved hlen, insMOf_word hlen]
    simp [failAt, hn]

theorem hasWord_b (o : OpB) (f : InsB) : HasWord (.b o f) (.ofB o f) := by
  have hlen : (if f.wide then 1 else 0) < 4 := by split <;> decide
  refine ⟨_, _, _, encodeView_b o f, .of_fieldsOf ?len (f.body_lt.trans (by decide)) (Nat.pow_pos (by decide)) ?fields⟩
  case len => cases f.wide <;> rfl
  case fields =>
    have hn : (if f.wide then 12 else 8) ≠ 16 := by split <;> decide
    have hwide : ((if f.wide then 12 else 8) == 12) = f.wide := by cases f.wide <;> rfl
    simp only [fieldsOf, hwide, headBits_reserved hlen, insBOf_word hlen, headBits_above hlen _ _ _ 10 f.body_lt]
    simp [failAt, hn]

theorem hasWord_t (o : OpT) (f : InsT) : HasWord (.t o f) (.ofT o f) := by
  have hlen : (if f.w1.isSome then 2 else 0) < 4 := by split <;> decide
  refine ⟨_, _, _, encodeView_t o f, .of_fieldsOf ?len (f.body_lt.trans (by decide)) (upper_lt rfl _) ?fields⟩
  case len => cases f.w1 <;> rfl
  case fields =>
    have hn : (if f.w1.isSome then 16 else 8) ≠ 12 := by split <;> decide
    simp only [fieldsOf, upper_eq (by decide : 8 ≠ 16), headBits_reserved hlen, insTOf_word hlen,
      headBits_above hlen _ _ _ 10 f.body_lt]
    simp [failAt, hn]

/-- The row of a view; that of an event is given beside it. -/
def View.row (event : Instr) : View → Instr
  | .a o f => .ofA o f
  | .m o f => .ofM o f
  | .b o f => .ofB o f
  | .t o f => .ofT o f
  | .event => event

theorem Instr.row_view (i : Instr) : i.view.row i = i := by
  cases i <;> rfl

theorem Instr.hasWord (i : Instr) (hi : i.view ≠ .event) : HasWord i.view i := by
  have hrow := i.row_view
  cases hv : i.view with
  | a o f => exact (by rwa [hv] at hrow : Instr.ofA o f = i) ▸ hasWord_a o f
  | m o f => exact (by rwa [hv] at hrow : Instr.ofM o f = i) ▸ hasWord_m o f
  | b o f => exact (by rwa [hv] at hrow : Instr.ofB o f = i) ▸ hasWord_b o f
  | t o f => exact (by rwa [hv] at hrow : Instr.ofT o f = i) ▸ hasWord_t o f
  | event => exact absurd hv hi

/-! ## The decoder on a word (R49) -/

theorem Instr.checkView_of_wf {i : Instr} {scalars : Nat} (hi : i.view ≠ .event) (h : i.wf scalars = true) :
    checkView scalars [] i.view = none := by
  unfold Instr.wf at h
  split at h
  · contradiction
  · simpa using h

/-- The decoder reads the length, W0 and the bits above W0 of a word, whatever bytes follow it. -/
theorem WordOf.decode_eq {i : Instr} {w0 hi n : Nat} (hw : WordOf i w0 hi n) {scalars pc : Nat} (rest : List Byte)
    (hcheck : checkView scalars [] i.view = none) (hpc : pc % 4 = 0) (hfit : pc % 32 + n ≤ 32) :
    decode scalars pc (leBytes 8 w0 ++ leBytes (n - 8) hi ++ rest) = .ok i := by
  obtain ⟨hlen, ⟨o, hcode, hfields⟩, hw0, hhi⟩ := hw
  have hn := eight_le_of_lenBytes hlen
  obtain ⟨k, rfl⟩ := Nat.exists_eq_add_of_le hn
  rw [Nat.add_sub_cancel_left] at hhi ⊢
  have hfirst : leNat ((leBytes 8 w0 ++ leBytes k hi ++ rest).take 1) % 4 = w0 % 4 := by
    simp [leBytes, leNat]
  have hlow : (leBytes 8 w0 ++ leBytes k hi ++ rest).take 8 = leBytes 8 w0 := by simp
  have hhigh : ((leBytes 8 w0 ++ leBytes k hi ++ rest).take (8 + k)).drop 8 = leBytes k hi := by
    rw [List.take_left' (by simp), List.drop_left' (by simp)]
  have hfits : (pc % 4 != 0 || 32 < pc % 32 + (8 + k) || (leBytes 8 w0 ++ leBytes k hi ++ rest).length < 8 + k) = false := by
    simp only [List.length_append, length_leBytes, Bool.or_eq_false_iff, bne_eq_false_iff_eq, decide_eq_false_iff_not]
    omega
  simp only [decode, hfirst, hlen, hfits, hlow, hhigh, leNat_leBytes_of_lt hw0, leNat_leBytes_of_lt hhi, hcode, hfields,
    hcheck]
  rfl

/-- Settles O3: an instruction has a word that the decoder takes for it, and no check holds a well-formed one up. -/
theorem decodeEncode : Obligations.DecodeEncode := by
  unfold Obligations.DecodeEncode
  refine fun i => ⟨fun hi => ?_, fun scalars pc bs rest hwf henc hpc hfit => ?_⟩
  · obtain ⟨w0, hi, n, henc, -⟩ := i.hasWord hi
    simp [encode, henc]
  · have hi : i.view ≠ .event := by
      intro hv
      simp [encode, hv, encodeView] at henc
    obtain ⟨w0, hi', n, hview, hword⟩ := i.hasWord hi
    have hn := eight_le_of_lenBytes hword.len
    simp only [encode, hview, Option.map_some, Option.some.injEq] at henc
    subst henc
    refine hword.decode_eq rest (Instr.checkView_of_wf hi hwf) hpc ?_
    rw [List.length_append, length_leBytes, length_leBytes] at hfit
    omega

/-- A word of the opcode table that starts with the bytes of a well-formed instruction is that instruction's. -/
theorem decodeTableWord_of_encode {i : Instr} {nbits w : Nat} (hn : nbits ≤ 128) (hwf : i.wf 128 = true)
    (henc : encode i = some ((tableBytes nbits w).take (nbits / 8))) : decodeTableWord nbits w = some i := by
  have hfit : 0 % 32 + ((tableBytes nbits w).take (nbits / 8)).length ≤ 32 := by
    rw [List.length_take]
    omega
  have hdec := (decodeEncode i).2 128 0 _ ((tableBytes nbits w).drop (nbits / 8)) hwf henc rfl hfit
  rw [List.take_append_drop] at hdec
  simp [decodeTableWord, hdec]

/-- Settles O2: each word is the encoding of its instruction, which is well-formed. -/
theorem decodeWords : Obligations.DecodeWords := by
  unfold Obligations.DecodeWords
  refine ⟨?_, ?_, ?_, ?_, ?_, ?_, ?_, ?_, ?_, ?_, ?_, ?_⟩
  all_goals exact decodeTableWord_of_encode (by decide) (by decide) (by decide)

end Sys2Proof
end

section
/-! SUPPORT. Every row of the dispatch answers a next state, and the branches of chapter 14: the control state that each form
leaves, and the threads that BRV takes. -/

namespace Sys2Proof.Machine

/-! ## The machine has no stuck state (R49, R403) -/

theorem execVballot_goesOn (f : InsA) (s : State) : ∃ t, execVballot f s = .next t := by
  unfold execVballot
  dsimp only
  split <;> exact ⟨_, rfl⟩

theorem execImpreciseTrap_goesOn (w : WaveId) (s : State) : ∃ t, execImpreciseTrap w s = .next t := by
  unfold execImpreciseTrap
  dsimp only
  split
  · exact ⟨_, rfl⟩
  · split <;> exact ⟨_, rfl⟩

theorem execPageWalkComplete_goesOn (cluster i : Nat) (s : State) : ∃ t, execPageWalkComplete cluster i s = .next t := by
  unfold execPageWalkComplete
  split <;> exact ⟨_, rfl⟩

theorem execMigrationWalkRetry_goesOn (cluster i : Nat) (s : State) :
    ∃ t, execMigrationWalkRetry cluster i s = .next t := by
  unfold execMigrationWalkRetry
  split <;> exact ⟨_, rfl⟩

/-- All but four rows are written as one next state; those four choose between next states. -/
theorem exec_goesOn (i : Instr) (s : State) : ∃ t, exec i s = .next t := by
  cases i
  case vballot f => exact execVballot_goesOn f s
  case impreciseTrap w => exact execImpreciseTrap_goesOn w s
  case pageWalkComplete cluster i => exact execPageWalkComplete_goesOn cluster i s
  case migrationWalkRetry cluster i => exact execMigrationWalkRetry_goesOn cluster i s
  all_goals exact ⟨_, rfl⟩

/-- A turn is the meaning of what it runs, or is over with the state that the choice left. -/
theorem step_goesOn (s : State) : goesOn s := by
  rcases hturn : s.turn with ⟨s1, _ | i⟩
  · exact ⟨s1, step_of_turn_none hturn⟩
  · obtain ⟨t, ht⟩ := exec_goesOn i s1
    exact ⟨t, (step_of_turn_some hturn).trans ht⟩

/-- Settles O4: no arm of the dispatch refuses, so no turn does. -/
theorem everyStepGoesOn : Obligations.EveryStepGoesOn := ⟨exec_goesOn, step_goesOn⟩

/-! ## The control state after a branch (R29, R370) -/

theorem State.ranCtl_advance (s : State) (n : Nat) :
    s.ranCtl (s.advance n) { s.wv.ctl with pc := s.wv.ctl.pc + BitVec.ofNat 57 n } false := rfl

theorem State.ranCtl_goto (s : State) (pc : VAddr) : s.ranCtl (s.goto pc) { s.wv.ctl with pc := pc } false := rfl

/-! ## The votes of the threads (R370, R371) -/

theorem Wave.getLsbD_votes (w : Wave) (k l : Nat) : (w.votes k).getLsbD l = true ↔ w.votesFor k l := by
  constructor
  · exact fun h => (w.votes_get k l (Mask.lt_of_getLsbD _ _ h)).1 h
  · exact fun h => (w.votes_get k l (Mask.lt_of_getLsbD _ _ h.2.1)).2 h

theorem Wave.voteHolds_iff (w : Wave) (fn k : Nat) : voteHolds fn (w.votes k) w.ctl.exec = true ↔ w.brqTaken fn k := by
  unfold Wave.brqTaken
  split
  · next h0 =>
    subst h0
    simp only [voteHolds_any, Wave.getLsbD_votes]
  · split
    · next h1 =>
      subst h1
      have hrun : ∀ l, (w.votes k).getLsbD l = true → w.ctl.exec.getLsbD l = true :=
        fun l hl => ((w.getLsbD_votes k l).1 hl).2.1
      simp only [voteHolds_all _ _ hrun, Wave.getLsbD_votes]
    · next h0 h1 =>
      simp only [voteHolds_none _ _ _ h0 h1, ← Wave.getLsbD_votes, Bool.not_eq_true]

/-- The threads that BRV takes: those that vote, or under FN = 1 the others of EXEC (R371). -/
def Wave.brvTaken (w : Wave) (fn : BitVec 6) (k : Nat) : Mask :=
  if fn = 1 then w.ctl.exec &&& ~~~(w.votes k) else w.votes k

theorem Wave.getLsbD_brvTaken (w : Wave) (fn : BitVec 6) (k l : Nat) (hl : l < 64) : (w.brvTaken fn k).getLsbD l = true ↔
    w.ctl.exec.getLsbD l = true ∧ (if fn = 1 then ¬ w.votesFor k l else w.votesFor k l) := by
  unfold Wave.brvTaken
  rw [← Wave.getLsbD_votes]
  split
  · simp [hl]
  · rw [Wave.getLsbD_votes]
    exact ⟨fun h => ⟨h.2.1, h⟩, And.right⟩

/-! ## Each branch behind a guard that holds -/

/-- The running path split: `taken` runs at `target`, and `other` waits on the path stack at the next instruction (R371). -/
def State.splitPath (s : State) (target : VAddr) (taken other : Mask) : State :=
  s.withWv { (s.wv.switched s.now) with
    ctl := { s.wv.ctl with path := ⟨s.wv.ctl.pc + 8, other⟩ :: s.wv.ctl.path, exec := taken, pc := target }
    answers := [], waits := { s.wv.waits with stall := none, rejects := 0 } }

theorem State.ranCtl_splitPath (s : State) (target : VAddr) (taken other : Mask) :
    s.ranCtl (s.splitPath target taken other)
      { s.wv.ctl with pc := target, exec := taken, path := ⟨s.wv.ctl.pc + 8, other⟩ :: s.wv.ctl.path } true := rfl

section Branches
variable {f : InsB} {s : State} (hg : s.wv.guardUni f.g = true)
include hg

theorem exec_nop : exec (.nop f) s = .next (s.advance (lenB f)) := by
  show execNop f s = _
  rw [execNop, guarded_of_guard hg]

theorem exec_bra : exec (.bra f) s = .next (s.goto (branchTarget s f.rel)) := by
  show execBra f s = _
  rw [execBra, guarded_of_guard hg]

theorem exec_brx : exec (.brx f) s = .next (s.goto (BitVec.ofNat 57 (s.srcU none 64 f.x))) := by
  show execBrx f s = _
  rw [execBrx, guarded_of_guard hg]

variable (hsame : s.wv.shadowDiffers f.x.toNat s.wv.ctl.exec = false)
include hsame

theorem exec_brq : exec (.brq f) s =
    .next (if voteHolds f.fn.toNat (s.wv.votes f.x.toNat) s.wv.ctl.exec then s.goto (branchTarget s f.rel)
      else s.advance (lenB f)) := by
  show execBrq f s = _
  simp [execBrq, guarded_of_guard hg, hsame]

theorem exec_brv {taken other : Mask} (ht : taken = s.wv.brvTaken f.fn f.x.toNat)
    (ho : other = s.wv.ctl.exec &&& ~~~taken) : exec (.brv f) s =
    .next (if other = 0 then s.goto (branchTarget s f.rel)
      else if taken = 0 then s.advance (lenB f)
      else if 8 ≤ s.wv.ctl.path.length then s.trapAll cPathStack 1
      else s.splitPath (branchTarget s f.rel) taken other) := by
  subst ho ht
  show execBrv f s = _
  rw [execBrv, guarded_of_guard hg]
  dsimp only
  rw [hsame]
  rfl

end Branches

/-- Settles O14: each form leaves the control state of R370, and BRV that of the side, or of the sides, that holds threads. -/
theorem branchesMovePc : Obligations.BranchesMovePc := by
  unfold Obligations.BranchesMovePc completes
  refine ⟨fun f s hg => ⟨?nop, ?bra, ?brx, fun hsame => ⟨fun htaken => ?brqTaken, fun hnot => ?brqFalls⟩⟩,
    fun f s hg hsame => ⟨s.wv.brvTaken f.fn f.x.toNat, s.wv.ctl.exec &&& ~~~s.wv.brvTaken f.fn f.x.toNat,
      s.wv.getLsbD_brvTaken f.fn f.x.toNat, fun l hl => ?other, ?brv⟩⟩
  case nop => exact ⟨_, exec_nop hg, s.ranCtl_advance _⟩
  case bra => exact ⟨_, exec_bra hg, s.ranCtl_goto _⟩
  case brx => exact ⟨_, exec_brx hg, s.ranCtl_goto _⟩
  case brqTaken =>
    have hvote := (s.wv.voteHolds_iff f.fn.toNat f.x.toNat).2 htaken
    exact ⟨_, (exec_brq hg hsame).trans (congrArg _ (if_pos hvote)), s.ranCtl_goto _⟩
  case brqFalls =>
    have hvote := mt (s.wv.voteHolds_iff f.fn.toNat f.x.toNat).1 hnot
    exact ⟨_, (exec_brq hg hsame).trans (congrArg _ (if_neg hvote)), s.ranCtl_advance _⟩
  case other => simp [hl]
  case brv =>
    have hexec := exec_brv hg hsame rfl rfl
    dsimp only
    split
    · next ho => exact ⟨_, hexec.trans (congrArg _ (if_pos ho)), s.ranCtl_goto _⟩
    · next ho =>
      rw [if_neg ho] at hexec
      split
      · next ht => exact ⟨_, hexec.trans (congrArg _ (if_pos ht)), s.ranCtl_advance _⟩
      · next ht =>
        rw [if_neg ht] at hexec
        split
        · next hroom => exact ⟨_, hexec.trans (congrArg _ (if_neg (by omega))), s.ranCtl_splitPath _ _ _⟩
        · next hfull => exact hexec.trans (congrArg _ (if_pos (by omega)))

end Sys2Proof.Machine
end

section
/-! SUPPORT. A turn of the memory pipe at a port of a core's memories. -/

namespace Sys2Proof.Machine

/-! ## Core memories (R158, R171) -/

/-- The cells after bytes have been listed from an address on. -/
theorem Store.get?_putBytes (bs : List Byte) : ∀ (m : List Host.Cell) (a x : Nat),
    Map.get? (Store.putBytes m a bs) x = if a ≤ x ∧ x < a + bs.length then some (bs.getD (x - a) 0) else Map.get? m x := by
  induction bs with
  | nil => intro m a x; simp [Store.putBytes]
  | cons b bs ih =>
    intro m a x
    rw [Store.putBytes, ih, Map.get?_set]
    by_cases h : x = a
    · subst h; simp
    · by_cases h2 : a + 1 ≤ x ∧ x < a + 1 + bs.length
      · have hx : x - a = (x - (a + 1)) + 1 := by omega
        rw [if_pos h2, if_pos (by simp; omega), hx, List.getD_cons_succ]
      · rw [if_neg h2, if_neg h, if_neg (by simp; omega)]

theorem Store.get_write (st : Store) (a x : Nat) (bs : List Byte) :
    (st.write a bs).get x = if a ≤ x ∧ x < a + bs.length then bs.getD (x - a) 0 else st.get x := by
  simp only [Store.get, Store.write, Store.get?_putBytes]
  by_cases h : a ≤ x ∧ x < a + bs.length
  · simp [h]
  · simp [h]

theorem Core.buf_setBuf_self (c : Core) (sp : Nat) (st : Store) : (c.setBuf sp st).buf sp = st := by
  unfold Core.setBuf Core.buf
  split_ifs <;> rfl

/-- The spaces are four memories; numbers from 3 on name the scratchpad. -/
theorem Core.buf_setBuf_other (c : Core) {sp x : Nat} (st : Store) (hsp : sp < 4) (hx : x < 4) (h : x ≠ sp) :
    (c.setBuf sp st).buf x = c.buf x := by
  unfold Core.setBuf Core.buf
  grind

@[simp] theorem Core.setBuf_ops (c : Core) (sp : Nat) (st : Store) : (c.setBuf sp st).ops = c.ops := by
  unfold Core.setBuf; split_ifs <;> rfl

@[simp] theorem Core.setBuf_portEnds (c : Core) (sp : Nat) (st : Store) : (c.setBuf sp st).portEnds = c.portEnds := by
  unfold Core.setBuf; split_ifs <;> rfl

@[simp] theorem Core.setBuf_scaled (c : Core) (sp : Nat) (st : Store) : (c.setBuf sp st).scaled = c.scaled := by
  unfold Core.setBuf; split_ifs <;> rfl

/-! ## One operation among those of its core -/

@[simp] theorem Core.mapReq_buf (c : Core) (id i sp : Nat) (f : Request → Request) : (c.mapReq id i f).buf sp = c.buf sp := rfl
@[simp] theorem Core.mapReq_portEnds (c : Core) (id i : Nat) (f : Request → Request) :
    (c.mapReq id i f).portEnds = c.portEnds := rfl
@[simp] theorem Core.mapReq_scaled (c : Core) (id i : Nat) (f : Request → Request) : (c.mapReq id i f).scaled = c.scaled := rfl

theorem getElem?_modAt {α : Type} (f : α → α) (l : List α) (i j : Nat) :
    (modAt f l i)[j]? = if j = i then l[j]?.map f else l[j]? := by
  induction l generalizing i j with
  | nil => simp [modAt]
  | cons x xs ih => cases i <;> cases j <;> simp [modAt, ih]

theorem getElem?_modAt_ne {α : Type} (f : α → α) (l : List α) {i j : Nat} (h : j ≠ i) : (modAt f l i)[j]? = l[j]? := by
  rw [getElem?_modAt, if_neg h]

/-- The operation `o` stands at place `i` of a core, and no other there has its number. -/
def Core.holdsAt (c : Core) (i : Nat) (o : MemOp) : Prop :=
  c.ops[i]? = some o ∧ ∀ j v, c.ops[j]? = some v → v.id = o.id → j = i

theorem Core.holdsAt.find? {c : Core} {i : Nat} {o : MemOp} (h : c.holdsAt i o) :
    c.ops.find? (fun v => v.id == o.id) = some o := by
  obtain ⟨hi, honly⟩ := h
  cases hf : c.ops.find? (fun v => v.id == o.id) with
  | none => exact absurd (List.mem_of_getElem? hi) (by simpa using fun hm => List.find?_eq_none.1 hf o hm)
  | some v =>
    obtain ⟨j, hj⟩ := List.mem_iff_getElem?.1 (List.mem_of_find?_eq_some hf)
    have hji := honly j v hj (by simpa using List.find?_some hf)
    rw [hji, hi] at hj
    exact hj.symm

theorem Core.holdsAt.of_ops {c c' : Core} {i : Nat} {o : MemOp} (h : c.holdsAt i o) (hops : c'.ops = c.ops) :
    c'.holdsAt i o := by
  unfold Core.holdsAt
  rwa [hops]

/-- One request of it changed leaves it in its place. -/
theorem Core.holdsAt.mapReq {c : Core} {i : Nat} {o : MemOp} (h : c.holdsAt i o) (j : Nat) (f : Request → Request) :
    (c.mapReq o.id j f).holdsAt i { o with reqs := modAt f o.reqs j } := by
  obtain ⟨hi, honly⟩ := h
  refine ⟨by simp [Core.mapReq, hi], fun n v hn hid => ?_⟩
  simp only [Core.mapReq, List.getElem?_map, Option.map_eq_some_iff] at hn
  obtain ⟨w, hw, rfl⟩ := hn
  refine honly n w hw ?_
  split at hid <;> exact hid

/-! ## One access of a beat (R163, R188) -/

@[simp] theorem Core.serveReq_ops (c : Core) (o : MemOp) (r : Request) : (c.serveReq o r).1.ops = c.ops := by
  unfold Core.serveReq
  dsimp only
  repeat' split
  all_goals simp

@[simp] theorem Core.serveReq_portEnds (c : Core) (o : MemOp) (r : Request) :
    (c.serveReq o r).1.portEnds = c.portEnds := by
  unfold Core.serveReq
  dsimp only
  repeat' split
  all_goals simp

theorem Core.serveReq_of_load {o : MemOp} (h : o.kind = .coreLoad) (c : Core) (r : Request) :
    c.serveReq o r = (c, (c.buf o.space).read r.pa r.len) := by
  simp [Core.serveReq, h]

theorem Core.serveReq_of_store {o : MemOp} (h : o.kind = .coreStore) (c : Core) (r : Request) :
    c.serveReq o r =
      ((if o.space = 1 then { c with scaled := c.scaled &&& ~~~(1#16 <<< (r.pa / 4096)) } else c).setBuf o.space
        ((c.buf o.space).write r.pa r.data), []) := by
  simp [Core.serveReq, h]

theorem Core.meetsPoison_of_store {o : MemOp} (h : o.kind = .coreStore) (c : Core) (r : Request) :
    c.meetsPoison o r = false := by
  simp [Core.meetsPoison, h]

/-- A request served, its data there at core cycle `ends`; `bad` tells that it met poison. -/
def Request.servedAt (r : Request) (ends : Nat) (val : List Byte) (bad : Bool) : Request :=
  { r with st := .done, val := val, poison := bad, wts := ends }

/-- The core after an access of an operation has been served (R163). -/
def Core.afterReq (c : Core) (o : MemOp) (j ends : Nat) (r : Request) : Core :=
  (c.serveReq o r).1.mapReq o.id j (fun q => q.servedAt ends (c.serveReq o r).2 (c.meetsPoison o r))

theorem Core.holdsAt.afterReq {c : Core} {i : Nat} {o : MemOp} (h : c.holdsAt i o) (j ends : Nat) (r : Request) :
    (c.afterReq o j ends r).holdsAt i
      { o with reqs := modAt (fun q => q.servedAt ends (c.serveReq o r).2 (c.meetsPoison o r)) o.reqs j } :=
  (h.of_ops (c.serveReq_ops o r)).mapReq j _

/-- An access of a beat as the others find it: where it has met poison its wave has halted (R414). -/
def State.afterAccess (s : State) (k j ends : Nat) (o : MemOp) (r : Request) : State :=
  let s1 := s.setCore k ((s.core k).afterReq o j ends r)
  if (s.core k).meetsPoison o r && (s1.wave ⟨k, o.slot⟩).halt.isNone then s1.haltAt ⟨k, o.slot⟩ 1 else s1

theorem State.serveReqs_cons {s : State} {k i j ends : Nat} {o : MemOp} {r : Request} (h : (s.core k).holdsAt i o)
    (hr : o.reqs[j]? = some r) (js : List Nat) :
    s.serveReqs k o.id ends (j :: js) = (s.afterAccess k j ends o r).serveReqs k o.id ends js := by
  rw [State.serveReqs]
  simp only [h.find?, hr]
  rfl

theorem State.afterAccess_of_clean {s : State} {k : Nat} {o : MemOp} {r : Request} (hp : (s.core k).meetsPoison o r = false)
    (j ends : Nat) : s.afterAccess k j ends o r = s.setCore k ((s.core k).afterReq o j ends r) := by
  simp [State.afterAccess, hp]

/-! ## A beat served (R162, R163) -/

/-- Some requests of the operation at place `i` of a core have been served, with the data `val`; nothing but that operation
and the memories of its core has changed. -/
def State.beatServed (s t : State) (k i ends : Nat) (o : MemOp) (js : List Nat) (val : Request → List Byte) : Prop :=
  t = { s with cores := t.cores } ∧ (∀ x, x ≠ k → t.core x = s.core x) ∧ (t.core k).portEnds = (s.core k).portEnds ∧
    ∃ v, (t.core k).holdsAt i v ∧ v = { o with reqs := v.reqs } ∧
      ∀ j r, o.reqs[j]? = some r → v.reqs[j]? = some (if j ∈ js then r.servedAt ends (val r) false else r)

theorem State.beatServed_nil {s : State} {k i ends : Nat} {o : MemOp} {val : Request → List Byte}
    (h : (s.core k).holdsAt i o) : s.beatServed s k i ends o [] val :=
  ⟨rfl, fun _ _ => rfl, rfl, o, h, rfl, fun j r hr => by simpa using hr⟩

/-- One access, and then those of the rest of the beat. -/
theorem State.beatServed_cons {s t : State} {k i j ends : Nat} {o : MemOp} {r : Request} {js : List Nat}
    {val : Request → List Byte} (hr : o.reqs[j]? = some r) (hj : j ∉ js)
    (h : (s.setCore k ((s.core k).afterReq o j ends r)).beatServed t k i ends
      { o with reqs := modAt (fun q => q.servedAt ends (val r) false) o.reqs j } js val) :
    s.beatServed t k i ends o (j :: js) val := by
  obtain ⟨ht, hother, hends, v, hv, hvo, hreqs⟩ := h
  refine ⟨ht, fun x hx => ?_, ?_, v, hv, hvo, fun n q hq => ?_⟩
  · rw [hother x hx, State.core_setCore, if_neg hx]
  · rw [hends, State.core_setCore, if_pos rfl]
    simp [Core.afterReq]
  · by_cases hn : n = j
    · subst hn
      obtain rfl : r = q := by rw [hr] at hq; exact Option.some.inj hq
      have h1 := hreqs n (r.servedAt ends (val r) false) (by simp [getElem?_modAt, hr])
      simpa [hj] using h1
    · have h1 := hreqs n q (by simp [getElem?_modAt, hn, hq])
      simpa [hn] using h1

/-- The beat of a load: each access reads the memory as it stands, and the memories stand. -/
theorem State.serveReqs_of_load {k i ends : Nat} {js : List Nat} {val : Request → List Byte}
    (hjs : js.Nodup) :
    ∀ {s : State} {o : MemOp}, o.kind = .coreLoad → (s.core k).holdsAt i o →
      (∀ r, val r = ((s.core k).buf o.space).read r.pa r.len) →
      (∀ j ∈ js, ∃ r, o.reqs[j]? = some r ∧ (s.core k).meetsPoison o r = false) →
      s.beatServed (s.serveReqs k o.id ends js) k i ends o js val ∧
        ∀ sp, ((s.serveReqs k o.id ends js).core k).buf sp = (s.core k).buf sp := by
  induction js with
  | nil => exact fun _ h _ _ => ⟨State.beatServed_nil h, fun _ => rfl⟩
  | cons j js ih =>
    intro s o hk h hval hall
    obtain ⟨hj, hjs⟩ := List.nodup_cons.1 hjs
    obtain ⟨r, hr, hp⟩ := hall j List.mem_cons_self
    have hserve := Core.serveReq_of_load hk (s.core k) r
    have hmem : (s.core k).afterReq o j ends r = (s.core k).mapReq o.id j (fun q => q.servedAt ends (val r) false) := by
      rw [Core.afterReq, hserve, hval, hp]
    have hcore : (s.setCore k ((s.core k).afterReq o j ends r)).core k =
        (s.core k).mapReq o.id j (fun q => q.servedAt ends (val r) false) := by
      rw [State.core_setCore, if_pos rfl, hmem]
    have hrest := ih hjs (s := s.setCore k ((s.core k).afterReq o j ends r))
      (o := { o with reqs := modAt (fun q => q.servedAt ends (val r) false) o.reqs j }) hk
      (by rw [hcore]; exact h.mapReq j _) (by rw [hcore]; exact hval)
      (fun n hn => by
        obtain ⟨q, hq, hpq⟩ := hall n (List.mem_cons_of_mem _ hn)
        exact ⟨q, (getElem?_modAt_ne _ _ (ne_of_mem_of_not_mem hn hj)).trans hq, by rw [hcore]; exact hpq⟩)
    rw [State.serveReqs_cons h hr, State.afterAccess_of_clean hp]
    refine ⟨State.beatServed_cons hr hj hrest.1, fun sp => ?_⟩
    have hsp := hrest.2 sp
    rw [hcore] at hsp
    exact hsp

/-! ## The beat of a store (R171, R188) -/

/-- What a memory holds once some requests of an operation have been stored in turn. -/
def MemOp.stored (o : MemOp) (js : List Nat) (st : Store) : Store :=
  js.foldl (fun st j => match o.reqs[j]? with
    | some r => st.write r.pa r.data
    | none => st) st

/-- Request `j` of an operation stores the byte at `x`. -/
def MemOp.stores (o : MemOp) (j x : Nat) : Prop := ∃ r, o.reqs[j]? = some r ∧ r.pa ≤ x ∧ x < r.pa + r.data.length

theorem MemOp.stored_cons {o : MemOp} {j : Nat} {r : Request} (hr : o.reqs[j]? = some r) (js : List Nat) (st : Store) :
    o.stored (j :: js) st = o.stored js (st.write r.pa r.data) := by
  simp [MemOp.stored, hr]

theorem MemOp.get_stored_of_untouched {o : MemOp} {x : Nat} {js : List Nat} (h : ∀ j ∈ js, ¬ o.stores j x) (st : Store) :
    (o.stored js st).get x = st.get x := by
  induction js generalizing st with
  | nil => rfl
  | cons j js ih =>
    obtain ⟨hj, hjs⟩ := List.forall_mem_cons.1 h
    cases hr : o.reqs[j]? with
    | none => simpa [MemOp.stored, hr] using ih hjs st
    | some r =>
      rw [MemOp.stored_cons hr, ih hjs, Store.get_write, if_neg fun hx => hj ⟨r, hr, hx⟩]

/-- Of several requests that store one byte the last stays. -/
theorem MemOp.get_stored_of_last {o : MemOp} {x j : Nat} {r : Request} {js : List Nat} (hsort : js.Pairwise (· < ·))
    (hj : j ∈ js) (hr : o.reqs[j]? = some r) (hx : r.pa ≤ x ∧ x < r.pa + r.data.length)
    (hlast : ∀ v ∈ js, j < v → ¬ o.stores v x) (st : Store) : (o.stored js st).get x = r.data.getD (x - r.pa) 0 := by
  induction js generalizing st with
  | nil => cases hj
  | cons i js ih =>
    obtain ⟨hi, hsort⟩ := List.pairwise_cons.1 hsort
    rcases List.mem_cons.1 hj with rfl | hmem
    · rw [MemOp.stored_cons hr, MemOp.get_stored_of_untouched fun v hv => hlast v (List.mem_cons_of_mem _ hv) (hi v hv),
        Store.get_write, if_pos hx]
    · exact ih hsort hmem (fun v hv => hlast v (List.mem_cons_of_mem _ hv)) _

/-- The memories of a core after some requests of a store: those of the space stored in turn, the other spaces as they were,
and the accumulator tiles that they reach without block scales. -/
def MemOp.storedInto (o : MemOp) (js : List Nat) (c c' : Core) : Prop :=
  c'.buf o.space = o.stored js (c.buf o.space) ∧ (∀ sp, sp < 4 → sp ≠ o.space → c'.buf sp = c.buf sp) ∧
    ∀ b, b < 16 → (c'.scaled.getLsbD b = true ↔
      c.scaled.getLsbD b = true ∧ ¬ (o.space = 1 ∧ ∃ j ∈ js, ∃ r, o.reqs[j]? = some r ∧ r.pa / 4096 = b))

theorem MemOp.space_lt (o : MemOp) : o.space < 4 := Nat.mod_lt _ (by decide)

/-- One request of a store. -/
theorem Core.afterReq_of_store {o : MemOp} {j : Nat} {r : Request} (hk : o.kind = .coreStore) (hr : o.reqs[j]? = some r)
    (c : Core) (ends : Nat) : o.storedInto [j] c (c.afterReq o j ends r) := by
  rw [Core.afterReq, Core.serveReq_of_store hk]
  refine ⟨?_, fun sp h4 hsp => ?_, fun b hb => ?_⟩
  · rw [Core.mapReq_buf, Core.buf_setBuf_self, MemOp.stored_cons hr]
    rfl
  · rw [Core.mapReq_buf, Core.buf_setBuf_other _ _ o.space_lt h4 hsp]
    split_ifs <;> rfl
  · have hbit : (~~~(1#16 <<< (r.pa / 4096))).getLsbD b = true ↔ r.pa / 4096 ≠ b := by
      simp only [BitVec.getLsbD_not, BitVec.getLsbD_shiftLeft, BitVec.getLsbD_one]
      simp [hb]
      omega
    rw [Core.mapReq_scaled, Core.setBuf_scaled]
    by_cases h1 : o.space = 1
    · rw [if_pos h1, BitVec.getLsbD_and, Bool.and_eq_true, hbit]
      simp [h1, hr]
    · simp [h1]

theorem MemOp.storedInto_congr {o v : MemOp} {js : List Nat} {c c' : Core} (h : v.storedInto js c c')
    (hspace : v.space = o.space) (hreqs : ∀ n ∈ js, v.reqs[n]? = o.reqs[n]?) : o.storedInto js c c' := by
  obtain ⟨hbuf, hother, hscaled⟩ := h
  rw [hspace] at hbuf hother hscaled
  refine ⟨hbuf.trans (List.foldl_ext _ _ _ fun st n hn => by rw [hreqs n hn]), hother, fun b hb => ?_⟩
  rw [hscaled b hb, and_congr_right_iff]
  refine fun _ => not_congr (and_congr_right fun _ => exists_congr fun n => and_congr_right fun hn => ?_)
  rw [hreqs n hn]

theorem MemOp.storedInto_cons {o : MemOp} {j : Nat} {js : List Nat} {c c1 c' : Core} (h1 : o.storedInto [j] c c1)
    (h : o.storedInto js c1 c') : o.storedInto (j :: js) c c' := by
  obtain ⟨hbuf1, hother1, hscaled1⟩ := h1
  obtain ⟨hbuf, hother, hscaled⟩ := h
  refine ⟨?_, fun sp h4 hsp => (hother sp h4 hsp).trans (hother1 sp h4 hsp), fun b hb => ?_⟩
  · rw [hbuf, hbuf1]
    rfl
  · rw [hscaled b hb, hscaled1 b hb]
    simp only [List.mem_cons, List.not_mem_nil, or_false, exists_eq_left, exists_eq_or_imp]
    rw [and_assoc, ← not_or, ← and_or_left]

/-- The beat of a store: its requests are stored in turn. -/
theorem State.serveReqs_of_store {k i ends : Nat} {js : List Nat} (hjs : js.Nodup) :
    ∀ {s : State} {o : MemOp}, o.kind = .coreStore → (s.core k).holdsAt i o → (∀ j ∈ js, ∃ r, o.reqs[j]? = some r) →
      s.beatServed (s.serveReqs k o.id ends js) k i ends o js (fun _ => []) ∧
        o.storedInto js (s.core k) ((s.serveReqs k o.id ends js).core k) := by
  induction js with
  | nil => exact fun _ h _ => ⟨State.beatServed_nil h, rfl, fun _ _ _ => rfl, by simp [State.serveReqs]⟩
  | cons j js ih =>
    intro s o hk h hall
    obtain ⟨hj, hjs⟩ := List.nodup_cons.1 hjs
    obtain ⟨r, hr⟩ := hall j List.mem_cons_self
    have hclean := Core.meetsPoison_of_store hk (s.core k) r
    have hval : ((s.core k).serveReq o r).2 = [] := by rw [Core.serveReq_of_store hk]
    have hcore : (s.setCore k ((s.core k).afterReq o j ends r)).core k = (s.core k).afterReq o j ends r := by
      rw [State.core_setCore, if_pos rfl]
    have hsame : ∀ n ∈ js, (modAt (fun q : Request => q.servedAt ends [] false) o.reqs j)[n]? = o.reqs[n]? :=
      fun n hn => getElem?_modAt_ne _ _ (ne_of_mem_of_not_mem hn hj)
    obtain ⟨hserved, hstored⟩ := ih hjs (s := s.setCore k ((s.core k).afterReq o j ends r))
      (o := { o with reqs := modAt (fun q => q.servedAt ends [] false) o.reqs j }) hk
      (by rw [hcore]; exact hval ▸ hclean ▸ h.afterReq j ends r)
      (fun n hn => by
        obtain ⟨q, hq⟩ := hall n (List.mem_cons_of_mem _ hn)
        exact ⟨q, (hsame n hn).trans hq⟩)
    rw [hcore] at hstored
    rw [State.serveReqs_cons h hr, State.afterAccess_of_clean hclean]
    exact ⟨State.beatServed_cons hr hj hserved,
      MemOp.storedInto_cons (Core.afterReq_of_store hk hr _ _) (MemOp.storedInto_congr hstored rfl hsame)⟩

/-! ## A turn at the port (R162, R163) -/

theorem MemOp.mem_beat {o : MemOp} {j : Nat} (h : j ∈ o.beat) : ∃ r, o.reqs[j]? = some r := by
  unfold MemOp.beat at h
  split at h
  · cases h
  · obtain ⟨-, hj⟩ := List.mem_filter.1 h
    split at hj
    · next q hq => exact ⟨q, hq⟩
    · cases hj

theorem MemOp.beat_sorted (o : MemOp) : o.beat.Pairwise (· < ·) := by
  unfold MemOp.beat
  split
  · exact List.Pairwise.nil
  · exact List.pairwise_lt_range.filter _

theorem MemOp.unit_sublist_beat (o : MemOp) : List.Sublist o.unit o.beat := by
  unfold MemOp.unit
  split
  · exact List.take_sublist _ _
  · exact List.Sublist.refl _

theorem MemOp.mem_unit {o : MemOp} {j : Nat} (h : j ∈ o.unit) : ∃ r, o.reqs[j]? = some r :=
  MemOp.mem_beat (o.unit_sublist_beat.subset h)

theorem MemOp.unit_sorted (o : MemOp) : o.unit.Pairwise (· < ·) := o.beat_sorted.sublist o.unit_sublist_beat

theorem MemOp.unit_nodup (o : MemOp) : o.unit.Nodup := o.unit_sorted.imp Nat.ne_of_lt

/-- The core cycle at which the port is free again after the next step of an operation (R162). -/
def State.portFree (s : State) (k : Nat) (o : MemOp) : Nat :=
  max s.now ((s.core k).portEnds.getD o.portNo 0) + (o.unit.map (fun j => ((o.reqs[j]?).map (fun r => r.rts)).getD 0)).sum

/-- The state as the accesses of a turn find it: the port's cycles counted, its other users free to take their turns. -/
def State.portTaken (s : State) (k : Nat) (o : MemOp) : State :=
  s.setCore k { s.core k with
    portEnds := (s.core k).portEnds.set o.portNo (s.portFree k o)
    portUsers := (s.core k).portUsers.filter (fun e => e.1 != o.portNo) }

theorem State.core_portTaken (s : State) (k : Nat) (o : MemOp) : (s.portTaken k o).core k = { s.core k with
    portEnds := (s.core k).portEnds.set o.portNo (s.portFree k o)
    portUsers := (s.core k).portUsers.filter (fun e => e.1 != o.portNo) } := by
  rw [State.portTaken, State.core_setCore, if_pos rfl]

theorem State.holdsAt_portTaken {s : State} {k i : Nat} {o : MemOp} (h : (s.core k).holdsAt i o) :
    ((s.portTaken k o).core k).holdsAt i o :=
  h.of_ops (by rw [State.core_portTaken])

theorem State.portStep_of_ready {s : State} {k i : Nat} {o : MemOp} (h : (s.core k).holdsAt i o)
    (hready : (s.core k).beatReady o = true) :
    s.portStep k i = (s.portTaken k o).serveReqs k o.id (s.portFree k o) o.unit := by
  have hat : (s.core k).beatAt i = some o.id := by simp [Core.beatAt, h.1, hready]
  simp only [State.portStep, hat, State.serveUnit, h.find?, ← List.sum_eq_foldl]
  rfl

/-- Without a beat left no turn comes about. -/
theorem State.portStep_of_not_ready {s : State} {k i : Nat} {o : MemOp} (h : (s.core k).ops[i]? = some o)
    (hready : (s.core k).beatReady o = false) : s.portStep k i = s := by
  have hat : (s.core k).beatAt i = none := by simp [Core.beatAt, h, hready]
  simp only [State.portStep, hat]

/-- A turn that serves what the operation has to be served is a turn as the statements have it. -/
theorem State.served_of_beatServed {s t : State} {k i : Nat} {o : MemOp} {val : Request → List Byte}
    (h : (s.portTaken k o).beatServed t k i (s.portFree k o) o o.unit val) : s.served t k i o val := by
  obtain ⟨ht, hother, hends, v, hv, hvo, hreqs⟩ := h
  refine ⟨ht, fun j hj => ?_, fun hport => ?_, v, hv.1, hvo, hreqs⟩
  · rw [hother j hj, State.portTaken, State.core_setCore, if_neg hj]
  · rw [hends, State.core_portTaken]
    simp [hport, State.portFree]

section Turn
variable {s : State} {k i : Nat} {o : MemOp}

theorem State.mayServe.holdsAt {kind : OpKind} (h : s.mayServe k i o kind) : (s.core k).holdsAt i o :=
  ⟨h.1, h.2.2.2.1⟩

theorem State.portStep_of_load (h : s.mayServe k i o .coreLoad) :
    s.served (s.portStep k i) k i o (fun r => ((s.core k).buf o.space).read r.pa r.len) ∧
      ∀ sp, ((s.portStep k i).core k).buf sp = (s.core k).buf sp := by
  have hat := h.holdsAt
  obtain ⟨-, hready, hkind, -, hclean⟩ := h
  have hbuf : ∀ sp, ((s.portTaken k o).core k).buf sp = (s.core k).buf sp := fun sp => by rw [State.core_portTaken]; rfl
  obtain ⟨hserved, hkept⟩ := State.serveReqs_of_load (ends := s.portFree k o)
    (val := fun r => ((s.core k).buf o.space).read r.pa r.len) o.unit_nodup hkind (State.holdsAt_portTaken hat)
    (fun r => by rw [hbuf]) (fun j hj => by
      obtain ⟨r, hr⟩ := MemOp.mem_unit hj
      refine ⟨r, hr, ?_⟩
      rw [Core.meetsPoison, hbuf]
      exact hclean j hj r hr)
  rw [State.portStep_of_ready hat hready]
  exact ⟨State.served_of_beatServed hserved, fun sp => (hkept sp).trans (hbuf sp)⟩

theorem State.portStep_of_store (h : s.mayServe k i o .coreStore) :
    s.served (s.portStep k i) k i o (fun _ => []) ∧ o.storedInto o.unit (s.core k) ((s.portStep k i).core k) := by
  have hat := h.holdsAt
  obtain ⟨-, hready, hkind, -, -⟩ := h
  obtain ⟨hserved, hstored⟩ := State.serveReqs_of_store (ends := s.portFree k o) o.unit_nodup hkind
    (State.holdsAt_portTaken hat) (fun _ hj => MemOp.mem_unit hj)
  rw [State.core_portTaken] at hstored
  rw [State.portStep_of_ready hat hready]
  exact ⟨State.served_of_beatServed hserved, hstored⟩

end Turn

/-! ## Poison met at a port (R170, R413, R414) -/

@[simp] theorem State.wave_setCore (s : State) (k : Nat) (c : Core) (w : WaveId) : (s.setCore k c).wave w = s.wave w := rfl

@[simp] theorem State.wave_setWave_self (s : State) (id : WaveId) (v : Wave) : (s.setWave id v).wave id = v := by
  unfold State.setWave State.wave
  split_ifs <;> simp_all

/-- The wave of a slot after another's has been set: as it was, or the one set where both have one place in the table. -/
theorem State.wave_setWave (s : State) (id w : WaveId) (v : Wave) :
    (s.setWave id v).wave w = v ∨ (s.setWave id v).wave w = s.wave w := by
  unfold State.setWave State.wave
  split_ifs
  · exact .inl rfl
  · exact .inr rfl
  · exact .inr rfl
  · dsimp only
    rw [Map.getD_set]
    split
    · exact .inl rfl
    · exact .inr rfl

theorem State.wave_haltAt (s : State) (id w : WaveId) (reason : Nat) : (s.haltAt id reason).wave w =
    (s.setWave id { s.wave id with
      halt := some reason, waits := { (s.wave id).waits with stall := none, ending := true } }).wave w := by
  unfold State.haltAt
  dsimp only
  split <;> rfl

theorem State.halted_haltAt_self (s : State) (id : WaveId) (reason : Nat) :
    ((s.haltAt id reason).wave id).halt.isSome = true := by
  rw [State.wave_haltAt, State.wave_setWave_self]
  rfl

/-- A wave that has halted stays so when one halts. -/
theorem State.halted_haltAt {s : State} {w : WaveId} (h : (s.wave w).halt.isSome = true) (id : WaveId) (reason : Nat) :
    ((s.haltAt id reason).wave w).halt.isSome = true := by
  rw [State.wave_haltAt]
  rcases State.wave_setWave s id w _ with hw | hw
  · rw [hw]; rfl
  · rw [hw]; exact h

@[simp] theorem State.haltAt_ops (s : State) (id : WaveId) (reason k : Nat) :
    ((s.haltAt id reason).core k).ops = (s.core k).ops := by
  unfold State.haltAt
  dsimp only
  split
  · show ((State.setCore _ _ _).core k).ops = _
    rw [State.core_setCore]
    split <;> simp_all [State.core, Core.mapBlock]
  · simp [State.core, State.logError]

@[simp] theorem State.haltAt_buf (s : State) (id : WaveId) (reason k sp : Nat) :
    ((s.haltAt id reason).core k).buf sp = (s.core k).buf sp := by
  unfold State.haltAt
  dsimp only
  split
  · show ((State.setCore _ _ _).core k).buf sp = _
    rw [State.core_setCore]
    split <;> simp_all [State.core, Core.mapBlock, Core.buf]
  · simp [State.core, State.logError]

theorem State.halted_afterAccess {s : State} {w : WaveId} (h : (s.wave w).halt.isSome = true) (k j ends : Nat) (o : MemOp)
    (r : Request) : ((s.afterAccess k j ends o r).wave w).halt.isSome = true := by
  unfold State.afterAccess
  dsimp only
  split_ifs
  · exact State.halted_haltAt (s := s.setCore k _) h _ _
  · exact h

/-- An access that consumes a poisoned word halts its wave (R414). -/
theorem State.halted_afterAccess_of_poison {s : State} {k : Nat} {o : MemOp} {r : Request}
    (h : (s.core k).meetsPoison o r = true) (j ends : Nat) :
    ((s.afterAccess k j ends o r).wave ⟨k, o.slot⟩).halt.isSome = true := by
  unfold State.afterAccess
  simp only [h, Bool.true_and, State.wave_setCore]
  split_ifs with hn
  · exact State.halted_haltAt_self _ _ _
  · simpa [Option.isSome_iff_ne_none] using hn

/-- A wave that has halted stays so for the rest of a beat. -/
theorem State.halted_serveReqs {w : WaveId} {k id ends : Nat} (js : List Nat) :
    ∀ {s : State}, (s.wave w).halt.isSome = true → ((s.serveReqs k id ends js).wave w).halt.isSome = true := by
  induction js with
  | nil => exact fun h => h
  | cons j js ih =>
    intro s h
    unfold State.serveReqs
    dsimp only
    split
    · exact h
    · next o _ =>
      split
      · exact h
      · next r _ => exact ih (State.halted_afterAccess h k j ends { o with id := id } r)

/-- An access of a load leaves the operation in its place and the memories as they stand. -/
theorem State.afterAccess_of_load {s : State} {k i : Nat} {o : MemOp} (hk : o.kind = .coreLoad)
    (h : (s.core k).holdsAt i o) (j ends : Nat) (r : Request) :
    (∃ f, ((s.afterAccess k j ends o r).core k).holdsAt i { o with reqs := modAt f o.reqs j }) ∧
      ∀ sp, ((s.afterAccess k j ends o r).core k).buf sp = (s.core k).buf sp := by
  have hplace := h.afterReq j ends r
  have hbuf : ∀ sp, ((s.core k).afterReq o j ends r).buf sp = (s.core k).buf sp := fun sp => by
    rw [Core.afterReq, Core.mapReq_buf, Core.serveReq_of_load hk]
  unfold State.afterAccess
  dsimp only
  split_ifs
  · refine ⟨⟨_, hplace.of_ops ?_⟩, fun sp => ?_⟩
    · rw [State.haltAt_ops, State.core_setCore, if_pos rfl]
    · rw [State.haltAt_buf, State.core_setCore, if_pos rfl, hbuf]
  · rw [State.core_setCore, if_pos rfl]
    exact ⟨⟨_, hplace⟩, hbuf⟩

/-- A beat of a load one of whose accesses meets poison halts its wave. -/
theorem State.halted_serveReqs_of_load {k i j ends : Nat} {r : Request} {js : List Nat} (hjs : js.Nodup) (hj : j ∈ js) :
    ∀ {s : State} {o : MemOp}, o.kind = .coreLoad → (s.core k).holdsAt i o → (∀ n ∈ js, ∃ q, o.reqs[n]? = some q) →
      o.reqs[j]? = some r → (s.core k).meetsPoison o r = true →
      ((s.serveReqs k o.id ends js).wave ⟨k, o.slot⟩).halt.isSome = true := by
  induction js with
  | nil => cases hj
  | cons n js ih =>
    intro s o hk h hall hr hp
    obtain ⟨hn, hjs⟩ := List.nodup_cons.1 hjs
    rcases List.mem_cons.1 hj with rfl | hj
    · rw [State.serveReqs_cons h hr]
      exact State.halted_serveReqs js (State.halted_afterAccess_of_poison hp _ _)
    · obtain ⟨q, hq⟩ := hall n List.mem_cons_self
      obtain ⟨⟨f, hplace⟩, hbuf⟩ := State.afterAccess_of_load hk h n ends q
      have hsame : ∀ m ∈ js, (modAt f o.reqs n)[m]? = o.reqs[m]? :=
        fun m hm => getElem?_modAt_ne _ _ (ne_of_mem_of_not_mem hm hn)
      rw [State.serveReqs_cons h hq]
      refine ih hjs hj (o := { o with reqs := modAt f o.reqs n }) hk hplace (fun m hm => ?_) ((hsame j hj).trans hr) ?_
      · rw [hsame m hm]
        exact hall m (List.mem_cons_of_mem _ hm)
      · rw [Core.meetsPoison, hbuf]
        exact hp

/-- A turn one of whose accesses meets poison halts its wave (R170, R414). -/
theorem State.halted_portStep {s : State} {k i j : Nat} {o : MemOp} {r : Request} (h : (s.core k).holdsAt i o)
    (hready : (s.core k).beatReady o = true) (hj : j ∈ o.unit) (hr : o.reqs[j]? = some r)
    (hp : (s.core k).meetsPoison o r = true) : ((s.portStep k i).wave ⟨k, o.slot⟩).halt.isSome = true := by
  have hp' : ((s.portTaken k o).core k).meetsPoison o r = true := by rw [State.core_portTaken]; exact hp
  have hat := State.holdsAt_portTaken h
  have hcore : o.kind.onCore = true := by
    simp only [Core.beatReady, Bool.and_eq_true] at hready
    exact hready.1.1
  rw [State.portStep_of_ready h hready]
  cases hk : o.kind
  case coreLoad => exact State.halted_serveReqs_of_load o.unit_nodup hj hk hat (fun _ hn => MemOp.mem_unit hn) hr hp'
  case coreStore => simp [Core.meetsPoison_of_store hk] at hp
  case coreAtom =>
    -- A word operation is all that a turn performs of an ATOMS (R164).
    have hone : o.unit = [j] := by
      have hlen : o.unit.length ≤ 1 := by simp [MemOp.unit, hk]
      obtain ⟨x, hx⟩ | h0 : (∃ x, o.unit = [x]) ∨ o.unit = [] := by
        cases hu : o.unit with
        | nil => exact .inr rfl
        | cons x xs =>
          rw [hu, List.length_cons] at hlen
          exact .inl ⟨x, by rw [List.eq_nil_of_length_eq_zero (by omega : xs.length = 0)]⟩
      · rw [hx, List.mem_singleton] at hj
        rw [hx, hj]
      · simp [h0] at hj
    rw [hone, State.serveReqs_cons hat hr]
    exact State.halted_afterAccess_of_poison hp' _ _
  all_goals simp [hk, OpKind.onCore] at hcore

end Sys2Proof.Machine
end

section
/-! SUPPORT. Accesses to a core's memories as they issue: pieces, beats, and the operation put in flight. -/

namespace Sys2Proof.Machine

/-! ## Pieces (R142, R176) -/

theorem alignedPiece_bounds (a k : Nat) {n : Nat} (hn : 0 < n) : 0 < alignedPiece a k n ∧ alignedPiece a k n ≤ n := by
  induction k with
  | zero => exact ⟨Nat.one_pos, hn⟩
  | succ k ih =>
    unfold alignedPiece
    split
    · next h => exact ⟨Nat.two_pow_pos _, h.1⟩
    · exact ih

/-- The pieces of an access lie inside it, and none is empty. -/
theorem cutPieces_inside {fuel a n : Nat} {p : Nat × Nat} (h : p ∈ cutPieces fuel a n) :
    a ≤ p.1 ∧ 0 < p.2 ∧ p.1 + p.2 ≤ a + n := by
  induction fuel generalizing a n with
  | zero => cases h
  | succ fuel ih =>
    unfold cutPieces at h
    split at h
    · cases h
    · next hn =>
      have hl := alignedPiece_bounds a 4 (Nat.pos_of_ne_zero hn)
      rcases List.mem_cons.1 h with rfl | h
      · dsimp only
        omega
      · have := ih h
        omega

/-- They hold each of its bytes where there is fuel for one piece a byte. -/
theorem cutPieces_cover {fuel a n i : Nat} (hfuel : n ≤ fuel) (hi : i < n) :
    ∃ p ∈ cutPieces fuel a n, p.1 ≤ a + i ∧ a + i < p.1 + p.2 := by
  induction fuel generalizing a n i with
  | zero => omega
  | succ fuel ih =>
    have hl := alignedPiece_bounds a 4 (by omega : 0 < n)
    unfold cutPieces
    rw [if_neg (by omega)]
    by_cases h : i < alignedPiece a 4 n
    · exact ⟨_, List.mem_cons_self, by dsimp only; omega⟩
    · obtain ⟨p, hp, hlo, hhi⟩ := ih (a := a + alignedPiece a 4 n) (n := n - alignedPiece a 4 n)
        (i := i - alignedPiece a 4 n) (by omega) (by omega)
      exact ⟨p, List.mem_cons_of_mem _ hp, by omega, by omega⟩

theorem sizeBytes_pos (fn : BitVec 6) : 0 < sizeBytes fn := Nat.two_pow_pos _

theorem sizeBytes_le {fn : BitVec 6} (h : fnLo fn ≤ 4) : sizeBytes fn ≤ 16 := Nat.pow_le_pow_right (by decide) h

/-! ## The threads of an instruction -/

@[simp] theorem mem_threadsOf (m : Mask) (t : Nat) : t ∈ threadsOf m ↔ m.getLsbD t = true := by
  rw [threadsOf, List.mem_filter, List.mem_range, and_iff_right_iff_imp]
  exact Mask.lt_of_getLsbD m t

theorem threadsOf_sorted (m : Mask) : (threadsOf m).Pairwise (· < ·) := List.pairwise_lt_range.filter _

theorem threadsOf_ne_nil {m : Mask} (h : m ≠ 0) : threadsOf m ≠ [] := by
  intro hnil
  refine h ((Mask.eq_zero_iff m).2 fun t _ => ?_)
  have ht : t ∉ threadsOf m := by simp [hnil]
  simpa using ht

theorem Wave.getLsbD_activeMask {w : Wave} {g : Guard} {t : Nat} (h : (w.activeMask g).getLsbD t = true) :
    w.active g t = true := by
  rwa [Wave.activeMask, maskOf_getLsbD _ _ (Mask.lt_of_getLsbD _ _ h)] at h

/-- An active thread's lane is one of the 64 (R11, R434). -/
theorem Wave.lane_lt {w : Wave} {g : Guard} {t : Nat} (h : (w.activeMask g).getLsbD t = true) : w.lane t < 64 := by
  have hact := Wave.getLsbD_activeMask h
  simp only [Wave.active, Bool.and_eq_true, decide_eq_true_eq] at hact
  obtain ⟨⟨hlt, -⟩, -⟩ := hact
  unfold Wave.threads at hlt
  unfold Wave.lane
  split_ifs at hlt ⊢ <;> omega

theorem Wave.lane_strictMono (w : Wave) : StrictMono w.lane := by
  intro t u h
  unfold Wave.lane
  split_ifs <;> omega

/-- Where no register differs from its shadow the comparison of R434 passes. -/
theorem State.protMismatch_of_agree {s : State} {f : InsM} {a d : Nat} (h : s.shadowsAgree f a d) :
    s.protMismatch f a d (s.wv.activeMask f.g) = false := by
  rw [Bool.eq_false_iff]
  intro hm
  simp only [State.protMismatch, Bool.and_eq_true, List.any_eq_true, List.mem_range, Bool.or_eq_true, bne_iff_ne] at hm
  obtain ⟨hprot, t, ht, hact, hne⟩ := hm
  obtain ⟨haddr, hdata⟩ := h hprot t ht hact
  exact hne.elim (fun e => e haddr) (fun e => e hdata)

/-! ## The beats of an access (R162, R164, R188) -/

/-- The access of a beat that a piece becomes. -/
def beatRequest (kind : OpKind) (base b : Nat) (bs : List Byte) (p : Piece) : Request :=
  { pa := base + p.pa, len := p.len, key := b, data := if kind == .coreAtom then bs else (bs.drop p.off).take p.len,
    pieces := [{ p with pa := base + p.pa }], st := .unsent, refused := 0, val := [], poison := false, wts := 0, rts := 0 }

/-- The accesses of beat `b`, before its cycles are noted. -/
def State.beatAccesses (s : State) (kind : OpKind) (base : Nat) (data : Nat → List Byte) (ok : List (Nat × List Piece))
    (b : Nat) : List Request :=
  (ok.filter (fun e => s.wv.lane e.1 / 16 == b)).flatMap (fun e => e.2.map (beatRequest kind base b (data e.1)))

theorem State.beatRequests_eq (s : State) (kind : OpKind) (space base : Nat) (data : Nat → List Byte)
    (ok : List (Nat × List Piece)) : s.beatRequests kind space base data ok =
      (List.range 4).flatMap (fun b => costed kind space (s.beatAccesses kind base data ok b)) := rfl

theorem State.mem_beatAccesses {s : State} {kind : OpKind} {base b : Nat} {data : Nat → List Byte}
    {ok : List (Nat × List Piece)} {r : Request} : r ∈ s.beatAccesses kind base data ok b ↔
      ∃ e ∈ ok, s.wv.lane e.1 / 16 = b ∧ ∃ p ∈ e.2, beatRequest kind base b (data e.1) p = r := by
  simp [State.beatAccesses, and_assoc]

/-- The cycles of a beat are noted at its first access, and nothing else of it changes. -/
theorem mem_costed {kind : OpKind} {space : Nat} {rs : List Request} {r : Request} (h : r ∈ costed kind space rs) :
    ∃ v ∈ rs, r = { v with rts := r.rts } := by
  cases rs with
  | nil => cases h
  | cons x xs =>
    rcases List.mem_cons.1 h with rfl | h
    · exact ⟨x, List.mem_cons_self, rfl⟩
    · exact ⟨r, List.mem_cons_of_mem _ h, rfl⟩

theorem exists_mem_costed (kind : OpKind) (space : Nat) {rs : List Request} {v : Request} (h : v ∈ rs) :
    ∃ n, { v with rts := n } ∈ costed kind space rs := by
  cases rs with
  | nil => cases h
  | cons x xs =>
    rcases List.mem_cons.1 h with rfl | h
    · exact ⟨_, List.mem_cons_self⟩
    · exact ⟨v.rts, List.mem_cons_of_mem _ h⟩

/-- The cycles of a beat do not depend on where they are noted. -/
theorem beatCost_costed (kind : OpKind) (space : Nat) (rs : List Request) :
    beatCost kind space (costed kind space rs) = beatCost kind space rs := by
  cases rs <;> rfl

theorem beatCost_nil (kind : OpKind) (space : Nat) : beatCost kind space [] = 0 := by
  unfold beatCost
  split_ifs <;> decide

theorem sum_rts_costed (kind : OpKind) (space : Nat) {rs : List Request} (h : ∀ r ∈ rs, r.rts = 0) :
    ((costed kind space rs).map (fun r => r.rts)).sum = beatCost kind space rs := by
  cases rs with
  | nil => rw [beatCost_nil]; rfl
  | cons r rs =>
    have hrest : (rs.map (fun r => r.rts)).sum = 0 := by
      rw [List.sum_eq_zero]
      simpa using fun v hv => h v (List.mem_cons_of_mem _ hv)
    simp [costed, hrest]

theorem costed_pieces (kind : OpKind) (space : Nat) (rs : List Request) :
    (costed kind space rs).map Request.pieces = rs.map Request.pieces := by
  cases rs <;> rfl

theorem State.beatAccesses_rts {s : State} {kind : OpKind} {base b : Nat} {data : Nat → List Byte}
    {ok : List (Nat × List Piece)} : ∀ r ∈ s.beatAccesses kind base data ok b, r.rts = 0 := by
  intro r hr
  obtain ⟨e, -, -, p, -, rfl⟩ := State.mem_beatAccesses.1 hr
  rfl

theorem State.costed_key {s : State} {kind : OpKind} {space base b : Nat} {data : Nat → List Byte}
    {ok : List (Nat × List Piece)} : ∀ r ∈ costed kind space (s.beatAccesses kind base data ok b), r.key = b := by
  intro r hr
  obtain ⟨v, hv, hrv⟩ := mem_costed hr
  obtain ⟨e, -, -, p, -, rfl⟩ := State.mem_beatAccesses.1 hv
  rw [hrv]
  rfl

/-- The accesses of one beat among all of an instruction. -/
theorem State.filter_beatRequests (s : State) (kind : OpKind) (space base : Nat) (data : Nat → List Byte)
    (ok : List (Nat × List Piece)) (b : Nat) : (s.beatRequests kind space base data ok).filter (fun r => r.key == b) =
      if b < 4 then costed kind space (s.beatAccesses kind base data ok b) else [] := by
  have hbeat : ∀ c, (costed kind space (s.beatAccesses kind base data ok c)).filter (fun r => r.key == b) =
      if c = b then costed kind space (s.beatAccesses kind base data ok b) else [] := by
    intro c
    split
    · next h =>
      subst h
      exact List.filter_eq_self.2 fun r hr => by simp [State.costed_key r hr]
    · next h => exact List.filter_eq_nil_iff.2 fun r hr => by simp [State.costed_key r hr, h]
  rw [State.beatRequests_eq, List.filter_flatMap]
  simp only [hbeat]
  split
  · next hb =>
    rw [show List.range 4 = [0, 1, 2, 3] from rfl]
    interval_cases b <;> simp
  · next hb =>
    refine List.flatMap_eq_nil_iff.2 fun c hc => if_neg ?_
    have := List.mem_range.1 hc
    omega

theorem State.sum_rts_beatRequests (s : State) (kind : OpKind) (space base : Nat) (data : Nat → List Byte)
    (ok : List (Nat × List Piece)) (b : Nat) :
    (((s.beatRequests kind space base data ok).filter (fun r => r.key == b)).map (fun r => r.rts)).sum =
      beatCost kind space ((s.beatRequests kind space base data ok).filter (fun r => r.key == b)) := by
  rw [State.filter_beatRequests]
  split
  · rw [sum_rts_costed kind space State.beatAccesses_rts, beatCost_costed]
  · rw [beatCost_nil]
    rfl

theorem State.mem_beatRequests {s : State} {kind : OpKind} {space base : Nat} {data : Nat → List Byte}
    {ok : List (Nat × List Piece)} {r : Request} (h : r ∈ s.beatRequests kind space base data ok) :
    ∃ e ∈ ok, ∃ p ∈ e.2, r = { beatRequest kind base (s.wv.lane e.1 / 16) (data e.1) p with rts := r.rts } := by
  rw [State.beatRequests_eq] at h
  obtain ⟨b, -, hb⟩ := List.mem_flatMap.1 h
  obtain ⟨v, hv, hrv⟩ := mem_costed hb
  obtain ⟨e, he, rfl, p, hp, rfl⟩ := State.mem_beatAccesses.1 hv
  exact ⟨e, he, p, hp, hrv⟩

theorem State.exists_mem_beatRequests (s : State) (kind : OpKind) (space base : Nat) (data : Nat → List Byte)
    {ok : List (Nat × List Piece)} {e : Nat × List Piece} {p : Piece} (he : e ∈ ok) (hlane : s.wv.lane e.1 < 64)
    (hp : p ∈ e.2) : ∃ n, { beatRequest kind base (s.wv.lane e.1 / 16) (data e.1) p with rts := n } ∈
      s.beatRequests kind space base data ok := by
  obtain ⟨n, hn⟩ := exists_mem_costed kind space
    (State.mem_beatAccesses.2 ⟨e, he, rfl, p, hp, rfl⟩ : _ ∈ s.beatAccesses kind base data ok (s.wv.lane e.1 / 16))
  exact ⟨n, List.mem_flatMap.2 ⟨_, List.mem_range.2 (by omega), hn⟩⟩

/-- The threads stand in ascending order, within a beat and from beat to beat. -/
theorem State.beatRequests_ascend (s : State) (kind : OpKind) (space base : Nat) (data : Nat → List Byte)
    {ok : List (Nat × List Piece)} (hsort : ok.Pairwise (fun e v => e.1 < v.1))
    (hthread : ∀ e ∈ ok, ∀ p ∈ e.2, p.thread = e.1) :
    (s.beatRequests kind space base data ok).Pairwise
      (fun r v => ∀ p ∈ r.pieces, ∀ q ∈ v.pieces, p.thread ≤ q.thread) := by
  have hpieces : ∀ {e : Nat × List Piece} {b : Nat} {r : Request}, e ∈ ok →
      r ∈ e.2.map (beatRequest kind base b (data e.1)) → ∀ p ∈ r.pieces, p.thread = e.1 := by
    intro e b r he hr q hq
    obtain ⟨p, hp, rfl⟩ := List.mem_map.1 hr
    rw [List.mem_singleton.1 hq]
    exact hthread e he p hp
  have hbeat : ∀ {b r}, r ∈ costed kind space (s.beatAccesses kind base data ok b) →
      ∃ e ∈ ok, s.wv.lane e.1 / 16 = b ∧ ∀ p ∈ r.pieces, p.thread = e.1 := by
    intro b r hr
    obtain ⟨v, hv, hrv⟩ := mem_costed hr
    obtain ⟨e, he, hb, p, hp, rfl⟩ := State.mem_beatAccesses.1 hv
    have hthreads := hpieces (b := b) he (List.mem_map_of_mem hp)
    rw [hrv]
    exact ⟨e, he, hb, hthreads⟩
  rw [State.beatRequests_eq, List.pairwise_flatMap]
  refine ⟨fun b _ => ?within, List.pairwise_lt_range.imp fun {b c} hbc r hr v hv p hp q hq => ?across⟩
  case within =>
    rw [← List.pairwise_map (f := Request.pieces) (R := fun ps qs => ∀ p ∈ ps, ∀ q ∈ qs, p.thread ≤ q.thread),
      costed_pieces, List.pairwise_map, State.beatAccesses, List.pairwise_flatMap]
    refine ⟨fun e he => List.pairwise_of_forall_mem_list fun r hr v hv p hp q hq => ?_,
      (hsort.filter _).imp_of_mem fun {e u} he hu heu r hr v hv p hp q hq => ?_⟩
    · have he := (List.mem_filter.1 he).1
      rw [hpieces he hr p hp, hpieces he hv q hq]
    · rw [hpieces (List.mem_filter.1 he).1 hr p hp, hpieces (List.mem_filter.1 hu).1 hv q hq]
      exact heu.le
  case across =>
    obtain ⟨e, -, hb, hep⟩ := hbeat hr
    obtain ⟨u, -, hc, huq⟩ := hbeat hv
    rw [hep p hp, huq q hq]
    refine ((s.wv.lane_strictMono.lt_iff_lt).1 ?_).le
    omega

/-! ## An operation put in flight (R64, R65, R177) -/

/-- The number of a new operation is above the highest so far and above a core's own. -/
theorem foldl_ids_bounds (l : List MemOp) : ∀ m, m ≤ l.foldl (fun m v => max m (v.id + 1)) m ∧
    ∀ v ∈ l, v.id < l.foldl (fun m v => max m (v.id + 1)) m := by
  induction l with
  | nil => simp
  | cons x l ih =>
    intro m
    obtain ⟨hle, hlt⟩ := ih (max m (x.id + 1))
    rw [List.foldl_cons]
    exact ⟨by omega, List.forall_mem_cons.2 ⟨by omega, hlt⟩⟩

theorem State.nextOp_le_opId (s : State) : s.nextOp ≤ s.opId := (foldl_ids_bounds _ _).1

theorem State.lt_opId {s : State} {v : MemOp} (h : v ∈ s.myCore.ops) : v.id < s.opId := (foldl_ids_bounds _ _).2 v h

/-- An operation as it is put in flight: numbered, of the wave in hand, its requests with the refusals that its walks have met. -/
def State.issuedOp (s : State) (o : MemOp) : MemOp :=
  { o with
    id := s.opId, slot := s.cur.slot
    reqs := o.reqs.map (fun r => if r.st == .unsent then
      { r with refused := if o.kind.onCore then 0 else s.wv.waits.rejects } else r) }

/-- The core of the wave in hand without the L1 lines that an operation writes (R136). -/
def State.droppedFor (s : State) (o : MemOp) : Core :=
  if o.kind.writes then s.myCore.l1Drop ((o.reqs.filter (fun r => decide (r.pa < 2 ^ 50))).map (fun r => r.pa / 128))
  else s.myCore

/-- The state with an operation in the list of the core in hand, which stands as `c` otherwise: counted in its class, its
registers scoreboarded. -/
def State.queueOp (s : State) (c : Core) (o : MemOp) (regs : List SbReg) : State :=
  ({ s.setMyCore { c with ops := c.ops ++ [o] } with nextOp := o.id + 1 } : State).withWv { s.wv with
    cnt := match o.cls with
      | some k => s.wv.cnt.bump k (· + 1)
      | none => s.wv.cnt
    sb := s.wv.sb ++ regs.map (fun r => (r, o.id)) }

/-- An operation is queued, and its packets are tried at once where it may send. -/
theorem State.issueOp_eq (s : State) (o : MemOp) (regs : List SbReg) : s.issueOp o regs =
    let s2 := s.queueOp (s.droppedFor o) (s.issuedOp o) regs
    if !o.kind.onCore && s2.myCore.queueOpen (s.issuedOp o) then
      s2.pumpReqs s.cur.core s.opId true (s.issuedOp o).reqs 0 else s2 := by
  obtain ⟨id, slot, kind, cls, dst, frame, uni, size, sign, so, scope, opx, threads, reqs⟩ := o
  cases cls <;> rfl

theorem State.issueOp_of_onCore {o : MemOp} (h : o.kind.onCore = true) (s : State) (regs : List SbReg) :
    s.issueOp o regs = s.queueOp s.myCore (s.issuedOp o) regs := by
  have hwrites : o.kind.writes = false := by
    revert h
    cases o.kind <;> decide
  rw [State.issueOp_eq]
  simp [h, State.droppedFor, hwrites]

/-! ## An access to a core's memories in flight -/

/-- The operation of an access to a core's memories, as it enters the queue of its port. -/
def State.portOp (s : State) (f : InsM) (kind : OpKind) (space op n base : Nat) (data : Nat → List Byte)
    (ok : List (Nat × List Piece)) : MemOp :=
  { newOp s kind (some (if kind == .coreStore then Cls.st else .ld)) f n (okMask ok)
      (s.beatRequests kind space base data ok) with
    id := s.opId, slot := s.cur.slot, dst := if kind == .coreStore then none else some f.d.toNat, opx := space + 4 * op
    scope := 1, sign := kind == .coreLoad && space == 3 && fnHi f.fn == 1 }

/-- An access to a core's memories changes nothing but its wave's counter and scoreboard and its core's queue. -/
theorem State.enterBeats_eq (s : State) (f : InsM) {kind : OpKind} (hk : kind.onCore = true) (space op n base : Nat)
    (data : Nat → List Byte) (ok : List (Nat × List Piece)) : s.enterBeats f kind true space op n base data ok =
      s.queueOp s.myCore (s.portOp f kind space op n base data ok)
        (if kind == .coreStore then [] else sbVec s.wv.win.cur f.d.toNat (regWidth (8 * n))) := by
  have hreqs : ((s.beatRequests kind space base data ok).map
      fun r => if r.st == .unsent then { r with refused := 0 } else r) = s.beatRequests kind space base data ok := by
    refine (List.map_congr_left fun r hr => ?_).trans (List.map_id _)
    obtain ⟨e, -, p, -, he⟩ := State.mem_beatRequests hr
    rw [he]
    rfl
  rw [State.enterBeats, State.issueOp_of_onCore hk]
  congr 1
  simp only [State.issuedOp, newOp, hk, if_true, hreqs]
  rfl

theorem State.entered_enterBeats (s : State) (f : InsM) (w : Wave) {kind : OpKind} (hk : kind.onCore = true)
    (space op n base : Nat) (data : Nat → List Byte) (ok : List (Nat × List Piece)) :
    s.entered (((s.withWv w).enterBeats f kind true space op n base data ok).advance (lenM f)) f w
      ((s.withWv w).portOp f kind space op n base data ok)
      (if kind == .coreStore then [] else sbVec w.win.cur f.d.toNat (regWidth (8 * n))) := by
  rw [State.enterBeats_eq _ _ hk]
  exact ⟨⟨State.nextOp_le_opId _, fun v hv => State.lt_opId hv⟩, rfl⟩

/-- The pieces that a thread's access of `n` bytes at `a` is cut into: its own, and each byte is in one of them. -/
structure ServesAt (t a n : Nat) (ps : List Piece) : Prop where
  thread : ∀ p ∈ ps, p.thread = t
  cover : ∀ i, i < n → ∃ p ∈ ps, p.off ≤ i ∧ i < p.off + p.len ∧ p.pa + (i - p.off) = a + i

theorem okMask_threads {m : Mask} {ok : List (Nat × List Piece)} (h : ok.map Prod.fst = threadsOf m) : okMask ok = m := by
  refine (Mask.eq_iff _ _).2 fun l hl => ?_
  rw [okMask, maskOf_getLsbD _ _ hl, Bool.eq_iff_iff, ← mem_threadsOf, ← h]
  simp

/-- Whose threads' pieces serve their accesses, the operation stands at its port as the statements have it. -/
theorem State.atPort_portOp {s : State} {w : Wave} {f : InsM} {kind : OpKind} {space op n base : Nat}
    {data : Nat → List Byte} {a : Nat → Nat} {ok : List (Nat × List Piece)} {g : Guard} (hwin : w.win = s.wv.win)
    (hcsr : w.csr = s.wv.csr) (hspace : space < 4) (hok : ok.map Prod.fst = threadsOf (s.wv.activeMask g))
    (hps : ∀ e ∈ ok, ServesAt e.1 (a e.1) n e.2) :
    ((s.withWv w).portOp f kind space op n base data ok).atPort s f kind space op n (s.wv.activeMask g)
      (fun t => base + a t) data := by
  have hlane : ∀ t, w.lane t = s.wv.lane t := fun t => by rw [Wave.lane, Wave.lane, hcsr]
  have hactive : ∀ e ∈ ok, (s.wv.activeMask g).getLsbD e.1 = true := fun e he => by
    rw [← mem_threadsOf, ← hok]
    exact List.mem_map_of_mem he
  have hsort : ok.Pairwise (fun e v => e.1 < v.1) := by
    rw [← List.pairwise_map (f := Prod.fst) (R := (· < ·)), hok]
    exact threadsOf_sorted _
  refine ⟨rfl, by simp [State.portOp, newOp], rfl, rfl, okMask_threads hok, congrArg Window.cur hwin, by simp [State.portOp], rfl,
    rfl, rfl, ?space, ?atomFn, fun r hr => ?unsent, fun t i ht hi => ?cover, State.sum_rts_beatRequests _ _ _ _ _ _,
    State.beatRequests_ascend _ _ _ _ _ hsort fun e he => (hps e he).thread⟩
  case space =>
    show (space + 4 * op) % 4 = space
    omega
  case atomFn =>
    show (space + 4 * op) / 4 = op
    omega
  case unsent =>
    obtain ⟨e, he, p, hp, hr⟩ := State.mem_beatRequests hr
    rw [hr]
    refine ⟨rfl, fun q hq => ?_⟩
    rw [List.mem_singleton.1 hq]
    dsimp only
    rw [(hps e he).thread p hp, ← hlane]
    exact ⟨hactive e he, rfl⟩
  case cover =>
    obtain ⟨e, he, rfl⟩ : ∃ e ∈ ok, e.1 = t := by
      rw [← mem_threadsOf, ← hok] at ht
      exact List.mem_map.1 ht
    obtain ⟨p, hp, hlo, hhi, hpa⟩ := (hps e he).cover i hi
    obtain ⟨c, hc⟩ := (s.withWv w).exists_mem_beatRequests kind space base data he
      (by rw [State.withWv_wv, hlane]; exact Wave.lane_lt ht) hp
    refine ⟨_, hc, _, List.mem_singleton_self _, (hps e he).thread p hp, hlo, hhi, ?_, fun hk => ?_, fun hk => ?_⟩
    · show base + p.pa + (i - p.off) = base + a e.1 + i
      omega
    · have hlt : i - p.off < p.len := by omega
      have hdrop : p.off + (i - p.off) = i := by omega
      simp [beatRequest, hk, List.getD_eq_getElem?_getD, hlt, hdrop]
    · simp [beatRequest, hk]

/-! ## An instruction whose threads all commit (R405) -/

/-- The threads of an instruction that its check lets pass, with their pieces. -/
def committed (ok : List (Nat × List Piece)) : List (Nat × Checked) := ok.map (fun e => (e.1, .ok e.2))

@[simp] theorem okThreads_committed (ok : List (Nat × List Piece)) : okThreads (committed ok) = ok := by
  simp [okThreads, committed, List.filterMap_map]

@[simp] theorem firstFault_committed (ok : List (Nat × List Piece)) : firstFault (committed ok) = none := by
  refine List.findSome?_eq_none_iff.2 fun e he => ?_
  obtain ⟨v, -, rfl⟩ := List.mem_map.1 he
  rfl

theorem State.finishChecked_committed (s : State) (n : Nat) (ok : List (Nat × List Piece)) (all : Option Mask) :
    s.finishChecked n (committed ok) all = s.advance n := by
  simp [State.finishChecked]

/-- An access to a core's memories all of whose threads commit. -/
theorem State.coreAccess_of_ok {s : State} {f : InsM} {check : Nat → Checked} {prot : Bool}
    {commit : State → List (Nat × List Piece) → State} {pcs : Nat → List Piece} (hact : s.wv.activeMask f.g ≠ 0)
    (hok : ∀ t, (s.wv.activeMask f.g).getLsbD t = true → check t = .ok (pcs t)) (hprot : prot = false) :
    s.coreAccess f check prot commit =
      (commit s ((threadsOf (s.wv.activeMask f.g)).map (fun t => (t, pcs t)))).advance (lenM f) := by
  have hrs : (threadsOf (s.wv.activeMask f.g)).map (fun t => (t, check t)) =
      committed ((threadsOf (s.wv.activeMask f.g)).map (fun t => (t, pcs t))) := by
    rw [committed, List.map_map]
    exact List.map_congr_left fun t ht => by rw [hok t ((mem_threadsOf _ _).1 ht)]; rfl
  have hne : ((threadsOf (s.wv.activeMask f.g)).map (fun t => (t, pcs t))).isEmpty = false := by
    simpa using threadsOf_ne_nil hact
  simp only [State.coreAccess, hrs, okThreads_committed, hne, hprot, State.finishChecked_committed]
  rfl

/-! ## The scratchpad and the buffers (R159, R165, R166) -/

/-- The pieces of an access inside the block's allocation pass its check and serve the access. -/
theorem spadPieces_inside {size n : Nat} (t : Nat) {a : Nat} (hsize : size ≤ 2 ^ 17) (hn : n ≤ 16) (ha : a + n ≤ size) :
    spadCheck size (spadPieces t a n) = .ok (spadPieces t a n) ∧ ServesAt t a n (spadPieces t a n) := by
  have hmem : ∀ p ∈ spadPieces t a n, ∃ q ∈ cutPieces 16 a n, p = ⟨t, q.1, q.1, q.2, q.1 - a, 0, 0⟩ := by
    intro p hp
    obtain ⟨q, hq, rfl⟩ := List.mem_map.1 hp
    have hin := cutPieces_inside hq
    exact ⟨q, hq, by rw [Nat.mod_eq_of_lt (by omega)]⟩
  refine ⟨if_pos ?_, fun p hp => ?_, fun i hi => ?_⟩
  · rw [List.all_eq_true]
    intro p hp
    obtain ⟨q, hq, rfl⟩ := hmem p hp
    have hin := cutPieces_inside hq
    rw [decide_eq_true_eq]
    dsimp only
    omega
  · obtain ⟨q, -, rfl⟩ := hmem p hp
    rfl
  · obtain ⟨q, hq, hlo, hhi⟩ := cutPieces_cover (a := a) hn hi
    have hin := cutPieces_inside hq
    refine ⟨_, List.mem_map_of_mem hq, ?_⟩
    dsimp only
    rw [Nat.mod_eq_of_lt (by omega : q.1 < 2 ^ 17)]
    omega

theorem State.bufCheck_of_held {s : State} {space n a : Nat} (t : Nat) (ha : a % n = 0) (h : s.holdsBuf space a = true) :
    s.bufCheck space n a t = .ok [⟨t, a, a, n, 0, 0, 0⟩] := by
  simp [State.bufCheck, ha, h]

/-- The one piece of an aligned access of a buffer. -/
theorem servesAt_whole (t va a n : Nat) : ServesAt t a n [⟨t, va, a, n, 0, 0, 0⟩] :=
  ⟨fun p hp => by rw [List.mem_singleton.1 hp], fun i hi => ⟨_, List.mem_singleton_self _, by dsimp only; omega⟩⟩

/-- LDS, STS, LDB and STB whose threads all commit, with their pieces. -/
theorem State.completes_enterBeats {f : InsM} {s : State} {i : Instr} {kind : OpKind} {space n base : Nat}
    {data : Nat → List Byte} {a : Nat → Nat} {w : Wave} {pcs : Nat → List Piece} (hk : kind.onCore = true)
    (hspace : space < 4) (hwin : w.win = s.wv.win) (hcsr : w.csr = s.wv.csr)
    (hps : ∀ t, (s.wv.activeMask f.g).getLsbD t = true → ServesAt t (a t) n (pcs t))
    (hexec : exec i s = .next (((s.withWv w).enterBeats f kind true space 0 n base data
      ((threadsOf (s.wv.activeMask f.g)).map (fun t => (t, pcs t)))).advance (lenM f))) :
    completes i s (fun t => ∃ o, o.atPort s f kind space 0 n (s.wv.activeMask f.g) (fun t => base + a t) data ∧
      s.entered t f w o (if kind == .coreStore then [] else sbVec w.win.cur f.d.toNat (regWidth (8 * n)))) := by
  refine ⟨_, hexec, _, State.atPort_portOp hwin hcsr hspace ?_ ?_, State.entered_enterBeats s f w hk _ _ _ _ _ _⟩
  · rw [List.map_map]
    exact List.map_id _
  · intro e he
    obtain ⟨t, ht, rfl⟩ := List.mem_map.1 he
    exact hps t ((mem_threadsOf _ _).1 ht)

theorem State.withWv_releasedBy (s : State) (f : InsM) :
    (if f.so.getLsbD 1 then s.mapWv Wave.released else s) = s.withWv (s.wv.releasedBy f) := by
  unfold Wave.releasedBy
  split <;> rfl

@[simp] theorem Wave.releasedBy_win (w : Wave) (f : InsM) : (w.releasedBy f).win = w.win := by
  unfold Wave.releasedBy; split <;> rfl

@[simp] theorem Wave.releasedBy_csr (w : Wave) (f : InsM) : (w.releasedBy f).csr = w.csr := by
  unfold Wave.releasedBy; split <;> rfl

section Scratchpad
variable {f : InsM} {s : State} (hact : s.wv.activeMask f.g ≠ 0) (hfn : fnLo f.fn ≤ 4) (hsize : s.spadRange.2 ≤ 2 ^ 17)
  (hin : ∀ t, (s.wv.activeMask f.g).getLsbD t = true → s.effAddr f 32 17 t + sizeBytes f.fn ≤ s.spadRange.2)
include hact hfn hsize hin

theorem completes_lds (hheld : s.coreScopeHeld false = false) : completes (.lds f) s (fun t => ∃ o,
    o.atPort s f .coreLoad 3 0 (sizeBytes f.fn) (s.wv.activeMask f.g) (fun t => s.spadRange.1 + s.effAddr f 32 17 t)
      (fun _ => []) ∧
    s.entered t f s.wv o (sbVec s.wv.win.cur f.d.toNat (regWidth (8 * sizeBytes f.fn)))) := by
  have hps := fun t ht => spadPieces_inside t hsize (sizeBytes_le hfn) (hin t ht)
  refine State.completes_enterBeats rfl (by decide) rfl rfl (fun t ht => (hps t ht).2) ?_
  show execLds f s = _
  simp only [execLds, if_neg hact, hheld, State.coreAccess_of_ok hact (fun t ht => (hps t ht).1) rfl]
  rfl

theorem completes_sts (hheld : s.coreScopeHeld (f.so.getLsbD 1) = false)
    (hagree : s.shadowsAgree f 32 (8 * sizeBytes f.fn)) : completes (.sts f) s (fun t => ∃ o,
    o.atPort s f .coreStore 3 0 (sizeBytes f.fn) (s.wv.activeMask f.g) (fun t => s.spadRange.1 + s.effAddr f 32 17 t)
      (fun t => leBytes (sizeBytes f.fn) (s.dataOf f (8 * sizeBytes f.fn) t)) ∧
    s.entered t f (s.wv.releasedBy f) o []) := by
  have hps := fun t ht => spadPieces_inside t hsize (sizeBytes_le hfn) (hin t ht)
  refine State.completes_enterBeats rfl (by decide) (s.wv.releasedBy_win f) (s.wv.releasedBy_csr f)
    (fun t ht => (hps t ht).2) ?_
  show execSts f s = _
  simp only [execSts, if_neg hact, hheld, State.coreAccess_of_ok hact (fun t ht => (hps t ht).1)
    (State.protMismatch_of_agree hagree), State.withWv_releasedBy]
  rfl

end Scratchpad

/-- Settles O23: LDS and STS enter their port with the pieces inside the allocation, and a turn serves a load's beat, or
halts the wave of one that meets poison. -/
theorem scratchpadAccess : Obligations.ScratchpadAccess := by
  unfold Obligations.ScratchpadAccess
  refine ⟨fun f s => ?issue, fun s k i o h => State.portStep_of_load h, fun s k i o h hready =>
    State.portStep_of_not_ready h hready, fun s k i j o r h hready honly hj hr hp =>
    State.halted_portStep ⟨h, honly⟩ hready hj hr hp⟩
  case issue =>
    intro act n base a hact hfn hsize hin
    exact ⟨completes_lds hact hfn hsize hin, completes_sts hact hfn hsize hin⟩

section Buffers
variable {f : InsM} {s : State} (hact : s.wv.activeMask f.g ≠ 0) (hsp : fnHi f.fn ≤ 2)
  (hheld : s.acquireSysPending = false)
  (hin : ∀ t, (s.wv.activeMask f.g).getLsbD t = true → s.effAddr f 32 (bufWidth (fnHi f.fn)) t % sizeBytes f.fn = 0 ∧
    s.holdsBuf (fnHi f.fn) (s.effAddr f 32 (bufWidth (fnHi f.fn)) t) = true)
include hact hsp hheld hin

theorem completes_ldb : completes (.ldb f) s (fun t => ∃ o,
    o.atPort s f .coreLoad (fnHi f.fn) 0 (sizeBytes f.fn) (s.wv.activeMask f.g) (s.effAddr f 32 (bufWidth (fnHi f.fn)))
      (fun _ => []) ∧
    s.entered t f s.wv o (sbVec s.wv.win.cur f.d.toNat (regWidth (8 * sizeBytes f.fn)))) := by
  have hcheck := fun t ht => State.bufCheck_of_held (s := s) t (hin t ht).1 (hin t ht).2
  have hdone := State.completes_enterBeats (i := .ldb f) (w := s.wv) (kind := .coreLoad) (base := 0) (data := fun _ => [])
    rfl (by omega : fnHi f.fn < 4) rfl rfl (fun t _ => servesAt_whole t (s.effAddr f 32 (bufWidth (fnHi f.fn)) t) _ _) (by
      show execLdb f s = _
      simp only [execLdb, if_neg hact, hheld, State.coreAccess_of_ok hact hcheck rfl]
      rfl)
  simp only [Nat.zero_add] at hdone
  exact hdone

theorem completes_stb (hagree : s.shadowsAgree f 32 (8 * sizeBytes f.fn)) : completes (.stb f) s (fun t => ∃ o,
    o.atPort s f .coreStore (fnHi f.fn) 0 (sizeBytes f.fn) (s.wv.activeMask f.g) (s.effAddr f 32 (bufWidth (fnHi f.fn)))
      (fun t => leBytes (sizeBytes f.fn) (s.dataOf f (8 * sizeBytes f.fn) t)) ∧
    s.entered t f s.wv o []) := by
  have hcheck := fun t ht => State.bufCheck_of_held (s := s) t (hin t ht).1 (hin t ht).2
  have hdone := State.completes_enterBeats (i := .stb f) (w := s.wv) (kind := .coreStore) (base := 0)
    (data := fun t => leBytes (sizeBytes f.fn) (s.dataOf f (8 * sizeBytes f.fn) t))
    rfl (by omega : fnHi f.fn < 4) rfl rfl (fun t _ => servesAt_whole t (s.effAddr f 32 (bufWidth (fnHi f.fn)) t) _ _) (by
      show execStb f s = _
      simp only [execStb, if_neg hact, hheld, State.coreAccess_of_ok hact hcheck (State.protMismatch_of_agree hagree)]
      rfl)
  simp only [Nat.zero_add] at hdone
  exact hdone

end Buffers

/-- Settles O24: LDB and STB enter their port with one piece a thread, and a turn stores a beat's requests in turn. -/
theorem bufferAccess : Obligations.BufferAccess := by
  unfold Obligations.BufferAccess
  refine ⟨fun f s => ?issue, fun s k i o h => ?turn⟩
  case issue =>
    intro act n sp a hact _ hsp hheld hin
    exact ⟨completes_ldb hact hsp hheld hin, completes_stb hact hsp hheld hin⟩
  case turn =>
    obtain ⟨hserved, hbuf, hother, hscaled⟩ := State.portStep_of_store h
    refine ⟨hserved, fun j r x hj hr hlast => ?_, fun x hx => ?_, hother, hscaled⟩
    · obtain ⟨hmem, q, hq, hcov⟩ := hj
      obtain rfl : q = r := Option.some.inj (hq.symm.trans hr)
      rw [hbuf]
      exact MemOp.get_stored_of_last o.unit_sorted hmem hr hcov (fun v hv hlt hst => hlast v hlt ⟨hv, hst⟩) _
    · rw [hbuf]
      exact MemOp.get_stored_of_untouched (fun j hj hst => hx j ⟨hj, hst⟩) _

end Sys2Proof.Machine
end

section
/-! SUPPORT. The packets of a load and of a store: what they cover and the bytes that they carry (R171). -/

namespace Sys2Proof.Machine

/-! ## Tables as lists -/

/-- An entry of a table whose indices rise is what the table holds at its index. -/
theorem Map.get?_of_mem {α : Type} {m : Map α} (h : Map.sorted m = true) {i : Nat} {v : α} (hm : (i, v) ∈ m) :
    Map.get? m i = some v := by
  induction m with
  | nil => cases hm
  | cons e m ih =>
    obtain ⟨k, w⟩ := e
    obtain ⟨habove, hsort⟩ := (Map.sorted_cons k w m).1 h
    rcases List.mem_cons.1 hm with he | hm
    · obtain ⟨rfl, rfl⟩ := Prod.mk.inj he
      simp [Map.get?]
    · have hlt := Map.above_all m k habove hsort _ hm
      simp only [Map.get?]
      rw [if_neg (by omega), if_neg (by omega), ih hsort hm]

theorem Map.mem_of_get? {α : Type} {m : Map α} {i : Nat} {v : α} (h : Map.get? m i = some v) : (i, v) ∈ m := by
  induction m with
  | nil => simp [Map.get?] at h
  | cons e m ih =>
    obtain ⟨k, w⟩ := e
    simp only [Map.get?] at h
    split at h
    · cases h
    · split at h
      · next hk =>
        cases h
        subst hk
        exact List.mem_cons_self
      · exact List.mem_cons_of_mem _ (ih h)

theorem Map.pairwise_of_sorted {α : Type} {m : Map α} (h : Map.sorted m = true) : m.Pairwise (fun e v => e.1 < v.1) := by
  induction m with
  | nil => exact List.Pairwise.nil
  | cons e m ih =>
    obtain ⟨k, w⟩ := e
    obtain ⟨habove, hsort⟩ := (Map.sorted_cons k w m).1 h
    exact List.pairwise_cons.2 ⟨Map.above_all m k habove hsort, ih hsort⟩

/-! ## The bytes of a store -/

/-- A piece's bytes stored over a table. -/
theorem Map.get?_foldl_set {q : Piece} (bs : List Byte) : ∀ (m : Map (Byte × Piece)) (j x : Nat),
    Map.get? (((List.range' j bs.length).zip bs).foldl (fun m e => Map.set m (q.pa + e.1) (e.2, q)) m) x =
      if q.pa + j ≤ x ∧ x < q.pa + j + bs.length then some (bs.getD (x - (q.pa + j)) 0, q) else Map.get? m x := by
  induction bs with
  | nil => intro m j x; simp
  | cons b bs ih =>
    intro m j x
    rw [List.length_cons, List.range'_succ, List.zip_cons_cons, List.foldl_cons, ih, Map.get?_set]
    by_cases h : x = q.pa + j
    · subst h; simp
    · by_cases h2 : q.pa + (j + 1) ≤ x ∧ x < q.pa + (j + 1) + bs.length
      · have hx : x - (q.pa + j) = (x - (q.pa + (j + 1))) + 1 := by omega
        rw [if_pos h2, if_pos (by omega), hx, List.getD_cons_succ]
      · rw [if_neg h2, if_neg h, if_neg (by omega)]

theorem Map.sorted_foldl_set {β : Type} (l : List β) (g : β → Nat × (Byte × Piece)) :
    ∀ {m : Map (Byte × Piece)}, Map.sorted m = true →
      Map.sorted (l.foldl (fun m e => Map.set m (g e).1 (g e).2) m) = true := by
  induction l with
  | nil => exact fun h => h
  | cons e l ih => exact fun h => ih (Map.sorted_set _ _ _ h)

theorem storeBytes_concat (ps : List (Piece × List Byte)) (q : Piece) (bs : List Byte) :
    storeBytes (ps ++ [(q, bs)]) =
      ((List.range q.len).zip bs).foldl (fun m e => Map.set m (q.pa + e.1) (e.2, q)) (storeBytes ps) := by
  simp [storeBytes]

theorem sorted_storeBytes (ps : List (Piece × List Byte)) : Map.sorted (storeBytes ps) = true := by
  induction ps using List.reverseRecOn with
  | nil => rfl
  | append_singleton ps e ih =>
    rw [storeBytes_concat]
    exact Map.sorted_foldl_set _ (fun v : Nat × Byte => (e.1.pa + v.1, (v.2, e.1))) ih

/-- The byte at `x` lies in a piece. -/
def Piece.holds (p : Piece) (x : Nat) : Prop := p.pa ≤ x ∧ x < p.pa + p.len

theorem get?_storeBytes_concat {ps : List (Piece × List Byte)} {q : Piece} {bs : List Byte} (hlen : bs.length = q.len)
    (x : Nat) : Map.get? (storeBytes (ps ++ [(q, bs)])) x =
      if q.pa ≤ x ∧ x < q.pa + q.len then some (bs.getD (x - q.pa) 0, q) else Map.get? (storeBytes ps) x := by
  have hget := Map.get?_foldl_set (q := q) bs (storeBytes ps) 0 x
  rwa [← List.range_eq_range', hlen, Nat.add_zero, ← storeBytes_concat] at hget

/-- A stored byte is that of the last piece that holds its address. -/
theorem last_of_get?_storeBytes {x : Nat} {ps : List (Piece × List Byte)} (hlen : ∀ e ∈ ps, e.2.length = e.1.len) {b : Byte}
    {q : Piece} (h : Map.get? (storeBytes ps) x = some (b, q)) :
    ∃ l bs r, ps = l ++ (q, bs) :: r ∧ q.holds x ∧ b = bs.getD (x - q.pa) 0 ∧ ∀ e ∈ r, ¬ e.1.holds x := by
  induction ps using List.reverseRecOn with
  | nil => simp [storeBytes, Map.get?] at h
  | append_singleton ps e ih =>
    obtain ⟨v, bs⟩ := e
    rw [get?_storeBytes_concat (hlen _ (List.mem_append_right _ List.mem_cons_self))] at h
    split at h
    · next hx =>
      obtain ⟨rfl, rfl⟩ := Prod.mk.inj (Option.some.inj h)
      exact ⟨ps, bs, [], rfl, hx, rfl, by simp⟩
    · next hx =>
      obtain ⟨l, cs, r, rfl, hat, hb, hr⟩ := ih (fun e he => hlen e (List.mem_append_left _ he)) h
      exact ⟨l, cs, r ++ [(v, bs)], by simp, hat, hb,
        List.forall_mem_append.2 ⟨hr, List.forall_mem_singleton.2 hx⟩⟩

theorem isSome_get?_storeBytes {x : Nat} {ps : List (Piece × List Byte)} (hlen : ∀ e ∈ ps, e.2.length = e.1.len)
    (h : ∃ e ∈ ps, e.1.holds x) : (Map.get? (storeBytes ps) x).isSome = true := by
  induction ps using List.reverseRecOn with
  | nil => simp at h
  | append_singleton ps e ih =>
    obtain ⟨v, hv, hx⟩ := h
    rw [get?_storeBytes_concat (q := e.1) (bs := e.2) (hlen _ (List.mem_append_right _ List.mem_cons_self))]
    split
    · rfl
    · next hne =>
      refine ih (fun e he => hlen e (List.mem_append_left _ he)) ⟨v, (List.mem_append.1 hv).resolve_right fun he => ?_, hx⟩
      rw [List.mem_singleton.1 he] at hx
      exact hne hx

/-! ## The packets of a store -/

theorem storeBlock_pos (m : Map (Byte × Piece)) (a key k : Nat) : 0 < storeBlock m a key k := by
  induction k with
  | zero => exact Nat.one_pos
  | succ k ih =>
    unfold storeBlock
    split
    · exact Nat.two_pow_pos _
    · exact ih

/-- Every byte of a packet's block is stored under its key. -/
theorem storeBlock_stored {m : Map (Byte × Piece)} {a key : Nat} {b : Byte} {q : Piece} (h : Map.get? m a = some (b, q))
    (hkey : q.key = key) (k : Nat) {i : Nat} (hi : i < storeBlock m a key k) :
    ∃ e, Map.get? m (a + i) = some e ∧ e.2.key = key := by
  induction k with
  | zero =>
    obtain rfl : i = 0 := by simpa [storeBlock] using hi
    exact ⟨_, h, hkey⟩
  | succ k ih =>
    unfold storeBlock at hi
    split at hi
    · next hblock =>
      have hall := List.all_eq_true.1 hblock.2 i (List.mem_range.2 hi)
      split at hall
      · next e he => exact ⟨e, he, by simpa using hall⟩
      · cases hall
    · exact ih hi

/-- Where `n` consecutive indices lead a table, its entries from `a + n` on stand behind the first `n`. -/
theorem mem_drop_of_consecutive {α : Type} {n : Nat} : ∀ {l : List (Nat × α)} {a c : Nat} {e : α},
    l.Pairwise (fun e v => e.1 < v.1) → (∀ v ∈ l, a ≤ v.1) → (∀ i, i < n → ∃ w, (a + i, w) ∈ l) → (c, e) ∈ l → a + n ≤ c →
      (c, e) ∈ l.drop n := by
  induction n with
  | zero => exact fun _ _ _ hc _ => hc
  | succ n ih =>
    intro l a c e hsort hge hall hc hac
    cases l with
    | nil => cases hc
    | cons v l =>
      obtain ⟨hlt, hsort⟩ := List.pairwise_cons.1 hsort
      have hv : v.1 = a := by
        obtain ⟨w, hw⟩ := hall 0 (by omega)
        have hva := hge v List.mem_cons_self
        rcases List.mem_cons.1 hw with hw | hw
        · rw [← hw]; rfl
        · have := hlt _ hw
          omega
      have htail : ∀ {d w}, (d, w) ∈ v :: l → a < d → (d, w) ∈ l := by
        intro d w hd had
        rcases List.mem_cons.1 hd with hd | hd
        · rw [← hd] at hv
          dsimp only at hv
          omega
        · exact hd
      rw [List.drop_succ_cons]
      refine ih (a := a + 1) hsort (fun u hu => ?_) (fun i hi => ?_) (htail hc (by omega)) (by omega)
      · have := hlt u hu
        omega
      · obtain ⟨w, hw⟩ := hall (i + 1) (by omega)
        exact ⟨w, htail (by rwa [Nat.add_assoc, Nat.add_comm 1]) (by omega)⟩

/-- The packets of the stored bytes from some index on: each carries stored bytes under its key, and each byte is carried. -/
theorem storeRequests_carry {m : Map (Byte × Piece)} (hm : Map.sorted m = true) {fuel : Nat} :
    ∀ {l : List (Nat × (Byte × Piece))}, l <:+ m → l.length ≤ fuel →
      (∀ x ∈ storeRequests m fuel l, x.st = .unsent ∧
        ∀ k, k < x.len → ∃ e, Map.get? m (x.pa + k) = some e ∧ e.2.key = x.key ∧ x.data.getD k 0 = e.1) ∧
      ∀ v ∈ l, ∃ x ∈ storeRequests m fuel l, x.pa ≤ v.1 ∧ v.1 < x.pa + x.len := by
  induction fuel with
  | zero =>
    intro l _ hlen
    rw [List.eq_nil_of_length_eq_zero (by omega : l.length = 0)]
    simp [storeRequests]
  | succ fuel ih =>
    intro l hl hlen
    match l, hl, hlen with
    | [], _, _ => simp [storeRequests]
    | (a, b, q) :: rest, hl, hlen =>
      have hsort := Map.pairwise_of_sorted hm
      have hget := Map.get?_of_mem hm (hl.subset List.mem_cons_self)
      have hpos := storeBlock_pos m a q.key 7
      have hblock : ∀ i, i < storeBlock m a q.key 7 → ∃ e, Map.get? m (a + i) = some e ∧ e.2.key = q.key :=
        fun i hi => storeBlock_stored hget rfl 7 hi
      rw [List.length_cons] at hlen
      obtain ⟨hcarry, hcover⟩ := ih (l := rest.drop (storeBlock m a q.key 7 - 1))
        ((List.drop_suffix _ _).trans ((List.suffix_cons _ _).trans hl)) (by rw [List.length_drop]; omega)
      unfold storeRequests
      dsimp only
      refine ⟨List.forall_mem_cons.2 ⟨⟨rfl, fun k hk => ?head⟩, hcarry⟩, fun v hv => ?cover⟩
      case head =>
        obtain ⟨e, he, hkey⟩ := hblock k hk
        refine ⟨e, he, hkey, ?_⟩
        dsimp only at hk ⊢
        simp [List.getD, hk, Map.getD, he]
      case cover =>
        obtain ⟨c, e⟩ := v
        by_cases hin : c < a + storeBlock m a q.key 7
        · refine ⟨_, List.mem_cons_self, ?_, hin⟩
          rcases List.mem_cons.1 hv with hv | hv
          · rw [hv]
          · exact ((List.pairwise_cons.1 (hsort.sublist hl.sublist)).1 _ hv).le
        · have hdrop := mem_drop_of_consecutive (a := a) (hsort.sublist hl.sublist) (fun v hv => ?_) (fun i hi => ?_) hv
            (by omega : a + storeBlock m a q.key 7 ≤ c)
          · obtain ⟨n, hn⟩ : ∃ n, storeBlock m a q.key 7 = n + 1 := ⟨storeBlock m a q.key 7 - 1, by omega⟩
            rw [hn, List.drop_succ_cons] at hdrop
            rw [hn, Nat.add_sub_cancel] at hcover
            rw [hn, Nat.add_sub_cancel]
            obtain ⟨x, hx, hxc⟩ := hcover _ hdrop
            exact ⟨x, List.mem_cons_of_mem _ hx, hxc⟩
          · rcases List.mem_cons.1 hv with hv | hv
            · rw [hv]
            · exact ((List.pairwise_cons.1 (hsort.sublist hl.sublist)).1 _ hv).le
          · -- The block's bytes are in the table, and those before the suffix lie below `a`.
            obtain ⟨w, hw, -⟩ := hblock i hi
            obtain ⟨pre, rfl⟩ := hl
            refine ⟨w, (List.mem_append.1 (Map.mem_of_get? hw)).resolve_left fun hpre => ?_⟩
            have := (List.pairwise_append.1 hsort).2.2 _ hpre _ List.mem_cons_self
            dsimp only at this
            omega

/-! ## A store's threads -/

/-- The piece lies inside an access of `n` bytes and is not empty. -/
def Piece.fits (n : Nat) (p : Piece) : Prop := 0 < p.len ∧ p.off + p.len ≤ n

/-- The pieces of some threads in turn, each with its thread. -/
def piecesInTurn (ok : List (Nat × List Piece)) : List (Nat × Piece) := ok.flatMap (fun e => e.2.map (fun p => (e.1, p)))

/-- The bytes that a thread's piece stores. -/
def pieceBytes (n : Nat) (data : Nat → Nat) (v : Nat × Piece) : Piece × List Byte :=
  (v.2, ((leBytes n (data v.1)).drop v.2.off).take v.2.len)

theorem mem_piecesInTurn {ok : List (Nat × List Piece)} {v : Nat × Piece} :
    v ∈ piecesInTurn ok ↔ ∃ ps, (v.1, ps) ∈ ok ∧ v.2 ∈ ps := by
  obtain ⟨t, p⟩ := v
  simp [piecesInTurn]

theorem piecesInTurn_ascend {ok : List (Nat × List Piece)} (h : ok.Pairwise (fun e v => e.1 < v.1)) :
    (piecesInTurn ok).Pairwise (fun v w => v.1 ≤ w.1) := by
  refine List.pairwise_flatMap.2 ⟨fun e _ => ?_, h.imp fun {e v} hlt x hx y hy => ?_⟩
  · exact List.pairwise_map.2 (List.pairwise_of_forall fun _ _ => Nat.le_refl _)
  · obtain ⟨p, -, rfl⟩ := List.mem_map.1 hx
    obtain ⟨q, -, rfl⟩ := List.mem_map.1 hy
    exact hlt.le

theorem flatMap_pieceBytes (n : Nat) (data : Nat → Nat) (ok : List (Nat × List Piece)) :
    ok.flatMap (fun e => e.2.map (fun p => (p, ((leBytes n (data e.1)).drop p.off).take p.len))) =
      (piecesInTurn ok).map (pieceBytes n data) := by
  rw [piecesInTurn, List.map_flatMap]
  simp only [List.map_map]
  rfl

/-- The packets of a store of `n` bytes by some threads. -/
def threadStores (n : Nat) (data : Nat → Nat) (ok : List (Nat × List Piece)) : List Request :=
  let m := storeBytes ((piecesInTurn ok).map (pieceBytes n data))
  storeRequests m m.length m

section Stores
variable {n : Nat} {data : Nat → Nat} {ok : List (Nat × List Piece)} (hfit : ∀ e ∈ ok, ∀ p ∈ e.2, p.fits n)
include hfit

theorem pieceBytes_length : ∀ e ∈ (piecesInTurn ok).map (pieceBytes n data), e.2.length = e.1.len := by
  intro e he
  obtain ⟨v, hv, rfl⟩ := List.mem_map.1 he
  obtain ⟨ps, hps, hp⟩ := mem_piecesInTurn.1 hv
  have hin := (hfit _ hps _ hp).2
  simp [pieceBytes]
  omega

theorem threadStores_cover : ∀ e ∈ ok, ∀ p ∈ e.2, ∃ x ∈ threadStores n data ok, x.pa ≤ p.pa ∧ p.pa < x.pa + x.len := by
  intro e he p hp
  obtain ⟨v, hv⟩ := Option.isSome_iff_exists.1 (isSome_get?_storeBytes (x := p.pa) (pieceBytes_length (data := data) hfit)
    ⟨_, List.mem_map_of_mem (mem_piecesInTurn.2 ⟨e.2, he, hp⟩ : (e.1, p) ∈ _), Nat.le_refl _, by
      have := (hfit e he p hp).1
      dsimp only [pieceBytes]
      omega⟩)
  exact (storeRequests_carry (sorted_storeBytes _) (List.suffix_refl _) (Nat.le_refl _)).2 _ (Map.mem_of_get? hv)

/-- Each byte of a packet is that of the highest-numbered thread that stores it. -/
theorem threadStores_carry (hsort : ok.Pairwise (fun e v => e.1 < v.1)) : ∀ x ∈ threadStores n data ok,
    x.st = .unsent ∧ ∀ k, k < x.len → ∃ t ps, (t, ps) ∈ ok ∧ ∃ p ∈ ps, p.holds (x.pa + k) ∧ x.key = p.key ∧
      x.data.getD k 0 = (leBytes n (data t)).getD (p.off + (x.pa + k - p.pa)) 0 ∧
      ∀ v ps', (v, ps') ∈ ok → ∀ p' ∈ ps', p'.holds (x.pa + k) → v ≤ t := by
  intro x hx
  obtain ⟨hst, hbyte⟩ := (storeRequests_carry (sorted_storeBytes _) (List.suffix_refl _) (Nat.le_refl _)).1 x hx
  refine ⟨hst, fun k hk => ?_⟩
  obtain ⟨⟨b, q⟩, hget, hkey, hdata⟩ := hbyte k hk
  obtain ⟨l, bs, r, hsplit, hat, hb, hlast⟩ := last_of_get?_storeBytes (pieceBytes_length hfit) hget
  obtain ⟨l', w, hl', -, hw⟩ := List.map_eq_append_iff.1 hsplit
  obtain ⟨⟨t, p⟩, r', rfl, hv, rfl⟩ := List.map_eq_cons_iff.1 hw
  obtain ⟨rfl, rfl⟩ := Prod.mk.inj hv
  have hasc := piecesInTurn_ascend hsort
  have hmem : (t, p) ∈ piecesInTurn ok := by rw [hl']; simp
  obtain ⟨ps, hps, hp⟩ := mem_piecesInTurn.1 hmem
  refine ⟨t, ps, hps, p, hp, hat, hkey.symm, ?_, fun v ps' hps' p' hp' hat' => ?_⟩
  · have hlt : x.pa + k - p.pa < p.len := by
      obtain ⟨hlo, hhi⟩ : p.holds (x.pa + k) := hat
      omega
    rw [hdata, hb]
    simp [List.getD, hlt]
  · have hv : (v, p') ∈ piecesInTurn ok := mem_piecesInTurn.2 ⟨ps', hps', hp'⟩
    rw [hl'] at hv hasc
    obtain ⟨-, hright, hcross⟩ := List.pairwise_append.1 hasc
    rcases List.mem_append.1 hv with hv | hv
    · exact hcross _ hv _ List.mem_cons_self
    · rcases List.mem_cons.1 hv with hv | hv
      · exact (Prod.mk.inj hv).1.le
      · exact absurd hat' (hlast _ (List.mem_map_of_mem hv))

end Stores

/-! ## What of a request stays as it is sent -/

/-- A request's address, length, key and data, which no attempt to send it changes. -/
def Request.body (r : Request) : Nat × Nat × Nat × List Byte := (r.pa, r.len, r.key, r.data)

/-- Requests with the same bodies cover the same bytes. -/
theorem exists_cover_of_body {rs qs : List Request} (h : qs.map Request.body = rs.map Request.body) {a : Nat}
    (hr : ∃ r ∈ rs, r.pa ≤ a ∧ a < r.pa + r.len) : ∃ q ∈ qs, q.pa ≤ a ∧ a < q.pa + q.len := by
  obtain ⟨r, hr, ha⟩ := hr
  have hmem : r.body ∈ qs.map Request.body := h ▸ List.mem_map_of_mem hr
  obtain ⟨q, hq, hqr⟩ := List.mem_map.1 hmem
  obtain ⟨hpa, hlen, -⟩ := Prod.mk.inj hqr |>.imp_right Prod.mk.inj
  exact ⟨q, hq, by rw [hpa, hlen]; exact ha⟩

/-! ## The packets of a load -/

theorem loadRequests_unsent (mixtrap : Bool) (ps : List Piece) : ∀ r ∈ loadRequests mixtrap ps, r.st = .unsent := by
  induction ps with
  | nil => simp [loadRequests]
  | cons p ps ih =>
    unfold loadRequests
    dsimp only
    split
    · split
      · intro r hr
        obtain ⟨q, hq, rfl⟩ := List.mem_map.1 hr
        have := ih q hq
        split <;> exact this
      · exact List.forall_mem_cons.2 ⟨rfl, ih⟩
    · exact List.forall_mem_cons.2 ⟨rfl, ih⟩

/-- Each piece of a load is asked for, alone or in its line. -/
theorem loadRequests_cover (mixtrap : Bool) {ps : List Piece} (hpos : ∀ p ∈ ps, 0 < p.len) :
    ∀ p ∈ ps, ∃ x ∈ loadRequests mixtrap ps, x.pa ≤ p.pa ∧ p.pa < x.pa + x.len := by
  induction ps with
  | nil => simp
  | cons p ps ih =>
    obtain ⟨hp, hps⟩ := List.forall_mem_cons.1 hpos
    have ih := ih hps
    unfold loadRequests
    dsimp only
    split
    · split
      · next q hq =>
        have hbody : ∀ r : Request, (if r.len == 128 && r.pa == 128 * (p.pa / 128) && r.key == p.key then
            { r with pieces := p :: r.pieces } else r).body = r.body := by
          intro r
          split <;> rfl
        have hmap := List.map_congr_left (l := loadRequests mixtrap ps) (fun r _ => hbody r)
        rw [← Function.comp_def, ← List.map_map] at hmap
        refine List.forall_mem_cons.2 ⟨exists_cover_of_body hmap ⟨q, List.mem_of_find?_eq_some hq, ?_⟩,
          fun v hv => exists_cover_of_body hmap (ih v hv)⟩
        have hline := List.find?_some hq
        simp only [Bool.and_eq_true, beq_iff_eq] at hline
        omega
      · refine List.forall_mem_cons.2 ⟨⟨_, List.mem_cons_self, by dsimp only; omega⟩, fun v hv => ?_⟩
        obtain ⟨x, hx, hc⟩ := ih v hv
        exact ⟨x, List.mem_cons_of_mem _ hx, hc⟩
    · refine List.forall_mem_cons.2 ⟨⟨_, List.mem_cons_self, by dsimp only; omega⟩, fun v hv => ?_⟩
      obtain ⟨x, hx, hc⟩ := ih v hv
      exact ⟨x, List.mem_cons_of_mem _ hx, hc⟩

/-- The lines that the L1 holds answer requests and raise pts; the bodies stand, and no request has to walk again. -/
theorem hitRequests_spec (c : Core) (now ch : Nat) (rs : List Request) : ∀ (before : List Request) (pts : Nat),
    (hitRequests c now ch before rs pts).1.map Request.body = rs.map Request.body ∧
      ((∀ r ∈ rs, r.st ≠ .rewalk) → ∀ r ∈ (hitRequests c now ch before rs pts).1, r.st ≠ .rewalk) ∧
      pts ≤ (hitRequests c now ch before rs pts).2 := by
  induction rs with
  | nil => simp [hitRequests]
  | cons r rs ih =>
    intro before pts
    unfold hitRequests
    dsimp only
    split
    · next l _ =>
      obtain ⟨hbody, hst, hpts⟩ := ih
        (before ++ [{ r with st := .done, val := l.bytes, wts := l.wts, rts := l.rts, olds := l.olds }])
        (max pts (Request.readTs { r with st := .done, val := l.bytes, wts := l.wts, rts := l.rts, olds := l.olds } pts l.wts
          (now / 2) (ch / 2 ^ before.length)))
      exact ⟨congrArg (r.body :: ·) hbody,
        fun h => List.forall_mem_cons.2 ⟨by simp, hst (List.forall_mem_cons.1 h).2⟩, (Nat.le_max_left _ _).trans hpts⟩
    · obtain ⟨hbody, hst, hpts⟩ := ih (before ++ [r]) pts
      exact ⟨congrArg (r.body :: ·) hbody,
        fun h => List.forall_mem_cons.2 ⟨(List.forall_mem_cons.1 h).1, hst (List.forall_mem_cons.1 h).2⟩, hpts⟩

end Sys2Proof.Machine
end

section
/-! SUPPORT. An access of package or system memory from its check to its packets (R171, R405). -/

namespace Sys2Proof.Machine

/-! ## The check of an access all of whose pieces translate (R405) -/

/-- A state on the way to the issue of an operation: the wave's registers, its core's operations and memory stand; its pts may
have risen, and its walk answers and the count of its refusals may have changed. -/
structure State.Readies (s t : State) : Prop where
  cur : t.cur = s.cur
  nextOp : t.nextOp = s.nextOp
  ms : t.ms = s.ms
  ops : t.myCore.ops = s.myCore.ops
  wv : t.wv = { s.wv with
    pts := t.wv.pts, answers := t.wv.answers, waits := { s.wv.waits with rejects := t.wv.waits.rejects } }
  pts : s.wv.pts ≤ t.wv.pts

theorem State.Readies.refl (s : State) : s.Readies s := ⟨rfl, rfl, rfl, rfl, rfl, Nat.le_refl _⟩

theorem State.Readies.trans {s t u : State} (h : s.Readies t) (h' : t.Readies u) : s.Readies u where
  cur := h'.cur.trans h.cur
  nextOp := h'.nextOp.trans h.nextOp
  ms := h'.ms.trans h.ms
  ops := h'.ops.trans h.ops
  wv := by rw [h'.wv, h.wv]
  pts := h.pts.trans h'.pts

/-- A change of the wave's pts, answers and refusals alone. -/
theorem State.Readies.mapWv {s t : State} (h : s.Readies t) {g : Wave → Wave}
    (hg : ∀ w : Wave, g w = { w with
      pts := (g w).pts, answers := (g w).answers, waits := { w.waits with rejects := (g w).waits.rejects } })
    (hpts : ∀ w : Wave, w.pts ≤ (g w).pts) : s.Readies (t.mapWv g) :=
  h.trans ⟨rfl, rfl, rfl, rfl, hg t.wv, hpts t.wv⟩

theorem State.Readies.oneRefusal {s t : State} (h : s.Readies t) (n : Nat) : s.Readies (t.oneRefusal n) :=
  h.mapWv (fun _ => rfl) (fun _ => Nat.le_refl _)

theorem State.readies_fillL1Tlb (s : State) (e : TlbEntry) : s.Readies (s.fillL1Tlb s.cur.core e) where
  cur := rfl
  nextOp := rfl
  ms := rfl
  ops := by
    show ((s.setCore s.cur.core _).core s.cur.core).ops = _
    rw [State.core_setCore, if_pos rfl]
    rfl
  wv := rfl
  pts := Nat.le_refl _

theorem State.readies_tlbLookup (s : State) (ctx : Context) (va kind : Nat) :
    s.Readies (s.tlbLookup s.cur.core ctx va kind).2 := by
  unfold State.tlbLookup
  split
  · exact .refl s
  · split
    · exact s.readies_fillL1Tlb _
    · exact .refl s

/-- A translation found at once opens no walk. -/
theorem State.readies_find {s : State} {va kind : Nat} {e : TlbEntry} (h : (s.find va kind).1 = .ok e) :
    s.Readies (s.find va kind).2 := by
  have hlook := s.readies_tlbLookup s.wv.ctx va kind
  unfold State.find at h ⊢
  dsimp only at h ⊢
  split at h
  · exact .refl s
  · exact .refl s
  · split at h
    · next heq => rw [heq] at hlook; exact hlook
    · cases h

theorem State.checkPieces_spec {kind n : Nat} {ps : List Piece} (hps : ∀ p ∈ ps, p.fits n) : ∀ {s : State} {qs : List Piece},
    (s.checkPieces kind ps).2 = .ok qs → s.Readies (s.checkPieces kind ps).1 ∧ ∀ q ∈ qs, q.fits n := by
  induction ps with
  | nil =>
    intro s qs h
    cases h
    exact ⟨.refl s, by simp⟩
  | cons p ps ih =>
    obtain ⟨hp, hps⟩ := List.forall_mem_cons.1 hps
    intro s qs h
    have hfind := fun e => s.readies_find (va := p.va) (kind := kind) (e := e)
    unfold State.checkPieces at h ⊢
    split at h
    · cases h
    · cases h
    · cases h
    · next e s1 heq =>
      rw [heq] at hfind
      split at h
      · next s2 ps' hrest =>
        cases h
        have hih := ih hps (s := s1) (qs := ps') (by rw [hrest])
        rw [hrest] at hih
        exact ⟨(hfind e rfl).trans hih.1, List.forall_mem_cons.2 ⟨hp, hih.2⟩⟩
      · next hr => exact (hr _ qs (Prod.ext rfl h)).elim

/-- Where no thread faults or waits, the check yields the pieces of every thread in turn. -/
theorem State.checkThreads_spec {kind n : Nat} {pieces : Nat → Except (Nat × Nat) (List Piece)} {ts : List Nat}
    (hps : ∀ t ps, pieces t = .ok ps → ∀ p ∈ ps, p.fits n) : ∀ {s : State},
    (∀ e ∈ (s.checkThreads kind pieces ts).2, ∃ ps, e.2 = .ok ps) → s.Readies (s.checkThreads kind pieces ts).1 ∧
      ∃ ok, (s.checkThreads kind pieces ts).2 = committed ok ∧ ok.map Prod.fst = ts ∧ ∀ e ∈ ok, ∀ p ∈ e.2, p.fits n := by
  induction ts with
  | nil => exact fun _ => ⟨.refl _, [], rfl, rfl, by simp⟩
  | cons t ts ih =>
    intro s hall
    unfold State.checkThreads at hall ⊢
    dsimp only at hall ⊢
    cases hp : pieces t with
    | error e =>
      rw [hp] at hall
      obtain ⟨ps, hps⟩ := hall _ List.mem_cons_self
      cases hps
    | ok ps =>
      rw [hp] at hall
      obtain ⟨⟨qs, hqs⟩, hrest⟩ := List.forall_mem_cons.1 hall
      obtain ⟨hready, hfit⟩ := State.checkPieces_spec (hps t ps hp) hqs
      obtain ⟨hready', ok, hok, hts, hoks⟩ := ih hrest
      exact ⟨(hready.trans hready').oneRefusal _, (t, qs) :: ok, congrArg₂ List.cons (Prod.ext rfl hqs) hok,
        congrArg (t :: ·) hts, List.forall_mem_cons.2 ⟨hfit, hoks⟩⟩

/-! ## The access (R145, R155, R405) -/

/-- An access all of whose threads commit, from the state of its check on. -/
theorem State.access_of_committed {s : State} {f : InsM} {kind : Nat} {ts : List Nat}
    {pieces : Nat → Except (Nat × Nat) (List Piece)} {host prot : Bool} {sys : List (Nat × Checked) → Bool} {all : Option Mask}
    {commit : State → List (Nat × List Piece) → Bool → State} {ok : List (Nat × List Piece)}
    (hpend : s.acquireSysPending = false) (hok : (s.checkThreads kind pieces ts).2 = committed ok) (hne : ok ≠ [])
    (hhost : host = false → ∀ e ∈ ok, ∀ p ∈ e.2, p.pa / 2 ^ 50 ≠ 2)
    (hrel : f.so.getLsbD 1 = true → s.releaseDone = true ∧ (sys (committed ok) = true → s.accessesDone = true))
    (hprot : prot = false) :
    let t := (s.checkThreads kind pieces ts).1.dropAnswers
    s.access f kind ts pieces host sys prot all commit =
      ((commit (t.withWv (t.wv.releasedBy f)) ok (sys (committed ok))).advance (lenM f)).progress s.cur.core := by
  have hwait : (committed ok).any (fun e => e.2 == .wait) = false := by
    simp [committed]
  have hatomic : (committed ok).map (fun e => (e.1, hostAtomic host e.2)) = committed ok := by
    rw [committed, List.map_map]
    refine List.map_congr_left fun e he => ?_
    have hnot : (!host && e.2.any (fun p => p.pa / 2 ^ 50 == 2)) = false := by
      cases hh : host
      · simpa using fun p hp => hhost hh e he p hp
      · rfl
    simp only [Function.comp_apply, hostAtomic, hnot]
    rfl
  have hdone : (f.so.getLsbD 1 && !(s.releaseDone && (!sys (committed ok) || s.accessesDone))) = false := by
    cases hso : f.so.getLsbD 1
    · rfl
    · obtain ⟨hr, ha⟩ := hrel hso
      cases hsys : sys (committed ok) <;> simp_all
  simp only [State.access, hpend, hok, hwait, hatomic, okThreads_committed, List.isEmpty_eq_false_iff.2 hne, hdone, hprot,
    State.finishChecked_committed, ← State.withWv_releasedBy]
  rfl

theorem State.Readies.released {s t : State} (h : s.Readies t) (f : InsM) :
    s.Readies (t.dropAnswers.withWv (t.dropAnswers.wv.releasedBy f)) := by
  rw [← State.withWv_releasedBy]
  have hdrop : s.Readies t.dropAnswers := h.mapWv (fun _ => rfl) (fun _ => Nat.le_refl _)
  split
  · exact hdrop.mapWv (fun _ => rfl) (fun w => Nat.le_max_left _ _)
  · exact hdrop

/-! ## What an operation takes from the wave -/

section Operands
variable {s t : State} (h : s.Readies t)
include h

theorem State.Readies.opId : t.opId = s.opId := by
  rw [State.opId, State.opId, h.ops, h.nextOp]

theorem State.Readies.dataOf (f : InsM) (b v : Nat) : t.dataOf f b v = s.dataOf f b v := by
  obtain ⟨hcur, -, -, -, hwv, -⟩ := h
  unfold State.dataOf State.src State.special
  rw [hwv, hcur]
  rfl

end Operands

end Sys2Proof.Machine
end

section
/-! SUPPORT. An operation's packets tried, and memory as what may go on goes on (R105, R137, R172). -/

namespace Sys2Proof.Machine

/-! ## Changes that sending makes to an operation's requests -/

/-- Attempts to send change no request's body and send none back to its walk. -/
def keepsBodies (h : List Request → List Request) : Prop :=
  ∀ rs, (h rs).map Request.body = rs.map Request.body ∧ ((∀ r ∈ rs, r.st ≠ .rewalk) → ∀ r ∈ h rs, r.st ≠ .rewalk)

/-- A change of one request that keeps its body and does not send it back to its walk. -/
def keepsBody (g : Request → Request) : Prop := ∀ r, (g r).body = r.body ∧ (r.st ≠ .rewalk → (g r).st ≠ .rewalk)

/-- A request's refusals noted. -/
theorem keepsBody_of_refused (n : Nat) : keepsBody (fun r => { r with refused := n }) := fun _ => ⟨rfl, id⟩

theorem keepsBody_ite {g : Request → Request} (h : keepsBody g) (p : Request → Bool) :
    keepsBody (fun r => if p r then g r else r) := by
  intro r
  dsimp only
  split
  · exact h r
  · exact ⟨rfl, id⟩

theorem keepsBodies_map {g : Request → Request} (h : keepsBody g) : keepsBodies (List.map g) := by
  refine fun rs => ⟨?_, fun hrs => List.forall_mem_map.2 fun r hr => (h r).2 (hrs r hr)⟩
  rw [List.map_map]
  exact List.map_congr_left fun r _ => (h r).1

theorem keepsBodies_modAt {g : Request → Request} (h : keepsBody g) (i : Nat) : keepsBodies (fun rs => modAt g rs i) := by
  intro rs
  induction rs generalizing i with
  | nil => simp [modAt]
  | cons r rs ih =>
    cases i with
    | zero => exact ⟨congrArg (· :: _) (h r).1, fun hrs =>
        List.forall_mem_cons.2 ⟨(h r).2 (List.forall_mem_cons.1 hrs).1, (List.forall_mem_cons.1 hrs).2⟩⟩
    | succ i => exact ⟨congrArg (_ :: ·) (ih i).1, fun hrs =>
        List.forall_mem_cons.2 ⟨(List.forall_mem_cons.1 hrs).1, (ih i).2 (List.forall_mem_cons.1 hrs).2⟩⟩

/-- The operations of a core with the requests of one of them changed. -/
def mapReqs (id : Nat) (h : List Request → List Request) (os : List MemOp) : List MemOp :=
  os.map (fun v => if v.id == id then { v with reqs := h v.reqs } else v)

theorem mapReqs_concat {id : Nat} {os : List MemOp} {o : MemOp} (hos : ∀ v ∈ os, v.id ≠ id) (ho : o.id = id)
    (h : List Request → List Request) : mapReqs id h (os ++ [o]) = os ++ [{ o with reqs := h o.reqs }] := by
  have hkept : mapReqs id h os = os :=
    (List.map_congr_left fun v hv => by simp [hos v hv]).trans (List.map_id _)
  unfold mapReqs at hkept ⊢
  rw [List.map_append, hkept]
  simp [ho]

/-! ## One attempt (R105, R172) -/

/-- What an attempt to send a packet leaves: the wave in hand, memory, and of core `k` all but the requests of one operation. -/
def State.tried (s t : State) (k id : Nat) : Prop :=
  t.cur = s.cur ∧ t.nextOp = s.nextOp ∧ t.ms = s.ms ∧ t.wv = s.wv ∧
    ∃ h, keepsBodies h ∧ (t.core k).ops = mapReqs id h (s.core k).ops

theorem State.tried_setCore {s t : State} {k id : Nat} (hcur : t.cur = s.cur) (hnext : t.nextOp = s.nextOp)
    (hms : t.ms = s.ms) (hwv : t.wv = s.wv) {c : Core} {h : List Request → List Request} (hh : keepsBodies h)
    (hc : c.ops = mapReqs id h (s.core k).ops) : s.tried (t.setCore k c) k id :=
  ⟨hcur, hnext, hms, hwv, h, hh, by rw [State.core_setCore, if_pos rfl, hc]⟩

/-- One request noted as sent or answered. -/
theorem State.tried_mapReq {s t : State} {k id i : Nat} (hcur : t.cur = s.cur) (hnext : t.nextOp = s.nextOp)
    (hms : t.ms = s.ms) (hwv : t.wv = s.wv) (hops : (t.core k).ops = (s.core k).ops) {g : Request → Request}
    (hg : keepsBody g) : s.tried (t.setCore k ((t.core k).mapReq id i g)) k id :=
  State.tried_setCore hcur hnext hms hwv (keepsBodies_modAt hg i) (by rw [← hops]; rfl)

theorem Core.refuse_ops (c : Core) (o : MemOp) (line : Nat) :
    ∃ h, keepsBodies h ∧ (c.refuse o line).ops = mapReqs o.id h c.ops := by
  unfold Core.refuse
  dsimp only
  split
  · exact ⟨_, keepsBodies_map
      (keepsBody_ite (g := fun r => { r with st := .done }) (fun _ => ⟨rfl, fun _ => by simp⟩) _), rfl⟩
  · exact ⟨_, keepsBodies_map (keepsBody_ite (keepsBody_of_refused _) _), rfl⟩

theorem Core.takeEntry_ops {c c1 : Core} {id line : Nat} (h : c.takeEntry id line = some c1) : c1.ops = c.ops := by
  unfold Core.takeEntry at h
  split_ifs at h <;> cases h <;> rfl

theorem State.sendSystem_kept {s t : State} {p : Packet} {c : Client} (h : s.sendSystem p c = some t) :
    t.cur = s.cur ∧ t.nextOp = s.nextOp ∧ t.ms = s.ms ∧ t.wv = s.wv ∧ t.cores = s.cores := by
  unfold State.sendSystem at h
  split_ifs at h
  · cases h
    exact ⟨rfl, rfl, rfl, rfl, rfl⟩
  · split at h
    · cases h
    · split_ifs at h
      cases h
      exact ⟨rfl, rfl, rfl, rfl, rfl⟩

theorem State.tried_trySend (s : State) (k i : Nat) (o : MemOp) (r : Request) : s.tried (s.trySend k o i r) k o.id := by
  have hrefused : s.tried (s.setCore k ((s.core k).refuse o (r.pa / 128))) k o.id := by
    obtain ⟨h, hh, hops⟩ := (s.core k).refuse_ops o (r.pa / 128)
    exact State.tried_setCore rfl rfl rfl rfl hh hops
  unfold State.trySend
  dsimp only
  split
  · exact hrefused
  · next c1 hc1 =>
    have hops : c1.ops = (s.core k).ops := by
      split at hc1
      · cases hc1; rfl
      · exact Core.takeEntry_ops hc1
    have hcore : ∀ {t : State}, t.cores = (s.setCore k c1).cores → (t.core k).ops = (s.core k).ops := by
      intro t ht
      rw [State.core, ht, ← hops]
      exact congrArg Core.ops ((State.core_setCore s k k c1).trans (if_pos rfl))
    split
    · split
      · exact hrefused
      · split
        · next s1 hs1 =>
          obtain ⟨hcur, hnext, hms, hwv, hcores⟩ := State.sendSystem_kept hs1
          exact State.tried_mapReq (s := s) hcur hnext hms hwv (hcore hcores) fun _ => ⟨rfl, fun _ => by simp⟩
        · exact State.tried_mapReq rfl rfl rfl rfl rfl fun _ => ⟨rfl, fun _ => by simp⟩
    · split
      · exact State.tried_mapReq (s := s) (t := (s.setCore k c1).portSend _ _ _) rfl rfl rfl rfl (hcore rfl)
          fun _ => ⟨rfl, fun _ => by simp⟩
      · exact hrefused

/-! ## An operation's packets (R172) -/

/-- An operation as a core holds it after attempts to send its packets. -/
def MemOp.attempted (o v : MemOp) : Prop :=
  v = { o with reqs := v.reqs } ∧ v.reqs.map Request.body = o.reqs.map Request.body ∧ ∀ r ∈ v.reqs, r.st ≠ .rewalk

/-- A state that differs by attempts to send the packets of the last operation of core `k` alone. -/
def State.attempts (s t : State) (k : Nat) (os : List MemOp) (o : MemOp) : Prop :=
  t.cur = s.cur ∧ t.nextOp = s.nextOp ∧ t.ms = s.ms ∧ t.wv = s.wv ∧ ∃ v, (t.core k).ops = os ++ [v] ∧ o.attempted v

theorem State.attempts.tried {s t u : State} {k : Nat} {os : List MemOp} {o : MemOp} (h : s.attempts t k os o)
    (hos : ∀ v ∈ os, v.id ≠ o.id) (ht : t.tried u k o.id) : s.attempts u k os o := by
  obtain ⟨hcur, hnext, hms, hwv, v, hv, heq, hbody, hst⟩ := h
  obtain ⟨hcur', hnext', hms', hwv', g, hg, hops⟩ := ht
  refine ⟨hcur'.trans hcur, hnext'.trans hnext, hms'.trans hms, hwv'.trans hwv, { v with reqs := g v.reqs }, ?_, ?_,
    (hg v.reqs).1.trans hbody, (hg v.reqs).2 hst⟩
  · rw [hops, hv, mapReqs_concat hos (by rw [heq])]
  · rw [heq]

/-- The packets of a core's last operation, none of which walks again, are tried and nothing else changes. -/
theorem State.attempts_pumpReqs {s : State} {k : Nat} {os : List MemOp} {o : MemOp} (hos : ∀ v ∈ os, v.id ≠ o.id)
    (retry : Bool) (rs : List Request) : ∀ {t : State} {i : Nat}, s.attempts t k os o →
      s.attempts (t.pumpReqs k o.id retry rs i) k os o := by
  induction rs with
  | nil => exact fun h => h
  | cons r0 rs ih =>
    intro t i h
    refine ih ?_
    have hnow := h
    obtain ⟨-, -, -, -, v, hv, heq, -, hst⟩ := hnow
    have hid : v.id = o.id := by rw [heq]
    have hnone : os.find? (fun w => w.id == o.id) = none := List.find?_eq_none.2 fun w hw => by simpa using hos w hw
    have hfind : (t.core k).ops.find? (fun w => w.id == o.id) = some v := by
      rw [hv, List.find?_append, hnone]
      simp [hid]
    rw [hfind]
    dsimp only
    split
    · exact h
    · next r hr =>
      rw [if_neg (by simpa using hst r (List.mem_of_getElem? hr))]
      -- `retry` decides which refusals count; either way the packet is tried or left.
      have heither : ∀ b : Bool, s.attempts (if b then t.trySend k v i r else t) k os o := by
        rintro (_ | _)
        · exact h
        · exact h.tried hos (hid ▸ t.tried_trySend k i v r)
      exact heither _

/-! ## Memory while what may go on goes on (R137, R172) -/

@[simp] theorem State.fillL1Tlb_ms (s : State) (k : Nat) (e : TlbEntry) : (s.fillL1Tlb k e).ms = s.ms := rfl

@[simp] theorem State.tlbLookup_ms (s : State) (k : Nat) (ctx : Context) (va kind : Nat) :
    (s.tlbLookup k ctx va kind).2.ms = s.ms := by
  unfold State.tlbLookup
  split
  · rfl
  · split <;> rfl

@[simp] theorem State.openWalk_ms (s : State) (id : WaveId) (ctx : Context) (va kind ts : Nat) :
    (s.openWalk id ctx va kind ts).ms = s.ms := by
  unfold State.openWalk
  dsimp only
  split_ifs <;> rfl

@[simp] theorem State.takeAnswer_ms (s : State) (k asn va kind : Nat) : (s.takeAnswer k asn va kind).2.ms = s.ms := by
  unfold State.takeAnswer
  dsimp only
  split <;> rfl

/-- A walk repeated fills TLBs, opens a walk, or ends the request; memory stands. -/
theorem State.rewalk_ms (s : State) (k i : Nat) (o : MemOp) (r : Request) : (s.rewalk k o i r).ms = s.ms := by
  have htake := s.takeAnswer_ms k (s.wave ⟨k, o.slot⟩).ctx.asn ((r.pieces.headD ⟨0, 0, 0, 0, 0, 0, 0⟩).va) o.kind.access
  have hlook := s.tlbLookup_ms k (s.wave ⟨k, o.slot⟩).ctx ((r.pieces.headD ⟨0, 0, 0, 0, 0, 0, 0⟩).va) o.kind.access
  unfold State.rewalk
  dsimp only
  split
  · next heq =>
    rw [heq] at htake
    split_ifs <;> simpa using htake
  · next heq =>
    rw [heq] at htake
    simpa using htake
  · next heq =>
    rw [heq] at htake
    split_ifs <;> simpa using htake
  · split
    · next heq =>
      rw [heq] at hlook
      split_ifs <;> simpa using hlook
    · next heq =>
      rw [heq] at hlook
      simpa using hlook

@[simp] theorem State.pumpReqs_ms (k id : Nat) (retry : Bool) (rs : List Request) : ∀ (s : State) (i : Nat),
    (s.pumpReqs k id retry rs i).ms = s.ms := by
  induction rs with
  | nil => exact fun _ _ => rfl
  | cons r0 rs ih =>
    intro s i
    unfold State.pumpReqs
    dsimp only
    rw [ih]
    split
    · rfl
    · next o _ =>
      split
      · rfl
      · next r _ =>
        have heither : ∀ b : Bool, (if b then s.trySend k o i r else s).ms = s.ms := by
          rintro (_ | _)
          · rfl
          · exact (s.tried_trySend k i o r).2.2.1
        split
        · exact s.rewalk_ms k i o r
        · exact heither _

@[simp] theorem State.pump_ms (s : State) (k : Nat) (retry : Bool) : (s.pump k retry).ms = s.ms := by
  have hops : ∀ (os : List MemOp) (t : State), (t.pumpOps k retry os).ms = t.ms := by
    intro os
    induction os with
    | nil => exact fun _ => rfl
    | cons o os ih =>
      intro t
      unfold State.pumpOps
      rw [ih]
      split
      · exact State.pumpReqs_ms _ _ _ _ _ _
      · rfl
  unfold State.pump
  split
  · rfl
  · rw [hops]
    rfl

@[simp] theorem State.retireOp_ms (s : State) (k : Nat) (o : MemOp) : (s.retireOp k o).ms = s.ms := by
  simp [State.retireOp]

@[simp] theorem State.settle_ms (s : State) (k : Nat) (o : MemOp) : (s.settle k o).ms = s.ms := by
  unfold State.settle
  dsimp only
  split
  · rfl
  · split
    all_goals repeat' split
    all_goals simp [State.writeLoad]

@[simp] theorem State.settleAll_ms (k : Nat) (ids : List Nat) : ∀ s : State, (s.settleAll k ids).ms = s.ms := by
  induction ids with
  | nil => exact fun _ => rfl
  | cons id ids ih =>
    intro s
    unfold State.settleAll
    split
    · rw [ih, State.settle_ms]
    · exact ih s

/-- What may complete completes and what may leave leaves: memory stands. -/
theorem State.progress_ms (s : State) (k : Nat) : (s.progress k).ms = s.ms := by
  simp [State.progress]

/-! ## The operation in flight (R64, R65, R177) -/

theorem Core.useHits_ops (c : Core) (rs : List Request) : (c.useHits rs).ops = c.ops := by
  unfold Core.useHits
  induction rs generalizing c with
  | nil => rfl
  | cons r rs ih =>
    rw [List.foldl_cons, ih]
    split <;> rfl

/-- `v` is an operation of some class, kind and size put in flight with requests that have the bodies of `rs`, and PC is past
the instruction of `n` bytes. -/
def State.issues (s u : State) (n : Nat) (k : Cls) (kind : OpKind) (size : Nat) (rs : List Request) (v : MemOp) : Prop :=
  u.cur = s.cur ∧ s.wv.inFlight u.wv n k ∧ s.nextOp ≤ v.id ∧ u.nextOp = v.id + 1 ∧ u.myCore.ops = s.myCore.ops ++ [v] ∧
    (∀ w ∈ s.myCore.ops, w.id < v.id) ∧ v.slot = s.cur.slot ∧ v.kind = kind ∧ v.cls = some k ∧ v.size = size ∧
    v.reqs.map Request.body = rs.map Request.body ∧ u.ms = s.ms

/-- An operation goes in flight with its packets tried at once. -/
theorem State.issues_issueOp {s t : State} (h : s.Readies t) {o : MemOp} {k : Cls} (hk : o.cls = some k)
    (hst : ∀ r ∈ o.reqs, r.st ≠ .rewalk) (regs : List SbReg) (n : Nat) :
    ∃ v, s.issues ((t.issueOp o regs).advance n) n k o.kind o.size o.reqs v := by
  have hids : ∀ w ∈ t.myCore.ops, w.id ≠ (t.issuedOp o).id := fun w hw => (State.lt_opId hw).ne
  have hdrop : (t.droppedFor o).ops = t.myCore.ops := by
    unfold State.droppedFor
    split <;> rfl
  have hstart : (t.queueOp (t.droppedFor o) (t.issuedOp o) regs).attempts
      (t.queueOp (t.droppedFor o) (t.issuedOp o) regs) t.cur.core t.myCore.ops (t.issuedOp o) := by
    refine ⟨rfl, rfl, rfl, rfl, t.issuedOp o, ?_, rfl, rfl, ?_⟩
    · show ((t.setCore t.cur.core _).core t.cur.core).ops = _
      rw [State.core_setCore, if_pos rfl, ← hdrop]
    · refine List.forall_mem_map.2 fun r hr => ?_
      split <;> exact hst r hr
  have hend : (t.queueOp (t.droppedFor o) (t.issuedOp o) regs).attempts (t.issueOp o regs) t.cur.core t.myCore.ops
      (t.issuedOp o) := by
    rw [State.issueOp_eq]
    dsimp only
    split
    · exact State.attempts_pumpReqs hids true _ hstart
    · exact hstart
  obtain ⟨hcur, hnext, hms, hwv, v, hops, hv, hbody, -⟩ := hend
  have hwave : ((t.issueOp o regs).advance n).wv = { s.wv with
      pts := t.wv.pts, sb := s.wv.sb ++ regs.map (fun r => (r, t.opId)), cnt := s.wv.cnt.bump k (· + 1), answers := []
      ctl := { s.wv.ctl with pc := s.wv.ctl.pc + BitVec.ofNat 57 n }
      waits := { s.wv.waits with stall := none, rejects := 0 } } := by
    rw [State.advance_wv, hwv, State.queueOp, State.withWv_wv, h.wv]
    simp only [State.issuedOp, hk]
    rfl
  have hid : v.id = t.opId := by rw [hv]; rfl
  refine ⟨v, hcur.trans h.cur, ⟨?wave, ?pts, regs.map (fun r => (r, t.opId)), ?sb⟩, ?above, ?next, ?ops, ?last, ?slot, ?kind,
    ?cls, ?size, ?body, hms.trans h.ms⟩
  case wave => rw [hwave]
  case pts => rw [hwave]; exact h.pts
  case sb => rw [hwave]
  case above => rw [hid, ← h.nextOp]; exact t.nextOp_le_opId
  case next => rw [hid]; exact hnext
  case ops =>
    have hmine : ((t.issueOp o regs).advance n).myCore.ops = ((t.issueOp o regs).core t.cur.core).ops := by
      show ((t.issueOp o regs).core (t.issueOp o regs).cur.core).ops = _
      rw [hcur]
      rfl
    rw [hmine, hops, h.ops]
  case last =>
    rw [← h.ops, hid]
    exact fun w hw => State.lt_opId hw
  case slot => rw [hv, ← h.cur]; rfl
  case kind => rw [hv]; rfl
  case cls => rw [hv]; exact hk
  case size => rw [hv]; rfl
  case body =>
    rw [hbody]
    show (o.reqs.map _).map Request.body = _
    rw [List.map_map]
    refine List.map_congr_left fun r _ => ?_
    rw [Function.comp_apply]
    split <;> rfl

end Sys2Proof.Machine
end

section
/-! SUPPORT. Loads, stores, atomics and reductions put in flight (R171, R179-R183, R405). -/

namespace Sys2Proof.Machine

/-! ## The pieces of a thread (R176) -/

theorem State.splitPieces_fit {s : State} {f : InsM} {n t : Nat} {ps : List Piece} (h : s.splitPieces f n t = .ok ps) :
    ∀ p ∈ ps, p.fits n := by
  cases h
  refine List.forall_mem_map.2 fun p hp => ?_
  have hin := cutPieces_inside hp
  dsimp only [Piece.fits]
  omega

theorem State.wholePiece_fit {s : State} {f : InsM} {n t : Nat} (hn : 0 < n) {ps : List Piece}
    (h : s.wholePiece f n t = .ok ps) : ∀ p ∈ ps, p.fits n := by
  unfold State.wholePiece at h
  dsimp only at h
  split at h <;> cases h
  exact List.forall_mem_singleton.2 ⟨hn, by simp⟩

/-! ## What the requests of an operation carry (R171, R174, R182) -/

/-- The requests of an access hold every piece of its threads; those of a store carry each byte of the highest-numbered thread
that stores it; an atomic or a reduction has one of each piece, with its thread's operand. -/
def AccessRow.carries (r : AccessRow) (f : InsM) (s : State) (ok : List (Nat × List Piece)) (rs : List Request) : Prop :=
  (∀ e ∈ ok, ∀ p ∈ e.2, ∃ x ∈ rs, x.pa ≤ p.pa ∧ p.pa < x.pa + x.len) ∧
  (r.op = .store → ∀ x ∈ rs, ∀ k, k < x.len → ∃ t ps, (t, ps) ∈ ok ∧ ∃ p ∈ ps, p.holds (x.pa + k) ∧ x.key = p.key ∧
    x.data.getD k 0 = (leBytes (sizeBytes f.fn) (s.dataOf f (8 * sizeBytes f.fn) t)).getD (p.off + (x.pa + k - p.pa)) 0 ∧
    ∀ v ps', (v, ps') ∈ ok → ∀ p' ∈ ps', p'.holds (x.pa + k) → v ≤ t) ∧
  (r.op = .atom ∨ r.op = .red → ∀ m, r.data = some m → rs.map Request.body =
    ok.flatMap (fun e => e.2.map (fun p => (p.pa, p.len, p.key, leBytes (m / 8) (s.dataOf f m e.1)))))

/-- The commit of an access, from any state that is ready for it, puts an operation in flight that carries its threads' pieces. -/
def AccessRow.commits (r : AccessRow) (f : InsM) (s : State) (commit : State → List (Nat × List Piece) → Bool → State) : Prop :=
  ∀ t ok sys, s.Readies t → ok.Pairwise (fun e v => e.1 < v.1) → (∀ e ∈ ok, ∀ p ∈ e.2, p.fits (sizeBytes f.fn)) →
    ∃ rs v, s.issues ((commit t ok sys).advance (lenM f)) (lenM f) r.cls r.op (sizeBytes f.fn) rs v ∧ r.carries f s ok rs

section Commits
variable {r : AccessRow} {f : InsM} {s : State}

theorem AccessRow.commits_load (hop : r.op = .load) (hcls : r.cls = .ld) (uni : Bool) :
    r.commits f s (fun t ok _ => t.commitLoad f uni ok) := by
  intro t ok _ h _ hfit
  have hst := loadRequests_unsent t.wv.csr.mixtrap (ok.flatMap (fun e => e.2))
  have hcover := loadRequests_cover t.wv.csr.mixtrap (ps := ok.flatMap (fun e => e.2)) fun p hp => by
    obtain ⟨e, he, hp⟩ := List.mem_flatMap.1 hp
    exact (hfit e he p hp).1
  obtain ⟨q, hq, hbody, hrewalk, hpts⟩ : ∃ q, (if t.wv.csr.mixtrap then
      (loadRequests t.wv.csr.mixtrap (ok.flatMap (fun e => e.2)), t.wv.pts) else
      hitRequests t.myCore t.now (Config.choice t.draws) []
        (loadRequests t.wv.csr.mixtrap (ok.flatMap (fun e => e.2))) t.wv.pts) = q ∧
      q.1.map Request.body = (loadRequests t.wv.csr.mixtrap (ok.flatMap (fun e => e.2))).map Request.body ∧
      (∀ r ∈ q.1, r.st ≠ .rewalk) ∧ t.wv.pts ≤ q.2 := by
    have hplain : ∀ r ∈ loadRequests t.wv.csr.mixtrap (ok.flatMap (fun e => e.2)), r.st ≠ .rewalk :=
      fun r hr => by simp [hst r hr]
    refine ⟨_, rfl, ?_⟩
    split
    · exact ⟨rfl, hplain, Nat.le_refl _⟩
    · obtain ⟨hbody, hrewalk, hpts⟩ := hitRequests_spec t.myCore t.now (Config.choice t.draws)
        (loadRequests t.wv.csr.mixtrap (ok.flatMap (fun e => e.2))) [] t.wv.pts
      exact ⟨hbody, hrewalk hplain, hpts⟩
  have hready : s.Readies (((if q.1.any (fun r => !r.olds.isEmpty) then t.drawn else t).setMyCore
      (t.myCore.useHits q.1)).mapWv (fun w => { w with pts := q.2 })) := by
    refine h.trans ?_
    have hops : ∀ u : State, ((u.setMyCore (t.myCore.useHits q.1)).core u.cur.core).ops = t.myCore.ops := fun u => by
      rw [State.setMyCore, State.core_setCore, if_pos rfl, Core.useHits_ops]
    split
    · exact ⟨rfl, rfl, rfl, hops t.drawn, rfl, hpts⟩
    · exact ⟨rfl, rfl, rfl, hops t, rfl, hpts⟩
  obtain ⟨v, hv⟩ := State.issues_issueOp hready (o := { newOp t .load (some .ld) f (sizeBytes f.fn) (okMask ok) q.1 with
    dst := some f.d.toNat, uni := uni, sign := fnHi f.fn % 2 == 1, scope := scopeOf f }) rfl hrewalk
    (if uni then sbUni f.d.toNat (8 * sizeBytes f.fn) else sbVec t.wv.win.cur f.d.toNat (8 * sizeBytes f.fn)) (lenM f)
  refine ⟨q.1, v, ?_, ?_, by simp [hop], by simp [hop]⟩
  · rw [hop, hcls]
    simp only [State.commitLoad, hq]
    exact hv
  · intro e he p hp
    exact exists_cover_of_body hbody (hcover p (List.mem_flatMap.2 ⟨e, he, hp⟩))

theorem AccessRow.commits_store (hop : r.op = .store) (hcls : r.cls = .st) :
    r.commits f s (fun t ok _ => t.commitStore f ok) := by
  intro t ok _ h hsort hfit
  have hcarry := threadStores_carry (n := sizeBytes f.fn) (data := s.dataOf f (8 * sizeBytes f.fn)) hfit hsort
  obtain ⟨v, hv⟩ := State.issues_issueOp h (o := { newOp t .store (some .st) f (sizeBytes f.fn) (okMask ok)
    (threadStores (sizeBytes f.fn) (s.dataOf f (8 * sizeBytes f.fn)) ok) with scope := scopeOf f }) rfl
    (fun x hx => by simp [(hcarry x hx).1]) [] (lenM f)
  refine ⟨_, v, ?_, threadStores_cover hfit, fun _ x hx => (hcarry x hx).2, by simp [hop]⟩
  rw [hop, hcls]
  simp only [State.commitStore, h.dataOf, flatMap_pieceBytes]
  exact hv

theorem State.atomRequests_body (s : State) (f : InsM) (b : Nat) (ok : List (Nat × List Piece)) :
    (s.atomRequests f b ok).map Request.body =
      ok.flatMap (fun e => e.2.map (fun p => (p.pa, p.len, p.key, leBytes b (s.dataOf f (8 * b) e.1)))) := by
  rw [State.atomRequests, List.map_flatMap]
  simp only [List.map_map]
  rfl

theorem State.atomRequests_unsent {s : State} {f : InsM} {b : Nat} {ok : List (Nat × List Piece)} :
    ∀ x ∈ s.atomRequests f b ok, x.st = .unsent := by
  intro x hx
  obtain ⟨e, -, hx⟩ := List.mem_flatMap.1 hx
  obtain ⟨p, -, rfl⟩ := List.mem_map.1 hx
  rfl

theorem State.atomRequests_cover {s : State} {f : InsM} {b n : Nat} {ok : List (Nat × List Piece)}
    (hfit : ∀ e ∈ ok, ∀ p ∈ e.2, p.fits n) :
    ∀ e ∈ ok, ∀ p ∈ e.2, ∃ x ∈ s.atomRequests f b ok, x.pa ≤ p.pa ∧ p.pa < x.pa + x.len := by
  intro e he p hp
  have hpos := (hfit e he p hp).1
  exact ⟨_, List.mem_flatMap.2 ⟨e, he, List.mem_map_of_mem hp⟩, Nat.le_refl _, by dsimp only [pieceRequest]; omega⟩

/-- The commit of ATOM: one operation of its threads' operands, its old words for D (R182). -/
def State.commitAtom (f : InsM) (s : State) (ok : List (Nat × List Piece)) (sys : Bool) : State :=
  let n := sizeBytes f.fn
  let b := if fnHi f.fn = 7 then 2 * n else n
  s.issueOp { newOp s .atom (some .ld) f n (okMask ok) (s.atomRequests f b ok) with
    dst := some f.d.toNat, opx := fnHi f.fn, scope := if sys then 2 else 0 } (sbVec s.wv.win.cur f.d.toNat (8 * n))

/-- The commit of RED: one operation of its threads' operands (R182). -/
def State.commitRed (f : InsM) (s : State) (ok : List (Nat × List Piece)) (sys : Bool) : State :=
  let n := sizeBytes f.fn
  s.issueOp { newOp s .red (some .st) f n (okMask ok) (s.atomRequests f n ok) with
    opx := fnHi f.fn, scope := if sys then 2 else 0 } []

/-- The commit of an atomic or of a reduction with operands of `b` bytes. -/
theorem AccessRow.commits_atom {b : Nat} (hop : r.op = .atom ∨ r.op = .red) (hdata : r.data = some (8 * b))
    {commit : State → List (Nat × List Piece) → Bool → State}
    (hcommit : ∀ t ok sys, ∃ o regs, commit t ok sys = t.issueOp o regs ∧ o.kind = r.op ∧ o.cls = some r.cls ∧
      o.size = sizeBytes f.fn ∧ o.reqs = t.atomRequests f b ok) : r.commits f s commit := by
  intro t ok sys h _ hfit
  obtain ⟨o, regs, heq, hkind, hcls, hsize, hreqs⟩ := hcommit t ok sys
  obtain ⟨v, hv⟩ := State.issues_issueOp h hcls
    (fun x hx => by rw [hreqs] at hx; simp [State.atomRequests_unsent x hx]) regs (lenM f)
  rw [hkind, hsize, hreqs, ← heq] at hv
  refine ⟨_, v, hv, State.atomRequests_cover hfit, ?_, fun _ m hm => ?_⟩
  · intro hstore
    rcases hop with hop | hop <;> rw [hop] at hstore <;> cases hstore
  · obtain rfl : 8 * b = m := Option.some.inj (hdata.symm.trans hm)
    rw [State.atomRequests_body, Nat.mul_div_cancel_left b (by decide : 0 < 8)]
    simp only [h.dataOf]

end Commits

/-! ## The six accesses -/

/-- What AccessesIssue asks of the check's results. -/
def AccessRow.checked (r : AccessRow) (f : InsM) (s : State) : Prop :=
  (∀ e ∈ (s.checkThreads r.kind r.pieces r.ts).2, ∃ ps, e.2 = .ok ps ∧ (r.host = false → ∀ p ∈ ps, p.pa / 2 ^ 50 ≠ 2)) ∧
  (f.so.getLsbD 1 = true → s.releaseDone = true ∧
    (r.sys (s.checkThreads r.kind r.pieces r.ts).2 = true → s.accessesDone = true))

/-- The access is put in flight with all its threads. -/
def AccessRow.flies (r : AccessRow) (f : InsM) (s : State) : Prop :=
  ∃ ok rs u v, (s.checkThreads r.kind r.pieces r.ts).2 = committed ok ∧ exec r.i s = .next (u.progress s.cur.core) ∧
    s.issues u (lenM f) r.cls r.op (sizeBytes f.fn) rs v ∧ r.carries f s ok rs

theorem AccessRow.flies_of_commits {r : AccessRow} {f : InsM} {s : State} {prot : Bool} {all : Option Mask}
    {commit : State → List (Nat × List Piece) → Bool → State} (hpend : s.acquireSysPending = false)
    (hts : r.ts.Pairwise (· < ·)) (hne : r.ts ≠ []) (hps : ∀ t ps, r.pieces t = .ok ps → ∀ p ∈ ps, p.fits (sizeBytes f.fn))
    (hprot : prot = false) (hchecked : r.checked f s) (hcommit : r.commits f s commit)
    (hexec : exec r.i s = .next (s.access f r.kind r.ts r.pieces r.host r.sys prot all commit)) : r.flies f s := by
  obtain ⟨hall, hrel⟩ := hchecked
  obtain ⟨hready, ok, hok, hmap, hfit⟩ := State.checkThreads_spec hps fun e he => (hall e he).imp fun _ h => h.1
  rw [hok] at hrel
  have hokne : ok ≠ [] := by
    rintro rfl
    exact hne hmap.symm
  have hhost : r.host = false → ∀ e ∈ ok, ∀ p ∈ e.2, p.pa / 2 ^ 50 ≠ 2 := by
    intro hh e he
    obtain ⟨ps, hps, hpa⟩ := hall (e.1, .ok e.2) (hok ▸ List.mem_map_of_mem he)
    cases hps
    exact hpa hh
  have hsort : ok.Pairwise (fun e v => e.1 < v.1) := List.pairwise_map.1 (hmap ▸ hts)
  obtain ⟨rs, v, hv, hcarries⟩ := hcommit _ ok (r.sys (committed ok)) (hready.released f) hsort hfit
  have haccess := State.access_of_committed (all := all) (commit := commit) hpend hok hokne hhost hrel hprot
  exact ⟨ok, rs, _, v, hok, hexec.trans (congrArg _ haccess), hv, hcarries⟩

theorem accessRows_fly {f : InsM} {s : State} (hact : s.wv.activeMask f.g ≠ 0) (hpend : s.acquireSysPending = false)
    {r : AccessRow} (hr : r ∈ accessRows f s) (hagree : ∀ n, r.data = some n → s.shadowsAgree f 64 n)
    (hchecked : r.checked f s) : r.flies f s := by
  have hsort := threadsOf_sorted (s.wv.activeMask f.g)
  have hne := threadsOf_ne_nil hact
  have hprot := fun n h => State.protMismatch_of_agree (hagree n h)
  have hn := sizeBytes_pos f.fn
  simp only [accessRows, List.mem_cons, List.not_mem_nil, or_false] at hr
  rcases hr with rfl | rfl | rfl | rfl | rfl | rfl
  case inl =>
    refine AccessRow.flies_of_commits hpend hsort hne (fun _ _ => State.splitPieces_fit) rfl hchecked
      (AccessRow.commits_load rfl rfl false) (all := none) ?_
    show execLd f s = _
    simp only [execLd, if_neg hact]
  case inr.inl =>
    refine AccessRow.flies_of_commits hpend hsort hne (fun _ _ => State.splitPieces_fit) (hprot _ rfl) hchecked
      (AccessRow.commits_store rfl rfl) (all := none) ?_
    show execSt f s = _
    simp only [execSt, if_neg hact]
  case inr.inr.inl =>
    refine AccessRow.flies_of_commits hpend (List.pairwise_singleton _ _) (List.cons_ne_nil _ _)
      (fun _ _ => State.splitPieces_fit) rfl hchecked (AccessRow.commits_load rfl rfl true)
      (all := some (s.wv.activeMask f.g)) ?_
    show execLdu f s = _
    simp only [execLdu, if_neg hact]
  case inr.inr.inr.inl =>
    refine AccessRow.flies_of_commits hpend (List.pairwise_singleton _ _) (List.cons_ne_nil _ _)
      (fun _ _ => State.splitPieces_fit) rfl hchecked (AccessRow.commits_store rfl rfl)
      (all := some (s.wv.activeMask f.g)) ?_
    show execStu f s = _
    simp only [execStu, if_neg hact]
  case inr.inr.inr.inr.inl =>
    refine AccessRow.flies_of_commits hpend hsort hne (fun _ _ => State.wholePiece_fit hn) (hprot _ rfl) hchecked
      (AccessRow.commits_atom (commit := State.commitAtom f) (.inl rfl) rfl fun _ _ _ => ⟨_, _, rfl, rfl, rfl, rfl, rfl⟩)
      (all := none) ?_
    show execAtom f s = _
    simp only [execAtom, if_neg hact]
    rfl
  case inr.inr.inr.inr.inr =>
    refine AccessRow.flies_of_commits hpend hsort hne (fun _ _ => State.wholePiece_fit hn) (hprot _ rfl) hchecked
      (AccessRow.commits_atom (commit := State.commitRed f) (.inr rfl) rfl fun _ _ _ => ⟨_, _, rfl, rfl, rfl, rfl, rfl⟩)
      (all := none) ?_
    show execRed f s = _
    simp only [execRed, if_neg hact]
    rfl

/-! ## The requests as they stand in flight -/

theorem mem_committed {ok : List (Nat × List Piece)} {t : Nat} {ps : List Piece} :
    (t, Checked.ok ps) ∈ committed ok ↔ (t, ps) ∈ ok := by
  simp [committed]

/-- Attempts to send leave what the requests of an access carry. -/
theorem AccessRow.carries_of_body {r : AccessRow} {f : InsM} {s : State} {ok : List (Nat × List Piece)} {rs qs : List Request}
    (h : qs.map Request.body = rs.map Request.body) (hrs : r.carries f s ok rs) : r.carries f s ok qs := by
  obtain ⟨hcover, hstore, hatom⟩ := hrs
  refine ⟨fun e he p hp => exists_cover_of_body h (hcover e he p hp), fun hop x hx => ?_,
    fun hop m hm => h.trans (hatom hop m hm)⟩
  have hmem : x.body ∈ rs.map Request.body := h ▸ List.mem_map_of_mem hx
  obtain ⟨y, hy, hyx⟩ := List.mem_map.1 hmem
  simp only [Request.body, Prod.mk.injEq] at hyx
  obtain ⟨hpa, hlen, hkey, hdata⟩ := hyx
  rw [← hpa, ← hlen, ← hkey, ← hdata]
  exact hstore hop y hy

/-- Settles O21: the check of an access all of whose pieces translate leaves the wave's registers and memory, its commit puts one
operation in flight, and attempts to send its packets change no request's body. -/
theorem accessesIssue : Obligations.AccessesIssue := by
  unfold Obligations.AccessesIssue
  intro f s hact hpend r hr q hagree hall hrel
  obtain ⟨ok, rs, u, o, hok, hexec, hissues, hcarries⟩ := accessRows_fly hact hpend hr hagree ⟨hall, hrel⟩
  obtain ⟨hcur, hwave, habove, hnext, hops, hlast, hslot, hkind, hcls, hsize, hbody, hms⟩ := hissues
  obtain ⟨hcover, hstore, hatom⟩ := AccessRow.carries_of_body hbody hcarries
  have hq : q.2 = committed ok := hok
  refine ⟨u, o, hexec, hcur, hwave, habove, hnext, hops, hlast, hslot, hkind, hcls, hsize, ?cover, ?store,
    ?atom, fun a => ?memory⟩
  case cover =>
    rintro ⟨t, c⟩ he ps rfl
    rw [hq, mem_committed] at he
    exact hcover _ he
  case store =>
    intro hop x hx k hk
    obtain ⟨t, ps, hmem, p, hp, hat, hkey, hdata, hhigh⟩ := hstore hop x hx k hk
    simp only [hq, mem_committed]
    exact ⟨t, ps, hmem, p, hp, hat.1, hat.2, hkey, hdata, fun v ps' hv p' hp' hlo hhi => hhigh v ps' hv p' hp' ⟨hlo, hhi⟩⟩
  case atom =>
    intro hop m hm
    rw [hq, committed, List.flatMap_map]
    exact hatom hop m hm
  case memory => rw [State.progress_ms, hms]

end Sys2Proof.Machine
end

section
/-! SUPPORT. Operations in flight as they settle. -/

namespace Sys2Proof.Machine

/-! ## Operations that wait (R137, R162) -/

theorem State.settle_of_unanswered {s : State} {k : Nat} {o : MemOp} (h : o.answered = false) : s.settle k o = s := by
  simp [State.settle, h]

/-- Nothing settles on a core where no operation has all its answers. -/
theorem State.settleAll_of_unanswered {s : State} {k : Nat} (h : ∀ o ∈ (s.core k).ops, o.answered = false)
    (ids : List Nat) : s.settleAll k ids = s := by
  induction ids with
  | nil => rfl
  | cons id ids ih =>
    unfold State.settleAll
    split
    · next o ho => rw [State.settle_of_unanswered (h o (List.mem_of_find?_eq_some ho)), ih]
    · exact ih

/-- An access of the core's own memories sends no packet. -/
theorem State.pumpOps_of_onCore {os : List MemOp} (h : ∀ o ∈ os, o.kind.onCore = true) (s : State) (k : Nat) (retry : Bool) :
    s.pumpOps k retry os = s := by
  induction os generalizing s with
  | nil => rfl
  | cons o os ih =>
    obtain ⟨ho, hos⟩ := List.forall_mem_cons.1 h
    simp [State.pumpOps, ho, ih hos]

/-- Where every operation of a core waits at its memories, progress leaves the wave in hand. -/
theorem State.progress_wv_of_waiting {s : State} {k : Nat}
    (h : ∀ o ∈ (s.core k).ops, o.kind.onCore = true ∧ o.answered = false) : (s.progress k).wv = s.wv := by
  have hsettle := State.settleAll_of_unanswered (fun o ho => (h o ho).2) ((s.core k).ops.map (fun o => o.id))
  simp only [State.progress, hsettle, State.pump]
  split
  · rfl
  · rw [State.pumpOps_of_onCore (fun o ho => (h o ho).1)]
    rfl

/-! ## ATOMS on the block's own scratchpad -/

/-- A block at grid 0, block 0 with the first four bytes of the scratchpad. -/
def fourByteBlock : Block :=
  { grid := 0, b := 0, gang := none, rho := 0, gamma := 0, sb := 0, spad := 4, amax := 0, amask := 0, freeing := 0, cmask := 0,
    waves := [0], trig := [], trigd := false, trigTs := 0, finalTs := 0, nwaves := 1, bonded := false, left := false,
    abandoned := false, dom := 0, asn := 0 }

/-- The reset state with thread 0 of the wave in hand running for that block: no frame of the wave has been written. -/
def unwrittenFrames : State :=
  { State.reset with
    wv := { Wave.reset with ctl := { Wave.reset.ctl with exec := 1 } }
    cores := [(0, { Core.reset with blocks := [fourByteBlock] })] }

/-- ATOMS.B32 .ADD of 0 to the word at 0. -/
def atomsZero : InsM := ⟨⟨7, false⟩, 0, 0xA0, 0xA0, 2, 0, 0, none⟩

/-- The frames of the wave in hand that an instruction leaves listed. -/
def framesAfter (i : Instr) (s : State) : Map Frame :=
  match exec i s with
  | .next t => t.wv.win.frames
  | _ => []

theorem framesAfter_atomsZero : framesAfter (.atoms atomsZero) unwrittenFrames ≠ [] := by decide +kernel

/-- Refutes O25: an ATOMS writes its D register again for the empty set of denied threads, so a frame that nothing had written
becomes listed, where `State.entered` keeps the very window. -/
theorem not_scratchpadAtomics : ¬ Obligations.ScratchpadAtomics := by
  unfold Obligations.ScratchpadAtomics
  rintro ⟨hissue, -⟩
  have hact : unwrittenFrames.wv.activeMask atomsZero.g = 1 := by decide +kernel
  have hlocal : ∀ t, (unwrittenFrames.wv.activeMask atomsZero.g).getLsbD t = true →
      unwrittenFrames.atomsTarget atomsZero t < 2 ^ 17 ∧
      unwrittenFrames.atomsTarget atomsZero t + sizeBytes atomsZero.fn ≤ unwrittenFrames.spadRange.2 ∧
      unwrittenFrames.atomsTarget atomsZero t % sizeBytes atomsZero.fn = 0 := by
    intro t ht
    have h0 : t = 0 := by simpa [hact] using ht
    subst h0
    decide +kernel
  obtain ⟨u, o, hexec, hport, ⟨-, hu⟩⟩ := (hissue atomsZero unwrittenFrames (by rw [hact]; decide) (by decide)
    (by decide +kernel) (fun hp => absurd hp (by decide))).1 hlocal
  obtain ⟨hkind, -, -, -, -, -, -, -, -, -, -, -, hunsent, hcover, -⟩ := hport
  obtain ⟨r, hr, -⟩ := hcover 0 0 (by rw [hact]; rfl) (by decide)
  have hops : (u.core 0).ops = [o] := by rw [hu]; rfl
  have hwait : (u.progress 0).wv = u.wv := State.progress_wv_of_waiting (fun v hv => by
    rw [hops, List.mem_singleton] at hv
    subst hv
    refine ⟨by rw [hkind]; rfl, ?_⟩
    rw [MemOp.answered, List.all_eq_false]
    exact ⟨r, hr, by rw [(hunsent r hr).1]; decide⟩)
  refine framesAfter_atomsZero ?_
  rw [framesAfter, hexec]
  show (u.progress 0).wv.win.frames = []
  rw [hwait, hu]
  rfl

/-! ## An operation of a slot beyond the eight -/

/-- A store of slot `slot` with nothing left to be answered. -/
def answeredStore (slot : Nat) : MemOp :=
  { id := 0, slot := slot, kind := .store, cls := some .st, dst := none, frame := 0, uni := false, size := 4, sign := false,
    so := 0, scope := 0, opx := 0, threads := 1, reqs := [] }

/-- Core 0 with a store of slot 8, whose place in the table of waves is that of slot 0 of core 1. -/
def sharedSlot : State :=
  { State.reset with
    cur := ⟨2, 0⟩
    waves := [(8, { Wave.reset with cnt := ⟨0, 1, 0, 0, 0⟩ })]
    cores := [(0, { Core.reset with ops := [answeredStore 8] })] }

/-- Refutes O44: `State.opEnded` keeps every other slot's wave, but an operation of slot 8, which nothing rules out, has its
wave at the place of slot 0 of the next core. -/
theorem not_repliesAndHostWindow : ¬ Obligations.RepliesAndHostWindow := by
  unfold Obligations.RepliesAndHostWindow
  rintro ⟨-, -, hsettle⟩
  have hended : sharedSlot.opEnded (sharedSlot.settle 0 (answeredStore 8)) 0 (answeredStore 8) :=
    (((hsettle sharedSlot 0 (answeredStore 8) (by decide)).2 (by decide)).1 (by decide)).1
  obtain ⟨-, -, -, -, -, -, -, -, hothers, -⟩ := hended
  have hsame := congrArg (fun w => w.cnt.st) (hothers ⟨1, 0⟩ (by decide))
  exact absurd hsame (by decide)

end Sys2Proof.Machine
end

section
/-! SUPPORT. What most operations of the machine leave as it was: the part of the state that holds memory, key slots and domains.
Each lemma says it of one operation. -/

namespace Sys2Proof.Machine

/-! ## Folds, and states in pairs that a match takes apart -/

/-- Memory after a loop whose every turn leaves it. -/
theorem State.foldl_ms {α : Type} {f : State → α → State} (h : ∀ s x, (f s x).ms = s.ms) (l : List α) (s : State) :
    (l.foldl f s).ms = s.ms := by
  induction l generalizing s with
  | nil => rfl
  | cons x l ih => rw [List.foldl_cons, ih, h]

theorem State.ms_of_fst {β : Type} {x : State × β} {s : State} {b : β} (h : x = (s, b)) : s.ms = x.1.ms := by rw [h]

theorem State.ms_of_snd {β : Type} {x : β × State} {s : State} {b : β} (h : x = (b, s)) : s.ms = x.2.ms := by rw [h]

theorem State.ite_ms {c : Prop} [Decidable c] {s t u : State} (ht : t.ms = s.ms) (hu : u.ms = s.ms) :
    (if c then t else u).ms = s.ms := by
  split
  · exact ht
  · exact hu

@[simp] theorem State.popPath_ms (s : State) (w : Wave) : (s.popPath w).ms = s.ms := by
  unfold State.popPath
  split <;> simp

@[simp] theorem State.leave_ms (s : State) (w : Wave) : (s.leave w).ms = s.ms := by
  unfold State.leave
  dsimp only
  split_ifs <;> simp

@[simp] theorem State.returnTrap_ms (s : State) : (s.returnTrap).ms = s.ms := by
  unfold State.returnTrap
  dsimp only
  split_ifs <;> simp

@[simp] theorem State.mapGrid_ms (s : State) (id : Nat) (f : Grid → Grid) : (s.mapGrid id f).ms = s.ms := by
  unfold State.mapGrid
  split <;> simp

@[simp] theorem State.blockTriggered_ms (s : State) (core grid num : Nat) : (s.blockTriggered core grid num).ms = s.ms := by
  unfold State.blockTriggered
  split
  · rfl
  · split_ifs <;> simp

@[simp] theorem State.waveTriggered_ms (s : State) (id : WaveId) (ts : Nat) : (s.waveTriggered id ts).ms = s.ms := by
  simp [State.waveTriggered]

@[simp] theorem State.goto_ms (s : State) (pc : VAddr) : (s.goto pc).ms = s.ms := rfl

@[simp] theorem State.takeTile_ms (s : State) (t : PendTile) : (s.takeTile t).ms = s.ms := by
  simp [State.takeTile]

@[simp] theorem State.sendRequest_ms (s : State) (p : Packet) : (s.sendRequest p).ms = s.ms := rfl

@[simp] theorem State.sendReply_ms (s : State) (p : Packet) : (s.sendReply p).ms = s.ms := rfl

@[simp] theorem State.engineBytes_ms (s : State) (es : List MonitorEntry) (pa n ts : Nat) (bs : List Byte) :
    (s.engineBytes es pa n ts bs).1.ms = s.ms := by
  unfold State.engineBytes
  split <;> simp

@[simp] theorem State.watchLine_ms (s : State) (d : Dom) (pa : Nat) : (s.watchLine d pa).ms = s.ms := by
  unfold State.watchLine
  dsimp only
  repeat' split
  all_goals simp

@[simp] theorem State.walkRead_ms (s : State) (die : Nat) (d : Dom) (ctx : Context) (va ts : Nat) (fresh : Bool) (p : WalkPos) :
    (s.walkRead die d ctx va ts fresh p).1.ms = s.ms := by
  unfold State.walkRead
  dsimp only
  repeat' split
  all_goals simp [State.homeRead_ms]

@[simp] theorem State.fillSharedTlb_ms (s : State) (cluster : Nat) (e : TlbEntry) :
    (s.fillSharedTlb cluster e).ms = s.ms := rfl

@[simp] theorem State.find_ms (s : State) (va kind : Nat) : (s.find va kind).2.ms = s.ms := by
  unfold State.find
  dsimp only
  split
  · rfl
  · rfl
  · split
    · next heq => exact (State.ms_of_snd heq).trans (s.tlbLookup_ms ..)
    · next heq => simp [State.ms_of_snd heq]

@[simp] theorem State.dropAnswers_ms (s : State) : (s.dropAnswers).ms = s.ms := rfl

@[simp] theorem State.tellWaiter_ms (s : State) (w : Walker) (m : Nat × Nat × Nat) (f : WalkFault) :
    (s.tellWaiter w m f).ms = s.ms := by
  unfold State.tellWaiter
  dsimp only
  split_ifs <;> simp

@[simp] theorem State.answerAll_ms (cluster : Nat) (w : Walker) (level e : Nat) (ms : List (Nat × Nat × Nat)) :
    ∀ s : State, (s.answerAll cluster w level e ms).1.ms = s.ms := by
  induction ms with
  | nil => exact fun _ => rfl
  | cons m ms ih =>
    intro s
    unfold State.answerAll
    split
    · exact ih s
    · simp [ih]
    · simp [ih]

@[simp] theorem State.failAll_ms (s : State) (w : Walker) (f : WalkFault) : (s.failAll w f).ms = s.ms :=
  State.foldl_ms (fun _ _ => State.tellWaiter_ms ..) _ _

@[simp] theorem State.setWalk_ms (s : State) (cluster i : Nat) (w : Walker) : (s.setWalk cluster i w).ms = s.ms := rfl

@[simp] theorem State.endWalk_ms (s : State) (cluster i : Nat) : (s.endWalk cluster i).ms = s.ms := rfl

@[simp] theorem State.engineFind_ms (s : State) (core : Nat) (ctx : Context) (va kind ts : Nat) :
    (s.engineFind core ctx va kind ts).1.ms = s.ms := by
  have htake := s.takeAnswer_ms core ctx.asn va kind
  unfold State.engineFind
  dsimp only
  split
  · next heq => exact (State.ms_of_snd heq).trans htake
  · next heq => exact (State.ms_of_snd heq).trans htake
  · next heq => exact (State.ms_of_snd heq).trans htake
  · split
    · next heq => exact (State.ms_of_snd heq).trans (s.tlbLookup_ms ..)
    · next heq => simp [State.ms_of_snd heq]

@[simp] theorem State.portSend_ms (s : State) (port : Nat) (p : Packet) (c : Client) :
    (s.portSend port p c).ms = s.ms := rfl

@[simp] theorem State.drainPort_ms (port n : Nat) : ∀ s : State, (s.drainPort port n).ms = s.ms := by
  induction n with
  | zero => exact fun _ => rfl
  | succ n ih =>
    intro s
    unfold State.drainPort
    dsimp only
    split
    · rfl
    · split_ifs <;> simp [ih]

@[simp] theorem State.portQueue_ms (s : State) (port : Nat) (p : Packet) (c : Client) :
    (s.portQueue port p c).ms = s.ms := by
  simp [State.portQueue]

@[simp] theorem State.portFinal_ms (s : State) (port : Nat) (o : Outstanding) (mark : Bool) :
    (s.portFinal port o mark).ms = s.ms := by
  simp [State.portFinal]

@[simp] theorem State.setNport_ms (s : State) (j : Nat) (p : NopelPort) : (s.setNport j p).ms = s.ms := rfl

@[simp] theorem State.nopelSend_ms (s : State) (j : Nat) (body : List (BitVec 128)) :
    (s.nopelSend j body).ms = s.ms := rfl

@[simp] theorem State.peerSend_ms (s : State) (j pkg : Nat) (p : Packet) (c : Client) :
    (s.peerSend j pkg p c).ms = s.ms := rfl

theorem State.sendSystem_ms {s t : State} {p : Packet} {c : Client} (h : s.sendSystem p c = some t) : t.ms = s.ms :=
  (State.sendSystem_kept h).2.2.1

@[simp] theorem State.trySend_ms (s : State) (core : Nat) (o : MemOp) (i : Nat) (r : Request) :
    (s.trySend core o i r).ms = s.ms := (s.tried_trySend core i o r).2.2.1

@[simp] theorem State.pumpOps_ms (core : Nat) (retry : Bool) (os : List MemOp) :
    ∀ s : State, (s.pumpOps core retry os).ms = s.ms := by
  induction os with
  | nil => exact fun _ => rfl
  | cons o os ih =>
    intro s
    unfold State.pumpOps
    rw [ih]
    split <;> simp

@[simp] theorem State.writeLoad_ms (s : State) (core : Nat) (o v : MemOp) : (s.writeLoad core o v).ms = s.ms := by
  simp [State.writeLoad]

@[simp] theorem State.retry_ms (s : State) (core : Nat) : (s.retry core).ms = s.ms := by
  unfold State.retry
  split <;> simp

@[simp] theorem State.answerReq_ms (s : State) (core id i : Nat) (data : List Byte) (opx ts ld : Nat) (olds : List MonitorEntry) :
    (s.answerReq core id i data opx ts ld olds).ms = s.ms := by
  unfold State.answerReq
  dsimp only
  repeat' split
  all_goals simp

@[simp] theorem State.serveReqs_ms (core id ends : Nat) (is : List Nat) :
    ∀ s : State, (s.serveReqs core id ends is).ms = s.ms := by
  induction is with
  | nil => exact fun _ => rfl
  | cons i is ih =>
    intro s
    unfold State.serveReqs
    dsimp only
    split
    · rfl
    · split
      · rfl
      · rw [ih]
        split <;> simp

@[simp] theorem State.serveUnit_ms (s : State) (core id : Nat) : (s.serveUnit core id).ms = s.ms := by
  unfold State.serveUnit
  dsimp only
  repeat' split
  all_goals simp

@[simp] theorem State.portStep_ms (s : State) (core i : Nat) : (s.portStep core i).ms = s.ms := by
  unfold State.portStep
  split <;> simp

@[simp] theorem State.serveBeat_ms (s : State) (core : Nat) (o : MemOp) : (s.serveBeat core o).ms = s.ms := by
  unfold State.serveBeat
  split
  · exact State.foldl_ms (fun _ _ => State.serveUnit_ms ..) _ _
  · exact State.serveUnit_ms ..

@[simp] theorem State.usePort_ms (s : State) (core port user : Nat) : (s.usePort core port user).ms = s.ms := by
  have hbeats : ∀ os : List MemOp, (os.foldl (fun t o => t.serveBeat core o) s).ms = s.ms :=
    fun os => State.foldl_ms (fun _ _ => State.serveBeat_ms ..) os s
  unfold State.usePort
  dsimp only
  split
  · rfl
  · rw [State.setCore_ms]
    split
    · rw [State.serveBeat_ms, hbeats]
    · exact hbeats _

@[simp] theorem State.useBuffers_ms (s : State) (cores : List Nat) : (s.useBuffers cores).ms = s.ms :=
  State.foldl_ms (fun t _ => (State.usePort_ms ..).trans (t.usePort_ms ..)) _ _

@[simp] theorem State.oneRefusal_ms (s : State) (n : Nat) : (s.oneRefusal n).ms = s.ms := rfl

@[simp] theorem State.checkPieces_ms (kind : Nat) (ps : List Piece) :
    ∀ s : State, (s.checkPieces kind ps).1.ms = s.ms := by
  induction ps with
  | nil => exact fun _ => rfl
  | cons p ps ih =>
    intro s
    unfold State.checkPieces
    split
    · next heq => exact (State.ms_of_snd heq).trans (s.find_ms ..)
    · next heq => exact (State.ms_of_snd heq).trans (s.find_ms ..)
    · next heq => exact (State.ms_of_snd heq).trans (s.find_ms ..)
    · next heq =>
      have hs1 := (State.ms_of_snd heq).trans (s.find_ms ..)
      split
      · next hrest => exact (State.ms_of_fst hrest).trans ((ih _).trans hs1)
      · exact (ih _).trans hs1

@[simp] theorem State.checkThreads_ms (kind : Nat) (pieces : Nat → Except (Nat × Nat) (List Piece)) (ts : List Nat) :
    ∀ s : State, (s.checkThreads kind pieces ts).1.ms = s.ms := by
  induction ts with
  | nil => exact fun _ => rfl
  | cons t ts ih =>
    intro s
    unfold State.checkThreads
    simp only [State.oneRefusal_ms, ih]
    split
    · rfl
    · simp

@[simp] theorem State.finishChecked_ms (s : State) (n : Nat) (rs : List (Nat × Checked)) (all : Option Mask) :
    (s.finishChecked n rs all).ms = s.ms := by
  unfold State.finishChecked
  split <;> simp

@[simp] theorem State.access_ms (s : State) (f : InsM) (kind : Nat) (ts : List Nat)
    (pieces : Nat → Except (Nat × Nat) (List Piece)) (admitsHost : Bool) (sys : List (Nat × Checked) → Bool) (prot : Bool)
    (all : Option Mask) (commit : State → List (Nat × List Piece) → Bool → State)
    (hcommit : ∀ t ok b, (commit t ok b).ms = t.ms) :
    (s.access f kind ts pieces admitsHost sys prot all commit).ms = s.ms := by
  unfold State.access
  dsimp only
  split
  · simp
  · split
    · simp
    · split
      · simp
      · split
        · simp
        · split
          · simp
          · rw [State.progress_ms, State.finishChecked_ms, hcommit]
            split <;> simp

@[simp] theorem State.issueOp_ms (s : State) (o : MemOp) (regs : List SbReg) : (s.issueOp o regs).ms = s.ms := by
  unfold State.issueOp
  dsimp only
  split_ifs <;> simp

@[simp] theorem State.commitLoad_ms (s : State) (f : InsM) (uni : Bool) (ok : List (Nat × List Piece)) :
    (s.commitLoad f uni ok).ms = s.ms := by
  unfold State.commitLoad
  dsimp only
  split_ifs <;> simp

@[simp] theorem State.commitStore_ms (s : State) (f : InsM) (ok : List (Nat × List Piece)) :
    (s.commitStore f ok).ms = s.ms := by
  simp [State.commitStore]

@[simp] theorem State.cctlLines_ms (prefetch : Bool) (vas : List Nat) :
    ∀ s : State, (s.cctlLines prefetch vas).1.ms = s.ms := by
  induction vas with
  | nil => exact fun _ => rfl
  | cons va vas ih => exact fun s => by simp [State.cctlLines, ih]

@[simp] theorem State.enterBeats_ms (s : State) (f : InsM) (kind : OpKind) (counted : Bool) (space op n base : Nat) (data : Nat → List Byte) (ok : List (Nat × List Piece)) :
    (s.enterBeats f kind counted space op n base data ok).ms = s.ms := by
  simp [State.enterBeats]

@[simp] theorem State.coreAccess_ms (s : State) (f : InsM) (check : Nat → Checked) (prot : Bool) (commit : State → List (Nat × List Piece) → State) (hcommit : ∀ t a, (commit t a).ms = t.ms) :
    (s.coreAccess f check prot commit).ms = s.ms := by
  unfold State.coreAccess
  dsimp only
  split_ifs <;> simp [hcommit]

@[simp] theorem State.feSend_ms (s : State) (die owner key : Nat) (ctx : Context) (e : TlbEntry) (va n ts : Nat)
    (write : Option (List Byte)) : (s.feSend die owner key ctx e va n ts write).1.ms = s.ms := by
  unfold State.feSend
  dsimp only
  split
  · rfl
  · split
    · split
      · rfl
      · simp
    · split
      · rfl
      · split
        · next hsend => exact State.sendSystem_ms hsend
        · rfl

@[simp] theorem State.feWalkAt_ms (s : State) (owner key : Nat) (w : Option FeWalk) :
    (s.feWalkAt owner key w).ms = s.ms := rfl

@[simp] theorem State.feForget_ms (s : State) (owner : Nat) : (s.feForget owner).ms = s.ms := rfl

@[simp] theorem State.fePhys_ms (s : State) (die owner dom key pa ts : Nat) (ty : PType) (opx : Nat) (data : List Byte) :
    (s.fePhys die owner dom key pa ts ty opx data).1.ms = s.ms := by
  unfold State.fePhys
  dsimp only
  repeat' split
  all_goals simp

@[simp] theorem State.setRing_ms (s : State) (d : Nat) (r : EventRing) : (s.setRing d r).ms = s.ms := rfl

@[simp] theorem State.parityRecord_ms (s : State) (core index : Nat) : (s.parityRecord core index).ms = s.ms := rfl

@[simp] theorem State.askLine_ms (s : State) (line key mt va : Nat) : (s.askLine line key mt va).1.ms = s.ms := by
  unfold State.askLine
  dsimp only
  split
  · rfl
  · split
    · split
      · rfl
      · split
        · next hsend => exact State.sendSystem_ms hsend
        · rfl
    · split
      · rfl
      · split_ifs <;> simp

@[simp] theorem State.fetchLine_ms (s : State) (e : TlbEntry) (pc : Nat) : (s.fetchLine e pc).1.ms = s.ms := by
  unfold State.fetchLine
  dsimp only
  repeat' split
  all_goals simp

@[simp] theorem State.fillIcache_ms (s : State) (core line key opx : Nat) (bs : List Byte) :
    (s.fillIcache core line key opx bs).ms = s.ms := rfl

@[simp] theorem State.fetchFault_ms (s : State) (cause info : Nat) : (s.fetchFault cause info).ms = s.ms := by
  unfold State.fetchFault
  split <;> simp

@[simp] theorem State.fetchDecode_ms (s : State) : s.fetchDecode.1.ms = s.ms := by
  unfold State.fetchDecode
  dsimp only
  split
  · next heq => simp [State.ms_of_snd heq]
  · next heq => simp [State.ms_of_snd heq]
  · next heq => simp [State.ms_of_snd heq]
  · next e s1 heq =>
    have hs1 : s1.ms = s.ms := (State.ms_of_snd heq).trans (s.find_ms ..)
    split
    · next hline => simp [State.ms_of_fst hline, hs1]
    · next hline => simp [State.ms_of_fst hline, hs1]
    · next hline => simp [State.ms_of_fst hline, hs1]
    · next hline =>
      split
      · split_ifs <;> simp [State.ms_of_fst hline, hs1]
      · simp [State.ms_of_fst hline, hs1]

@[simp] theorem State.call_ms (s : State) (target : VAddr) : (s.call target).ms = s.ms := by
  unfold State.call
  dsimp only
  split_ifs <;> simp

@[simp] theorem State.setPhaser_ms (s : State) (r : PhRef) (p : Phaser) : (s.setPhaser r p).ms = s.ms := by
  unfold State.setPhaser
  split <;> simp

@[simp] theorem State.dropRegs_ms (s : State) (id : WaveId) : (s.dropRegs id).ms = s.ms := by
  simp only [State.dropRegs, State.setWave_ms]
  refine State.foldl_ms (fun t e => ?_) _ _
  split_ifs <;> simp

@[simp] theorem State.discardAdd_ms (s : State) (a : ByteAdd) : (s.discardAdd a).ms = s.ms := rfl

@[simp] theorem State.queueAdd_ms (s : State) (k : Nat) (a : ByteAdd) : (s.queueAdd k a).ms = s.ms := rfl

@[simp] theorem State.applyAdd_ms (s : State) (cluster : Nat) (a : ByteAdd) : (s.applyAdd cluster a).ms = s.ms := by
  unfold State.applyAdd
  dsimp only
  repeat' split
  all_goals simp

@[simp] theorem State.syncFault_ms (s : State) (code : Nat) : (s.syncFault code).ms = s.ms := by
  simp [State.syncFault]

@[simp] theorem State.uniResult_ms (s : State) (f : InsT) (v : Nat) : (s.uniResult f v).ms = s.ms := rfl

@[simp] theorem State.observe_ms (s : State) (f : InsT) (fb done : Bool) (p : Phaser) :
    (s.observe f fb done p).ms = s.ms := rfl

@[simp] theorem State.barRelease_ms (s : State) : s.barRelease.ms = s.ms :=
  State.foldl_ms (fun _ _ => State.setWave_ms ..) _ _

@[simp] theorem State.setEntries_ms (s : State) (n : Nat) (es : List StreamEntry) : (s.setEntries n es).ms = s.ms := rfl

@[simp] theorem State.push_ms (s : State) (f : InsT) (n : Nat) (es : List StreamEntry) (value : Word) (marker : Bool) :
    (s.push f n es value marker).ms = s.ms := by
  unfold State.push
  split_ifs <;> simp

@[simp] theorem State.mapGang_ms (s : State) (n : Nat) (f : Gang → Gang) : (s.mapGang n f).ms = s.ms := by
  unfold State.mapGang
  split <;> simp

@[simp] theorem State.leaveGang_ms (s : State) (core : Nat) (b : Block) : (s.leaveGang core b).ms = s.ms := by
  unfold State.leaveGang
  split <;> simp

@[simp] theorem State.setOut_ms (s : State) (k : Nat) (o : SwitchOut) : (s.setOut k o).ms = s.ms := rfl

@[simp] theorem State.setWires_ms (s : State) (w : List Flight) : (s.setWires w).ms = s.ms := rfl

@[simp] theorem State.discardPacket_ms (s : State) (die unit dom : Nat) : (s.discardPacket die unit dom).ms = s.ms := rfl

@[simp] theorem State.arriveSlice_ms (s : State) (p : Packet) : (s.arriveSlice p).ms = s.ms := by
  unfold State.arriveSlice
  dsimp only
  split_ifs <;> simp

@[simp] theorem State.arrivePort_ms (s : State) (port : Nat) (p : Packet) : (s.arrivePort port p).ms = s.ms := by
  unfold State.arrivePort
  dsimp only
  split_ifs <;> simp

@[simp] theorem State.setResidue_ms (s : State) (sw : Nat) (b : ResidueBuf) : (s.setResidue sw b).ms = s.ms := rfl

@[simp] theorem State.forkBranch_ms (s : State) (f : Flight) (b : Nat × List Nat) : (s.forkBranch f b).ms = s.ms := by
  unfold State.forkBranch
  dsimp only
  split_ifs <;> simp

@[simp] theorem State.fork_ms (s : State) (f : Flight) : (s.fork f).ms = s.ms :=
  State.foldl_ms (fun _ _ => State.forkBranch_ms ..) _ _

@[simp] theorem State.replay_ms (s : State) (p : Packet) (r : CachedResult) : (s.replay p r).ms = s.ms := rfl

@[simp] theorem State.sendMulticast_ms (s : State) (p : Packet) (ports : List Nat) :
    (s.sendMulticast p ports).ms = s.ms := rfl

@[simp] theorem State.multicast_ms (s : State) (d : Dom) (p : Packet) (a : HomeAnswer) :
    (s.multicast d p a).ms = s.ms := by
  unfold State.multicast
  dsimp only
  split_ifs <;> simp

@[simp] theorem State.msgDone_ms (s : State) (p : Packet) (status : Nat) : (s.msgDone p status).ms = s.ms := rfl

@[simp] theorem State.offer_ms (s : State) (slice i : Nat) : (s.offer slice i).ms = s.ms := by
  unfold State.offer
  dsimp only
  repeat' split
  all_goals simp

@[simp] theorem State.offerFirst_ms (s : State) (slice ring : Nat) : (s.offerFirst slice ring).ms = s.ms := by
  unfold State.offerFirst
  split
  · rfl
  · split
    · split_ifs <;> simp
    · rfl

@[simp] theorem State.dropMsg_ms (s : State) (slice i ring : Nat) : (s.dropMsg slice i ring).ms = s.ms := by
  simp [State.dropMsg]

@[simp] theorem State.complete_ms (s : State) (p : Packet) (a : HomeAnswer) (reply : Packet) :
    (s.complete p a reply).ms = s.ms := by
  unfold State.complete
  split
  · exact State.startWinv_ms ..
  · exact State.sendReply_ms ..

@[simp] theorem State.dropLoose_ms (s : State) (p : Packet) : (s.dropLoose p).ms = s.ms := by
  unfold State.dropLoose
  dsimp only
  split_ifs <;> simp

@[simp] theorem State.noteHost_ms (s : State) (p : Packet) (a : HomeAnswer) : (s.noteHost p a).ms = s.ms := by
  unfold State.noteHost
  split <;> simp

@[simp] theorem State.migrateAnswer_ms (s : State) (slice base : Nat) (bad : Bool) :
    (s.migrateAnswer slice base bad).ms = s.ms := rfl

@[simp] theorem State.redirect_ms (s : State) (p : Packet) : (s.redirect p).ms = s.ms := by
  unfold State.redirect
  split <;> simp

@[simp] theorem State.mapCopy_ms (s : State) (core id : Nat) (f : CopyEntry → CopyEntry) :
    (s.mapCopy core id f).ms = s.ms := rfl

@[simp] theorem State.failCopy_ms (s : State) (core id code level : Nat) :
    (s.failCopy core id code level).ms = s.ms := rfl

@[simp] theorem State.blockDone_ms (s : State) (core id at' bytes : Nat) :
    (s.blockDone core id at' bytes).ms = s.ms := rfl

@[simp] theorem State.blockBack_ms (s : State) (core id at' : Nat) : (s.blockBack core id at').ms = s.ms := rfl

@[simp] theorem State.freeSlots_ms (s : State) (k : Nat) (b : Block) : (s.freeSlots k b).ms = s.ms := by
  unfold State.freeSlots
  dsimp only
  split_ifs <;> simp

@[simp] theorem State.freeKept_ms (s : State) (k : Nat) : (s.freeKept k).ms = s.ms := by
  unfold State.freeKept
  dsimp only
  split_ifs <;> simp

@[simp] theorem State.settleFrees_ms (s : State) : s.settleFrees.ms = s.ms := by
  refine State.foldl_ms (fun t c => ?_) _ _
  have hblocks : (c.2.blocks.foldl (fun t b => if b.freeing = 0 then t else t.freeSlots c.1 b) t).ms = t.ms :=
    State.foldl_ms (fun t b => by split_ifs <;> simp) _ _
  dsimp only
  split_ifs
  · exact hblocks
  · rw [State.freeKept_ms, hblocks]

@[simp] theorem State.endCopy_ms (s : State) (core : Nat) (e : CopyEntry) (tag : Tag) (bytes : Option Nat) :
    (s.endCopy core e tag bytes).ms = s.ms := by
  unfold State.endCopy
  split <;> simp

@[simp] theorem State.landSide_ms (s : State) (core id c : Nat) : (s.landSide core id c).ms = s.ms := by
  unfold State.landSide
  dsimp only
  repeat' split
  all_goals simp

@[simp] theorem State.landRead_ms (s : State) (core id chunk : Nat) (data : List Byte) :
    (s.landRead core id chunk data).ms = s.ms := by
  unfold State.landRead
  split
  · rfl
  · exact (State.foldl_ms (fun _ _ => State.landSide_ms ..) _ _).trans (State.mapCopy_ms ..)

@[simp] theorem State.landCluster_ms (s : State) (cluster : Nat) (p : Packet) (data : List Byte) :
    (s.landCluster cluster p data).ms = s.ms := by
  simp only [State.landCluster, State.mapCopy_ms]
  refine State.foldl_ms (fun t i => ?_) _ _
  split <;> simp

@[simp] theorem State.bindRecord_ms (s : State) (core : Nat) (e : CopyEntry) (b : BitVec 512) (ts : Nat) :
    (s.bindRecord core e b ts).ms = s.ms := by
  unfold State.bindRecord
  dsimp only
  split
  · simp
  · split
    · rw [State.foldl_ms fun _ _ => State.setCore_ms ..]
      simp
    · simp

@[simp] theorem State.endShape_ms (s : State) (core : Nat) (e : CopyEntry) (found : Option (BitVec 512)) (status : Nat) :
    (s.endShape core e found status).ms = s.ms := by
  unfold State.endShape
  dsimp only
  split_ifs <;> simp

@[simp] theorem State.recordCame_ms (s : State) (core : Nat) (e0 : CopyEntry) (r : RecRead) :
    (s.recordCame core e0 r).ms = s.ms := by
  unfold State.recordCame
  dsimp only
  repeat' split
  all_goals simp

@[simp] theorem State.answerRecord_ms (s : State) (core id opx : Nat) (bs : List Byte) :
    (s.answerRecord core id opx bs).ms = s.ms := by
  unfold State.answerRecord
  split <;> simp

@[simp] theorem State.enqueueCopy_ms (s : State) (e : CopyEntry) : (s.enqueueCopy e).ms = s.ms := rfl

@[simp] theorem State.issueCopy_ms (s : State) (op : OpT) (f : InsT) : (s.issueCopy op f).ms = s.ms := by
  unfold State.issueCopy
  dsimp only
  split_ifs <;> simp

@[simp] theorem State.tagReturn_ms (s : State) (f : InsT) (set : List Nat) (write : Wave → Wave) :
    (s.tagReturn f set write).ms = s.ms := by
  unfold State.tagReturn
  split <;> simp

@[simp] theorem State.enginePost_ms (s : State) (core dom pa : Nat) (out : Bool) (c : Client) (p : Packet) :
    (s.enginePost core dom pa out c p).1.ms = s.ms := by
  unfold State.enginePost
  split
  · split
    · rfl
    · split_ifs <;> simp
  · split
    · rfl
    · split
      · rfl
      · split
        · next hsend => exact State.sendSystem_ms hsend
        · rfl

@[simp] theorem State.engineSend_ms (s : State) (core : Nat) (ctx : Context) (va kind ts : Nat) (out : Bool) (c : Client)
    (p : Nat → Nat → Packet) : (s.engineSend core ctx va kind ts out c p).1.ms = s.ms := by
  unfold State.engineSend
  split
  all_goals next heq => simp [State.ms_of_fst heq]

@[simp] theorem State.stageRecord_ms (s : State) (core : Nat) (e0 : CopyEntry) (ts : Nat) :
    (s.stageRecord core e0 ts).ms = s.ms := by
  unfold State.stageRecord
  dsimp only
  split
  · simp
  · split
    · simp
    · split
      all_goals next heq => simp [State.ms_of_fst heq]

@[simp] theorem State.copyOut_ms (s : State) (core : Nat) (e : CopyEntry) (at' : Nat) :
    (s.copyOut core e at').ms = s.ms := by
  have hports : ∀ (is : List Nat) (n port : Nat),
      (if n = 0 then s else is.foldl (fun t _ => t.usePort core port copyUser) s).ms = s.ms := by
    intro is n port
    split
    · rfl
    · exact State.foldl_ms (fun _ _ => State.usePort_ms ..) _ _
  unfold State.copyOut
  dsimp only
  refine State.ite_ms (hports _ _ _) (State.ite_ms (by rw [State.failCopy_ms, hports]) ?_)
  split
  · next heq => rw [State.mapCopy_ms, State.ms_of_fst heq, State.engineSend_ms, State.drawn_ms, State.mapCopy_ms, hports]
  · next heq => rw [State.failCopy_ms, State.ms_of_fst heq, State.engineSend_ms, State.drawn_ms, State.mapCopy_ms, hports]
  · next heq => rw [State.failCopy_ms, State.ms_of_fst heq, State.engineSend_ms, State.drawn_ms, State.mapCopy_ms, hports]
  · next heq => rw [State.ms_of_fst heq, State.engineSend_ms, State.drawn_ms, State.mapCopy_ms, hports]

@[simp] theorem State.copyIn_ms (s : State) (core : Nat) (e : CopyEntry) (at' : Nat) : (s.copyIn core e at').ms = s.ms := by
  unfold State.copyIn
  split
  · rfl
  · split
    all_goals next heq => simp [State.ms_of_fst heq]

@[simp] theorem State.copyMulti_ms (s : State) (core : Nat) (e : CopyEntry) (at' : Nat) :
    (s.copyMulti core e at').ms = s.ms := by
  unfold State.copyMulti
  dsimp only
  split
  · rfl
  · split
    · next heq => simp [State.ms_of_fst heq]
    · next heq => simp [State.ms_of_fst heq]
    · next heq => simp [State.ms_of_fst heq]
    · next heq =>
      split
      · simp [State.ms_of_fst heq]
      · split <;> simp [State.ms_of_fst heq]

@[simp] theorem State.mapMyBlock_ms (s : State) (f : Block → Block) : (s.mapMyBlock f).ms = s.ms := rfl

@[simp] theorem State.bondWait_ms (s : State) (f : InsT) (n : Nat) : (s.bondWait f n).ms = s.ms := by
  unfold State.bondWait
  dsimp only
  repeat' split
  all_goals simp

@[simp] theorem State.withLease_ms (s : State) (body : State → Gang → State)
    (hbody : ∀ t a, (body t a).ms = t.ms) : (s.withLease body).ms = s.ms := by
  unfold State.withLease
  split
  · simp
  · split
    · simp
    · split_ifs <;> simp [hbody]

@[simp] theorem State.mapResidency_ms (s : State) (k i : Nat) (f : Residency → Residency) :
    (s.mapResidency k i f).ms = s.ms := rfl

@[simp] theorem State.zeroise_ms (s : State) (k i : Nat) : (s.zeroise k i).ms = s.ms :=
  State.foldl_ms (fun _ _ => State.setCore_ms ..) _ _

@[simp] theorem State.freePlanes_ms (s : State) (k i : Nat) : (s.freePlanes k i).ms = s.ms := by
  simp only [State.freePlanes, State.mapResidency_ms]
  exact State.foldl_ms (fun _ _ => State.setCore_ms ..) _ _

theorem State.makeRoom_ms (core dom self n fuel : Nat) : ∀ {s t : State}, s.makeRoom core dom self n fuel = some t → t.ms = s.ms := by
  induction fuel with
  | zero =>
    intro s t h
    unfold State.makeRoom at h
    split_ifs at h
    cases h
    rfl
  | succ fuel ih =>
    intro s t h
    unfold State.makeRoom at h
    dsimp only at h
    split at h
    · cases h
      rfl
    · split at h
      · cases h
      · rw [ih h]
        simp

theorem State.takePlanes_ms (k i dom p nout rows cols : Nat) (cores is : List Nat) :
    ∀ {s t : State}, s.takePlanes k i dom p nout rows cols cores is = some t → t.ms = s.ms := by
  induction is with
  | nil =>
    intro s t h
    cases h
    rfl
  | cons core rest ih =>
    intro s t h
    unfold State.takePlanes at h
    dsimp only at h
    split at h
    · cases h
    · next hroom =>
      rw [ih h]
      simp [State.makeRoom_ms _ _ _ _ _ hroom]

@[simp] theorem State.walloc_ms (s : State) (f : InsT) (g : Gang) : (s.walloc f g).ms = s.ms := by
  unfold State.walloc
  dsimp only
  refine State.ite_ms (by simp) (State.ite_ms (by simp) ?_)
  split
  · simp
  · split
    · simp
    · next htake =>
      rw [State.uniResult_ms, State.mapResidency_ms, State.takePlanes_ms _ _ _ _ _ _ _ _ _ htake, State.mapResidency_ms]

@[simp] theorem State.residencyFault_ms (s : State) (code : Nat) : (s.residencyFault code).ms = s.ms := by
  simp [State.residencyFault]

@[simp] theorem State.enqueueTile_ms (s : State) (f : InsT) (e : SeqEntry) (cores : List Nat) (also : State → State)
    (halso : ∀ t, (also t).ms = t.ms) : (s.enqueueTile f e cores also).ms = s.ms := by
  unfold State.enqueueTile
  split
  · rfl
  · simp only [State.advance_ms, halso, State.mapWv_ms]
    exact State.foldl_ms (fun _ _ => State.setCore_ms ..) _ _

@[simp] theorem State.mapTile_ms (s : State) (e : SeqEntry) (f : SeqEntry → SeqEntry) : (s.mapTile e f).ms = s.ms :=
  State.foldl_ms (fun _ _ => State.setCore_ms ..) _ _

@[simp] theorem State.finishTile_ms (s : State) (e : SeqEntry) : (s.finishTile e).ms = s.ms := by
  simp only [State.finishTile, State.settleFrees_ms, State.setWave_ms]
  exact State.foldl_ms (fun _ _ => State.setCore_ms ..) _ _

@[simp] theorem State.pendTile_ms (s : State) (e : SeqEntry) (cause info steps : Nat) :
    (s.pendTile e cause info steps).ms = s.ms := by
  simp [State.pendTile]

@[simp] theorem State.failLoad_ms (s : State) (e : SeqEntry) (info : Nat) : (s.failLoad e info).ms = s.ms := by
  unfold State.failLoad
  dsimp only
  split_ifs <;> simp

@[simp] theorem State.beginLoad_ms (s : State) (e : SeqEntry) : (s.beginLoad e).ms = s.ms := by
  unfold State.beginLoad
  dsimp only
  split
  · rfl
  · split
    · simp
    · next s1 hready =>
      have hs1 : s1.ms = s.ms := by
        split_ifs at hready
        · cases hready
          rfl
        · exact State.takePlanes_ms _ _ _ _ _ _ _ _ _ hready
      simp [hs1]

@[simp] theorem State.takeChunk_ms (s : State) (e : SeqEntry) (chunk : Nat) (bs : List Byte) :
    (s.takeChunk e chunk bs).ms = s.ms := by
  unfold State.takeChunk
  dsimp only
  split_ifs <;> simp

@[simp] theorem State.imageCame_ms (s : State) (core id chunk opx : Nat) (bs : List Byte) :
    (s.imageCame core id chunk opx bs).ms = s.ms := by
  unfold State.imageCame
  split
  · rfl
  · split_ifs <;> simp

@[simp] theorem State.imageBack_ms (s : State) (core id chunk : Nat) : (s.imageBack core id chunk).ms = s.ms := by
  unfold State.imageBack
  split <;> simp

@[simp] theorem State.readChunk_ms (s : State) (e : SeqEntry) (chunk : Nat) : (s.readChunk e chunk).ms = s.ms := by
  unfold State.readChunk
  dsimp only
  split
  · next heq => simp [State.ms_of_fst heq]
  · next heq => simp [State.ms_of_fst heq]
  · next heq => simp [State.ms_of_fst heq]
  · next heq =>
    split
    · simp [State.ms_of_fst heq]
    · split
      · simp [State.ms_of_fst heq]
      · split
        all_goals next hpost => simp [State.ms_of_fst hpost, State.ms_of_fst heq]

@[simp] theorem State.wloadTurn_ms (s : State) (e : SeqEntry) (g : Gang) : (s.wloadTurn e g).ms = s.ms := by
  unfold State.wloadTurn
  dsimp only
  repeat' split
  all_goals simp

@[simp] theorem State.loadAll_ms (s : State) (r : Residency) (m : List Host.Cell) (ks cores : List Nat) :
    (s.loadAll r m ks cores).ms = s.ms := State.foldl_ms (fun _ _ => State.setCore_ms ..) _ _

@[simp] theorem Loop.run_ms (x : Loop) (s : State) : (x.run s).ms = s.ms :=
  State.foldl_ms (fun _ _ => State.setCore_ms ..) _ _

@[simp] theorem State.planeError_ms (s : State) (e : SeqEntry) (core word : Nat) :
    (s.planeError e core word).ms = s.ms := by
  simp [State.planeError]

@[simp] theorem State.doStep_ms (s : State) (e : SeqEntry) (x : Loop) : (s.doStep e x).ms = s.ms := by
  unfold State.doStep
  split <;> simp

@[simp] theorem State.withSlot_ms (s : State) (n kind f : Nat) (act : State → List Piece → State)
    (hact : ∀ t ps, (act t ps).ms = t.ms) : (s.withSlot n kind f act).ms = s.ms := by
  unfold State.withSlot
  dsimp only
  split
  · simp
  · split
    · simp
    · simp
    · simp [State.progress_ms, hact]

@[simp] theorem State.mapSched_ms (s : State) (id : WaveId) (f : Sched → Sched) : (s.mapSched id f).ms = s.ms := by
  simp [State.mapSched]

@[simp] theorem State.refill_ms (core n : Nat) : ∀ s : State, (State.refill core n s).ms = s.ms := by
  induction n with
  | zero => exact fun _ => rfl
  | succ n ih =>
    intro s
    unfold State.refill
    dsimp only
    split
    · rfl
    · split
      · rfl
      · simp [ih]

@[simp] theorem State.pickFor_ms (s : State) (id : WaveId) : (s.pickFor id).ms = s.ms := by
  unfold State.pickFor
  dsimp only
  repeat' split
  all_goals simp

@[simp] theorem State.expire_ms (s : State) (core : Nat) : (s.expire core).ms = s.ms :=
  State.foldl_ms (fun t id => by split_ifs <;> simp) _ _

@[simp] theorem State.cycleCore_ms (s : State) (core : Nat) : (s.cycleCore core).ms = s.ms := by
  have hticks : ∀ (t : State) (es : List (WaveId × Option Nat)) (f : WaveId × Option Nat → Sched → Sched),
      (es.foldl (fun t e => t.mapSched e.1 (f e)) t).ms = t.ms :=
    fun t es f => State.foldl_ms (fun _ _ => State.mapSched_ms ..) es t
  unfold State.cycleCore
  dsimp only
  split <;> simp [hticks]

@[simp] theorem State.engineOrder_ms (s : State) : (s.engineOrder).ms = s.ms := by
  unfold State.engineOrder
  split <;> simp

@[simp] theorem State.releaseStreams_ms (s : State) (grid cluster : Nat) :
    (s.releaseStreams grid cluster).ms = s.ms := by
  unfold State.releaseStreams
  split <;> simp

@[simp] theorem State.lowerSeed_ms (s : State) (grid n : Nat) : (s.lowerSeed grid n).ms = s.ms := by
  unfold State.lowerSeed
  dsimp only
  repeat' split
  all_goals simp

@[simp] theorem State.retireBlock_ms (s : State) (core : Nat) (b : Block) : (s.retireBlock core b).ms = s.ms := by
  unfold State.retireBlock
  dsimp only
  repeat' split
  all_goals simp

@[simp] theorem State.endWave_ms (s : State) (id : WaveId) : (s.endWave id).ms = s.ms := by
  unfold State.endWave
  dsimp only
  repeat' split
  all_goals simp

@[simp] theorem State.forgetArgs_ms (s : State) (gid : Nat) (bs : List Nat) : (s.forgetArgs gid bs).ms = s.ms :=
  State.foldl_ms (fun _ _ => State.feForget_ms ..) _ _

@[simp] theorem State.judgeCore_ms (s : State) (core dom key : Nat) : (s.judgeCore core dom key).ms = s.ms :=
  State.foldl_ms (fun t n => by dsimp only; split_ifs <;> simp) _ _

@[simp] theorem State.releaseMirrors_ms (core need n : Nat) :
    ∀ s : State, (State.releaseMirrors core need n s).ms = s.ms := by
  induction n with
  | zero => exact fun _ => rfl
  | succ n ih =>
    intro s
    unfold State.releaseMirrors
    split
    · rfl
    · split
      · rfl
      · simp [ih]

@[simp] theorem State.mirrorWaves_ms (s : State) (core dom : Nat) (slots : List Nat) :
    (s.mirrorWaves core dom slots).ms = s.ms := by
  unfold State.mirrorWaves
  split
  · rfl
  · exact State.foldl_ms (fun t slot => by simp) _ _

@[simp] theorem State.startWaves_ms (core gid b : Nat) (g : Grid) (args : List Word) (is : List (Nat × Nat)) :
    ∀ s : State, (s.startWaves core gid b g args is).ms = s.ms := by
  induction is with
  | nil => exact fun _ => rfl
  | cons i is ih =>
    intro s
    unfold State.startWaves
    dsimp only
    rw [ih]
    simp

@[simp] theorem State.placeBlock_ms (s : State) (gid core b : Nat) (g : Grid) (args : List Word) (gang : Option Nat) (rho gamma : Nat) :
    (s.placeBlock gid core b g args gang rho gamma).ms = s.ms := by
  simp [State.placeBlock]

@[simp] theorem State.takeStreams_ms (s : State) (gid cluster : Nat) (g : Grid) :
    (s.takeStreams gid cluster g).ms = s.ms := rfl

@[simp] theorem State.placeAll_ms (s : State) (gid b0 cols : Nat) (g : Grid) (args : List (List Word)) (gang : Option Nat)
    (cores : List Nat) : (s.placeAll gid b0 cols g args gang cores).ms = s.ms :=
  State.foldl_ms (fun _ _ => State.placeBlock_ms ..) _ _

@[simp] theorem State.placeNext_ms (s : State) (gid : Nat) (g : Grid) (cores : List Nat) (args : List (List Word)) :
    (s.placeNext gid g cores args).ms = s.ms := by
  have hstreams : ∀ ks : List Nat, (ks.foldl (fun t k => t.takeStreams gid k g) s).ms = s.ms :=
    fun ks => State.foldl_ms (fun _ _ => State.takeStreams_ms ..) ks s
  simp only [State.placeNext, State.mapGrid_ms]
  split <;> simp [hstreams]

@[simp] theorem State.applyNote_ms (s : State) (n : Nat) (x : Bool × Nat × Nat) : (s.applyNote n x).ms = s.ms := by
  unfold State.applyNote
  dsimp only
  split_ifs <;> simp

@[simp] theorem State.refetch_ms (s : State) (die n : Nat) : (s.refetch die n).ms = s.ms := by
  unfold State.refetch
  split <;> simp

@[simp] theorem State.setLane_ms (s : State) (i : Nat) (l : Lane) : (s.setLane i l).ms = s.ms := rfl

@[simp] theorem State.feClear_ms (s : State) (n : Nat) : (s.feClear n).ms = s.ms := rfl

@[simp] theorem State.dropPoll_ms (s : State) (n : Nat) (all : Bool) : (s.dropPoll n all).ms = s.ms := rfl

@[simp] theorem State.putBack_ms (s : State) (n : Nat) : (s.putBack n).ms = s.ms := rfl

@[simp] theorem State.unbind_ms (s : State) (n : Nat) : (s.unbind n).ms = s.ms := by
  unfold State.unbind
  split <;> simp

@[simp] theorem State.takeInHand_ms (s : State) (n : Nat) (b : List Byte) : (s.takeInHand n b).ms = s.ms := rfl

@[simp] theorem State.startCommand_ms (s : State) (cmd : Nat) : (s.startCommand cmd).ms = s.ms := by
  unfold State.startCommand
  dsimp only
  repeat' split
  all_goals simp

@[simp] theorem State.barWrite_ms (s : State) (off : Nat) (bs : List Byte) : (s.barWrite off bs).ms = s.ms := by
  unfold State.barWrite
  dsimp only
  split_ifs <;> simp

@[simp] theorem State.hostAnswer_ms (s : State) (c : HostChunk) (bs : List Byte) (bad : Bool) :
    (s.hostAnswer c bs bad).ms = s.ms := by
  unfold State.hostAnswer
  split <;> simp

@[simp] theorem State.hostPump_ms (n : Nat) : ∀ s : State, (State.hostPump n s).ms = s.ms := by
  induction n with
  | zero => exact fun _ => rfl
  | succ n ih =>
    intro s
    unfold State.hostPump
    split
    · rfl
    · split
      · rfl
      · split
        · rw [ih]
          split <;> simp
        · split <;> simp [ih]

@[simp] theorem State.hostCame_ms (s : State) (p : Packet) : (s.hostCame p).ms = s.ms := by
  unfold State.hostCame
  split
  · rfl
  · split_ifs <;> simp

@[simp] theorem State.hostAgain_ms (s : State) : (s.hostAgain).ms = s.ms := by
  simp [State.hostAgain]

@[simp] theorem State.fillLine_ms (s : State) (core : Nat) (o : MemOp) (r : Request) (p : Packet) :
    (s.fillLine core o r p).ms = s.ms := by
  unfold State.fillLine
  split <;> simp

@[simp] theorem State.answerOp_ms (s : State) (core id i : Nat) (p : Packet) : (s.answerOp core id i p).ms = s.ms := by
  unfold State.answerOp
  split
  · rfl
  · split
    · rfl
    · simp [State.progress_ms]

@[simp] theorem State.chunkCame_ms (s : State) (port : Nat) (p : Packet) (err : Option (Nat × Nat)) :
    (s.chunkCame port p err).ms = s.ms := by
  unfold State.chunkCame
  dsimp only
  repeat' split
  all_goals simp

@[simp] theorem State.chunkWritten_ms (s : State) (core id chunk : Nat) (p : Packet) :
    (s.chunkWritten core id chunk p).ms = s.ms := by
  unfold State.chunkWritten
  split <;> simp

@[simp] theorem State.peerReply_ms (s : State) (j : Nat) (q p : Packet) : (s.peerReply j q p).ms = s.ms := by
  unfold State.peerReply
  dsimp only
  split_ifs <;> simp

@[simp] theorem State.cicadaCame_ms (s : State) (owner key : Nat) (p : Packet) :
    (s.cicadaCame owner key p).ms = s.ms := by
  unfold State.cicadaCame
  dsimp only
  split_ifs <;> simp

@[simp] theorem State.readReply_ms (s : State) (c : Client) (q p : Packet) : (s.readReply c q p).1.ms = s.ms := by
  unfold State.readReply
  split <;> simp

@[simp] theorem State.answerClient_ms (s : State) (port : Nat) (c : Client) (p : Packet) :
    (s.answerClient port c p).ms = s.ms := by
  unfold State.answerClient
  split
  all_goals repeat' split
  all_goals simp

@[simp] theorem State.takeReply_ms (s : State) (port i : Nat) : (s.takeReply port i).ms = s.ms := rfl

@[simp] theorem State.redirectOp_ms (s : State) (core id i : Nat) : (s.redirectOp core id i).ms = s.ms := by
  unfold State.redirectOp
  split
  · rfl
  · simp [State.progress_ms]

@[simp] theorem State.redirectFetch_ms (s : State) (i port : Nat) (q p : Packet) (o : Outstanding) :
    (s.redirectFetch i port q p o).ms = s.ms := by
  unfold State.redirectFetch
  dsimp only
  split
  · next heq => simp [State.ms_of_fst heq]
  · next heq => simp [State.ms_of_fst heq]
  · next heq => simp [State.ms_of_fst heq]
  · next heq => split <;> simp [State.ms_of_fst heq]

@[simp] theorem State.redirectCopy_ms (s : State) (core id : Nat) (va : CopyEntry → Nat) (f : CopyEntry → CopyEntry) :
    (s.redirectCopy core id va f).ms = s.ms := by
  unfold State.redirectCopy
  split <;> simp

@[simp] theorem State.redirectClient_ms (s : State) (c : Client) : (s.redirectClient c).ms = s.ms := by
  unfold State.redirectClient
  split <;> simp

@[simp] theorem State.answerSlice_ms (s : State) (port : Nat) (p : Packet) (ty : PType) (reason : Nat) :
    (s.answerSlice port p ty reason).ms = s.ms := rfl

@[simp] theorem State.sramRecord_ms (s : State) (core dom : Nat) : (s.sramRecord core dom).ms = s.ms := rfl

@[simp] theorem State.appendRing_ms (s0 : State) (port core n : Nat) (p : Packet) :
    (s0.appendRing port core n p).ms = s0.ms := by
  unfold State.appendRing
  dsimp only
  repeat' split
  all_goals simp

@[simp] theorem State.remoteAtoms_ms (s0 : State) (port core : Nat) (p : Packet) :
    (s0.remoteAtoms port core p).ms = s0.ms := by
  unfold State.remoteAtoms
  dsimp only
  repeat' split
  all_goals simp

@[simp] theorem State.receiveAdd_ms (s : State) (port core : Nat) (p : Packet) :
    (s.receiveAdd port core p).ms = s.ms := rfl

@[simp] theorem State.cacheHeader_ms (s : State) (h : CachedHeader) : (s.cacheHeader h).ms = s.ms := by
  unfold State.cacheHeader
  dsimp only
  split_ifs <;> simp

@[simp] theorem State.addGrid_ms (s : State) (g : Grid) : (s.addGrid g).ms = s.ms := rfl

@[simp] theorem State.noteQueue_ms (s : State) (n : Nat) (trigger : Bool) (seq ts : Nat) :
    (s.noteQueue n trigger seq ts).ms = s.ms := rfl

@[simp] theorem State.endSeed_ms (s : State) (k : Nat) : (s.endSeed k).ms = s.ms := by
  unfold State.endSeed
  dsimp only
  repeat' split
  all_goals simp

@[simp] theorem State.freePhasers_ms (s : State) (grid : Nat) : (s.freePhasers grid).ms = s.ms := rfl

@[simp] theorem State.gridTriggered_ms (s : State) (id : Nat) (g : Grid) : (s.gridTriggered id g).ms = s.ms := by
  unfold State.gridTriggered
  split <;> simp

@[simp] theorem State.gridRetired_ms (s : State) (id : Nat) (g : Grid) : (s.gridRetired id g).ms = s.ms := by
  unfold State.gridRetired
  dsimp only
  repeat' split
  all_goals simp

@[simp] theorem State.logNote_ms (s : State) (die cls : Nat) (g : Bool) (dom unit index : Nat) :
    (s.logNote die cls g dom unit index).ms = s.ms := rfl

@[simp] theorem State.revokeEntry_ms (s : State) (k i : Nat) : (s.revokeEntry k i).ms = s.ms := by
  unfold State.revokeEntry
  split <;> simp

@[simp] theorem State.dropLines_ms (s : State) (k : Nat) : (s.dropLines k).ms = s.ms := rfl

@[simp] theorem State.revokeResidencies_ms (s : State) (k : Nat) : (s.revokeResidencies k).ms = s.ms := by
  have htable : ∀ (c : Nat) (is : List Nat) (t : State), (is.foldl (fun u i =>
      let r := (u.cluster c).residency i
      if r.st ≠ .free ∧ r.key = k then (u.freePlanes c i).mapResidency c i (fun r => { r with st := .revoked }) else u)
      t).ms = t.ms := by
    refine fun c is t => State.foldl_ms (fun u i => ?_) is t
    dsimp only
    split_ifs <;> simp
  unfold State.revokeResidencies
  induction s.clusters.map (fun e => e.1) generalizing s with
  | nil => rfl
  | cons c cs ih => rw [List.foldl_cons, ih, htable]

@[simp] theorem State.leafFrom_ms (die owner : Nat) (d : Dom) (va ts n : Nat) :
    ∀ (s : State) (l table key : Nat), (State.leafFrom die owner d va ts n s l table key).1.ms = s.ms := by
  induction n with
  | zero => exact fun _ _ _ _ => rfl
  | succ n ih =>
    intro s l table key
    unfold State.leafFrom
    dsimp only
    split
    · rfl
    · split
      · next heq => simp [State.ms_of_fst heq]
      · next heq => simp [State.ms_of_fst heq]
      · next heq => split_ifs <;> simp [ih, State.ms_of_fst heq]

@[simp] theorem State.markLeaves_ms (die owner dom ts : Nat) (m : Migration) (n : Nat) :
    ∀ s : State, (State.markLeaves die owner dom ts m n s).1.ms = s.ms := by
  induction n with
  | zero => exact fun _ => rfl
  | succ n ih =>
    intro s
    unfold State.markLeaves
    split
    · next heq => simp [ih, State.ms_of_fst heq]
    · simp

@[simp] theorem State.moveLeaves_ms (die owner dom ts : Nat) (m : Migration) (new n : Nat) :
    ∀ s : State, (State.moveLeaves die owner dom ts m new n s).1.ms = s.ms := by
  induction n with
  | zero => exact fun _ => rfl
  | succ n ih =>
    intro s
    unfold State.moveLeaves
    dsimp only
    split
    · next heq =>
      split
      · next hwrite => simp [ih, State.ms_of_fst hwrite, State.ms_of_fst heq]
      · simp [State.ms_of_fst heq]
    · simp

@[simp] theorem State.sendMigration_ms (s : State) (die : Nat) (d : Dom) (m : Migration) (ty : PType) :
    (s.sendMigration die d m ty).ms = s.ms := State.foldl_ms (fun _ _ => State.sendRequest_ms ..) _ _

@[simp] theorem State.setMigration_ms (s : State) (n : Nat) (m : Option Migration) : (s.setMigration n m).ms = s.ms := rfl

@[simp] theorem State.handOver_ms (s : State) (k : Nat) : (s.handOver k).ms = s.ms := by
  simp only [State.handOver, State.setCluster_ms]
  rw [State.foldl_ms fun _ _ => State.setCore_ms ..]
  exact State.foldl_ms (fun t i => by split_ifs <;> simp) _ _

@[simp] theorem State.freeLanes_ms (s : State) : s.freeLanes.ms = s.ms :=
  State.foldl_ms (fun t e => by
    split
    · split_ifs <;> simp
    · rfl) _ _

@[simp] theorem State.linkRecord_ms (s : State) (j : Nat) : (s.linkRecord j).ms = s.ms := rfl

@[simp] theorem State.nopelDown_ms (s : State) (j : Nat) : (s.nopelDown j).ms = s.ms := by
  simp only [State.nopelDown]
  rw [State.foldl_ms fun _ _ => State.answerClient_ms ..]
  simp

@[simp] theorem State.ingress_ms (s : State) (j src : Nat) (p : Packet) : (s.ingress j src p).ms = s.ms := rfl

@[simp] theorem State.linkPacket_ms (s : State) (j : Nat) (x : Nat × Nat × Option Packet × List (BitVec 128)) :
    (s.linkPacket j x).ms = s.ms := by
  unfold State.linkPacket
  dsimp only
  repeat' split
  all_goals simp

@[simp] theorem State.injectPeer_ms (s : State) (j src : Nat) (p : Packet) : (s.injectPeer j src p).ms = s.ms := by
  unfold State.injectPeer
  dsimp only
  repeat' split
  all_goals simp

@[simp] theorem State.takePeerAnswer_ms (s : State) (j src : Nat) (p : Packet) :
    (s.takePeerAnswer j src p).ms = s.ms := by
  unfold State.takePeerAnswer
  dsimp only
  repeat' split
  all_goals simp

@[simp] theorem State.hostDone_ms (s : State) (r : HostReply) : (s.hostDone r).ms = s.ms := rfl

@[simp] theorem State.commandDone_ms (s : State) (r : List Byte) : (s.commandDone r).ms = s.ms := rfl

@[simp] theorem State.commandRefused_ms (s : State) : (s.commandRefused).ms = s.ms := rfl

theorem State.command_ms (s : State) (cmd : Nat) (body : Nat → Option (State × List Byte))
    (hbody : ∀ d r, body d = some r → r.1.ms = s.ms) : (s.command cmd body).ms = s.ms := by
  unfold State.command
  split
  · rfl
  · split
    · split
      · split
        · next r hr => simp [hbody _ r hr]
        · simp
      · simp
    · split
      · next r hr => simp [hbody _ r hr]
      · simp

@[simp] theorem State.mapCtx_ms (s : State) (i : Nat) (f : CtxSched → CtxSched) : (s.mapCtx i f).ms = s.ms := rfl

@[simp] theorem State.abandonLoad_ms (s : State) (e : SeqEntry) : (s.abandonLoad e).ms = s.ms := by
  unfold State.abandonLoad
  split <;> simp

@[simp] theorem State.engineStops_ms (s : State) (ctx : Nat) (e : Engine) : (s.engineStops ctx e).ms = s.ms := by
  unfold State.engineStops
  split
  · split
    · exact State.foldl_ms (fun _ _ => State.unbind_ms ..) _ _
    · rfl
  · exact State.foldl_ms (fun _ _ => State.setCore_ms ..) _ _
  · exact State.foldl_ms (fun _ _ => State.foldl_ms (fun _ _ => State.abandonLoad_ms ..) _ _) _ _
  · rfl

@[simp] theorem State.clearCore_ms (s : State) (v : SavedCore) : (s.clearCore v).ms = s.ms := by
  simp only [State.clearCore, State.setCluster_ms]
  rw [State.foldl_ms fun _ _ => State.setWave_ms ..]
  simp

@[simp] theorem State.clearSync_ms (s : State) (x : Nat × Map Phaser × Map Stream) : (s.clearSync x).ms = s.ms := rfl

@[simp] theorem State.settleResidency_ms (s : State) (n : Nat) : (s.settleResidency n).ms = s.ms := by
  unfold State.settleResidency
  dsimp only
  split_ifs <;> simp

@[simp] theorem State.settleResidencies_ms (s : State) (gangs : Map Gang) : (s.settleResidencies gangs).ms = s.ms :=
  State.foldl_ms (fun _ _ => State.foldl_ms (fun _ _ => State.settleResidency_ms ..) _ _) _ _

@[simp] theorem State.restoreSync_ms (s : State) (x : Nat × Map Phaser × Map Stream) : (s.restoreSync x).ms = s.ms := rfl

@[simp] theorem State.restoreWave_ms (s : State) (k slot : Nat) (w : Wave) : (s.restoreWave k slot w).ms = s.ms := by
  simp [State.restoreWave]

@[simp] theorem State.restoreWaves_ms (s : State) (dom k : Nat) (v : SavedCore) : (s.restoreWaves dom k v).ms = s.ms := by
  refine State.foldl_ms (fun t b => ?_) _ _
  rw [State.mirrorWaves_ms]
  exact State.foldl_ms (fun _ _ => State.restoreWave_ms ..) _ _

@[simp] theorem State.restoreCore_ms (s : State) (ctx : Context) (hurt : List Nat) (place : Nat → Nat) (v : SavedCore) (k : Nat) :
    (s.restoreCore ctx hurt place v k).ms = s.ms := by
  unfold State.restoreCore
  dsimp only
  rw [State.foldl_ms fun t i => by split_ifs <;> simp]
  simp

@[simp] theorem State.backAgain_ms (s : State) (ctx time : Nat) : (s.backAgain ctx time).ms = s.ms := by
  unfold State.backAgain
  split <;> simp

@[simp] theorem State.evictWay_ms (s : State) (slice set : Nat) (w : Way) : (s.evictWay slice set w).ms = s.ms := by
  unfold State.evictWay
  dsimp only
  split_ifs <;> simp [State.startWinv_ms]

@[simp] theorem State.sweepNext_ms (s : State) (slice : Nat) : (s.sweepNext slice).ms = s.ms := by
  unfold State.sweepNext
  dsimp only
  split
  · rfl
  · split
    · rfl
    · rw [State.setSlice_ms]
      exact State.foldl_ms (fun _ _ => State.evictWay_ms ..) _ _

@[simp] theorem State.noteBoot_ms (s : State) : (s.noteBoot).ms = s.ms := rfl

end Sys2Proof.Machine
end

section
/-! SUPPORT. Operations that leave the bytes of memory and change its other parts, and operations that write bytes: these keep
the canonical form (R73). -/

namespace Sys2Proof.Machine

/-! ## What leaves the bytes of memory and changes other parts of it -/

/-- The bytes of memory after a loop whose every turn leaves them. -/
theorem State.foldl_mem {α : Type} {f : State → α → State} (h : ∀ s x, (f s x).ms.mem = s.ms.mem) (l : List α) (s : State) :
    (l.foldl f s).ms.mem = s.ms.mem := by
  induction l generalizing s with
  | nil => rfl
  | cons x l ih => rw [List.foldl_cons, ih, h]

@[simp] theorem State.cacheEntry_mem (s : State) (c : CachedEntry) : (s.cacheEntry c).ms.mem = s.ms.mem := by
  unfold State.cacheEntry
  dsimp only
  split_ifs <;> simp

@[simp] theorem State.lineBad_mem (s : State) (die cls dom unit index : Nat) (cs : List Nat) :
    (s.lineBad die cls dom unit index cs).ms.mem = s.ms.mem := by
  simp [State.lineBad]

@[simp] theorem State.dropTranslations_mem (s : State) (tlb : TlbEntry → Bool) (cached : CachedEntry → Bool)
    (walk : Nat → Nat → Bool) : (s.dropTranslations tlb cached walk).ms.mem = s.ms.mem := rfl

@[simp] theorem State.dropRange_mem (s : State) (asn va len : Nat) : (s.dropRange asn va len).ms.mem = s.ms.mem := rfl

@[simp] theorem State.dropKey_mem (s : State) (k : Nat) : (s.dropKey k).ms.mem = s.ms.mem := rfl

@[simp] theorem State.setKey_mem (s : State) (k : Nat) (x : KeySlot) : (s.setKey k x).ms.mem = s.ms.mem := rfl

/-- Scrambling the parts of domains changes no listed byte: what stands there is undefined, not written. -/
theorem foldl_scramble_mem (l : List (Nat × Dom)) (draw : Nat) (m : MemSys) :
    (l.foldl (fun m e => m.scramble e.2 draw) m).mem = m.mem := by
  induction l generalizing m with
  | nil => rfl
  | cons e l ih => rw [List.foldl_cons, ih]; rfl

@[simp] theorem State.recut_mem (s : State) (new : Map Dom) : (s.recut new).ms.mem = s.ms.mem := by
  have hclusters : ∀ l : List Nat, (l.foldl (fun t k => t.handOver k) s).ms = s.ms :=
    fun l => State.foldl_ms (fun _ _ => State.handOver_ms ..) l s
  unfold State.recut
  dsimp only
  rw [foldl_scramble_mem, hclusters]

@[simp] theorem State.cut_mem (s : State) (l : List DomainPlan) : (s.cut l).ms.mem = s.ms.mem :=
  State.recut_mem s _

@[simp] theorem State.poisonArea_mem (s : State) (cs : List Nat) : (s.poisonArea cs).ms.mem = s.ms.mem := rfl

@[simp] theorem State.replaceSlice_mem (s : State) (i : Nat) : (s.replaceSlice i).ms.mem = s.ms.mem := by
  simp [State.replaceSlice]

@[simp] theorem State.emptyKeys_mem (s : State) (dom : Nat) : (s.emptyKeys dom).ms.mem = s.ms.mem :=
  State.foldl_mem (fun _ _ => by simp) _ _

/-! ## What writes memory: its canonical form stays -/

/-- The canonical form after a loop whose every turn keeps it. -/
theorem State.foldl_wf {α : Type} {f : State → α → State}
    (hf : ∀ s x, Memory.wf s.ms.mem = true → Memory.wf (f s x).ms.mem = true) (l : List α) (s : State)
    (h : Memory.wf s.ms.mem = true) : Memory.wf (l.foldl f s).ms.mem = true := by
  induction l generalizing s with
  | nil => exact h
  | cons x l ih => exact ih _ (hf s x h)

theorem State.wf_of_fst {β : Type} {x : State × β} {s : State} {b : β} (heq : x = (s, b))
    (h : Memory.wf x.1.ms.mem = true) : Memory.wf s.ms.mem = true := by rw [heq] at h; exact h

/-- Writing a line keeps the canonical form, also where the state is taken apart. -/
theorem State.homeWrite_cuts_wf (s : State) (d : Dom) (key pa n ts : Nat) (mt2 rmw : Bool) (new : List Byte → List Byte)
    (cuts : List (Nat × Nat)) (h : Memory.wf s.ms.mem = true) :
    Memory.wf (s.homeWrite d key pa n ts mt2 rmw new cuts).1.ms.mem = true := by
  have hl := State.lineFor_ms s d pa key mt2
  unfold State.homeWrite
  dsimp only
  split_ifs
  · exact h
  · rw [State.keepLine_ms, hl]; exact h
  · refine State.writeLine_wf _ _ _ _ ?_
    rw [State.keepLine_ms]
    show Memory.wf (s.lineFor d pa key mt2).1.ms.mem = true
    rw [hl]; exact h

/-- A write whose line was watched also sends the line's WINV (R96). -/
theorem State.watchedWrite_wf {r : State × HomeAnswer} (hr : Memory.wf r.1.ms.mem = true) (slice dom line ts : Nat) :
    Memory.wf (if r.2.watched then r.1.startWinv slice dom line ts none else r.1).ms.mem = true := by
  split
  · rw [State.startWinv_ms]; exact hr
  · exact hr

@[simp] theorem State.walkUse_wf (s : State) (die : Nat) (d : Dom) (ctx : Context) (va ts : Nat) (ks : List Nat) (p : WalkPos)
    (e : Nat) (h : Memory.wf s.ms.mem = true) : Memory.wf (s.walkUse die d ctx va ts ks p e).1.ms.mem = true := by
  unfold State.walkUse
  extract_lets leaf good pa e1 r s1
  have hset : Memory.wf s1.ms.mem = true := State.watchedWrite_wf (State.homeWrite_cuts_wf _ _ _ _ _ _ _ _ _ _ h) ..
  split
  · exact h
  · split
    · exact h
    · split
      · simpa using h
      · split
        · exact h
        · split
          · exact h
          · split
            · exact hset
            · split
              · exact hset
              · rw [State.cacheEntry_mem]; exact hset

@[simp] theorem State.walkAct_wf (s : State) (die : Nat) (ctx : Context) (va ts : Nat) (ks : List Nat) (fresh : Bool)
    (pos : Option WalkPos) (h : Memory.wf s.ms.mem = true) : Memory.wf (s.walkAct die ctx va ts ks fresh pos).1.ms.mem = true := by
  unfold State.walkAct
  split
  · exact h
  · dsimp only
    split
    · simpa using h
    · exact State.walkUse_wf _ _ _ _ _ _ _ _ _ h

@[simp] theorem State.serveWalk_wf (s : State) (cluster i : Nat) (w : Walker) (h : Memory.wf s.ms.mem = true) :
    Memory.wf (s.serveWalk cluster i w).ms.mem = true := by
  have hact := State.walkAct_wf s (cluster / 128) w.ctx (w.page * 4096) w.ts (w.waiters.map (fun m => m.2.2)) w.fresh w.pos h
  unfold State.serveWalk
  split
  · next heq => exact State.wf_of_fst heq hact
  · next heq => simpa using State.wf_of_fst heq hact
  · next heq => simpa using State.wf_of_fst heq hact
  · next heq => simpa using State.wf_of_fst heq hact
  · next heq =>
    dsimp only
    split_ifs <;> simpa using State.wf_of_fst heq hact

@[simp] theorem State.feWalk_wf (s : State) (die owner key : Nat) (ctx : Context) (va ts : Nat) (write : Bool)
    (h : Memory.wf s.ms.mem = true) : Memory.wf (s.feWalk die owner key ctx va ts write).1.ms.mem = true := by
  have hact := State.walkAct_wf s die ctx va ts [if write then 5 else 4] (s.feWalkOf owner key).fresh (s.feWalkOf owner key).pos h
  unfold State.feWalk
  dsimp only
  split
  · exact h
  · split
    · next heq => exact State.wf_of_fst heq hact
    · next heq => simpa using State.wf_of_fst heq hact
    · next heq => simpa using State.wf_of_fst heq hact
    · next heq => simpa using State.wf_of_fst heq hact
    · next heq =>
      split <;> simpa using State.wf_of_fst heq hact

@[simp] theorem State.feChunk_wf (s : State) (die owner : Nat) (ctx : Context) (va n ts : Nat) (write : Option (List Byte))
    (h : Memory.wf s.ms.mem = true) : Memory.wf (s.feChunk die owner ctx va n ts write).1.ms.mem = true := by
  have hwalk := State.feWalk_wf s die owner (2 * va + write.isSome.toNat) ctx va ts write.isSome h
  unfold State.feChunk
  dsimp only
  split
  · exact h
  · split
    · exact h
    · split
      · next heq => exact State.wf_of_fst heq hwalk
      · next heq => exact State.wf_of_fst heq hwalk
      · next heq => simpa using State.wf_of_fst heq hwalk

@[simp] theorem State.feRead_wf (die owner : Nat) (ctx : Context) (ts k : Nat) :
    ∀ (s : State) (va n : Nat), Memory.wf s.ms.mem = true → Memory.wf (State.feRead die owner ctx ts k s va n).1.ms.mem = true := by
  induction k with
  | zero => exact fun _ _ _ h => h
  | succ k ih =>
    intro s va n h
    unfold State.feRead
    dsimp only
    split
    · exact h
    · split
      · next heq =>
        have h1 := State.wf_of_fst heq (State.feChunk_wf _ _ _ _ _ _ _ _ h)
        split
        · next hrest => exact State.wf_of_fst hrest (ih _ _ _ h1)
        · exact ih _ _ _ h1
      · exact State.feChunk_wf _ _ _ _ _ _ _ _ h

@[simp] theorem State.feLoad_wf (s : State) (die owner : Nat) (ctx : Context) (va n ts : Nat) (h : Memory.wf s.ms.mem = true) :
    Memory.wf (s.feLoad die owner ctx va n ts).1.ms.mem = true := State.feRead_wf _ _ _ _ _ _ _ _ h

@[simp] theorem State.feWrite_wf (die owner : Nat) (ctx : Context) (ts k : Nat) :
    ∀ (s : State) (va : Nat) (bs : List Byte), Memory.wf s.ms.mem = true →
      Memory.wf (State.feWrite die owner ctx ts k s va bs).1.ms.mem = true := by
  induction k with
  | zero => exact fun _ _ _ h => h
  | succ k ih =>
    intro s va bs h
    unfold State.feWrite
    dsimp only
    split
    · exact h
    · split
      · next heq => exact ih _ _ _ (State.wf_of_fst heq (State.feChunk_wf _ _ _ _ _ _ _ _ h))
      · exact State.feChunk_wf _ _ _ _ _ _ _ _ h

@[simp] theorem State.feStore_wf (s : State) (die owner : Nat) (ctx : Context) (va ts : Nat) (bs : List Byte)
    (h : Memory.wf s.ms.mem = true) : Memory.wf (s.feStore die owner ctx va ts bs).1.ms.mem = true :=
  State.feWrite_wf _ _ _ _ _ _ _ _ h

@[simp] theorem State.putEvent_wf (s : State) (d : Nat) (v : BitVec 128) (h : Memory.wf s.ms.mem = true) :
    Memory.wf (s.putEvent d v).ms.mem = true := Memory.wf_write _ _ _ (Memory.wf_write _ _ _ h)

@[simp] theorem State.putEvents_wf (s : State) (d : Nat) (vs : List (BitVec 128)) (h : Memory.wf s.ms.mem = true) :
    Memory.wf (s.putEvents d vs).ms.mem = true := State.foldl_wf (fun _ _ h => State.putEvent_wf _ _ _ h) _ _ h

@[simp] theorem State.postEvent_wf (s : State) (d : Nat) (v : BitVec 128) (h : Memory.wf s.ms.mem = true) :
    Memory.wf (s.postEvent d v).ms.mem = true := by
  unfold State.postEvent
  dsimp only
  split_ifs <;> simp [h]

@[simp] theorem State.queueError_wf (s : State) (n code : Nat) (q : QueueRec) (h : Memory.wf s.ms.mem = true) :
    Memory.wf (s.queueError n code q).1.ms.mem = true := by
  unfold State.queueError
  dsimp only
  split_ifs <;> simp [h]

@[simp] theorem State.requestReplace_wf (s : State) (d : Nat) (h : Memory.wf s.ms.mem = true) :
    Memory.wf (s.requestReplace d).ms.mem = true := by
  unfold State.requestReplace
  dsimp only
  split_ifs <;> simp [h]

@[simp] theorem State.flushOnce_wf (s : State) (d : Nat) (h : Memory.wf s.ms.mem = true) :
    Memory.wf (s.flushOnce d).ms.mem = true := by
  unfold State.flushOnce
  dsimp only
  split
  · split_ifs <;> simp [h]
  · split
    · exact h
    · split
      · simp [h]
      · split_ifs <;> simp [h]

@[simp] theorem State.corrected_wf (s : State) (die cls synd dom part unit index : Nat) (h : Memory.wf s.ms.mem = true) :
    Memory.wf (s.corrected die cls synd dom part unit index).ms.mem = true := by
  unfold State.corrected
  dsimp only
  split_ifs <;> simp [h]

@[simp] theorem State.strike_wf (s : State) (u : Upset) (h : Memory.wf s.ms.mem = true) :
    Memory.wf (s.strike u).ms.mem = true := by
  unfold State.strike
  dsimp only
  repeat' split
  all_goals simp [h]

@[simp] theorem State.meetParity_wf (s : State) (v : View) (h : Memory.wf s.ms.mem = true) :
    Memory.wf (s.meetParity v).1.ms.mem = true := by
  unfold State.meetParity
  dsimp only
  split
  · simp [h]
  · exact State.foldl_wf (fun _ _ h => State.corrected_wf _ _ _ _ _ _ _ _ h) _ _ h

@[simp] theorem State.issued_wf (s : State) (h : Memory.wf s.ms.mem = true) : Memory.wf s.issued.1.ms.mem = true := by
  have hfetch : Memory.wf s.fetchDecode.1.ms.mem = true := by simpa using h
  unfold State.issued
  split
  · next heq => exact State.wf_of_fst heq hfetch
  · next heq =>
    have h1 := State.wf_of_fst heq hfetch
    split
    · exact h1
    · split
      · next hmet => exact State.wf_of_fst hmet (State.meetParity_wf _ _ h1)
      · next hmet => exact State.wf_of_fst hmet (State.meetParity_wf _ _ h1)

@[simp] theorem State.turn_wf (s : State) (h : Memory.wf s.ms.mem = true) : Memory.wf s.turn.1.ms.mem = true := by
  unfold State.turn
  dsimp only
  repeat' split
  all_goals simp [h]

@[simp] theorem State.applyRequest_wf (s : State) (p : Packet) (h : Memory.wf s.ms.mem = true) :
    Memory.wf (s.applyRequest p).ms.mem = true := by
  have hw := fun rmw new cuts => State.homeWrite_cuts_wf (s.dropLoose (s.keyed p)) ((s.dropLoose (s.keyed p)).domOf (s.keyed p).dom)
    (s.keyed p).key (s.keyed p).addr (s.keyed p).len (s.keyed p).ts (s.keyed p).mt2 rmw new cuts (by simpa using h)
  unfold State.applyRequest
  dsimp only
  split
  · split_ifs <;> simp [h, State.homeRead_ms]
  · simp [h, State.homeRead_ms]
  · simp [hw]
  · simp [hw]
  · simp [hw]
  · simp [h]
  · simp [h]

@[simp] theorem State.releaseWaiting_wf (slice n : Nat) :
    ∀ s : State, Memory.wf s.ms.mem = true → Memory.wf (State.releaseWaiting slice n s).ms.mem = true := by
  induction n with
  | zero => exact fun _ h => h
  | succ n ih =>
    intro s h
    unfold State.releaseWaiting
    split
    · exact h
    · exact ih _ (State.applyRequest_wf _ _ h)

/-- The state after a line's copy, with the watch bit of the old line cleared and its WINV sent where it was watched. -/
theorem State.copyLine_wf {s t : State} {d : Dom} {slice : Nat} {m : Migrating} {line : Nat} (h : Memory.wf s.ms.mem = true)
    (ht : s.copyLine d slice m line = some t) : Memory.wf t.ms.mem = true := by
  have hwrite := fun key b ts mt2 bs => State.engineWrite_wf s d key b ts mt2 bs h
  unfold State.copyLine at ht
  dsimp only at ht
  split at ht
  · cases ht
  · split at ht
    · split at ht
      · cases ht
      · obtain rfl := Option.some.inj ht
        split <;> simp [State.startWinv_ms, hwrite]
    · split at ht
      · obtain rfl := Option.some.inj ht
        simpa using h
      · split at ht
        · cases ht
        · split at ht
          · next hsend =>
            obtain rfl := Option.some.inj ht
            split <;> simp [State.startWinv_ms, State.sendSystem_ms hsend, h]
          · obtain rfl := Option.some.inj ht
            simpa using h

@[simp] theorem State.copyLines_wf (d : Dom) (slice : Nat) (m : Migrating) (ls : List Nat) :
    ∀ s : State, Memory.wf s.ms.mem = true → Memory.wf (State.copyLines d slice m ls s).1.ms.mem = true := by
  induction ls with
  | nil => exact fun _ h => h
  | cons l ls ih =>
    intro s h
    unfold State.copyLines
    split
    · next hcopy => exact ih _ (State.copyLine_wf h hcopy)
    · exact h

@[simp] theorem State.copyDrained_wf (s : State) (slice dom : Nat) (h : Memory.wf s.ms.mem = true) :
    Memory.wf (s.copyDrained slice dom).ms.mem = true := by
  refine State.foldl_wf (fun t m h => ?_) _ _ h
  dsimp only
  split_ifs <;> simp [h]

@[simp] theorem State.settleSlice_wf (s : State) (slice dom : Nat) (h : Memory.wf s.ms.mem = true) :
    Memory.wf (s.settleSlice slice dom).ms.mem = true := by
  simp [State.settleSlice, h]

@[simp] theorem State.takeRequest_wf (s : State) (slice i : Nat) (p : Packet) (h : Memory.wf s.ms.mem = true) :
    Memory.wf (s.takeRequest slice i p).ms.mem = true := by
  unfold State.takeRequest
  dsimp only
  repeat' split
  all_goals simp [h]

@[simp] theorem State.sliceTake_wf (s : State) (slice i : Nat) (ty : PType) (h : Memory.wf s.ms.mem = true) :
    Memory.wf (s.sliceTake slice i ty).ms.mem = true := by
  unfold State.sliceTake
  dsimp only
  split
  · exact h
  · split_ifs <;> simp [h]

@[simp] theorem State.loopStep_wf (s : State) (e : SeqEntry) (g : Gang) (h : Memory.wf s.ms.mem = true) :
    Memory.wf (s.loopStep e g).ms.mem = true := by
  unfold State.loopStep
  dsimp only
  repeat' split
  all_goals simp [h]

@[simp] theorem State.readArgs_wf (die owner : Nat) (g : Grid) (k : Nat) :
    ∀ (s : State) (va n : Nat), Memory.wf s.ms.mem = true → Memory.wf (State.readArgs die owner g k s va n).1.ms.mem = true := by
  induction k with
  | zero => exact fun _ _ _ h => h
  | succ k ih =>
    intro s va n h
    have hrest : ∀ (t : State) (ws : List Word), Memory.wf t.ms.mem = true → Memory.wf
        (match State.readArgs die owner g k t ((va + pieceLen va n) % 2 ^ 57) (n - pieceLen va n) with
          | (t1, some vs) => (t1, some (ws ++ vs))
          | r => r).1.ms.mem = true := by
      intro t ws ht
      split
      · next heq => exact State.wf_of_fst heq (ih _ _ _ ht)
      · exact ih _ _ _ ht
    have hload := State.feLoad_wf s die owner g.ctx va (pieceLen va n) g.startTs h
    unfold State.readArgs
    dsimp only
    split
    · exact h
    · split
      · next heq => exact State.wf_of_fst heq hload
      · next heq => exact hrest _ _ (State.wf_of_fst heq hload)
      · next heq => exact hrest _ _ (by simpa using State.wf_of_fst heq hload)

@[simp] theorem State.argsOf_wf (gid : Nat) (g : Grid) (bs : List Nat) :
    ∀ s : State, Memory.wf s.ms.mem = true → Memory.wf (State.argsOf s gid g bs).1.ms.mem = true := by
  induction bs with
  | nil => exact fun _ h => h
  | cons b bs ih =>
    intro s h
    have hread := State.readArgs_wf (s.argsDie g) (argsOwner gid b) g 16 s (g.args % 2 ^ 57) (4 * g.hdr.narg) h
    unfold State.argsOf
    split
    · next heq => exact State.wf_of_fst heq hread
    · next heq =>
      have h1 := ih _ (State.wf_of_fst heq hread)
      split
      · next hrest => exact State.wf_of_fst hrest h1
      · exact h1

@[simp] theorem State.applyBell_wf (s : State) (n : Nat) (tail : BitVec 32) (ts : Nat) (h : Memory.wf s.ms.mem = true) :
    Memory.wf (s.applyBell n tail ts).ms.mem = true := by
  unfold State.applyBell
  dsimp only
  split_ifs <;> simp [h]

@[simp] theorem State.applyChange_wf (s : State) (c : QueueChange) (h : Memory.wf s.ms.mem = true) :
    Memory.wf (s.applyChange c).ms.mem = true := by
  unfold State.applyChange
  split
  · simp [h]
  · simp [h]
  · dsimp only
    split <;> simp [h]

@[simp] theorem State.submit_wf (s : State) (c : QueueChange) (h : Memory.wf s.ms.mem = true) :
    Memory.wf (s.submit c).ms.mem = true := by
  unfold State.submit
  split <;> simp [h]

@[simp] theorem State.retirePacket_wf (s : State) (c : QueueChange) (h : Memory.wf s.ms.mem = true) :
    Memory.wf (s.retirePacket c).ms.mem = true := by
  unfold State.retirePacket
  dsimp only
  repeat' split
  all_goals simp [h]

@[simp] theorem State.retired_wf (s : State) (n : Nat) (h : Memory.wf s.ms.mem = true) :
    Memory.wf (s.retired n).ms.mem = true := State.retirePacket_wf _ _ h

@[simp] theorem State.retiredWith_wf (s : State) (n code : Nat) (h : Memory.wf s.ms.mem = true) :
    Memory.wf (s.retiredWith n code).ms.mem = true := State.retirePacket_wf _ _ h

@[simp] theorem State.launchEnded_wf (s : State) (n ts : Nat) (err : Option Nat) (h : Memory.wf s.ms.mem = true) :
    Memory.wf (s.launchEnded n ts err).ms.mem = true := State.retirePacket_wf _ _ h

@[simp] theorem State.parse_wf (s : State) (die n : Nat) (h : Memory.wf s.ms.mem = true) :
    Memory.wf (s.parse die n).ms.mem = true := by
  unfold State.parse
  dsimp only
  split
  · simp [h]
  · split
    · next heq => exact State.wf_of_fst heq (State.feLoad_wf _ _ _ _ _ _ _ h)
    · next heq => simp [State.wf_of_fst heq (State.feLoad_wf _ _ _ _ _ _ _ h)]
    · next heq =>
      have h1 := State.wf_of_fst heq (State.feLoad_wf _ _ _ _ _ _ _ h)
      split
      · split <;> simp [h1]
      · split
        · simp [h1]
        · split
          · split <;> simp [h1]
          · split
            · simp [h1]
            · split
              · simp [h1]
              · split
                · next heq2 => exact State.wf_of_fst heq2 (State.feLoad_wf _ _ _ _ _ _ _ h1)
                · next heq2 => simp [State.wf_of_fst heq2 (State.feLoad_wf _ _ _ _ _ _ _ h1)]
                · next heq2 => split <;> simp [State.wf_of_fst heq2 (State.feLoad_wf _ _ _ _ _ _ _ h1)]

@[simp] theorem State.serveLane_wf (s : State) (die i : Nat) (h : Memory.wf s.ms.mem = true) :
    Memory.wf (s.serveLane die i).ms.mem = true := by
  unfold State.serveLane
  split
  · exact h
  · dsimp only
    repeat' split
    all_goals simp [h]

@[simp] theorem State.signalEnd_wf (s : State) (n : Nat) (b : List Byte) (h : Memory.wf s.ms.mem = true) :
    Memory.wf (s.signalEnd n b).ms.mem = true := by
  unfold State.signalEnd
  dsimp only
  split_ifs <;> simp [h]

@[simp] theorem State.feWindow_wf (s : State) (die n : Nat) (ctx : Context) (va : Nat) (write : Bool)
    (h : Memory.wf s.ms.mem = true) : Memory.wf (s.feWindow die n ctx va write).1.ms.mem = true := by
  have hwalk := State.feWalk_wf s die (feOwner n 3) (2 * (va % 2 ^ 57) + write.toNat) ctx (va % 2 ^ 57) 0 write h
  unfold State.feWindow
  split
  · next heq => exact State.wf_of_fst heq hwalk
  · next heq => exact State.wf_of_fst heq hwalk
  · next heq => exact State.wf_of_fst heq hwalk

@[simp] theorem State.copyOn_wf (die n : Nat) (ctx : Context) (src dst len : Nat) (b : List Byte) (k : Nat) :
    ∀ (s : State) (done : Nat), Memory.wf s.ms.mem = true →
      Memory.wf (State.copyOn die n ctx src dst len b k s done).ms.mem = true := by
  induction k with
  | zero => exact fun _ _ h => h
  | succ k ih =>
    intro s done h
    have hload := State.feLoad_wf s die (feOwner n 3) ctx (src + done) (pieceLen (dst + done) (len - done)) 0 h
    unfold State.copyOn
    dsimp only
    split
    · simp [h]
    · split
      · next heq => simpa using State.wf_of_fst heq hload
      · next heq => simp [State.wf_of_fst heq hload]
      · next heq =>
        have hstore := fun bs => State.feStore_wf _ die (feOwner n 3) ctx (dst + done) 0 bs (State.wf_of_fst heq hload)
        split
        · next hst => simpa using State.wf_of_fst hst (hstore _)
        · next hst => simp [State.wf_of_fst hst (hstore _)]
        · next hst => exact ih _ _ (by simpa using State.wf_of_fst hst (hstore _))

@[simp] theorem State.hostServe_wf (s : State) (i : Nat) (ty : PType) (p : Packet) (c : Client) (h : Memory.wf s.ms.mem = true) :
    Memory.wf (s.hostServe i ty p c).ms.mem = true := by
  unfold State.hostServe
  dsimp only
  split <;> simp [h, Memory.wf_write]

@[simp] theorem State.readHeader_wf (s : State) (die owner : Nat) (ctx : Context) (va ts : Nat) (h : Memory.wf s.ms.mem = true) :
    Memory.wf (s.readHeader die owner ctx va ts).1.ms.mem = true := by
  have hload := State.feLoad_wf s die owner ctx va 64 ts h
  unfold State.readHeader
  split
  · exact h
  · split
    · exact h
    · split
      · next heq => simpa using State.wf_of_fst heq hload
      · exact hload

@[simp] theorem State.judgeLaunch_wf (s : State) (die owner : Nat) (ctx : Context) (ty : Nat) (b : List Byte) (count ts : Nat)
    (h : Memory.wf s.ms.mem = true) : Memory.wf (s.judgeLaunch die owner ctx ty b count ts).1.ms.mem = true := by
  have hhead := State.readHeader_wf s die owner ctx (pktField b 24 8 % 2 ^ 57) ts h
  unfold State.judgeLaunch
  dsimp only
  split
  · next heq => exact State.wf_of_fst heq hhead
  · next heq => exact State.wf_of_fst heq hhead
  · next heq =>
    have h1 := State.wf_of_fst heq hhead
    have hcount := fun va => State.feLoad_wf _ die owner ctx va 4 ts h1
    split_ifs
    · exact h1
    · exact h1
    · exact h1
    · exact h1
    · split
      · next hload => exact State.wf_of_fst hload (hcount _)
      · next hload => exact State.wf_of_fst hload (hcount _)
      · next hload => exact State.wf_of_fst hload (hcount _)
    · exact h1

@[simp] theorem State.launch_wf (s : State) (die n : Nat) (b : List Byte) (h : Memory.wf s.ms.mem = true) :
    Memory.wf (s.launch die n b).ms.mem = true := by
  have hjudge := State.judgeLaunch_wf s die (feOwner n 2) (s.queueContext n) (pktType b) b
    (if pktType b = tSeed then 1 else pktField b 32 4) (s.startTs die n b) h
  unfold State.launch
  dsimp only
  split
  · next heq => exact State.wf_of_fst heq hjudge
  · next heq => simp [State.wf_of_fst heq hjudge]
  · next heq => split_ifs <;> simp [State.wf_of_fst heq hjudge]

@[simp] theorem State.judgeSpawn_wf (s : State) (die k : Nat) (l : SeedLaunch) (sp : Spawn) (h : Memory.wf s.ms.mem = true) :
    Memory.wf (s.judgeSpawn die k l sp).1.ms.mem = true := by
  have hload := State.feLoad_wf s die (feOwner k 4) l.ctx sp.record 64 sp.ts h
  unfold State.judgeSpawn
  split
  · next heq => exact State.wf_of_fst heq hload
  · next heq => exact State.wf_of_fst heq hload
  · next heq =>
    split
    · exact State.wf_of_fst heq hload
    · exact State.judgeLaunch_wf _ _ _ _ _ _ _ _ (State.wf_of_fst heq hload)

@[simp] theorem State.mgmtNoted_wf (s : State) (n : Nat) (b : List Byte) (h : Memory.wf s.ms.mem = true) :
    Memory.wf (s.mgmtNoted n b).ms.mem = true := by
  unfold State.mgmtNoted
  split_ifs <;> simp [h]

@[simp] theorem State.mgmtDone_wf (s : State) (n : Nat) (b : List Byte) (h : Memory.wf s.ms.mem = true) :
    Memory.wf (s.mgmtDone n b).ms.mem = true := by
  simp [State.mgmtDone, h]

@[simp] theorem State.mgmtFail_wf (s : State) (n : Nat) (h : Memory.wf s.ms.mem = true) :
    Memory.wf (s.mgmtFail n).ms.mem = true := State.retiredWith_wf _ _ _ h

theorem State.privileged_wf {s : State} {body : State → State} (hbody : Memory.wf (body s).ms.mem = true) (n : Nat)
    (h : Memory.wf s.ms.mem = true) : Memory.wf (s.privileged n body).ms.mem = true := by
  unfold State.privileged
  split
  · exact hbody
  · simp [h]

/-- A sealed operation keeps the canonical form where its body does. -/
theorem State.withBlob_wf (s : State) (die n op : Nat) (b : List Byte) (body : State → Nat → Option State)
    (hbody : ∀ t u k, Memory.wf t.ms.mem = true → body t k = some u → Memory.wf u.ms.mem = true)
    (h : Memory.wf s.ms.mem = true) : Memory.wf (s.withBlob die n op b body).ms.mem = true := by
  have hload := State.feLoad_wf s die (feOwner n 2) (s.queueContext n) (mgmtArg b 0 % 2 ^ 57) blobBytes (s.laneQueue n).hts h
  unfold State.withBlob
  dsimp only
  split
  · next heq => exact State.wf_of_fst heq hload
  · next heq => simp [State.wf_of_fst heq hload]
  · next heq =>
    have h1 := State.wf_of_fst heq hload
    split
    · simp [h1]
    · split
      · simp [h1]
      · split
        · simp [h1]
        · split
          · next hrun =>
            have h2 := hbody _ _ _ (by exact h1) hrun
            simp [h2]
          · simp [h1]

@[simp] theorem State.startMigration_wf (s : State) (die n : Nat) (d : Dom) (b : List Byte) (h : Memory.wf s.ms.mem = true) :
    Memory.wf (s.startMigration die n d b).ms.mem = true := by
  unfold State.startMigration
  dsimp only
  split
  · next heq => simp [State.ms_of_fst heq, h]
  · next heq => simp [State.ms_of_fst heq, h]
  · next heq => split_ifs <;> simp [State.ms_of_fst heq, h]

@[simp] theorem State.runMigration_wf (s : State) (die n : Nat) (d : Dom) (b : List Byte) (m : Migration)
    (h : Memory.wf s.ms.mem = true) : Memory.wf (s.runMigration die n d b m).ms.mem = true := by
  unfold State.runMigration
  dsimp only
  split
  · split
    · next heq => simp [State.ms_of_fst heq, h]
    · next heq => simp [State.ms_of_fst heq, h]
    · next heq => simp [State.ms_of_fst heq, h]
  · split_ifs <;> simp [h]
  · split_ifs <;> simp [h]
  · split
    · next heq => simp [State.ms_of_fst heq, h]
    · next heq => simp [State.ms_of_fst heq, h]
    · next heq => simp [State.ms_of_fst heq, h]
  · split_ifs <;> simp [h]

@[simp] theorem State.changeRecord_wf (s : State) (die n : Nat) (b : List Byte) (c : QueueChange) (h : Memory.wf s.ms.mem = true) :
    Memory.wf (s.changeRecord die n b c).ms.mem = true := by
  unfold State.changeRecord
  dsimp only
  split_ifs <;> simp [h]

/-- What a record image is read for keeps the canonical form where its body does. -/
theorem State.withImage_wf (s : State) (die n : Nat) (b : List Byte) (body : State → Nat → State)
    (hbody : ∀ t v, Memory.wf t.ms.mem = true → Memory.wf (body t v).ms.mem = true) (h : Memory.wf s.ms.mem = true) :
    Memory.wf (s.withImage die n b body).ms.mem = true := by
  have hload := State.feLoad_wf s die (feOwner n 2) (s.queueContext n) (mgmtArg b 1 % 2 ^ 57) 16 (s.laneQueue n).hts h
  unfold State.withImage
  split
  · next heq => exact State.wf_of_fst heq hload
  · next heq => simp [State.wf_of_fst heq hload]
  · next heq => exact hbody _ _ (State.wf_of_fst heq hload)

@[simp] theorem State.flushRing_wf (n : Nat) :
    ∀ (s : State) (d : Nat), Memory.wf s.ms.mem = true → Memory.wf (State.flushRing n s d).ms.mem = true := by
  induction n with
  | zero => exact fun _ _ h => h
  | succ n ih => exact fun s d h => ih _ _ (State.flushOnce_wf s d h)

@[simp] theorem State.writeArea_wf (d : Dom) (key n : Nat) :
    ∀ (s : State) (a : Nat) (bs : List Byte), Memory.wf s.ms.mem = true →
      Memory.wf (State.writeArea d key n s a bs).ms.mem = true := by
  induction n with
  | zero => exact fun _ _ _ h => h
  | succ n ih =>
    intro s a bs h
    unfold State.writeArea
    split
    · exact h
    · exact ih _ _ _ (State.engineWrite_wf _ _ _ _ _ _ _ h)

@[simp] theorem State.writePart_wf (s : State) (d : Dom) (key base size : Nat) (parts : List (Nat × List Byte))
    (h : Memory.wf s.ms.mem = true) : Memory.wf (s.writePart d key base size parts).ms.mem = true :=
  State.foldl_wf (fun _ _ h => State.writeArea_wf _ _ _ _ _ _ h) _ _ (State.writeArea_wf _ _ _ _ _ _ h)

@[simp] theorem State.saveUnit_wf (s : State) (ctx : Nat) (h : Memory.wf s.ms.mem = true) :
    Memory.wf (s.saveUnit ctx).ms.mem = true := by
  unfold State.saveUnit
  extract_lets d key base gangs saved sync s1 s2 s3 s4 s5 s6 time s7
  have h1 : Memory.wf s1.ms.mem = true := State.foldl_wf (fun t v h => by
    rw [State.poisonArea_mem]; exact State.writePart_wf _ _ _ _ _ _ h) _ _ h
  clear_value s1
  have h3 : Memory.wf s3.ms.mem = true := State.foldl_wf (fun t v h => by simp [h]) _ _ (by simpa [s2] using h1)
  clear_value s3
  have h5 : Memory.wf s5.ms.mem = true := State.foldl_wf (fun t v h => State.writePart_wf _ _ _ _ _ _ h) _ _ h3
  clear_value s5
  have h6 : Memory.wf s6.ms.mem = true := by
    unfold s6
    split
    · exact State.foldl_wf (fun t v h => by simp [h]) _ _ h5
    · exact h5
  clear_value s6
  rw [State.logNote_ms]
  exact State.writePart_wf _ _ _ _ _ _ (by simpa [s7] using h6)

theorem State.useSpare_wf (s : State) (pool : Nat) (fix : State → State)
    (hfix : ∀ t, Memory.wf t.ms.mem = true → Memory.wf (fix t).ms.mem = true) (h : Memory.wf s.ms.mem = true) :
    Memory.wf (s.useSpare pool fix).ms.mem = true := by
  unfold State.useSpare
  dsimp only
  split
  · exact h
  · split
    · exact State.foldl_wf (fun _ _ h => State.requestReplace_wf _ _ h) _ _ (hfix _ (by exact h))
    · exact hfix _ (by exact h)

@[simp] theorem State.useSpares_wf (s : State) (d : Dom) (h : Memory.wf s.ms.mem = true) :
    Memory.wf (s.useSpares d).ms.mem = true := by
  unfold State.useSpares
  refine State.foldl_wf (fun t i h => ?_) _ _ (State.foldl_wf (fun t k h => State.foldl_wf (fun u c h => ?_) _ _ h) _ _ h)
  · split
    · exact State.useSpare_wf _ _ _ (fun v hv => by simpa using hv) h
    · exact h
  · split
    · exact State.useSpare_wf _ _ _ (fun v hv => by simpa using hv) h
    · exact h

end Sys2Proof.Machine
end

section
/-! SUPPORT. Every instruction and every event keeps memory in its canonical form (R73): the invariant of O5. -/

namespace Sys2Proof.Machine

/-! ## Instructions and events -/

/-- An outcome whose next state holds memory in its canonical form. -/
def keptOut (o : Out) : Prop := ∀ t, o = .next t → Memory.wf t.ms.mem = true

theorem keptOut_next {t : State} (h : Memory.wf t.ms.mem = true) : keptOut (.next t) := by
  intro u hu
  cases hu
  exact h

theorem uniGuarded_kept {g : Guard} {n : Nat} {body : State → Wave} {s : State} (h : Memory.wf s.ms.mem = true) :
    keptOut (uniGuarded g n body s) := by
  refine keptOut_next ?_
  split <;> exact h

theorem vecDo_kept {n : Nat} {body : State → Wave} {s : State} (h : Memory.wf s.ms.mem = true) : keptOut (vecDo n body s) :=
  keptOut_next h

/-! The forms that the vector and the uniform instructions are written in. -/

theorem uniInt_kept {op : IntOp} {wa wb wc wd : Nat} {f : InsA} {s : State} (h : Memory.wf s.ms.mem = true) :
    keptOut (uniInt op wa wb wc wd f s) := uniGuarded_kept h

theorem uniIntW_kept {op : IntOp} {f : InsA} {s : State} (h : Memory.wf s.ms.mem = true) : keptOut (uniIntW op f s) :=
  uniInt_kept h

theorem vecInt_kept {op : IntOp} {wa wb wc wd : Nat} {f : InsA} {s : State} (h : Memory.wf s.ms.mem = true) :
    keptOut (vecInt op wa wb wc wd f s) := vecDo_kept h

theorem vecIntW_kept {op : IntOp} {f : InsA} {s : State} (h : Memory.wf s.ms.mem = true) : keptOut (vecIntW op f s) :=
  vecInt_kept h

theorem vecFloat_kept {f : InsA} {wd : Nat} {sr : State → Bool} {op : State → Nat → Nat → Nat × BitVec 8} {s : State}
    (h : Memory.wf s.ms.mem = true) : keptOut (vecFloat f wd sr op s) := vecDo_kept h

theorem vecArith_kept {f : InsA} {prods : State → Nat → List (FpVal × FpVal)} {terms srcs : State → Nat → List FpVal}
    {s : State} (h : Memory.wf s.ms.mem = true) : keptOut (vecArith f prods terms srcs s) := vecFloat_kept h

theorem vecMinMax_kept {big : Bool} {f : InsA} {s : State} (h : Memory.wf s.ms.mem = true) :
    keptOut (vecMinMax big f s) := vecFloat_kept h

theorem vecQuant_kept {f : InsA} {sr : State → Bool} {op : State → Nat → Nat → Quantised} {s : State}
    (h : Memory.wf s.ms.mem = true) : keptOut (vecQuant f sr op s) := vecDo_kept h

theorem vecSpecial_kept {f : InsA} {op : Nat → Bool → FpVal → Nat → Nat × BitVec 8} {s : State}
    (h : Memory.wf s.ms.mem = true) : keptOut (vecSpecial f op s) := vecFloat_kept h

theorem guarded_kept {g : Guard} {n : Nat} {body : State → State} {s : State} (h : Memory.wf s.ms.mem = true)
    (hbody : Memory.wf (body s).ms.mem = true) : keptOut (guarded g n body s) := by
  refine keptOut_next ?_
  split
  · exact hbody
  · exact h

/-! What an instruction or a packet does behind the checks that it shares with others keeps the canonical form where its
body does. -/

theorem withPacket_kept {s : State} {n : Nat} {i : Instr} {body : State → Nat → List Byte → State}
    (h : Memory.wf s.ms.mem = true)
    (hbody : ∀ t die b, Memory.wf t.ms.mem = true → Memory.wf (body t die b).ms.mem = true) :
    keptOut (.next (s.withPacket n i body)) := by
  refine keptOut_next ?_
  unfold State.withPacket
  dsimp only
  repeat' split
  · exact h
  · exact h
  · exact hbody _ _ _ h
  · exact h
  · exact h

theorem State.withPhaser_wf {s : State} {f : InsT} {body : State → Word → PhRef → Phaser → State}
    (h : Memory.wf s.ms.mem = true) (hbody : ∀ w r p, Memory.wf (body s w r p).ms.mem = true) :
    Memory.wf (s.withPhaser f body).ms.mem = true := by
  unfold State.withPhaser
  dsimp only
  split_ifs <;> simp [h, hbody]

theorem withPhaser_kept {g : Guard} {n : Nat} {s : State} {f : InsT} {body : State → Word → PhRef → Phaser → State}
    (h : Memory.wf s.ms.mem = true) (hbody : ∀ w r p, Memory.wf (body s w r p).ms.mem = true) :
    keptOut (guarded g n (fun s => s.withPhaser f body) s) := guarded_kept h (State.withPhaser_wf h hbody)

theorem withQueue_kept {g : Guard} {n : Nat} {s : State} {f : InsT} {body : State → Nat → List StreamEntry → State}
    (h : Memory.wf s.ms.mem = true) (hbody : ∀ k es, Memory.wf (body s k es).ms.mem = true) :
    keptOut (guarded g n (fun s => s.withQueue f body) s) := by
  refine guarded_kept h ?_
  unfold State.withQueue
  dsimp only
  split_ifs <;> simp [h, hbody]

theorem State.withLease_wf {s : State} {body : State → Gang → State} (h : Memory.wf s.ms.mem = true)
    (hbody : ∀ g, Memory.wf (body s g).ms.mem = true) : Memory.wf (s.withLease body).ms.mem = true := by
  unfold State.withLease
  repeat' split
  all_goals simp [h, hbody]

theorem State.withResidency_wf {s : State} {a : Nat} {body : State → Nat → Nat → Residency → State}
    (h : Memory.wf s.ms.mem = true) (hbody : ∀ k i r, Memory.wf (body s k i r).ms.mem = true) :
    Memory.wf (s.withResidency a body).ms.mem = true := by
  unfold State.withResidency
  dsimp only
  split_ifs <;> simp [h, hbody]

theorem State.withRecord_wf {s : State} {die n t : Nat} {body : State → QueueRec → State} (h : Memory.wf s.ms.mem = true)
    (hbody : ∀ q, Memory.wf (body s q).ms.mem = true) : Memory.wf (s.withRecord die n t body).ms.mem = true := by
  unfold State.withRecord
  split_ifs <;> simp [h, hbody]

/-- A host command keeps the canonical form where its body does. -/
theorem command_kept {s : State} {cmd : Nat} {body : Nat → Option (State × List Byte)} (h : Memory.wf s.ms.mem = true)
    (hbody : ∀ d r, body d = some r → Memory.wf r.1.ms.mem = true) : keptOut (.next (s.command cmd body)) := by
  refine keptOut_next ?_
  unfold State.command
  split
  · exact h
  · split
    · split
      · split
        · next hrun => simpa using hbody _ _ hrun
        · simpa using h
      · simpa using h
    · split
      · next hrun => simpa using hbody _ _ hrun
      · simpa using h

theorem execVballot_kept (f : InsA) (s : State) (h : Memory.wf s.ms.mem = true) : keptOut (execVballot f s) := by
  unfold execVballot
  dsimp only
  split
  · exact keptOut_next (by simpa using h)
  · exact vecDo_kept h

theorem execNop_kept (f : InsB) (s : State) (h : Memory.wf s.ms.mem = true) : keptOut (execNop f s) :=
  guarded_kept h (by simp [h])

theorem execBra_kept (f : InsB) (s : State) (h : Memory.wf s.ms.mem = true) : keptOut (execBra f s) :=
  guarded_kept h (by simp [h])

theorem execBrq_kept (f : InsB) (s : State) (h : Memory.wf s.ms.mem = true) : keptOut (execBrq f s) := by
  refine guarded_kept h ?_
  dsimp only
  split_ifs <;> simp [h]

theorem execBrv_kept (f : InsB) (s : State) (h : Memory.wf s.ms.mem = true) : keptOut (execBrv f s) := by
  refine guarded_kept h ?_
  dsimp only
  split_ifs <;> simp [h]

theorem execBrx_kept (f : InsB) (s : State) (h : Memory.wf s.ms.mem = true) : keptOut (execBrx f s) :=
  guarded_kept h (by simp [h])

theorem execJenrol_kept (f : InsB) (s : State) (h : Memory.wf s.ms.mem = true) : keptOut (execJenrol f s) := by
  refine guarded_kept h ?_
  split_ifs <;> simp [h]

theorem execJpark_kept (f : InsB) (s : State) (h : Memory.wf s.ms.mem = true) : keptOut (execJpark f s) := by
  refine guarded_kept h ?_
  dsimp only
  split_ifs <;> simp [h]

theorem execJstrike_kept (f : InsB) (s : State) (h : Memory.wf s.ms.mem = true) : keptOut (execJstrike f s) := by
  refine guarded_kept h ?_
  dsimp only
  split_ifs <;> simp [h]

theorem execExit_kept (f : InsB) (s : State) (h : Memory.wf s.ms.mem = true) : keptOut (execExit f s) := by
  refine guarded_kept h ?_
  dsimp only
  split_ifs <;> simp [h]

theorem execWaitc_kept (f : InsT) (s : State) (h : Memory.wf s.ms.mem = true) : keptOut (execWaitc f s) := by
  refine guarded_kept h ?_
  dsimp only
  repeat' split
  all_goals simp [h]

theorem execSleep_kept (f : InsB) (s : State) (h : Memory.wf s.ms.mem = true) : keptOut (execSleep f s) :=
  guarded_kept h (by simp [h])

theorem execYield_kept (f : InsB) (s : State) (h : Memory.wf s.ms.mem = true) : keptOut (execYield f s) :=
  guarded_kept h (by simp [h])

theorem execEtrig_kept (f : InsB) (s : State) (h : Memory.wf s.ms.mem = true) : keptOut (execEtrig f s) := by
  refine guarded_kept h ?_
  repeat' split
  all_goals simp [h]

theorem execEnq_kept (f : InsT) (s : State) (h : Memory.wf s.ms.mem = true) : keptOut (execEnq f s) := by
  refine guarded_kept h ?_
  dsimp only
  split_ifs <;> simp [h]

theorem execPageWalkComplete_kept (cluster i : Nat) (s : State) (h : Memory.wf s.ms.mem = true) :
    keptOut (execPageWalkComplete cluster i s) := by
  unfold execPageWalkComplete
  split
  · refine keptOut_next ?_
    split_ifs <;> simp [h]
  · exact keptOut_next h

theorem execMigrationWalkRetry_kept (cluster i : Nat) (s : State) (h : Memory.wf s.ms.mem = true) :
    keptOut (execMigrationWalkRetry cluster i s) := by
  unfold execMigrationWalkRetry
  split
  · refine keptOut_next ?_
    split_ifs <;> simp [h]
  · exact keptOut_next h

theorem execLd_kept (f : InsM) (s : State) (h : Memory.wf s.ms.mem = true) : keptOut (execLd f s) := by
  refine keptOut_next ?_
  split_ifs <;> simp [h]

theorem execSt_kept (f : InsM) (s : State) (h : Memory.wf s.ms.mem = true) : keptOut (execSt f s) := by
  refine keptOut_next ?_
  split_ifs <;> simp [h]

theorem execLdu_kept (f : InsM) (s : State) (h : Memory.wf s.ms.mem = true) : keptOut (execLdu f s) := by
  refine keptOut_next ?_
  split_ifs <;> simp [h]

theorem execStu_kept (f : InsM) (s : State) (h : Memory.wf s.ms.mem = true) : keptOut (execStu f s) := by
  refine keptOut_next ?_
  split_ifs <;> simp [h]

theorem execAtom_kept (f : InsM) (s : State) (h : Memory.wf s.ms.mem = true) : keptOut (execAtom f s) := by
  refine keptOut_next ?_
  split_ifs <;> simp [h]

theorem execRed_kept (f : InsM) (s : State) (h : Memory.wf s.ms.mem = true) : keptOut (execRed f s) := by
  refine keptOut_next ?_
  split_ifs <;> simp [h]

theorem execFence_kept (f : InsM) (s : State) (h : Memory.wf s.ms.mem = true) : keptOut (execFence f s) := by
  refine keptOut_next ?_
  split_ifs <;> simp [h]

theorem execCctl_kept (f : InsM) (s : State) (h : Memory.wf s.ms.mem = true) : keptOut (execCctl f s) := by
  refine keptOut_next ?_
  dsimp only
  split_ifs <;> simp [h, State.progress_ms]

theorem execLds_kept (f : InsM) (s : State) (h : Memory.wf s.ms.mem = true) : keptOut (execLds f s) := by
  refine keptOut_next ?_
  split_ifs <;> simp [h]

theorem execSts_kept (f : InsM) (s : State) (h : Memory.wf s.ms.mem = true) : keptOut (execSts f s) := by
  refine keptOut_next ?_
  split_ifs <;> simp [h]

theorem execAtoms_kept (f : InsM) (s : State) (h : Memory.wf s.ms.mem = true) : keptOut (execAtoms f s) := by
  refine keptOut_next ?_
  dsimp only
  split
  · simpa using h
  · split
    · simpa using h
    · rw [State.progress_ms, State.coreAccess_ms]
      · exact h
      · intro t ok
        split_ifs <;> simp

theorem execLdb_kept (f : InsM) (s : State) (h : Memory.wf s.ms.mem = true) : keptOut (execLdb f s) := by
  refine keptOut_next ?_
  split_ifs <;> simp [h]

theorem execStb_kept (f : InsM) (s : State) (h : Memory.wf s.ms.mem = true) : keptOut (execStb f s) := by
  refine keptOut_next ?_
  split_ifs <;> simp [h]

theorem execMsend_kept (f : InsM) (s : State) (h : Memory.wf s.ms.mem = true) : keptOut (execMsend f s) := by
  refine keptOut_next ?_
  dsimp only
  split_ifs <;> simp [h, State.progress_ms]

theorem execCsrr_kept (f : InsT) (s : State) (h : Memory.wf s.ms.mem = true) : keptOut (execCsrr f s) := by
  refine guarded_kept h ?_
  dsimp only
  split_ifs <;> simp [h]

theorem execCsrw_kept (f : InsT) (s : State) (h : Memory.wf s.ms.mem = true) : keptOut (execCsrw f s) := by
  refine guarded_kept h ?_
  dsimp only
  split_ifs <;> simp [h]

theorem execTrap_kept (f : InsB) (s : State) (h : Memory.wf s.ms.mem = true) : keptOut (execTrap f s) :=
  guarded_kept h (by simp [h])

theorem execBkpt_kept (f : InsB) (s : State) (h : Memory.wf s.ms.mem = true) : keptOut (execBkpt f s) :=
  guarded_kept h (by simp [h])

theorem execEret_kept (f : InsB) (s : State) (h : Memory.wf s.ms.mem = true) : keptOut (execEret f s) :=
  guarded_kept h (by simp [h])

theorem execImpreciseTrap_kept (id : WaveId) (s : State) (h : Memory.wf s.ms.mem = true) : keptOut (execImpreciseTrap id s) := by
  unfold execImpreciseTrap
  dsimp only
  split
  · exact keptOut_next h
  · split <;> exact keptOut_next (by simpa using h)

theorem execEventOverflowFlush_kept (d : Nat) (s : State) (h : Memory.wf s.ms.mem = true) :
    keptOut (execEventOverflowFlush d s) :=
  keptOut_next (by simp [h])

theorem execEventHeadWrite_kept (d : Nat) (head : BitVec 32) (s : State) (h : Memory.wf s.ms.mem = true) :
    keptOut (execEventHeadWrite d head s) := by
  refine keptOut_next ?_
  split_ifs <;> simp [h]

theorem execCall_kept (f : InsB) (s : State) (h : Memory.wf s.ms.mem = true) : keptOut (execCall f s) :=
  guarded_kept h (by simp [h])

theorem execCallx_kept (f : InsB) (s : State) (h : Memory.wf s.ms.mem = true) : keptOut (execCallx f s) :=
  guarded_kept h (by simp [h])

theorem execRet_kept (f : InsB) (s : State) (h : Memory.wf s.ms.mem = true) : keptOut (execRet f s) := by
  refine guarded_kept h ?_
  dsimp only
  split_ifs <;> simp [h]

theorem execPhaserByteAdd_kept (cluster i : Nat) (s : State) (h : Memory.wf s.ms.mem = true) :
    keptOut (execPhaserByteAdd cluster i s) := by
  refine keptOut_next ?_
  repeat' split
  all_goals simp [h]

theorem execPhnew_kept (f : InsT) (s : State) (h : Memory.wf s.ms.mem = true) : keptOut (execPhnew f s) := by
  refine guarded_kept h ?_
  dsimp only
  repeat' split
  all_goals simp [h]

theorem execPhfree_kept (f : InsT) (s : State) (h : Memory.wf s.ms.mem = true) : keptOut (execPhfree f s) := by
  refine withPhaser_kept h fun hd r p => ?_
  split_ifs <;> simp [h]

theorem execPhreg_kept (f : InsT) (s : State) (h : Memory.wf s.ms.mem = true) : keptOut (execPhreg f s) := by
  refine withPhaser_kept h fun hd r p => ?_
  repeat' split
  all_goals simp [h]

theorem execPhdrop_kept (f : InsT) (s : State) (h : Memory.wf s.ms.mem = true) : keptOut (execPhdrop f s) := by
  refine withPhaser_kept h fun hd r p => ?_
  repeat' split
  all_goals simp [h]

theorem execPhsig_kept (f : InsT) (s : State) (h : Memory.wf s.ms.mem = true) : keptOut (execPhsig f s) := by
  refine withPhaser_kept h fun hd r p => ?_
  repeat' split
  all_goals simp [h]

theorem execPhexp_kept (f : InsT) (s : State) (h : Memory.wf s.ms.mem = true) : keptOut (execPhexp f s) :=
  withPhaser_kept h fun _ r p => (by simp [h])

theorem execPhsw_kept (f : InsT) (s : State) (h : Memory.wf s.ms.mem = true) : keptOut (execPhsw f s) := by
  refine withPhaser_kept h fun hd _ p => ?_
  split_ifs <;> simp [h]

theorem execPhwait_kept (f : InsT) (s : State) (h : Memory.wf s.ms.mem = true) : keptOut (execPhwait f s) := by
  refine guarded_kept h ?_
  dsimp only
  split
  · simpa using h
  · refine State.withPhaser_wf h fun hd r p => ?_
    split_ifs <;> simp [h]

theorem execFallbackPoll_kept (id : WaveId) (s : State) (h : Memory.wf s.ms.mem = true) :
    keptOut (execFallbackPoll id s) := by
  refine keptOut_next ?_
  split_ifs <;> simp [h]

theorem execBar_kept (f : InsT) (s : State) (h : Memory.wf s.ms.mem = true) : keptOut (execBar f s) := by
  refine guarded_kept h ?_
  dsimp only
  split_ifs <;> simp [h]

theorem execRwait_kept (f : InsT) (s : State) (h : Memory.wf s.ms.mem = true) : keptOut (execRwait f s) := by
  refine guarded_kept h ?_
  dsimp only
  repeat' split
  all_goals simp [h]

theorem execQpush_kept (f : InsT) (s : State) (h : Memory.wf s.ms.mem = true) : keptOut (execQpush f s) :=
  withQueue_kept h fun n es => (by simp [h])

theorem execQmark_kept (f : InsT) (s : State) (h : Memory.wf s.ms.mem = true) : keptOut (execQmark f s) :=
  withQueue_kept h fun n es => (by simp [h])

theorem execQpop_kept (f : InsT) (s : State) (h : Memory.wf s.ms.mem = true) : keptOut (execQpop f s) := by
  refine withQueue_kept h fun n es => ?_
  repeat' split
  all_goals simp [h]

theorem execQstat_kept (f : InsT) (s : State) (h : Memory.wf s.ms.mem = true) : keptOut (execQstat f s) :=
  withQueue_kept h fun n es => (by simp [h])

theorem execSwitchOutputEnqueue_kept (i : Nat) (s : State) (h : Memory.wf s.ms.mem = true) :
    keptOut (execSwitchOutputEnqueue i s) := by
  refine keptOut_next ?_
  split
  · exact h
  · split
    · exact h
    · dsimp only
      split
      · split
        · exact State.foldl_wf (fun t p ht => by simpa using ht) _ _ h
        · split_ifs <;> simp [h]
      · repeat' split
        all_goals simp [h]

theorem execReplySwitchMdata_kept (i : Nat) (s : State) (h : Memory.wf s.ms.mem = true) :
    keptOut (execReplySwitchMdata i s) := by
  refine keptOut_next ?_
  repeat' split
  all_goals simp [h]

theorem execSwitchOutputLinkSlot_kept (k : Nat) (s : State) (h : Memory.wf s.ms.mem = true) :
    keptOut (execSwitchOutputLinkSlot k s) :=
  keptOut_next (State.foldl_wf (fun t sw ht => by simpa using ht) _ _ (by simpa using h))

theorem execResidueTimeout_kept (sw i : Nat) (s : State) (h : Memory.wf s.ms.mem = true) :
    keptOut (execResidueTimeout sw i s) := by
  refine keptOut_next ?_
  repeat' split
  all_goals simp [h]

theorem execSliceRd_kept (slice i : Nat) (s : State) (h : Memory.wf s.ms.mem = true) : keptOut (execSliceRd slice i s) :=
  keptOut_next (by simp [h])

theorem execSliceWr_kept (slice i : Nat) (s : State) (h : Memory.wf s.ms.mem = true) : keptOut (execSliceWr slice i s) :=
  keptOut_next (by simp [h])

theorem execSliceAtom_kept (slice i : Nat) (s : State) (h : Memory.wf s.ms.mem = true) :
    keptOut (execSliceAtom slice i s) :=
  keptOut_next (by simp [h])

theorem execSliceRed_kept (slice i : Nat) (s : State) (h : Memory.wf s.ms.mem = true) :
    keptOut (execSliceRed slice i s) :=
  keptOut_next (by simp [h])

theorem execSliceCprdm_kept (slice i : Nat) (s : State) (h : Memory.wf s.ms.mem = true) :
    keptOut (execSliceCprdm slice i s) :=
  keptOut_next (by simp [h])

theorem execSliceMsg_kept (slice i : Nat) (s : State) (h : Memory.wf s.ms.mem = true) :
    keptOut (execSliceMsg slice i s) :=
  keptOut_next (by simp [h])

theorem execSliceResentPayload_kept (slice i : Nat) (s : State) (h : Memory.wf s.ms.mem = true) :
    keptOut (execSliceResentPayload slice i s) := by
  refine keptOut_next ?_
  dsimp only
  repeat' split
  all_goals simp [h]

theorem execPullSend_kept (slice i : Nat) (s : State) (h : Memory.wf s.ms.mem = true) :
    keptOut (execPullSend slice i s) := by
  refine keptOut_next ?_
  dsimp only
  repeat' split
  all_goals simp [h]

theorem execSliceWack_kept (slice i : Nat) (s : State) (h : Memory.wf s.ms.mem = true) :
    keptOut (execSliceWack slice i s) := by
  refine keptOut_next ?_
  dsimp only
  repeat' split
  all_goals simp [h]

theorem execSliceMack_kept (slice i : Nat) (s : State) (h : Memory.wf s.ms.mem = true) :
    keptOut (execSliceMack slice i s) := by
  refine keptOut_next ?_
  repeat' split
  all_goals simp [h]

theorem execSliceMnak_kept (slice i : Nat) (s : State) (h : Memory.wf s.ms.mem = true) :
    keptOut (execSliceMnak slice i s) := by
  refine keptOut_next ?_
  repeat' split
  all_goals simp [h]

theorem execMsgdReoffer_kept (slice i : Nat) (s : State) (h : Memory.wf s.ms.mem = true) :
    keptOut (execMsgdReoffer slice i s) := by
  refine keptOut_next ?_
  repeat' split
  all_goals simp [h]

theorem execMsgOfferTimeout_kept (slice i : Nat) (s : State) (h : Memory.wf s.ms.mem = true) :
    keptOut (execMsgOfferTimeout slice i s) := by
  refine keptOut_next ?_
  repeat' split
  all_goals simp [h]

theorem execSliceMigrate_kept (slice i : Nat) (s : State) (h : Memory.wf s.ms.mem = true) :
    keptOut (execSliceMigrate slice i s) := by
  refine keptOut_next ?_
  repeat' split
  all_goals simp [h]

theorem execSliceRelease_kept (slice i : Nat) (s : State) (h : Memory.wf s.ms.mem = true) :
    keptOut (execSliceRelease slice i s) := by
  refine keptOut_next ?_
  repeat' split
  all_goals simp [h]

theorem execHbmFillComplete_kept (slice i : Nat) (s : State) (h : Memory.wf s.ms.mem = true) :
    keptOut (execHbmFillComplete slice i s) := by
  refine keptOut_next ?_
  dsimp only
  split
  · exact h
  · split
    · simpa using h
    · split
      · exact h
      · split <;> split_ifs <;> simp [h, State.ensureLine_ms]

theorem execSliceScrub_kept (slice i : Nat) (s : State) (h : Memory.wf s.ms.mem = true) :
    keptOut (execSliceScrub slice i s) := by
  refine keptOut_next ?_
  repeat' split
  all_goals simp [h]

theorem execTcopy_kept (f : InsT) (s : State) (h : Memory.wf s.ms.mem = true) : keptOut (execTcopy f s) :=
  guarded_kept h (by simp [h])

theorem execTcopym_kept (f : InsT) (s : State) (h : Memory.wf s.ms.mem = true) : keptOut (execTcopym f s) :=
  guarded_kept h (by simp [h])

theorem execTshape_kept (f : InsT) (s : State) (h : Memory.wf s.ms.mem = true) : keptOut (execTshape f s) := by
  refine guarded_kept h ?_
  split_ifs <;> simp [h]

theorem execTsfence_kept (f : InsT) (s : State) (h : Memory.wf s.ms.mem = true) : keptOut (execTsfence f s) := by
  refine guarded_kept h ?_
  split_ifs <;> simp [h]

theorem execTwall_kept (f : InsT) (s : State) (h : Memory.wf s.ms.mem = true) : keptOut (execTwall f s) := by
  refine guarded_kept h ?_
  dsimp only
  split_ifs <;> simp [h]

theorem execTwany_kept (f : InsT) (s : State) (h : Memory.wf s.ms.mem = true) : keptOut (execTwany f s) := by
  refine guarded_kept h ?_
  repeat' split
  all_goals simp [h]

theorem execTfirst_kept (f : InsT) (s : State) (h : Memory.wf s.ms.mem = true) : keptOut (execTfirst f s) := by
  refine guarded_kept h ?_
  repeat' split
  all_goals simp [h]

theorem execTclr_kept (f : InsT) (s : State) (h : Memory.wf s.ms.mem = true) : keptOut (execTclr f s) :=
  guarded_kept h (by simp [h])

theorem execCopyRecordStage_kept (core : Nat) (s : State) (h : Memory.wf s.ms.mem = true) :
    keptOut (execCopyRecordStage core s) := by
  refine keptOut_next ?_
  repeat' split
  all_goals simp [h]

theorem execCopyChunk_kept (core i at' : Nat) (s : State) (h : Memory.wf s.ms.mem = true) :
    keptOut (execCopyChunk core i at' s) := by
  refine keptOut_next ?_
  repeat' split
  all_goals simp [h]

theorem execCopyComplete_kept (core i : Nat) (s : State) (h : Memory.wf s.ms.mem = true) :
    keptOut (execCopyComplete core i s) := by
  refine keptOut_next ?_
  repeat' split
  all_goals simp [h]

theorem execCopyStop_kept (core i : Nat) (s : State) (h : Memory.wf s.ms.mem = true) : keptOut (execCopyStop core i s) := by
  refine keptOut_next ?_
  repeat' split
  all_goals simp [h]

theorem execBond_kept (f : InsT) (s : State) (h : Memory.wf s.ms.mem = true) : keptOut (execBond f s) := by
  refine guarded_kept h ?_
  repeat' split
  all_goals simp [h]

theorem execUnbond_kept (f : InsT) (s : State) (h : Memory.wf s.ms.mem = true) : keptOut (execUnbond f s) := by
  refine guarded_kept h ?_
  repeat' split
  all_goals simp [h]

theorem execAclaim_kept (f : InsT) (s : State) (h : Memory.wf s.ms.mem = true) : keptOut (execAclaim f s) := by
  refine guarded_kept h ?_
  dsimp only
  repeat' split
  all_goals simp [h]

theorem execAfree_kept (f : InsT) (s : State) (h : Memory.wf s.ms.mem = true) : keptOut (execAfree f s) :=
  guarded_kept h (by simp [h])

theorem execWalloc_kept (f : InsT) (s : State) (h : Memory.wf s.ms.mem = true) : keptOut (execWalloc f s) :=
  guarded_kept h (by simp [h])

theorem execWpin_kept (f : InsT) (s : State) (h : Memory.wf s.ms.mem = true) : keptOut (execWpin f s) := by
  refine guarded_kept h (State.withResidency_wf h fun k i r => ?_)
  split_ifs <;> simp [h]

theorem execWunpin_kept (f : InsT) (s : State) (h : Memory.wf s.ms.mem = true) : keptOut (execWunpin f s) := by
  refine guarded_kept h (State.withResidency_wf h fun k i r => ?_)
  split_ifs <;> simp [h]

theorem execWrevoke_kept (f : InsT) (s : State) (h : Memory.wf s.ms.mem = true) : keptOut (execWrevoke f s) := by
  refine guarded_kept h (State.withResidency_wf h fun k i r => ?_)
  split_ifs <;> simp [h]

theorem execWquery_kept (f : InsT) (s : State) (h : Memory.wf s.ms.mem = true) : keptOut (execWquery f s) :=
  guarded_kept h (by simp [h])

theorem execWload_kept (f : InsT) (s : State) (h : Memory.wf s.ms.mem = true) : keptOut (execWload f s) := by
  refine guarded_kept h ?_
  dsimp only
  split
  · simpa using h
  · refine State.withLease_wf h fun g => State.withResidency_wf h fun k i r => ?_
    split_ifs
    · simpa using h
    · simpa using h
    · simpa using h
    · rw [State.enqueueTile_ms _ _ _ _ _ (fun t => State.mapResidency_ms ..)]
      exact h

theorem execResidencyLoad_kept (core i line : Nat) (s : State) (h : Memory.wf s.ms.mem = true) :
    keptOut (execResidencyLoad core i line s) := by
  refine keptOut_next ?_
  repeat' split
  all_goals simp [h]

theorem execResidencyLoadComplete_kept (core i : Nat) (s : State) (h : Memory.wf s.ms.mem = true) :
    keptOut (execResidencyLoadComplete core i s) := by
  refine keptOut_next ?_
  dsimp only
  repeat' split
  all_goals simp [h]

theorem execMloop_kept (f : InsT) (s : State) (h : Memory.wf s.ms.mem = true) : keptOut (execMloop f s) := by
  refine guarded_kept h ?_
  dsimp only
  split
  · simpa using h
  · refine State.withLease_wf h fun g => State.withResidency_wf h fun k i r => ?_
    split_ifs <;> simp [h]

theorem execKStep_kept (core : Nat) (s : State) (h : Memory.wf s.ms.mem = true) : keptOut (execKStep core s) := by
  refine keptOut_next ?_
  repeat' split
  all_goals simp [h]

theorem execMzero_kept (f : InsT) (s : State) (h : Memory.wf s.ms.mem = true) : keptOut (execMzero f s) := by
  refine guarded_kept h ?_
  dsimp only
  split_ifs <;> simp [h]

theorem execMzeroRun_kept (core : Nat) (s : State) (h : Memory.wf s.ms.mem = true) : keptOut (execMzeroRun core s) := by
  refine keptOut_next ?_
  repeat' split
  all_goals simp [h]

theorem execMepi_kept (f : InsT) (s : State) (h : Memory.wf s.ms.mem = true) : keptOut (execMepi f s) := by
  refine guarded_kept h ?_
  dsimp only
  split_ifs <;> simp [h]

theorem execMepiRun_kept (core : Nat) (s : State) (h : Memory.wf s.ms.mem = true) : keptOut (execMepiRun core s) := by
  refine keptOut_next ?_
  dsimp only
  repeat' split
  all_goals simp [h]

theorem execMcorr_kept (f : InsT) (s : State) (h : Memory.wf s.ms.mem = true) : keptOut (execMcorr f s) := by
  refine guarded_kept h ?_
  dsimp only
  split
  · simpa using h
  · refine State.withResidency_wf h fun k i r => ?_
    split_ifs <;> simp [h]

theorem execMcorrRun_kept (core : Nat) (s : State) (h : Memory.wf s.ms.mem = true) : keptOut (execMcorrRun core s) := by
  refine keptOut_next ?_
  dsimp only
  repeat' split
  all_goals simp [h]

theorem execSpillf_kept (f : InsT) (s : State) (h : Memory.wf s.ms.mem = true) : keptOut (execSpillf f s) := by
  refine guarded_kept h ?_
  dsimp only
  split_ifs <;> simp [h]

theorem execFillf_kept (f : InsT) (s : State) (h : Memory.wf s.ms.mem = true) : keptOut (execFillf f s) := by
  refine guarded_kept h ?_
  dsimp only
  split_ifs <;> simp [h]

theorem execIssueCycle_kept (s : State) (h : Memory.wf s.ms.mem = true) : keptOut (execIssueCycle s) := by
  refine keptOut_next ?_
  rw [State.engineOrder_ms]
  exact State.foldl_wf (fun t c ht => by simpa using ht) _ _ h

theorem execActiveSetIdleExit_kept (id : WaveId) (s : State) (h : Memory.wf s.ms.mem = true) :
    keptOut (execActiveSetIdleExit id s) := by
  refine keptOut_next ?_
  split_ifs <;> simp [h]

theorem execActiveSetLongWait_kept (id : WaveId) (s : State) (h : Memory.wf s.ms.mem = true) :
    keptOut (execActiveSetLongWait id s) := by
  refine keptOut_next ?_
  repeat' split
  all_goals simp [h]

theorem execSleepExpiry_kept (id : WaveId) (s : State) (h : Memory.wf s.ms.mem = true) :
    keptOut (execSleepExpiry id s) := by
  refine keptOut_next ?_
  split_ifs <;> simp [h]

theorem execWaveEnd_kept (id : WaveId) (s : State) (h : Memory.wf s.ms.mem = true) : keptOut (execWaveEnd id s) := by
  refine keptOut_next ?_
  repeat' split
  all_goals simp [h]

theorem execDispatchBlock_kept (gid cluster : Nat) (s : State) (h : Memory.wf s.ms.mem = true) :
    keptOut (execDispatchBlock gid cluster s) := by
  refine keptOut_next ?_
  split
  · exact h
  · split
    · exact h
    · split
      · exact h
      · dsimp only
        split
        · next heq => exact State.wf_of_fst heq (State.argsOf_wf _ _ _ _ h)
        · next heq => simpa using State.wf_of_fst heq (State.argsOf_wf _ _ _ _ h)

theorem execQueueRecordChange_kept (n : Nat) (s : State) (h : Memory.wf s.ms.mem = true) :
    keptOut (execQueueRecordChange n s) := by
  refine keptOut_next ?_
  repeat' split
  all_goals simp [h]

theorem execReplicaInvalAck_kept (n : Nat) (s : State) (h : Memory.wf s.ms.mem = true) :
    keptOut (execReplicaInvalAck n s) := by
  refine keptOut_next ?_
  repeat' split
  all_goals simp [h]

theorem execDoorbell_kept (n : Nat) (tail : BitVec 32) (s : State) (h : Memory.wf s.ms.mem = true) :
    keptOut (execDoorbell n tail s) := by
  refine keptOut_next ?_
  split_ifs <;> simp [h]

theorem execLaneBind_kept (die lane : Nat) (s : State) (h : Memory.wf s.ms.mem = true) : keptOut (execLaneBind die lane s) := by
  have hfetch : ∀ l : Map QueueRec, Memory.wf (l.foldl (fun t e => t.refetch die e.1) s).ms.mem = true :=
    fun l => State.foldl_wf (fun t e ht => by simpa using ht) l s h
  refine keptOut_next ?_
  split
  · exact h
  · split
    · exact h
    · dsimp only
      split
      · exact hfetch _
      · exact hfetch _

theorem execCicadaStep_kept (die : Nat) (s : State) (h : Memory.wf s.ms.mem = true) : keptOut (execCicadaStep die s) := by
  have hlanes : ∀ l : List Nat, Memory.wf (l.foldl (fun t i => t.serveLane die (32 * die + i)) s).ms.mem = true :=
    fun l => State.foldl_wf (fun t i ht => State.serveLane_wf t _ _ ht) l s h
  refine keptOut_next ?_
  generalize List.range 32 = l
  split
  · exact h
  · simpa using hlanes l

theorem execWaitPacket_kept (n : Nat) (s : State) (h : Memory.wf s.ms.mem = true) : keptOut (execWaitPacket n s) := by
  refine withPacket_kept h fun s die b h => ?_
  split_ifs <;> simp [h]

theorem execWaitPoll_kept (n : Nat) (s : State) (h : Memory.wf s.ms.mem = true) : keptOut (execWaitPoll n s) := by
  refine keptOut_next ?_
  split
  · dsimp only
    split
    · exact h
    · split
      · next heq => exact State.wf_of_fst heq (State.feLoad_wf _ _ _ _ _ _ _ h)
      · next heq => simp [State.wf_of_fst heq (State.feLoad_wf _ _ _ _ _ _ _ h)]
      · next heq => split_ifs <;> simp [State.wf_of_fst heq (State.feLoad_wf _ _ _ _ _ _ _ h)]
  · exact h

theorem execSignalPacket_kept (n : Nat) (s : State) (h : Memory.wf s.ms.mem = true) : keptOut (execSignalPacket n s) := by
  refine withPacket_kept h fun s die b h => ?_
  have hstore : Memory.wf (if pktField b 24 8 = 0 then (s, FeAnswer.done [])
      else s.feStore die (feOwner n 2) (s.queueContext n) (pktField b 24 8)
        (max (s.queueAt die n).hts (s.queueAt die n).dts) ((b.drop 32).take 8)).1.ms.mem = true := by
    split_ifs <;> simp [h]
  dsimp only
  split
  · simpa using h
  · split
    · simp [h]
    · split
      · next heq => exact State.wf_of_fst heq hstore
      · next heq => simp [State.wf_of_fst heq hstore]
      · next heq => exact State.signalEnd_wf _ _ _ (by simpa using State.wf_of_fst heq hstore)

theorem execCopyPacket_kept (n : Nat) (s : State) (h : Memory.wf s.ms.mem = true) : keptOut (execCopyPacket n s) := by
  refine withPacket_kept h fun s die b h => ?_
  dsimp only
  split
  · exact State.copyOn_wf _ _ _ _ _ _ _ _ _ _ h
  · split
    · next heq => exact State.wf_of_fst heq (State.feWindow_wf _ _ _ _ _ _ h)
    · next heq => simp [State.wf_of_fst heq (State.feWindow_wf _ _ _ _ _ _ h)]
    · next heq =>
      have h1 := State.wf_of_fst heq (State.feWindow_wf _ _ _ _ _ _ h)
      split
      · next heq2 => exact State.wf_of_fst heq2 (State.feWindow_wf _ _ _ _ _ _ h1)
      · next heq2 => simp [State.wf_of_fst heq2 (State.feWindow_wf _ _ _ _ _ _ h1)]
      · next heq2 => split_ifs <;> simp [State.wf_of_fst heq2 (State.feWindow_wf _ _ _ _ _ _ h1)]

theorem execPortRdata_kept (port i : Nat) (s : State) (h : Memory.wf s.ms.mem = true) :
    keptOut (execPortRdata port i s) := by
  refine keptOut_next ?_
  dsimp only
  repeat' split
  all_goals simp [h]

theorem execPortWdone_kept (port i : Nat) (s : State) (h : Memory.wf s.ms.mem = true) :
    keptOut (execPortWdone port i s) := by
  refine keptOut_next ?_
  dsimp only
  repeat' split
  all_goals simp [h]

theorem execPortAres_kept (port i : Nat) (s : State) (h : Memory.wf s.ms.mem = true) : keptOut (execPortAres port i s) := by
  refine keptOut_next ?_
  dsimp only
  repeat' split
  all_goals simp [h]

theorem execPortPull_kept (port i : Nat) (s : State) (h : Memory.wf s.ms.mem = true) : keptOut (execPortPull port i s) := by
  refine keptOut_next ?_
  repeat' split
  all_goals simp [h]

theorem execPortMdone_kept (port i : Nat) (s : State) (h : Memory.wf s.ms.mem = true) :
    keptOut (execPortMdone port i s) := by
  refine keptOut_next ?_
  repeat' split
  all_goals simp [h]

theorem execPortRedirect_kept (port i : Nat) (s : State) (h : Memory.wf s.ms.mem = true) :
    keptOut (execPortRedirect port i s) := by
  refine keptOut_next ?_
  repeat' split
  all_goals simp [h]

theorem execClusterMdata_kept (port i : Nat) (s : State) (h : Memory.wf s.ms.mem = true) :
    keptOut (execClusterMdata port i s) := by
  refine keptOut_next ?_
  repeat' split
  all_goals simp [h]

theorem execL1LineExpiry_kept (core i : Nat) (s : State) (h : Memory.wf s.ms.mem = true) :
    keptOut (execL1LineExpiry core i s) := by
  refine keptOut_next ?_
  repeat' split
  all_goals simp [h]

theorem execInterfaceMsgd_kept (port i : Nat) (s : State) (h : Memory.wf s.ms.mem = true) :
    keptOut (execInterfaceMsgd port i s) := by
  refine keptOut_next ?_
  repeat' split
  all_goals simp [h]

theorem execClusterWinv_kept (port i : Nat) (s : State) (h : Memory.wf s.ms.mem = true) :
    keptOut (execClusterWinv port i s) := by
  refine keptOut_next ?_
  repeat' split
  all_goals simp [h]

theorem execLaunchPacket_kept (n : Nat) (s : State) (h : Memory.wf s.ms.mem = true) : keptOut (execLaunchPacket n s) :=
  withPacket_kept h fun s die b h => (by simp [h])

theorem execSeedlaunchPacket_kept (n : Nat) (s : State) (h : Memory.wf s.ms.mem = true) :
    keptOut (execSeedlaunchPacket n s) :=
  withPacket_kept h fun s die b h => (by simp [h])

theorem execIndirectPacket_kept (n : Nat) (s : State) (h : Memory.wf s.ms.mem = true) :
    keptOut (execIndirectPacket n s) :=
  withPacket_kept h fun s die b h => (by simp [h])

theorem execEnqRequest_kept (i : Nat) (s : State) (h : Memory.wf s.ms.mem = true) : keptOut (execEnqRequest i s) := by
  refine keptOut_next ?_
  dsimp only
  repeat' split
  all_goals simp [h]

theorem execSpawnHandoff_kept (k : Nat) (s : State) (h : Memory.wf s.ms.mem = true) : keptOut (execSpawnHandoff k s) := by
  refine keptOut_next ?_
  split
  · exact h
  · split
    · exact h
    · split
      · exact h
      · dsimp only
        split
        · next heq => exact State.wf_of_fst heq (State.judgeSpawn_wf _ _ _ _ _ h)
        · next heq =>
          have h1 := State.wf_of_fst heq (State.judgeSpawn_wf _ _ _ _ _ h)
          simp [h1]
        · next heq => simpa using State.wf_of_fst heq (State.judgeSpawn_wf _ _ _ _ _ h)

theorem execGridComplete_kept (id : Nat) (s : State) (h : Memory.wf s.ms.mem = true) : keptOut (execGridComplete id s) := by
  refine keptOut_next ?_
  repeat' split
  all_goals simp [h]

theorem execSetquota_kept (n : Nat) (s : State) (h : Memory.wf s.ms.mem = true) : keptOut (execSetquota n s) := by
  refine withPacket_kept h fun s die b h => ?_
  dsimp only
  split
  · simp [h]
  · exact State.privileged_wf (by simp [h]) _ h

theorem execRevokeall_kept (n : Nat) (s : State) (h : Memory.wf s.ms.mem = true) : keptOut (execRevokeall n s) := by
  refine withPacket_kept h fun s die b h => ?_
  have hrevoked : ∀ l : List Nat, Memory.wf (l.foldl (fun t i => t.revokeEntry (pktField b 26 2) i) s).ms.mem = true :=
    fun l => State.foldl_wf (fun t i ht => by simpa using ht) l s h
  dsimp only
  split
  · simp [h]
  · split
    · exact State.retired_wf _ _ (hrevoked _)
    · simpa using hrevoked _

theorem execInval_kept (n : Nat) (s : State) (h : Memory.wf s.ms.mem = true) : keptOut (execInval n s) := by
  refine withPacket_kept h fun s die b h => ?_
  dsimp only
  split_ifs <;> simp [h]

theorem execInvalkey_kept (n : Nat) (s : State) (h : Memory.wf s.ms.mem = true) : keptOut (execInvalkey n s) := by
  refine withPacket_kept h fun s die b h => ?_
  dsimp only
  split_ifs <;> simp [h]

theorem execKeyload_kept (n : Nat) (s : State) (h : Memory.wf s.ms.mem = true) : keptOut (execKeyload n s) := by
  refine withPacket_kept h fun s die b h => State.withBlob_wf _ _ _ _ _ _ (fun t u k ht hu => ?_) h
  dsimp only at hu
  split at hu
  · obtain rfl := Option.some.inj hu
    exact ht
  · cases hu

theorem execKeyrevoke_kept (n : Nat) (s : State) (h : Memory.wf s.ms.mem = true) : keptOut (execKeyrevoke n s) := by
  refine withPacket_kept h fun s die b h => State.withBlob_wf _ _ _ _ _ _ (fun t u k ht hu => ?_) h
  dsimp only at hu
  split at hu
  · obtain rfl := Option.some.inj hu
    simpa using ht
  · cases hu

theorem execMigrate_kept (n : Nat) (s : State) (h : Memory.wf s.ms.mem = true) : keptOut (execMigrate n s) := by
  refine withPacket_kept h fun s die b h => ?_
  repeat' split
  all_goals simp [h]

theorem execResume_kept (n : Nat) (s : State) (h : Memory.wf s.ms.mem = true) : keptOut (execResume n s) := by
  refine withPacket_kept h fun s die b h => State.withRecord_wf h fun q => ?_
  dsimp only
  split_ifs <;> simp [h]

theorem execCounters_kept (n : Nat) (s : State) (h : Memory.wf s.ms.mem = true) : keptOut (execCounters n s) := by
  refine withPacket_kept h fun s die b h => ?_
  dsimp only
  split
  · simp [h]
  · split
    · next heq => exact State.wf_of_fst heq (State.feStore_wf _ _ _ _ _ _ _ h)
    · next heq => simp [State.wf_of_fst heq (State.feStore_wf _ _ _ _ _ _ _ h)]
    · next heq => simp [State.wf_of_fst heq (State.feStore_wf _ _ _ _ _ _ _ h)]

theorem execSetq_kept (n : Nat) (s : State) (h : Memory.wf s.ms.mem = true) : keptOut (execSetq n s) := by
  refine withPacket_kept h fun s die b h => State.privileged_wf ?_ _ h
  refine State.withImage_wf _ _ _ _ _ (fun t v ht => State.withRecord_wf ht fun q => ?_) h
  dsimp only
  split_ifs <;> simp [ht]

theorem execSetasr_kept (n : Nat) (s : State) (h : Memory.wf s.ms.mem = true) : keptOut (execSetasr n s) := by
  refine withPacket_kept h fun s die b h => State.privileged_wf ?_ _ h
  refine State.withImage_wf _ _ _ _ _ (fun t v ht => ?_) h
  dsimp only
  split_ifs <;> simp [ht]

theorem execDomaincut_kept (n : Nat) (layout : List DomainPlan) (s : State) (h : Memory.wf s.ms.mem = true) :
    keptOut (execDomaincut n layout s) := by
  refine withPacket_kept h fun s die b h => State.privileged_wf ?_ _ h
  split
  · next heq => exact State.wf_of_fst heq (State.feLoad_wf _ _ _ _ _ _ _ h)
  · next heq => simp [State.wf_of_fst heq (State.feLoad_wf _ _ _ _ _ _ _ h)]
  · next heq =>
    dsimp only
    split_ifs <;> simp [State.wf_of_fst heq (State.feLoad_wf _ _ _ _ _ _ _ h)]

theorem execNopelIdleTimeout_kept (j : Nat) (s : State) (h : Memory.wf s.ms.mem = true) :
    keptOut (execNopelIdleTimeout j s) := by
  refine keptOut_next ?_
  split_ifs <;> simp [h]

theorem execNopelReplay_kept (j : Nat) (s : State) (h : Memory.wf s.ms.mem = true) : keptOut (execNopelReplay j s) := by
  refine keptOut_next ?_
  split_ifs <;> simp [h]

theorem execNopelPortDownExpiry_kept (j : Nat) (s : State) (h : Memory.wf s.ms.mem = true) :
    keptOut (execNopelPortDownExpiry j s) := by
  refine keptOut_next ?_
  split_ifs <;> simp [h]

theorem execNopelPortUp_kept (j : Nat) (s : State) (h : Memory.wf s.ms.mem = true) : keptOut (execNopelPortUp j s) := by
  refine keptOut_next ?_
  split_ifs <;> simp [h]

theorem execNopelFlitReceive_kept (j : Nat) (f : NopelFlit) (s : State) (h : Memory.wf s.ms.mem = true) :
    keptOut (execNopelFlitReceive j f s) := by
  refine keptOut_next ?_
  dsimp only
  split
  · exact h
  · split
    · split <;> simpa using h
    · split
      · simpa using h
      · split
        · simpa using h
        · exact State.foldl_wf (fun t x ht => by simpa using ht) _ _ (by simpa using h)

theorem execPeerAccess_kept (j : Nat) (s : State) (h : Memory.wf s.ms.mem = true) : keptOut (execPeerAccess j s) := by
  refine keptOut_next ?_
  repeat' split
  all_goals simp [h]

@[simp] theorem State.hostReceive_ms (s : State) (l : List HostChunk) : (s.hostReceive l).ms = s.ms := by
  simp [State.hostReceive]

theorem execHostWrite_kept (pa : PAddr) (bs : List Byte) (s : State) (h : Memory.wf s.ms.mem = true) :
    keptOut (execHostWrite pa bs s) := by
  refine keptOut_next ?_
  dsimp only
  split
  · split <;> simpa using h
  · simpa using h
  · simpa using Memory.wf_write _ _ _ h
  · exact h

theorem execHostRead_kept (pa : PAddr) (n : Nat) (s : State) (h : Memory.wf s.ms.mem = true) :
    keptOut (execHostRead pa n s) := by
  refine keptOut_next ?_
  split
  · split <;> simpa using h
  · simpa using h
  · simpa using h
  · exact h

theorem execSession_kept (s : State) (h : Memory.wf s.ms.mem = true) : keptOut (execSession s) := by
  refine command_kept h fun d r hr => ?_
  dsimp only at hr
  split at hr
  · cases hr
  · obtain rfl := Option.some.inj hr
    exact h

theorem execGetreport_kept (s : State) (h : Memory.wf s.ms.mem = true) : keptOut (execGetreport s) := by
  refine command_kept h fun d r hr => ?_
  obtain rfl := Option.some.inj hr
  exact h

theorem execSetring_kept (s : State) (h : Memory.wf s.ms.mem = true) : keptOut (execSetring s) := by
  refine command_kept h fun d r hr => ?_
  dsimp only at hr
  split at hr
  · cases hr
  · obtain rfl := Option.some.inj hr
    exact State.flushRing_wf _ _ _ h

theorem execSetslice_kept (s : State) (h : Memory.wf s.ms.mem = true) : keptOut (execSetslice s) := by
  refine command_kept h fun d r hr => ?_
  dsimp only at hr
  split at hr
  · cases hr
  · obtain rfl := Option.some.inj hr
    simpa using h

theorem execReadlog_kept (s : State) (h : Memory.wf s.ms.mem = true) : keptOut (execReadlog s) := by
  refine command_kept h fun d r hr => ?_
  split at hr
  · cases hr
  · obtain rfl := Option.some.inj hr
    exact h

theorem execFwload_kept (s : State) (h : Memory.wf s.ms.mem = true) : keptOut (execFwload s) := by
  refine command_kept h fun d r hr => ?_
  obtain rfl := Option.some.inj hr
  exact h

theorem execRoute_kept (s : State) (h : Memory.wf s.ms.mem = true) : keptOut (execRoute s) := by
  refine command_kept h fun d r hr => ?_
  dsimp only at hr
  split at hr
  · cases hr
  · obtain rfl := Option.some.inj hr
    exact h

theorem execQread_kept (s : State) (h : Memory.wf s.ms.mem = true) : keptOut (execQread s) := by
  refine command_kept h fun d r hr => ?_
  dsimp only at hr
  split at hr
  · cases hr
  · obtain rfl := Option.some.inj hr
    exact h

theorem execTimeSliceExpiry_kept (ctx : Nat) (s : State) (h : Memory.wf s.ms.mem = true) :
    keptOut (execTimeSliceExpiry ctx s) := by
  refine keptOut_next ?_
  split_ifs <;> simp [h]

theorem execEngineStopAck_kept (ctx : Nat) (e : Engine) (s : State) (h : Memory.wf s.ms.mem = true) :
    keptOut (execEngineStopAck ctx e s) := by
  refine keptOut_next ?_
  split_ifs <;> simp [h]

theorem execMantisSave_kept (ctx : Nat) (s : State) (h : Memory.wf s.ms.mem = true) : keptOut (execMantisSave ctx s) := by
  refine keptOut_next ?_
  split_ifs <;> simp [h]

theorem execMantisRestore_kept (ctx : Nat) (placement : List (Nat × Nat)) (s : State) (h : Memory.wf s.ms.mem = true) :
    keptOut (execMantisRestore ctx placement s) := by
  refine keptOut_next ?_
  dsimp only
  split
  · exact h
  · rw [State.backAgain_ms, State.drawn_ms]
    refine State.foldl_wf (fun t e ht => by simpa using ht) _ _ ?_
    exact State.foldl_wf (fun t e ht => by simpa using ht) _ _ h

theorem execSramRailLower_kept (die : Nat) (s : State) (h : Memory.wf s.ms.mem = true) : keptOut (execSramRailLower die s) := by
  refine keptOut_next ?_
  split
  · exact h
  · split
    · exact h
    · exact State.foldl_wf (fun t i ht => by simpa using ht) _ _ h

theorem execSramRailRaise_kept (die : Nat) (s : State) (h : Memory.wf s.ms.mem = true) : keptOut (execSramRailRaise die s) := by
  refine keptOut_next ?_
  split
  · exact h
  · split
    · exact h
    · refine State.foldl_wf (fun t i ht => ?_) _ _ h
      dsimp only
      split <;> exact ht

theorem execChannelGroupFailure_kept (group : Nat) (s : State) (h : Memory.wf s.ms.mem = true) :
    keptOut (execChannelGroupFailure group s) := by
  refine keptOut_next ?_
  repeat' split
  all_goals simp [h]

theorem execDomainReinitialisation_kept (dom : Nat) (s : State) (h : Memory.wf s.ms.mem = true) :
    keptOut (execDomainReinitialisation dom s) := by
  refine keptOut_next ?_
  repeat' split
  all_goals simp [h]

theorem execThrottling_kept (level : Nat) (s : State) (h : Memory.wf s.ms.mem = true) :
    keptOut (execThrottling level s) :=
  keptOut_next (by simp [h])

theorem Map.sorted_of_pairwise {α : Type} {m : Map α} (h : m.Pairwise (fun e v => e.1 < v.1)) : Map.sorted m = true := by
  induction m with
  | nil => rfl
  | cons e m ih =>
    cases m with
    | nil => rfl
    | cons v m =>
      obtain ⟨hlt, hrest⟩ := List.pairwise_cons.mp h
      simp only [Map.sorted, Bool.and_eq_true, decide_eq_true_eq]
      exact ⟨hlt v (List.mem_cons_self ..), ih hrest⟩

theorem Memory.wf_filter (p : Host.Cell → Bool) (m : List Host.Cell) (h : Memory.wf m = true) :
    Memory.wf (m.filter p) = true := by
  obtain ⟨hsorted, hlisted⟩ := (Memory.wf_iff m).mp h
  exact (Memory.wf_iff _).mpr
    ⟨Map.sorted_of_pairwise ((Map.pairwise_of_sorted hsorted).filter p), fun c hc => hlisted c (List.mem_filter.mp hc).1⟩

/-- What a cold reset leaves of the listed bytes, those of the host window, stands in order as it did (R440). -/
theorem execColdReset_kept (s : State) (h : Memory.wf s.ms.mem = true) : keptOut (execColdReset s) := by
  refine keptOut_next ?_
  rw [State.noteBoot_ms]
  exact Memory.wf_filter _ _ h

theorem execWarmReset_kept (s : State) (h : Memory.wf s.ms.mem = true) : keptOut (execWarmReset s) :=
  keptOut_next (by simp [h])

theorem execSlop3_kept (f : InsT) (s : State) (h : Memory.wf s.ms.mem = true) : keptOut (execSlop3 f s) :=
  uniGuarded_kept h

theorem execScmp_kept (f : InsA) (s : State) (h : Memory.wf s.ms.mem = true) : keptOut (execScmp f s) :=
  uniGuarded_kept h

theorem execSsel_kept (f : InsA) (s : State) (h : Memory.wf s.ms.mem = true) : keptOut (execSsel f s) :=
  uniGuarded_kept h

theorem execQlop_kept (f : InsT) (s : State) (h : Memory.wf s.ms.mem = true) : keptOut (execQlop f s) :=
  uniGuarded_kept h

theorem execVlop3_kept (f : InsT) (s : State) (h : Memory.wf s.ms.mem = true) : keptOut (execVlop3 f s) :=
  vecDo_kept h

theorem execVcmp_kept (f : InsA) (s : State) (h : Memory.wf s.ms.mem = true) : keptOut (execVcmp f s) :=
  vecDo_kept h

theorem execVsel_kept (f : InsA) (s : State) (h : Memory.wf s.ms.mem = true) : keptOut (execVsel f s) :=
  vecDo_kept h

theorem execPlop_kept (f : InsT) (s : State) (h : Memory.wf s.ms.mem = true) : keptOut (execPlop f s) :=
  vecDo_kept h

theorem execVshfl_kept (f : InsA) (s : State) (h : Memory.wf s.ms.mem = true) : keptOut (execVshfl f s) :=
  vecDo_kept h

theorem execVrdlane_kept (f : InsA) (s : State) (h : Memory.wf s.ms.mem = true) : keptOut (execVrdlane f s) :=
  vecDo_kept h

theorem execVwrlane_kept (f : InsA) (s : State) (h : Memory.wf s.ms.mem = true) : keptOut (execVwrlane f s) :=
  vecDo_kept h

theorem execVredux_kept (f : InsA) (s : State) (h : Memory.wf s.ms.mem = true) : keptOut (execVredux f s) :=
  vecDo_kept h

theorem execVscan_kept (f : InsA) (s : State) (h : Memory.wf s.ms.mem = true) : keptOut (execVscan f s) :=
  vecDo_kept h

theorem execVfadd_kept (f : InsA) (s : State) (h : Memory.wf s.ms.mem = true) : keptOut (execVfadd f s) := by
  unfold execVfadd
  exact vecArith_kept h

theorem execVfmul_kept (f : InsA) (s : State) (h : Memory.wf s.ms.mem = true) : keptOut (execVfmul f s) := by
  unfold execVfmul
  exact vecArith_kept h

theorem execVfma_kept (f : InsA) (s : State) (h : Memory.wf s.ms.mem = true) : keptOut (execVfma f s) := by
  unfold execVfma
  exact vecArith_kept h

theorem execVfcmp_kept (f : InsA) (s : State) (h : Memory.wf s.ms.mem = true) : keptOut (execVfcmp f s) :=
  vecDo_kept h

theorem execVfrnd_kept (f : InsA) (s : State) (h : Memory.wf s.ms.mem = true) : keptOut (execVfrnd f s) := by
  unfold execVfrnd
  exact vecFloat_kept h

theorem execVfclass_kept (f : InsA) (s : State) (h : Memory.wf s.ms.mem = true) : keptOut (execVfclass f s) := by
  unfold execVfclass
  exact vecFloat_kept h

theorem execVcvt_kept (f : InsA) (s : State) (h : Memory.wf s.ms.mem = true) : keptOut (execVcvt f s) := by
  unfold execVcvt
  exact vecFloat_kept h

theorem execVfma2_kept (f : InsA) (s : State) (h : Memory.wf s.ms.mem = true) : keptOut (execVfma2 f s) := by
  unfold execVfma2
  exact vecFloat_kept h

theorem execVfdot2_kept (f : InsA) (s : State) (h : Memory.wf s.ms.mem = true) : keptOut (execVfdot2 f s) := by
  unfold execVfdot2
  exact vecFloat_kept h

theorem execVfldexp_kept (f : InsA) (s : State) (h : Memory.wf s.ms.mem = true) : keptOut (execVfldexp f s) := by
  unfold execVfldexp
  exact vecFloat_kept h

theorem execVsqrt_kept (f : InsA) (s : State) (h : Memory.wf s.ms.mem = true) : keptOut (execVsqrt f s) := by
  unfold execVsqrt
  exact vecFloat_kept h

theorem execVqnt_kept (f : InsA) (s : State) (h : Memory.wf s.ms.mem = true) : keptOut (execVqnt f s) := by
  unfold execVqnt
  exact vecQuant_kept h

theorem execVdqnt_kept (f : InsA) (s : State) (h : Memory.wf s.ms.mem = true) : keptOut (execVdqnt f s) := by
  unfold execVdqnt
  exact vecFloat_kept h

theorem execVpack_kept (f : InsA) (s : State) (h : Memory.wf s.ms.mem = true) : keptOut (execVpack f s) := by
  unfold execVpack
  exact vecQuant_kept h

theorem execVunpk_kept (f : InsA) (s : State) (h : Memory.wf s.ms.mem = true) : keptOut (execVunpk f s) := by
  unfold execVunpk
  exact vecFloat_kept h

theorem execVamax_kept (f : InsA) (s : State) (h : Memory.wf s.ms.mem = true) : keptOut (execVamax f s) :=
  vecDo_kept h

theorem execVunp3_kept (f : InsA) (s : State) (h : Memory.wf s.ms.mem = true) : keptOut (execVunp3 f s) := by
  unfold execVunp3
  exact vecFloat_kept h

theorem execVtdot4_kept (f : InsA) (s : State) (h : Memory.wf s.ms.mem = true) : keptOut (execVtdot4 f s) := by
  unfold execVtdot4
  exact vecFloat_kept h

/-- Every instruction and every event keeps memory in its canonical form. -/
theorem exec_kept : ∀ (i : Instr) (s : State), Memory.wf s.ms.mem = true → keptOut (exec i s)
  | .smov _, _, h | .sadd _, _, h | .ssub _, _, h | .smul _, _, h | .smulhi _, _, h | .smad _, _, h
  | .smin _, _, h | .smax _, _, h => uniIntW_kept h
  | .sshl _, _, h | .sshr _, _, h | .sbfe _, _, h | .sbfi _, _, h | .spopc _, _, h | .sclz _, _, h => uniInt_kept h
  | .vmov _, _, h | .vadd _, _, h | .vsub _, _, h | .vmul _, _, h | .vmulhi _, _, h | .vmad _, _, h
  | .vmin _, _, h | .vmax _, _, h | .vabs _, _, h | .vbrev _, _, h => vecIntW_kept h
  | .vshl _, _, h | .vshr _, _, h | .vshf _, _, h | .vbfe _, _, h | .vbfi _, _, h | .vpopc _, _, h | .vclz _, _, h
  | .vdot4 _, _, h | .vcvti _, _, h => vecInt_kept h
  | .vfmin _, _, h | .vfmax _, _, h => vecMinMax_kept h
  | .vrcp _, _, h | .vrsq _, _, h | .vexp2 _, _, h | .vlog2 _, _, h | .vsin _, _, h | .vcos _, _, h
  | .vsinpi _, _, h | .vcospi _, _, h | .vtanh _, _, h => vecSpecial_kept h
  | .nop f, s, h => execNop_kept f s h
  | .bra f, s, h => execBra_kept f s h
  | .brq f, s, h => execBrq_kept f s h
  | .brv f, s, h => execBrv_kept f s h
  | .brx f, s, h => execBrx_kept f s h
  | .call f, s, h => execCall_kept f s h
  | .callx f, s, h => execCallx_kept f s h
  | .ret f, s, h => execRet_kept f s h
  | .jenrol f, s, h => execJenrol_kept f s h
  | .jpark f, s, h => execJpark_kept f s h
  | .jstrike f, s, h => execJstrike_kept f s h
  | .exit f, s, h => execExit_kept f s h
  | .waitc f, s, h => execWaitc_kept f s h
  | .sleep f, s, h => execSleep_kept f s h
  | .yield f, s, h => execYield_kept f s h
  | .etrig f, s, h => execEtrig_kept f s h
  | .enq f, s, h => execEnq_kept f s h
  | .trap f, s, h => execTrap_kept f s h
  | .eret f, s, h => execEret_kept f s h
  | .bkpt f, s, h => execBkpt_kept f s h
  | .bond f, s, h => execBond_kept f s h
  | .unbond f, s, h => execUnbond_kept f s h
  | .csrr f, s, h => execCsrr_kept f s h
  | .csrw f, s, h => execCsrw_kept f s h
  | .slop3 f, s, h => execSlop3_kept f s h
  | .scmp f, s, h => execScmp_kept f s h
  | .ssel f, s, h => execSsel_kept f s h
  | .qlop f, s, h => execQlop_kept f s h
  | .vlop3 f, s, h => execVlop3_kept f s h
  | .vcmp f, s, h => execVcmp_kept f s h
  | .vsel f, s, h => execVsel_kept f s h
  | .plop f, s, h => execPlop_kept f s h
  | .vshfl f, s, h => execVshfl_kept f s h
  | .vrdlane f, s, h => execVrdlane_kept f s h
  | .vwrlane f, s, h => execVwrlane_kept f s h
  | .vballot f, s, h => execVballot_kept f s h
  | .vredux f, s, h => execVredux_kept f s h
  | .vscan f, s, h => execVscan_kept f s h
  | .vfadd f, s, h => execVfadd_kept f s h
  | .vfmul f, s, h => execVfmul_kept f s h
  | .vfma f, s, h => execVfma_kept f s h
  | .vfcmp f, s, h => execVfcmp_kept f s h
  | .vfrnd f, s, h => execVfrnd_kept f s h
  | .vfclass f, s, h => execVfclass_kept f s h
  | .vcvt f, s, h => execVcvt_kept f s h
  | .vfma2 f, s, h => execVfma2_kept f s h
  | .vfdot2 f, s, h => execVfdot2_kept f s h
  | .vfldexp f, s, h => execVfldexp_kept f s h
  | .vsqrt f, s, h => execVsqrt_kept f s h
  | .vqnt f, s, h => execVqnt_kept f s h
  | .vdqnt f, s, h => execVdqnt_kept f s h
  | .vpack f, s, h => execVpack_kept f s h
  | .vunpk f, s, h => execVunpk_kept f s h
  | .vamax f, s, h => execVamax_kept f s h
  | .vunp3 f, s, h => execVunp3_kept f s h
  | .vtdot4 f, s, h => execVtdot4_kept f s h
  | .ld f, s, h => execLd_kept f s h
  | .st f, s, h => execSt_kept f s h
  | .lds f, s, h => execLds_kept f s h
  | .sts f, s, h => execSts_kept f s h
  | .ldu f, s, h => execLdu_kept f s h
  | .stu f, s, h => execStu_kept f s h
  | .atom f, s, h => execAtom_kept f s h
  | .red f, s, h => execRed_kept f s h
  | .atoms f, s, h => execAtoms_kept f s h
  | .fence f, s, h => execFence_kept f s h
  | .cctl f, s, h => execCctl_kept f s h
  | .ldb f, s, h => execLdb_kept f s h
  | .stb f, s, h => execStb_kept f s h
  | .msend f, s, h => execMsend_kept f s h
  | .tcopy f, s, h => execTcopy_kept f s h
  | .tcopym f, s, h => execTcopym_kept f s h
  | .tshape f, s, h => execTshape_kept f s h
  | .tsfence f, s, h => execTsfence_kept f s h
  | .twany f, s, h => execTwany_kept f s h
  | .twall f, s, h => execTwall_kept f s h
  | .tfirst f, s, h => execTfirst_kept f s h
  | .tclr f, s, h => execTclr_kept f s h
  | .aclaim f, s, h => execAclaim_kept f s h
  | .afree f, s, h => execAfree_kept f s h
  | .walloc f, s, h => execWalloc_kept f s h
  | .wload f, s, h => execWload_kept f s h
  | .wpin f, s, h => execWpin_kept f s h
  | .wunpin f, s, h => execWunpin_kept f s h
  | .wrevoke f, s, h => execWrevoke_kept f s h
  | .wquery f, s, h => execWquery_kept f s h
  | .mloop f, s, h => execMloop_kept f s h
  | .mzero f, s, h => execMzero_kept f s h
  | .mepi f, s, h => execMepi_kept f s h
  | .mcorr f, s, h => execMcorr_kept f s h
  | .phnew f, s, h => execPhnew_kept f s h
  | .phfree f, s, h => execPhfree_kept f s h
  | .phreg f, s, h => execPhreg_kept f s h
  | .phdrop f, s, h => execPhdrop_kept f s h
  | .phsig f, s, h => execPhsig_kept f s h
  | .phwait f, s, h => execPhwait_kept f s h
  | .phsw f, s, h => execPhsw_kept f s h
  | .phexp f, s, h => execPhexp_kept f s h
  | .bar f, s, h => execBar_kept f s h
  | .rwait f, s, h => execRwait_kept f s h
  | .qpush f, s, h => execQpush_kept f s h
  | .qpop f, s, h => execQpop_kept f s h
  | .qmark f, s, h => execQmark_kept f s h
  | .qstat f, s, h => execQstat_kept f s h
  | .spillf f, s, h => execSpillf_kept f s h
  | .fillf f, s, h => execFillf_kept f s h
  | .impreciseTrap w, s, h => execImpreciseTrap_kept w s h
  | .issueCycle, s, h => execIssueCycle_kept s h
  | .activeSetIdleExit w, s, h => execActiveSetIdleExit_kept w s h
  | .activeSetLongWait w, s, h => execActiveSetLongWait_kept w s h
  | .sleepExpiry w, s, h => execSleepExpiry_kept w s h
  | .waveEnd w, s, h => execWaveEnd_kept w s h
  | .dispatchBlock grid cluster, s, h => execDispatchBlock_kept grid cluster s h
  | .switchOutputEnqueue wire, s, h => execSwitchOutputEnqueue_kept wire s h
  | .sliceRd slice place, s, h => execSliceRd_kept slice place s h
  | .sliceWr slice place, s, h => execSliceWr_kept slice place s h
  | .sliceAtom slice place, s, h => execSliceAtom_kept slice place s h
  | .sliceRed slice place, s, h => execSliceRed_kept slice place s h
  | .sliceCprdm slice place, s, h => execSliceCprdm_kept slice place s h
  | .sliceMsg slice place, s, h => execSliceMsg_kept slice place s h
  | .sliceResentPayload slice place, s, h => execSliceResentPayload_kept slice place s h
  | .pullSend slice place, s, h => execPullSend_kept slice place s h
  | .sliceWack slice place, s, h => execSliceWack_kept slice place s h
  | .sliceMack slice place, s, h => execSliceMack_kept slice place s h
  | .sliceMnak slice place, s, h => execSliceMnak_kept slice place s h
  | .msgdReoffer slice place, s, h => execMsgdReoffer_kept slice place s h
  | .msgOfferTimeout slice place, s, h => execMsgOfferTimeout_kept slice place s h
  | .sliceMigrate slice place, s, h => execSliceMigrate_kept slice place s h
  | .sliceRelease slice place, s, h => execSliceRelease_kept slice place s h
  | .portRdata port place, s, h => execPortRdata_kept port place s h
  | .portWdone port place, s, h => execPortWdone_kept port place s h
  | .portAres port place, s, h => execPortAres_kept port place s h
  | .portPull port place, s, h => execPortPull_kept port place s h
  | .portRedirect port place, s, h => execPortRedirect_kept port place s h
  | .portMdone port place, s, h => execPortMdone_kept port place s h
  | .replySwitchMdata place, s, h => execReplySwitchMdata_kept place s h
  | .residueTimeout sw place, s, h => execResidueTimeout_kept sw place s h
  | .clusterMdata port place, s, h => execClusterMdata_kept port place s h
  | .clusterWinv port place, s, h => execClusterWinv_kept port place s h
  | .interfaceMsgd port place, s, h => execInterfaceMsgd_kept port place s h
  | .phaserByteAdd cluster place, s, h => execPhaserByteAdd_kept cluster place s h
  | .fallbackPoll w, s, h => execFallbackPoll_kept w s h
  | .pageWalkComplete cluster place, s, h => execPageWalkComplete_kept cluster place s h
  | .migrationWalkRetry cluster place, s, h => execMigrationWalkRetry_kept cluster place s h
  | .l1LineExpiry core place, s, h => execL1LineExpiry_kept core place s h
  | .hbmFillComplete slice place, s, h => execHbmFillComplete_kept slice place s h
  | .sliceScrub slice place, s, h => execSliceScrub_kept slice place s h
  | .sramRailLower die, s, h => execSramRailLower_kept die s h
  | .sramRailRaise die, s, h => execSramRailRaise_kept die s h
  | .channelGroupFailure group, s, h => execChannelGroupFailure_kept group s h
  | .copyRecordStage core, s, h => execCopyRecordStage_kept core s h
  | .copyChunk core place chunk, s, h => execCopyChunk_kept core place chunk s h
  | .copyComplete core place, s, h => execCopyComplete_kept core place s h
  | .copyStop core place, s, h => execCopyStop_kept core place s h
  | .residencyLoad core place line, s, h => execResidencyLoad_kept core place line s h
  | .residencyLoadComplete core place, s, h => execResidencyLoadComplete_kept core place s h
  | .kStep core, s, h => execKStep_kept core s h
  | .mzeroRun core, s, h => execMzeroRun_kept core s h
  | .mepiRun core, s, h => execMepiRun_kept core s h
  | .mcorrRun core, s, h => execMcorrRun_kept core s h
  | .doorbell queue tail, s, h => execDoorbell_kept queue tail s h
  | .eventHeadWrite dom head, s, h => execEventHeadWrite_kept dom head s h
  | .eventOverflowFlush dom, s, h => execEventOverflowFlush_kept dom s h
  | .queueRecordChange queue, s, h => execQueueRecordChange_kept queue s h
  | .replicaInvalAck queue, s, h => execReplicaInvalAck_kept queue s h
  | .laneBind die lane, s, h => execLaneBind_kept die lane s h
  | .cicadaStep die, s, h => execCicadaStep_kept die s h
  | .waitPacket queue, s, h => execWaitPacket_kept queue s h
  | .waitPoll queue, s, h => execWaitPoll_kept queue s h
  | .signalPacket queue, s, h => execSignalPacket_kept queue s h
  | .launchPacket queue, s, h => execLaunchPacket_kept queue s h
  | .seedlaunchPacket queue, s, h => execSeedlaunchPacket_kept queue s h
  | .indirectPacket queue, s, h => execIndirectPacket_kept queue s h
  | .copyPacket queue, s, h => execCopyPacket_kept queue s h
  | .setquota queue, s, h => execSetquota_kept queue s h
  | .revokeall queue, s, h => execRevokeall_kept queue s h
  | .inval queue, s, h => execInval_kept queue s h
  | .invalkey queue, s, h => execInvalkey_kept queue s h
  | .keyload queue, s, h => execKeyload_kept queue s h
  | .keyrevoke queue, s, h => execKeyrevoke_kept queue s h
  | .migrate queue, s, h => execMigrate_kept queue s h
  | .resume queue, s, h => execResume_kept queue s h
  | .counters queue, s, h => execCounters_kept queue s h
  | .setq queue, s, h => execSetq_kept queue s h
  | .setasr queue, s, h => execSetasr_kept queue s h
  | .domaincut queue layout, s, h => execDomaincut_kept queue layout s h
  | .enqRequest place, s, h => execEnqRequest_kept place s h
  | .spawnHandoff place, s, h => execSpawnHandoff_kept place s h
  | .gridComplete grid, s, h => execGridComplete_kept grid s h
  | .session, s, h => execSession_kept s h
  | .getreport, s, h => execGetreport_kept s h
  | .setring, s, h => execSetring_kept s h
  | .setslice, s, h => execSetslice_kept s h
  | .readlog, s, h => execReadlog_kept s h
  | .fwload, s, h => execFwload_kept s h
  | .route, s, h => execRoute_kept s h
  | .qread, s, h => execQread_kept s h
  | .hostWrite pa bytes, s, h => execHostWrite_kept pa bytes s h
  | .hostRead pa len, s, h => execHostRead_kept pa len s h
  | .peerAccess port, s, h => execPeerAccess_kept port s h
  | .timeSliceExpiry ctx, s, h => execTimeSliceExpiry_kept ctx s h
  | .mantisSave ctx, s, h => execMantisSave_kept ctx s h
  | .engineStopAck ctx engine, s, h => execEngineStopAck_kept ctx engine s h
  | .mantisRestore ctx placement, s, h => execMantisRestore_kept ctx placement s h
  | .nopelFlitReceive port flit, s, h => execNopelFlitReceive_kept port flit s h
  | .nopelReplay port, s, h => execNopelReplay_kept port s h
  | .nopelIdleTimeout port, s, h => execNopelIdleTimeout_kept port s h
  | .coldReset, s, h => execColdReset_kept s h
  | .warmReset, s, h => execWarmReset_kept s h
  | .switchOutputLinkSlot sw, s, h => execSwitchOutputLinkSlot_kept sw s h
  | .nopelPortDownExpiry port, s, h => execNopelPortDownExpiry_kept port s h
  | .nopelPortUp port, s, h => execNopelPortUp_kept port s h
  | .domainReinitialisation dom, s, h => execDomainReinitialisation_kept dom s h
  | .throttling level, s, h => execThrottling_kept level s h

/-- Settles O5: what a step runs (`State.turn_wf`) and what it runs on it (`exec_kept`) each keep the canonical form. -/
theorem memoryKept : Obligations.MemoryKept := by
  intro s t h hstep
  have hturn := State.turn_wf s h
  unfold step at hstep
  split at hstep
  · next heq => exact exec_kept _ _ (State.wf_of_fst heq hturn) _ hstep
  · next heq =>
    cases hstep
    exact State.wf_of_fst heq hturn

end Sys2Proof.Machine
end

section
/-! SUPPORT. Entering the handler, pending imprecise traps and the return from a trap (R404 to R417), and what a cold reset leaves:
O18 and O6. -/

namespace Sys2Proof.Machine

/-! ## Halting and entering the handler -/

@[simp] theorem State.haltAt_cur_halt (s : State) (r : Nat) : (s.haltAt s.cur r).wv.halt = some r := by
  unfold State.haltAt
  dsimp only
  split <;> simp [State.wave_setWave_cur]

@[simp] theorem State.halt_wv_halt (s : State) (r : Nat) : (s.halt r).wv.halt = some r := s.haltAt_cur_halt r

@[simp] theorem State.halt_wv_ctl (s : State) (r : Nat) : (s.halt r).wv.ctl = s.wv.ctl := by
  unfold State.halt State.haltAt
  dsimp only
  split <;> simp [State.wave_setWave_cur]

/-- Where a trap can be entered, the wave in hand is as R407 leaves it, and nothing else changes. -/
theorem State.trap_trapped (s : State) (cause info : Nat) (f : Mask) (next tpc : VAddr)
    (h : s.wv.ctl.exec &&& ~~~f = 0 ∨ s.wv.ctl.path.length < 9) (ht : s.wv.csr.tvOff ≠ 0) :
    s.trap cause info f next tpc = s.withWv (s.wv.trapped s.now cause info f next tpc) := by
  rw [State.trap_enters s cause info f next tpc h ht]
  rfl

/-- A trap of the whole running path leaves no thread pending, so it never finds the path stack full. -/
theorem State.trap_whole (s : State) (cause info : Nat) (next tpc : VAddr) (ht : s.wv.csr.tvOff ≠ 0) :
    s.trap cause info s.wv.ctl.exec next tpc = s.withWv (s.wv.trapped s.now cause info s.wv.ctl.exec next tpc) :=
  s.trap_trapped cause info _ next tpc (.inl (BitVec.and_not_self _)) ht

theorem State.trap_halts_without_handler (s : State) (cause info : Nat) (f : Mask) (next tpc : VAddr)
    (h : s.wv.ctl.exec &&& ~~~f = 0 ∨ s.wv.ctl.path.length < 9) (ht : s.wv.csr.tvOff = 0) :
    (s.trap cause info f next tpc).wv.halt = some 2 := by
  rw [State.trap_without_handler s cause info f next tpc h ht]
  exact State.halt_wv_halt _ _

/-! ## Pending imprecise traps -/

theorem State.focus_cur (s : State) : s.focus s.cur = s := by simp [State.focus]

theorem impreciseCause_eq (info : Nat) : impreciseCause info =
    if info % 256 = 0 ∨ info % 256 = 7 then 0x12 else if info % 256 ≤ 2 then 0x10 else 0x11 := by
  unfold impreciseCause faultCause
  split_ifs <;> omega

/-! ## The return (R417) -/

theorem State.returnTrap_lanes {s : State} (h : s.wv.csr.tmask &&& ~~~s.wv.ctl.ended ≠ 0) :
    s.ranCtl s.returnTrap { s.wv.ctl with pc := s.wv.csr.tpc, exec := s.wv.csr.tmask &&& ~~~s.wv.ctl.ended } true := by
  unfold State.returnTrap
  dsimp only
  rw [if_neg h]
  rfl

theorem State.returnTrap_none {s : State} (h : s.wv.csr.tmask &&& ~~~s.wv.ctl.ended = 0) :
    s.returnTrap = s.leave { s.wv.jump s.wv.csr.tpc with ctl := { (s.wv.jump s.wv.csr.tpc).ctl with exec := 0 } } := by
  unfold State.returnTrap
  exact if_pos h

/-- With no lane of TRAPMASK left, the path on top of the stack runs. -/
theorem State.returnTrap_pops {s : State} (h : s.wv.csr.tmask &&& ~~~s.wv.ctl.ended = 0) {e : PathEntry} {es : List PathEntry}
    (hpath : s.wv.ctl.path = e :: es) :
    s.ranCtl s.returnTrap { s.wv.ctl with pc := e.pc, exec := e.mask, path := es } true := by
  rw [State.returnTrap_none h]
  simp [State.leave, State.popPath, Wave.pop?, Wave.jump, hpath, State.ranCtl, Wave.switched]

/-- With no lane of TRAPMASK left and no path pending, the wave ends unless lanes stand parked. -/
theorem State.returnTrap_ends {s : State} (h : s.wv.csr.tmask &&& ~~~s.wv.ctl.ended = 0) (hpath : s.wv.ctl.path = [])
    (hjoins : ∀ e ∈ s.wv.ctl.joins, e.2.arrived = 0) :
    s.returnTrap = s.withWv { s.wv with waits := { s.wv.waits with ending := true, stall := none } } := by
  rw [State.returnTrap_none h]
  unfold State.leave
  rw [if_pos (by simp [Wave.jump, hpath]), if_pos (by simpa [Wave.jump] using hjoins)]
  rfl

theorem State.returnTrap_parked {s : State} (h : s.wv.csr.tmask &&& ~~~s.wv.ctl.ended = 0) (hpath : s.wv.ctl.path = [])
    (hjoins : ∃ e ∈ s.wv.ctl.joins, e.2.arrived ≠ 0) : s.returnTrap = s.trapAll 0x23 2 := by
  rw [State.returnTrap_none h]
  unfold State.leave
  rw [if_pos (by simp [Wave.jump, hpath]), if_neg (by simpa [Wave.jump] using hjoins)]
  rfl

/-! ## The instructions whose guard holds -/

theorem exec_trap_of_guard {f : InsB} {s : State} (hg : s.wv.guardUni f.g = true) :
    exec (.trap f) s = .next (s.trap 0x40 f.fn.toNat s.wv.ctl.exec s.wv.ctl.pc (s.wv.ctl.pc + 8)) := by
  show execTrap f s = _
  exact guarded_of_guard hg _ _

theorem exec_bkpt_of_guard {f : InsB} {s : State} (hg : s.wv.guardUni f.g = true) :
    exec (.bkpt f) s = .next (s.trap 0x41 0 s.wv.ctl.exec s.wv.ctl.pc (s.wv.ctl.pc + 8)) := by
  show execBkpt f s = _
  exact guarded_of_guard hg _ _

theorem exec_eret_of_guard {f : InsB} {s : State} (hg : s.wv.guardUni f.g = true) :
    exec (.eret f) s = .next s.returnTrap :=
  guarded_of_guard hg _ _

/-- A running wave with a pending trap for a refused access takes that one first (R404, R410). -/
theorem exec_impreciseTrap_key {s : State} (hruns : (!s.wv.running || s.wv.waits.ending) = false) {info : BitVec 22}
    (hkey : s.wv.impKey = some info) :
    exec (.impreciseTrap s.cur) s = .next ((s.mapWv (fun w => { w with impKey := none })).trap (impreciseCause info.toNat)
      (info.toNat ||| 2 ^ 14) s.wv.ctl.exec s.wv.ctl.pc s.wv.ctl.pc) := by
  show execImpreciseTrap s.cur s = _
  simp only [execImpreciseTrap, State.wave_cur, State.focus_cur, hruns, hkey, Bool.false_eq_true, if_false]

theorem exec_impreciseTrap_mixed {s : State} (hruns : (!s.wv.running || s.wv.waits.ending) = false)
    (hkey : s.wv.impKey = none) {info : BitVec 22} (hmixed : s.wv.impMixed = some info) :
    exec (.impreciseTrap s.cur) s = .next ((s.mapWv (fun w => { w with impMixed := none })).trap 0x13
      (info.toNat ||| 2 ^ 14) s.wv.ctl.exec s.wv.ctl.pc s.wv.ctl.pc) := by
  show execImpreciseTrap s.cur s = _
  simp only [execImpreciseTrap, State.wave_cur, State.focus_cur, hruns, hkey, hmixed, Bool.false_eq_true, if_false]

/-- Settles O18: each clause is a lemma above about entering the handler, the pending imprecise traps, or the return. -/
theorem trapsAndReturn : Obligations.TrapsAndReturn := by
  unfold Obligations.TrapsAndReturn
  refine ⟨fun s cause info f next tpc => ⟨s.trap_trapped cause info f next tpc, s.trap_halts_without_handler cause info f next tpc,
    fun ho hp => ⟨s.trap_full cause info f next tpc ho hp, s.halt_wv_halt 4, s.halt_wv_ctl 4⟩⟩, ?_, ?_, ?_, impreciseCause_eq, ?_⟩
  · intro f s hg ht
    rw [exec_trap_of_guard hg, exec_bkpt_of_guard hg, State.trap_whole _ _ _ _ _ ht, State.trap_whole _ _ _ _ _ ht]
    exact ⟨rfl, rfl⟩
  · intro f s hg ht i hi
    have hhalts := fun cause info => s.trap_halts_without_handler cause info s.wv.ctl.exec s.wv.ctl.pc (s.wv.ctl.pc + 8)
      (.inl (BitVec.and_not_self _)) ht
    simp only [List.mem_cons, List.not_mem_nil, or_false] at hi
    obtain rfl | rfl := hi
    · exact ⟨_, exec_trap_of_guard hg, hhalts _ _⟩
    · exact ⟨_, exec_bkpt_of_guard hg, hhalts _ _⟩
  · intro s hlive hhalt hending ht
    have hruns : (!s.wv.running || s.wv.waits.ending) = false := by simp [Wave.running, hlive, hhalt, hending]
    constructor
    · intro info hkey
      rw [exec_impreciseTrap_key hruns hkey]
      exact congrArg _ (State.trap_whole (s.mapWv (fun w => { w with impKey := none })) _ _ _ _ ht)
    · intro info hkey hmixed
      rw [exec_impreciseTrap_mixed hruns hkey hmixed]
      exact congrArg _ (State.trap_whole (s.mapWv (fun w => { w with impMixed := none })) _ _ _ _ ht)
  · intro f s hg
    exact ⟨fun hm => ⟨_, exec_eret_of_guard hg, State.returnTrap_lanes hm⟩,
      fun hm e es hpath => ⟨_, exec_eret_of_guard hg, State.returnTrap_pops hm hpath⟩,
      fun hm hpath hjoins => (exec_eret_of_guard hg).trans (congrArg _ (State.returnTrap_ends hm hpath hjoins)),
      fun hm hpath hjoins => (exec_eret_of_guard hg).trans (congrArg _ (State.returnTrap_parked hm hpath hjoins))⟩

/-- Settles O6: each table of the reset state is empty, so an entry is what an empty table answers. -/
theorem resetState : Obligations.ResetState :=
  ⟨State.memoryKept_reset, fun _ => rfl, fun _ => rfl, fun _ => ⟨rfl, rfl, rfl⟩, fun _ => rfl, fun _ _ => rfl,
    fun _ _ => ⟨rfl, rfl⟩, fun _ _ => rfl, fun _ _ => ⟨rfl, rfl⟩, rfl, fun w => by unfold State.wave; split <;> rfl⟩

end Sys2Proof.Machine
end

section
/-! SUPPORT. SUPPORT. The outcome of a checked access, thread by thread, and operations that join those in flight. -/

namespace Sys2Proof.Machine

/-! ## What a check leaves, whatever it finds (R84, R405) -/

/-- A translation or a fault found at once opens no walk. -/
theorem State.readies_find_of_ne_wait {s : State} {va kind : Nat} (h : (s.find va kind).1 ≠ .wait) :
    s.Readies (s.find va kind).2 := by
  have hlook := s.readies_tlbLookup s.wv.ctx va kind
  unfold State.find at h ⊢
  dsimp only at h ⊢
  split at h
  · exact .refl s
  · exact .refl s
  · split at h
    · next heq => rw [heq] at hlook; exact hlook
    · exact absurd rfl h

theorem State.checkPieces_of_ne_wait {kind n : Nat} {ps : List Piece} (hps : ∀ p ∈ ps, p.fits n) : ∀ {s : State},
    (s.checkPieces kind ps).2 ≠ .wait → s.Readies (s.checkPieces kind ps).1 ∧
      ∀ qs, (s.checkPieces kind ps).2 = .ok qs → ∀ q ∈ qs, q.fits n := by
  induction ps with
  | nil => exact fun _ => ⟨.refl _, fun qs h => (State.checkPieces_spec hps h).2⟩
  | cons p ps ih =>
    obtain ⟨hp, hrest⟩ := List.forall_mem_cons.1 hps
    intro s h
    refine ⟨?_, fun qs hq => (State.checkPieces_spec hps hq).2⟩
    have hfind := s.readies_find_of_ne_wait (va := p.va) (kind := kind)
    unfold State.checkPieces at h ⊢
    split at h
    · next heq => rw [heq] at hfind; exact hfind (by simp)
    · exact absurd rfl h
    · exact absurd rfl h
    · next e s1 heq =>
      rw [heq] at hfind
      have hfound := hfind (by simp)
      split at h
      · next s2 qs hpieces =>
        have hready := (ih hrest (s := s1) (by rw [hpieces]; simp)).1
        rw [hpieces] at hready
        exact hfound.trans hready
      · exact hfound.trans (ih hrest h).1

/-- The check of some threads, none of which waits, finds one result for each in turn. -/
theorem State.checkThreads_of_ne_wait {kind n : Nat} {pieces : Nat → Except (Nat × Nat) (List Piece)} {ts : List Nat}
    (hps : ∀ t ps, pieces t = .ok ps → ∀ p ∈ ps, p.fits n) : ∀ {s : State},
    (∀ e ∈ (s.checkThreads kind pieces ts).2, e.2 ≠ .wait) → s.Readies (s.checkThreads kind pieces ts).1 ∧
      (s.checkThreads kind pieces ts).2.map Prod.fst = ts ∧
      ∀ t ps, (t, Checked.ok ps) ∈ (s.checkThreads kind pieces ts).2 → ∀ p ∈ ps, p.fits n := by
  induction ts with
  | nil => exact fun _ => ⟨.refl _, rfl, by simp [State.checkThreads]⟩
  | cons t ts ih =>
    intro s hall
    unfold State.checkThreads at hall ⊢
    dsimp only at hall ⊢
    obtain ⟨hnow, hrest⟩ := List.forall_mem_cons.1 hall
    obtain ⟨hready', hts, hfits⟩ := ih hrest
    cases hp : pieces t with
    | error e =>
      rw [hp] at hready' hts hfits
      refine ⟨hready'.oneRefusal _, congrArg (t :: ·) hts, fun v ps hmem => ?_⟩
      rcases List.mem_cons.1 hmem with heq | hmem
      · cases heq
      · exact hfits v ps hmem
    | ok ps0 =>
      rw [hp] at hready' hts hfits hnow
      obtain ⟨hready, hfit⟩ := State.checkPieces_of_ne_wait (hps t ps0 hp) hnow
      refine ⟨(hready.trans hready').oneRefusal _, congrArg (t :: ·) hts, fun v ps hmem => ?_⟩
      rcases List.mem_cons.1 hmem with heq | hmem
      · exact hfit ps (Prod.mk.inj heq).2.symm
      · exact hfits v ps hmem

/-- Threads that fault before any translation leave the state as it is. -/
theorem State.checkThreads_of_error {kind : Nat} {pieces : Nat → Except (Nat × Nat) (List Piece)} {e : Nat × Nat}
    {ts : List Nat} (h : ∀ t ∈ ts, pieces t = .error e) (s : State) :
    s.checkThreads kind pieces ts = (s, ts.map (fun t => (t, .fault e.1 e.2))) := by
  induction ts with
  | nil => rfl
  | cons t ts ih =>
    obtain ⟨ht, hts⟩ := List.forall_mem_cons.1 h
    have hsame : s.oneRefusal s.wv.waits.rejects = s := by
      simp [State.oneRefusal, State.mapWv]
    simp [State.checkThreads, ht, ih hts, hsame]

/-! ## The threads that fault and those that commit (R405, R406) -/

@[simp] theorem mem_okThreads {rs : List (Nat × Checked)} {t : Nat} {ps : List Piece} :
    (t, ps) ∈ okThreads rs ↔ (t, Checked.ok ps) ∈ rs := by
  constructor
  · intro h
    obtain ⟨⟨v, c⟩, hmem, heq⟩ := List.mem_filterMap.1 h
    cases c <;> cases heq
    exact hmem
  · exact fun h => List.mem_filterMap.2 ⟨_, h, rfl⟩

theorem mem_faultThreads {rs : List (Nat × Checked)} {t : Nat} :
    t ∈ faultThreads rs ↔ ∃ c i, (t, Checked.fault c i) ∈ rs := by
  constructor
  · intro h
    obtain ⟨⟨v, c⟩, hmem, heq⟩ := List.mem_filterMap.1 h
    cases c with
    | fault d i => cases heq; exact ⟨d, i, hmem⟩
    | ok ps => cases heq
    | wait => cases heq
  · rintro ⟨c, i, h⟩
    exact List.mem_filterMap.2 ⟨_, h, rfl⟩

theorem okThreads_sublist (rs : List (Nat × Checked)) : ((okThreads rs).map Prod.fst).Sublist (rs.map Prod.fst) := by
  induction rs with
  | nil => exact .slnil
  | cons e rs ih =>
    obtain ⟨t, c⟩ := e
    cases c with
    | ok ps => exact ih.cons_cons t
    | fault d i => exact ih.cons t
    | wait => exact ih.cons t

theorem okThreads_pairwise {rs : List (Nat × Checked)} (h : (rs.map Prod.fst).Pairwise (· < ·)) :
    (okThreads rs).Pairwise (fun e v => e.1 < v.1) := List.pairwise_map.1 (h.sublist (okThreads_sublist rs))

theorem okThreads_eq_nil {rs : List (Nat × Checked)} (h : ∀ e ∈ rs, ∃ c i, e.2 = .fault c i) : okThreads rs = [] := by
  refine List.eq_nil_iff_forall_not_mem.2 fun e he => ?_
  obtain ⟨c, i, hc⟩ := h _ (mem_okThreads.1 he)
  cases hc

theorem okThreads_ne_nil {rs : List (Nat × Checked)} (h : someCommit rs) : okThreads rs ≠ [] := by
  obtain ⟨-, t, ps, hmem⟩ := h
  exact List.ne_nil_of_mem (mem_okThreads.2 hmem)

/-- The first fault of threads in ascending order is that of the lowest. -/
theorem firstFault_of_lowest {rs : List (Nat × Checked)} (hsort : (rs.map Prod.fst).Pairwise (· < ·)) {t c i : Nat}
    (h : lowestFault rs t c i) : firstFault rs = some (c, i) := by
  obtain ⟨hmem, hlow⟩ := h
  induction rs with
  | nil => cases hmem
  | cons e rs ih =>
    obtain ⟨v, x⟩ := e
    obtain ⟨hfirst, hrest⟩ := List.pairwise_cons.1 hsort
    rcases List.mem_cons.1 hmem with heq | hlater
    · cases heq
      rfl
    · have hlt : v < t := hfirst t (List.mem_map_of_mem hlater)
      cases x with
      | fault d j => exact absurd (hlow v d j List.mem_cons_self) (by omega)
      | ok ps => exact ih hrest hlater fun u d j hu => hlow u d j (List.mem_cons_of_mem _ hu)
      | wait => exact ih hrest hlater fun u d j hu => hlow u d j (List.mem_cons_of_mem _ hu)

theorem firstFault_of_head {rs : List (Nat × Checked)} {c i : Nat} (h : rs.head?.map (fun e => e.2) = some (.fault c i)) :
    firstFault rs = some (c, i) := by
  cases rs with
  | nil => cases h
  | cons e rs =>
    obtain ⟨t, x⟩ := e
    cases h
    rfl

/-- The mask that the trap of a fragment runs. -/
def faultsMask (rs : List (Nat × Checked)) : Mask := maskOf (fun t => (faultThreads rs).contains t)

theorem faultMask_faultsMask (rs : List (Nat × Checked)) : faultMask rs (faultsMask rs) := by
  intro t ht
  rw [faultsMask, maskOf_getLsbD _ _ ht, List.contains_iff_mem, mem_faultThreads]

/-- Where every thread of a mask faults, the faulting threads are the mask. -/
theorem faultsMask_of_all {m : Mask} {rs : List (Nat × Checked)} (hts : rs.map Prod.fst = threadsOf m)
    (h : ∀ e ∈ rs, ∃ c i, e.2 = .fault c i) : faultsMask rs = m := by
  refine (Mask.eq_iff _ _).2 fun l hl => ?_
  rw [Bool.eq_iff_iff, faultMask_faultsMask rs l hl, ← mem_threadsOf, ← hts]
  constructor
  · rintro ⟨c, i, hmem⟩
    exact List.mem_map_of_mem hmem
  · intro hmem
    obtain ⟨⟨v, x⟩, he, rfl⟩ := List.mem_map.1 hmem
    obtain ⟨c, i, rfl⟩ := h _ he
    exact ⟨c, i, he⟩

/-- The threads that fault trap at the cause of the first of them. -/
theorem State.finishChecked_of_fault (s : State) (n : Nat) {rs : List (Nat × Checked)} {c i : Nat}
    (h : firstFault rs = some (c, i)) (all : Option Mask) : s.finishChecked n rs all =
      s.trap c i (all.getD (faultsMask rs)) (s.wv.ctl.pc + BitVec.ofNat 57 n) s.wv.ctl.pc := by
  unfold State.finishChecked
  rw [h]
  cases all <;> rfl

/-! ## An operation that joins those in flight -/

/-- From `s` to `u` the operations `new` of the wave in hand have come to its core; its control state, its CSRs and memory stand. -/
def State.joins (s u : State) (new : List MemOp) : Prop :=
  u.cur = s.cur ∧ u.wv.ctl = s.wv.ctl ∧ u.wv.csr = s.wv.csr ∧ u.myCore.ops = s.myCore.ops ++ new ∧ u.ms = s.ms ∧
    ∀ o ∈ new, o.slot = s.cur.slot

theorem State.joins.trans {s t u : State} {a b : List MemOp} (h : s.joins t a) (h' : t.joins u b) : s.joins u (a ++ b) := by
  obtain ⟨hcur, hctl, hcsr, hops, hms, hslot⟩ := h
  obtain ⟨hcur', hctl', hcsr', hops', hms', hslot'⟩ := h'
  refine ⟨hcur'.trans hcur, hctl'.trans hctl, hcsr'.trans hcsr, by rw [hops', hops, List.append_assoc], hms'.trans hms, ?_⟩
  intro o ho
  rcases List.mem_append.1 ho with ho | ho
  · exact hslot o ho
  · rw [← hcur]; exact hslot' o ho

theorem State.joins_mapWv (s : State) {g : Wave → Wave} (hctl : ∀ w : Wave, (g w).ctl = w.ctl)
    (hcsr : ∀ w : Wave, (g w).csr = w.csr) : s.joins (s.mapWv g) [] :=
  ⟨rfl, hctl _, hcsr _, (List.append_nil _).symm, rfl, fun _ h => by cases h⟩

theorem State.Readies.joins {s t : State} (h : s.Readies t) : s.joins t [] :=
  ⟨h.cur, by rw [h.wv], by rw [h.wv], by rw [h.ops, List.append_nil], h.ms, fun _ h => by cases h⟩

/-- An operation is queued as `issuedOp` has it and its packets tried: the last of its core, counted in its class. -/
theorem State.joins_issueOp (s : State) {o : MemOp} (hst : ∀ r ∈ o.reqs, r.st ≠ .rewalk) (regs : List SbReg) :
    ∃ v, s.joins (s.issueOp o regs) [v] ∧ v.kind = o.kind ∧ v.threads = o.threads ∧
      v.reqs.map Request.body = o.reqs.map Request.body ∧
      ∀ k, o.cls = some k → (s.issueOp o regs).wv.cnt = s.wv.cnt.bump k (· + 1) := by
  have hids : ∀ w ∈ s.myCore.ops, w.id ≠ (s.issuedOp o).id := fun w hw => (State.lt_opId hw).ne
  have hdrop : (s.droppedFor o).ops = s.myCore.ops := by
    unfold State.droppedFor
    split <;> rfl
  have hstart : (s.queueOp (s.droppedFor o) (s.issuedOp o) regs).attempts
      (s.queueOp (s.droppedFor o) (s.issuedOp o) regs) s.cur.core s.myCore.ops (s.issuedOp o) := by
    refine ⟨rfl, rfl, rfl, rfl, s.issuedOp o, ?_, rfl, rfl, List.forall_mem_map.2 fun r hr => ?_⟩
    · show ((s.setCore s.cur.core _).core s.cur.core).ops = _
      rw [State.core_setCore, if_pos rfl, ← hdrop]
    · split <;> exact hst r hr
  have hend : (s.queueOp (s.droppedFor o) (s.issuedOp o) regs).attempts (s.issueOp o regs) s.cur.core s.myCore.ops
      (s.issuedOp o) := by
    rw [State.issueOp_eq]
    dsimp only
    split
    · exact State.attempts_pumpReqs hids true _ hstart
    · exact hstart
  obtain ⟨hcur, -, hms, hwv, v, hops, hv, hbody, -⟩ := hend
  refine ⟨v, ⟨hcur, by rw [hwv]; rfl, by rw [hwv]; rfl, ?_, hms, ?_⟩, by rw [hv]; rfl, by rw [hv]; rfl, ?_, ?_⟩
  · show ((s.issueOp o regs).core (s.issueOp o regs).cur.core).ops = _
    rw [hcur]
    exact hops
  · exact List.forall_mem_singleton.2 (by rw [hv]; rfl)
  · rw [hbody]
    show (o.reqs.map _).map Request.body = _
    rw [List.map_map]
    refine List.map_congr_left fun r _ => ?_
    rw [Function.comp_apply]
    split <;> rfl
  · intro k hk
    rw [hwv]
    show (match o.cls with
      | some k => s.wv.cnt.bump k (· + 1)
      | none => s.wv.cnt) = _
    rw [hk]

/-! ## The memories of a core while packets are tried (R105) -/

theorem State.buf_setCore {s t : State} {k : Nat} {c : Core} (hc : ∀ sp, c.buf sp = (s.core k).buf sp)
    (ht : ∀ j sp, (t.core j).buf sp = (s.core j).buf sp) (j sp : Nat) : ((t.setCore k c).core j).buf sp = (s.core j).buf sp := by
  rw [State.core_setCore]
  split
  · next h => rw [h]; exact hc sp
  · exact ht j sp

@[simp] theorem Core.refuse_buf (c : Core) (o : MemOp) (line sp : Nat) : (c.refuse o line).buf sp = c.buf sp := by
  unfold Core.refuse
  dsimp only
  split <;> rfl

theorem Core.takeEntry_buf {c c1 : Core} {id line : Nat} (h : c.takeEntry id line = some c1) (sp : Nat) :
    c1.buf sp = c.buf sp := by
  unfold Core.takeEntry at h
  split_ifs at h <;> cases h <;> rfl

theorem State.trySend_buf (s : State) (k i : Nat) (o : MemOp) (r : Request) (j sp : Nat) :
    ((s.trySend k o i r).core j).buf sp = (s.core j).buf sp := by
  have hrefused := State.buf_setCore (s := s) (t := s) (k := k) (c := (s.core k).refuse o (r.pa / 128))
    (fun sp => Core.refuse_buf ..) (fun _ _ => rfl) j sp
  unfold State.trySend
  dsimp only
  split
  · exact hrefused
  · next c1 hc1 =>
    have hbuf : ∀ sp, c1.buf sp = (s.core k).buf sp := by
      split at hc1
      · cases hc1; exact fun _ => rfl
      · exact Core.takeEntry_buf hc1
    have hset := State.buf_setCore (s := s) (t := s) hbuf (fun _ _ => rfl)
    split
    · split
      · exact hrefused
      · split
        · next s1 hs1 =>
          obtain ⟨-, -, -, -, hcores⟩ := State.sendSystem_kept hs1
          have hs : ∀ j sp, (s1.core j).buf sp = (s.core j).buf sp := fun j sp => by
            rw [State.core, hcores]; exact hset j sp
          refine State.buf_setCore (fun sp => ?_) hs j sp
          exact hs k sp
        · refine State.buf_setCore (fun sp => ?_) (fun _ _ => rfl) j sp
          rfl
    · split
      · refine State.buf_setCore (s := s) (fun sp => ?_) hset j sp
        exact hset k sp
      · exact hrefused

theorem State.takeAnswer_buf (s : State) (k asn va kind j sp : Nat) :
    (((s.takeAnswer k asn va kind).2).core j).buf sp = (s.core j).buf sp := by
  unfold State.takeAnswer
  dsimp only
  split
  · refine State.buf_setCore (fun sp => ?_) (fun _ _ => rfl) j sp
    rfl
  · rfl

theorem State.tlbLookup_buf (s : State) (k : Nat) (ctx : Context) (va kind j sp : Nat) :
    (((s.tlbLookup k ctx va kind).2).core j).buf sp = (s.core j).buf sp := by
  unfold State.tlbLookup
  split
  · rfl
  · split
    · refine State.buf_setCore (s := s) (c := { s.core k with tlb := _ }) (fun sp => ?_) (fun _ _ => rfl) j sp
      rfl
    · rfl

theorem State.openWalk_buf (s : State) (id : WaveId) (ctx : Context) (va kind ts j sp : Nat) :
    ((s.openWalk id ctx va kind ts).core j).buf sp = (s.core j).buf sp := by
  unfold State.openWalk
  dsimp only
  split_ifs <;> rfl

theorem State.rewalk_buf (s : State) (k i : Nat) (o : MemOp) (r : Request) (j sp : Nat) :
    ((s.rewalk k o i r).core j).buf sp = (s.core j).buf sp := by
  have htake := s.takeAnswer_buf k (s.wave ⟨k, o.slot⟩).ctx.asn ((r.pieces.headD ⟨0, 0, 0, 0, 0, 0, 0⟩).va) o.kind.access
  have hlook := s.tlbLookup_buf k (s.wave ⟨k, o.slot⟩).ctx ((r.pieces.headD ⟨0, 0, 0, 0, 0, 0, 0⟩).va) o.kind.access
  have hmap : ∀ {t : State} {g : Request → Request}, (∀ j sp, (t.core j).buf sp = (s.core j).buf sp) → ∀ j sp,
      ((t.setCore k ((t.core k).mapReq o.id i g)).core j).buf sp = (s.core j).buf sp :=
    fun ht => State.buf_setCore (fun sp => ht k sp) ht
  have hfail : ∀ {t : State} {w : WaveId} {v : Wave} {g : Request → Request},
      (∀ j sp, (t.core j).buf sp = (s.core j).buf sp) → ∀ j sp,
      (((t.setWave w v).setCore k ((t.core k).mapReq o.id i g)).core j).buf sp = (s.core j).buf sp :=
    fun ht => State.buf_setCore (fun sp => ht k sp) (fun j sp => by rw [State.core, State.setWave_cores]; exact ht j sp)
  unfold State.rewalk
  dsimp only
  split
  · next heq =>
    rw [heq] at htake
    split
    · exact hfail htake j sp
    · exact hmap htake j sp
  · next heq =>
    rw [heq] at htake
    exact hfail htake j sp
  · next heq =>
    rw [heq] at htake
    split
    · rw [State.haltAt_buf]; exact hmap htake j sp
    · exact hmap htake j sp
  · split
    · next heq =>
      rw [heq] at hlook
      split
      · exact hfail hlook j sp
      · exact hmap hlook j sp
    · next heq =>
      rw [heq] at hlook
      rw [State.openWalk_buf]
      exact hlook j sp

theorem State.pumpReqs_buf (k id : Nat) (retry : Bool) (rs : List Request) : ∀ (s : State) (i j sp : Nat),
    ((s.pumpReqs k id retry rs i).core j).buf sp = (s.core j).buf sp := by
  induction rs with
  | nil => exact fun _ _ _ _ => rfl
  | cons r0 rs ih =>
    intro s i j sp
    unfold State.pumpReqs
    dsimp only
    rw [ih]
    split
    · rfl
    · next o _ =>
      split
      · rfl
      · next r _ =>
        split
        · exact s.rewalk_buf k i o r j sp
        · have heither : ∀ b : Bool, ((if b then s.trySend k o i r else s).core j).buf sp = (s.core j).buf sp := by
            rintro (_ | _)
            · rfl
            · exact s.trySend_buf k i o r j sp
          exact heither _

/-- Issuing an operation changes no memory of a core. -/
theorem State.issueOp_buf (s : State) (o : MemOp) (regs : List SbReg) (j sp : Nat) :
    ((s.issueOp o regs).core j).buf sp = (s.core j).buf sp := by
  have hdrop : ∀ sp, (s.droppedFor o).buf sp = s.myCore.buf sp := by
    intro sp
    unfold State.droppedFor
    split <;> rfl
  have hqueue : ∀ j sp, ((s.queueOp (s.droppedFor o) (s.issuedOp o) regs).core j).buf sp = (s.core j).buf sp :=
    State.buf_setCore (s := s) (t := s) (k := s.cur.core)
      (c := { s.droppedFor o with ops := (s.droppedFor o).ops ++ [s.issuedOp o] }) hdrop (fun _ _ => rfl)
  rw [State.issueOp_eq]
  dsimp only
  split
  · rw [State.pumpReqs_buf]; exact hqueue j sp
  · exact hqueue j sp

end Sys2Proof.Machine
end

section
/-! SUPPORT. SUPPORT. Accesses whose threads fault, whole and as fragments: the rows of the accesses and their commits. -/

namespace Sys2Proof.Machine

/-! ## Accesses some of whose threads commit (R405, R406) -/

/-- Every piece of the threads that commit lies in some request, and every request meets one of them. -/
def coversPieces (ok : List (Nat × List Piece)) (rs : List Request) : Prop :=
  (∀ e ∈ ok, ∀ p ∈ e.2, ∃ x ∈ rs, x.pa ≤ p.pa ∧ p.pa < x.pa + x.len) ∧
    ∀ x ∈ rs, ∃ e ∈ ok, ∃ p ∈ e.2, p.pa < x.pa + x.len ∧ x.pa < p.pa + p.len

theorem coversPieces_of_body {ok : List (Nat × List Piece)} {rs qs : List Request}
    (h : qs.map Request.body = rs.map Request.body) (hrs : coversPieces ok rs) : coversPieces ok qs := by
  obtain ⟨hcover, hmeet⟩ := hrs
  refine ⟨fun e he p hp => exists_cover_of_body h (hcover e he p hp), fun x hx => ?_⟩
  have hmem : x.body ∈ rs.map Request.body := h ▸ List.mem_map_of_mem hx
  obtain ⟨y, hy, hyx⟩ := List.mem_map.1 hmem
  simp only [Request.body, Prod.mk.injEq] at hyx
  obtain ⟨hpa, hlen, -, -⟩ := hyx
  rw [← hpa, ← hlen]
  exact hmeet y hy

/-- Each request of a load meets one of the pieces that it was made from. -/
theorem loadRequests_meet (mixtrap : Bool) {ps : List Piece} (hpos : ∀ p ∈ ps, 0 < p.len) :
    ∀ x ∈ loadRequests mixtrap ps, ∃ p ∈ ps, p.pa < x.pa + x.len ∧ x.pa < p.pa + p.len := by
  induction ps with
  | nil => simp [loadRequests]
  | cons p ps ih =>
    obtain ⟨hp, hps⟩ := List.forall_mem_cons.1 hpos
    have hlater : ∀ x ∈ loadRequests mixtrap ps, ∃ q ∈ p :: ps, q.pa < x.pa + x.len ∧ x.pa < q.pa + q.len :=
      fun x hx => (ih hps x hx).imp fun q hq => ⟨List.mem_cons_of_mem _ hq.1, hq.2⟩
    unfold loadRequests
    dsimp only
    split
    · split
      · intro x hx
        obtain ⟨y, hy, rfl⟩ := List.mem_map.1 hx
        split <;> exact hlater y hy
      · refine List.forall_mem_cons.2 ⟨⟨p, List.mem_cons_self, ?_⟩, hlater⟩
        dsimp only
        omega
    · refine List.forall_mem_cons.2 ⟨⟨p, List.mem_cons_self, ?_⟩, hlater⟩
      dsimp only
      omega

theorem storeRequests_pos (m : Map (Byte × Piece)) (fuel : Nat) :
    ∀ l : List (Nat × (Byte × Piece)), ∀ x ∈ storeRequests m fuel l, 0 < x.len := by
  induction fuel with
  | zero => simp [storeRequests]
  | succ fuel ih =>
    rintro (_ | ⟨⟨a, b, q⟩, rest⟩) x hx
    · cases hx
    · rcases List.mem_cons.1 hx with rfl | hx
      · exact storeBlock_pos ..
      · exact ih _ x hx

/-- The commit of an access puts one operation in flight, of the threads that commit and the bytes of their pieces. -/
def AccessRow.puts (r : AccessRow) (f : InsM) (s : State) (commit : State → List (Nat × List Piece) → Bool → State) : Prop :=
  ∀ t ok sys, s.Readies t → ok.Pairwise (fun e v => e.1 < v.1) → (∀ e ∈ ok, ∀ p ∈ e.2, p.fits (sizeBytes f.fn)) →
    ∃ v, s.joins (commit t ok sys) [v] ∧ v.kind = r.op ∧ v.threads = okMask ok ∧ coversPieces ok v.reqs ∧
      (commit t ok sys).wv.cnt = s.wv.cnt.bump r.cls (· + 1)

section Puts
variable {r : AccessRow} {f : InsM} {s : State}

theorem AccessRow.puts_of_issueOp {commit : State → List (Nat × List Piece) → Bool → State}
    (h : ∀ t ok sys, s.Readies t → ok.Pairwise (fun e v => e.1 < v.1) → (∀ e ∈ ok, ∀ p ∈ e.2, p.fits (sizeBytes f.fn)) →
      ∃ u o regs, commit t ok sys = u.issueOp o regs ∧ s.Readies u ∧ o.kind = r.op ∧ o.cls = some r.cls ∧
        o.threads = okMask ok ∧ (∀ x ∈ o.reqs, x.st ≠ .rewalk) ∧ coversPieces ok o.reqs) : r.puts f s commit := by
  intro t ok sys ht hsort hfit
  obtain ⟨u, o, regs, heq, hu, hkind, hcls, hthreads, hst, hcover⟩ := h t ok sys ht hsort hfit
  obtain ⟨v, hv, hvkind, hvthreads, hbody, hcnt⟩ := u.joins_issueOp hst regs
  rw [heq]
  refine ⟨v, hu.joins.trans hv, hvkind.trans hkind, hvthreads.trans hthreads, coversPieces_of_body hbody hcover, ?_⟩
  rw [hcnt _ hcls, hu.wv]

theorem AccessRow.puts_load (hop : r.op = .load) (hcls : r.cls = .ld) (uni : Bool) :
    r.puts f s (fun t ok _ => t.commitLoad f uni ok) := by
  refine AccessRow.puts_of_issueOp fun t ok _ h _ hfit => ?_
  have hpos : ∀ p ∈ ok.flatMap (fun e => e.2), 0 < p.len := fun p hp => by
    obtain ⟨e, he, hp⟩ := List.mem_flatMap.1 hp
    exact (hfit e he p hp).1
  have hplain : ∀ r ∈ loadRequests t.wv.csr.mixtrap (ok.flatMap (fun e => e.2)), r.st ≠ .rewalk :=
    fun r hr => by simp [loadRequests_unsent _ _ r hr]
  have hcover : coversPieces ok (loadRequests t.wv.csr.mixtrap (ok.flatMap (fun e => e.2))) := by
    refine ⟨fun e he p hp => loadRequests_cover _ hpos p (List.mem_flatMap.2 ⟨e, he, hp⟩), fun x hx => ?_⟩
    obtain ⟨p, hp, hmeet⟩ := loadRequests_meet _ hpos x hx
    obtain ⟨e, he, hp⟩ := List.mem_flatMap.1 hp
    exact ⟨e, he, p, hp, hmeet⟩
  obtain ⟨q, hq, hbody, hrewalk, hpts⟩ : ∃ q, (if t.wv.csr.mixtrap then
      (loadRequests t.wv.csr.mixtrap (ok.flatMap (fun e => e.2)), t.wv.pts) else
      hitRequests t.myCore t.now (Config.choice t.draws) []
        (loadRequests t.wv.csr.mixtrap (ok.flatMap (fun e => e.2))) t.wv.pts) = q ∧
      q.1.map Request.body = (loadRequests t.wv.csr.mixtrap (ok.flatMap (fun e => e.2))).map Request.body ∧
      (∀ r ∈ q.1, r.st ≠ .rewalk) ∧ t.wv.pts ≤ q.2 := by
    refine ⟨_, rfl, ?_⟩
    split
    · exact ⟨rfl, hplain, Nat.le_refl _⟩
    · obtain ⟨hbody, hrewalk, hpts⟩ := hitRequests_spec t.myCore t.now (Config.choice t.draws)
        (loadRequests t.wv.csr.mixtrap (ok.flatMap (fun e => e.2))) [] t.wv.pts
      exact ⟨hbody, hrewalk hplain, hpts⟩
  have hready : s.Readies (((if q.1.any (fun r => !r.olds.isEmpty) then t.drawn else t).setMyCore
      (t.myCore.useHits q.1)).mapWv (fun w => { w with pts := q.2 })) := by
    refine h.trans ?_
    have hops : ∀ u : State, ((u.setMyCore (t.myCore.useHits q.1)).core u.cur.core).ops = t.myCore.ops := fun u => by
      rw [State.setMyCore, State.core_setCore, if_pos rfl, Core.useHits_ops]
    split
    · exact ⟨rfl, rfl, rfl, hops t.drawn, rfl, hpts⟩
    · exact ⟨rfl, rfl, rfl, hops t, rfl, hpts⟩
  refine ⟨_, { newOp t .load (some .ld) f (sizeBytes f.fn) (okMask ok) q.1 with
    dst := some f.d.toNat, uni := uni, sign := fnHi f.fn % 2 == 1, scope := scopeOf f },
    if uni then sbUni f.d.toNat (8 * sizeBytes f.fn) else sbVec t.wv.win.cur f.d.toNat (8 * sizeBytes f.fn), ?_, hready, hop.symm,
    congrArg some hcls.symm, rfl, hrewalk, coversPieces_of_body hbody hcover⟩
  simp only [State.commitLoad, hq]

theorem AccessRow.puts_store (hop : r.op = .store) (hcls : r.cls = .st) :
    r.puts f s (fun t ok _ => t.commitStore f ok) := by
  refine AccessRow.puts_of_issueOp fun t ok _ h hsort hfit => ?_
  have hcarry := threadStores_carry (n := sizeBytes f.fn) (data := s.dataOf f (8 * sizeBytes f.fn)) hfit hsort
  refine ⟨t, { newOp t .store (some .st) f (sizeBytes f.fn) (okMask ok)
    (threadStores (sizeBytes f.fn) (s.dataOf f (8 * sizeBytes f.fn)) ok) with scope := scopeOf f }, [], ?_, h, hop.symm,
    congrArg some hcls.symm, rfl, fun x hx => by simp [(hcarry x hx).1], threadStores_cover hfit, fun x hx => ?_⟩
  · simp only [State.commitStore, h.dataOf, flatMap_pieceBytes]
    rfl
  · have hlen := storeRequests_pos _ _ _ x hx
    obtain ⟨t, ps, hmem, p, hp, hholds, -⟩ := (hcarry x hx).2 0 hlen
    exact ⟨_, hmem, p, hp, by dsimp only [Piece.holds] at hholds; omega⟩

theorem AccessRow.puts_atom {b : Nat} {commit : State → List (Nat × List Piece) → Bool → State}
    (hcommit : ∀ t ok sys, ∃ o regs, commit t ok sys = t.issueOp o regs ∧ o.kind = r.op ∧ o.cls = some r.cls ∧
      o.threads = okMask ok ∧ o.reqs = t.atomRequests f b ok) : r.puts f s commit := by
  refine AccessRow.puts_of_issueOp fun t ok sys h _ hfit => ?_
  obtain ⟨o, regs, heq, hkind, hcls, hthreads, hreqs⟩ := hcommit t ok sys
  refine ⟨t, o, regs, heq, h, hkind, hcls, hthreads, fun x hx => ?_, ?_⟩
  · rw [hreqs] at hx
    simp [State.atomRequests_unsent x hx]
  · rw [hreqs]
    refine ⟨State.atomRequests_cover hfit, fun x hx => ?_⟩
    obtain ⟨e, he, hx⟩ := List.mem_flatMap.1 hx
    obtain ⟨p, hp, rfl⟩ := List.mem_map.1 hx
    have hpos := (hfit e he p hp).1
    exact ⟨e, he, p, hp, by dsimp only [pieceRequest]; omega⟩

end Puts

theorem hostAtomic_eq_wait {b : Bool} {c : Checked} : hostAtomic b c = .wait ↔ c = .wait := by
  cases c with
  | ok ps =>
    dsimp only [hostAtomic]
    split_ifs <;> simp
  | fault d i => simp [hostAtomic]
  | wait => simp [hostAtomic]

theorem hostAtomic_eq_ok {b : Bool} {c : Checked} {ps : List Piece} (h : hostAtomic b c = .ok ps) : c = .ok ps := by
  cases c with
  | ok qs =>
    dsimp only [hostAtomic] at h
    split_ifs at h
    exact h
  | fault d i => cases h
  | wait => cases h

/-- An access of which every thread faults traps before it does anything (R405). -/
theorem State.access_of_faults {s : State} {f : InsM} {kind : Nat} {ts : List Nat}
    {pieces : Nat → Except (Nat × Nat) (List Piece)} {host prot : Bool} {sys : List (Nat × Checked) → Bool} {all : Option Mask}
    {commit : State → List (Nat × List Piece) → Bool → State} (hpend : s.acquireSysPending = false)
    (h : ∀ e ∈ (s.checkThreads kind pieces ts).2, ∃ c i, e.2 = .fault c i) :
    s.access f kind ts pieces host sys prot all commit =
      (s.checkThreads kind pieces ts).1.dropAnswers.finishChecked (lenM f) (s.checkThreads kind pieces ts).2 all := by
  have hwait : (s.checkThreads kind pieces ts).2.any (fun e => e.2 == .wait) = false := by
    rw [List.any_eq_false]
    intro e he
    obtain ⟨c, i, hc⟩ := h e he
    simp [hc]
  have hatomic : (s.checkThreads kind pieces ts).2.map (fun e => (e.1, hostAtomic host e.2)) =
      (s.checkThreads kind pieces ts).2 := by
    refine (List.map_congr_left fun e he => ?_).trans (List.map_id _)
    obtain ⟨c, i, hc⟩ := h e he
    exact Prod.ext rfl (by
      show hostAtomic host e.2 = e.2
      rw [hc]
      rfl)
  simp only [State.access, hpend, hwait, hatomic, okThreads_eq_nil h]
  rfl

/-- An access some of whose threads commit, from the state of its check on. -/
theorem State.access_of_some {s : State} {f : InsM} {kind : Nat} {ts : List Nat}
    {pieces : Nat → Except (Nat × Nat) (List Piece)} {host prot : Bool} {sys : List (Nat × Checked) → Bool} {all : Option Mask}
    {commit : State → List (Nat × List Piece) → Bool → State} (hpend : s.acquireSysPending = false)
    {rs : List (Nat × Checked)} (hrs : (s.checkThreads kind pieces ts).2.map (fun e => (e.1, hostAtomic host e.2)) = rs)
    (hsome : someCommit rs) (hrel : f.so.getLsbD 1 = true → s.releaseDone = true ∧ (sys rs = true → s.accessesDone = true))
    (hprot : prot = false) :
    let t := (s.checkThreads kind pieces ts).1.dropAnswers
    s.access f kind ts pieces host sys prot all commit =
      ((commit (t.withWv (t.wv.releasedBy f)) (okThreads rs) (sys rs)).finishChecked (lenM f) rs all).progress s.cur.core := by
  have hwait : (s.checkThreads kind pieces ts).2.any (fun e => e.2 == .wait) = false := by
    rw [List.any_eq_false]
    intro e he hw
    refine hsome.1 (e.1, hostAtomic host e.2) (hrs ▸ List.mem_map_of_mem he) ?_
    simpa [hostAtomic_eq_wait] using hw
  have hdone : (f.so.getLsbD 1 && !(s.releaseDone && (!sys rs || s.accessesDone))) = false := by
    cases hso : f.so.getLsbD 1
    · rfl
    · obtain ⟨hr, ha⟩ := hrel hso
      cases hsys : sys rs <;> simp_all
  simp only [State.access, hpend, hwait, hrs, List.isEmpty_eq_false_iff.2 (okThreads_ne_nil hsome), hdone, hprot,
    ← State.withWv_releasedBy]
  rfl

/-! ## The six accesses of package and system memory -/

/-- How the instruction of a row runs: as an access with the comparison `prot`, F `all` where it is one access of the whole wave,
and the commit `commit`. -/
structure AccessRow.Runs (r : AccessRow) (f : InsM) (s : State) (prot : Bool) (all : Option Mask)
    (commit : State → List (Nat × List Piece) → Bool → State) : Prop where
  exec : exec r.i s = .next (s.access f r.kind r.ts r.pieces r.host r.sys prot all commit)
  prot : (∀ n, r.data = some n → s.shadowsAgree f 64 n) → prot = false
  puts : r.puts f s commit
  threads : r.ts = threadsOf (s.wv.activeMask f.g) ∧ all = none ∨ r.ts = [0] ∧ all = some (s.wv.activeMask f.g)
  fits : ∀ t ps, r.pieces t = .ok ps → ∀ p ∈ ps, p.fits (sizeBytes f.fn)

theorem accessRows_run {f : InsM} {s : State} (hact : s.wv.activeMask f.g ≠ 0) {r : AccessRow} (hr : r ∈ accessRows f s) :
    ∃ prot all commit, r.Runs f s prot all commit := by
  have hprot := fun n h => State.protMismatch_of_agree (s := s) (f := f) (a := 64) (d := n) h
  have hn := sizeBytes_pos f.fn
  simp only [accessRows, List.mem_cons, List.not_mem_nil, or_false] at hr
  rcases hr with rfl | rfl | rfl | rfl | rfl | rfl
  case inl =>
    refine ⟨false, none, _, ⟨?_, fun _ => rfl, AccessRow.puts_load rfl rfl false, .inl ⟨rfl, rfl⟩,
      fun _ _ => State.splitPieces_fit⟩⟩
    show execLd f s = _
    simp only [execLd, if_neg hact]
  case inr.inl =>
    refine ⟨_, none, _, ⟨?_, fun h => hprot _ (h _ rfl), AccessRow.puts_store rfl rfl, .inl ⟨rfl, rfl⟩,
      fun _ _ => State.splitPieces_fit⟩⟩
    show execSt f s = _
    simp only [execSt, if_neg hact]
  case inr.inr.inl =>
    refine ⟨false, some (s.wv.activeMask f.g), _, ⟨?_, fun _ => rfl, AccessRow.puts_load rfl rfl true, .inr ⟨rfl, rfl⟩,
      fun _ _ => State.splitPieces_fit⟩⟩
    show execLdu f s = _
    simp only [execLdu, if_neg hact]
  case inr.inr.inr.inl =>
    refine ⟨false, some (s.wv.activeMask f.g), _, ⟨?_, fun _ => rfl, AccessRow.puts_store rfl rfl, .inr ⟨rfl, rfl⟩,
      fun _ _ => State.splitPieces_fit⟩⟩
    show execStu f s = _
    simp only [execStu, if_neg hact]
  case inr.inr.inr.inr.inl =>
    refine ⟨_, none, State.commitAtom f, ⟨?_, fun h => hprot _ (h _ rfl),
      AccessRow.puts_atom fun _ _ _ => ⟨_, _, rfl, rfl, rfl, rfl, rfl⟩, .inl ⟨rfl, rfl⟩,
      fun _ _ => State.wholePiece_fit hn⟩⟩
    show execAtom f s = _
    simp only [execAtom, if_neg hact]
    rfl
  case inr.inr.inr.inr.inr =>
    refine ⟨_, none, State.commitRed f, ⟨?_, fun h => hprot _ (h _ rfl),
      AccessRow.puts_atom fun _ _ _ => ⟨_, _, rfl, rfl, rfl, rfl, rfl⟩, .inl ⟨rfl, rfl⟩,
      fun _ _ => State.wholePiece_fit hn⟩⟩
    show execRed f s = _
    simp only [execRed, if_neg hact]
    rfl

/-- An access all of whose threads fault is a trap of them all at the cause of the lowest (R405, R406). -/
theorem accessRows_fault {f : InsM} {s : State} (hact : s.wv.activeMask f.g ≠ 0) (hpend : s.acquireSysPending = false)
    {r : AccessRow} (hr : r ∈ accessRows f s) (hall : ∀ e ∈ (s.checkThreads r.kind r.pieces r.ts).2, ∃ c i, e.2 = .fault c i)
    {c i : Nat} (hhead : ((s.checkThreads r.kind r.pieces r.ts).2.head?.map (fun e => e.2)) = some (.fault c i)) :
    exec r.i s = .next ((s.checkThreads r.kind r.pieces r.ts).1.dropAnswers.trap c i (s.wv.activeMask f.g)
      (s.wv.ctl.pc + BitVec.ofNat 57 (lenM f)) s.wv.ctl.pc) := by
  obtain ⟨prot, all, commit, hruns⟩ := accessRows_run hact hr
  obtain ⟨hready, hts, -⟩ := State.checkThreads_of_ne_wait (s := s) hruns.fits fun e he hw => by
    obtain ⟨c, i, hc⟩ := hall e he
    rw [hc] at hw
    cases hw
  have hmask : all.getD (faultsMask (s.checkThreads r.kind r.pieces r.ts).2) = s.wv.activeMask f.g := by
    rcases hruns.threads with ⟨hrow, rfl⟩ | ⟨-, rfl⟩
    · exact faultsMask_of_all (hts.trans hrow) hall
    · rfl
  have hpc : (s.checkThreads r.kind r.pieces r.ts).1.dropAnswers.wv.ctl = s.wv.ctl := by
    show (s.checkThreads r.kind r.pieces r.ts).1.wv.ctl = _
    rw [hready.wv]
  rw [hruns.exec, State.access_of_faults hpend hall, State.finishChecked_of_fault _ _ (firstFault_of_head hhead), hmask, hpc]

/-- ATOM and RED are rows whose misaligned threads fault before any translation (R176). -/
theorem exec_misaligned {f : InsM} {s : State} (hact : s.wv.activeMask f.g ≠ 0) (hpend : s.acquireSysPending = false)
    {r : AccessRow} (hr : r ∈ accessRows f s) (hts : r.ts = threadsOf (s.wv.activeMask f.g))
    (hpieces : r.pieces = s.wholePiece f (sizeBytes f.fn))
    (h : ∀ t, (s.wv.activeMask f.g).getLsbD t = true → s.effAddr f 64 57 t % sizeBytes f.fn ≠ 0) :
    exec r.i s = .next (s.dropAnswers.trap 0x14 0 (s.wv.activeMask f.g) (s.wv.ctl.pc + BitVec.ofNat 57 (lenM f)) s.wv.ctl.pc) := by
  have hcheck : s.checkThreads r.kind r.pieces r.ts = (s, r.ts.map (fun t => (t, .fault 0x14 0))) := by
    refine State.checkThreads_of_error (e := (0x14, 0)) (fun t ht => ?_) s
    rw [hts, mem_threadsOf] at ht
    rw [hpieces]
    exact if_neg (h t ht)
  obtain ⟨t, ts, hcons⟩ := List.exists_cons_of_ne_nil (threadsOf_ne_nil hact)
  have hall : ∀ e ∈ (s.checkThreads r.kind r.pieces r.ts).2, ∃ c i, e.2 = .fault c i := by
    rw [hcheck]
    exact List.forall_mem_map.2 fun _ _ => ⟨_, _, rfl⟩
  have hfault := accessRows_fault hact hpend hr hall (c := 0x14) (i := 0) (by rw [hcheck, hts, hcons]; rfl)
  rwa [hcheck] at hfault

/-- An access some of whose threads fault: those that commit are put in flight, and the others trap (R406). -/
theorem accessRows_fragment {f : InsM} {s : State} (hact : s.wv.activeMask f.g ≠ 0) (hpend : s.acquireSysPending = false)
    {r : AccessRow} (hr : r ∈ accessRows f s) {rs : List (Nat × Checked)}
    (hrs : (s.checkThreads r.kind r.pieces r.ts).2.map (fun e => (e.1, hostAtomic r.host e.2)) = rs)
    (hagree : ∀ n, r.data = some n → s.shadowsAgree f 64 n) (hsome : someCommit rs)
    (hrel : f.so.getLsbD 1 = true → s.releaseDone = true ∧ (r.sys rs = true → s.accessesDone = true)) {t c i : Nat}
    (hlow : lowestFault rs t c i) : ∃ u o,
      exec r.i s = .next ((u.trap c i (faultsMask rs) (s.wv.ctl.pc + BitVec.ofNat 57 (lenM f)) s.wv.ctl.pc).progress s.cur.core) ∧
      s.joins u [o] ∧ u.wv.cnt = s.wv.cnt.bump r.cls (· + 1) ∧ o.kind = r.op ∧ o.threads = okMask (okThreads rs) ∧
      coversPieces (okThreads rs) o.reqs := by
  obtain ⟨prot, all, commit, hruns⟩ := accessRows_run hact hr
  obtain ⟨hready, hts, hfits⟩ := State.checkThreads_of_ne_wait (s := s) (kind := r.kind) (ts := r.ts) hruns.fits fun e he hw =>
    hsome.1 (e.1, hostAtomic r.host e.2) (hrs ▸ List.mem_map_of_mem he) (hostAtomic_eq_wait.2 hw)
  have hmap : rs.map Prod.fst = r.ts := by
    rw [← hrs, List.map_map]
    exact hts
  -- An access of the whole wave has one thread's check, so it cannot both commit and fault.
  obtain ⟨hrow, rfl⟩ : r.ts = threadsOf (s.wv.activeMask f.g) ∧ all = none := by
    refine hruns.threads.resolve_right fun ⟨hone, _⟩ => ?_
    obtain ⟨-, v, ps, hok⟩ := hsome
    rw [hone] at hmap
    obtain ⟨e, rfl, -⟩ := List.map_eq_singleton_iff.1 hmap
    have heq := (List.mem_singleton.1 hok).trans (List.mem_singleton.1 hlow.1).symm
    cases heq
  have hsort : (rs.map Prod.fst).Pairwise (· < ·) := by
    rw [hmap, hrow]
    exact threadsOf_sorted _
  have hfit : ∀ e ∈ okThreads rs, ∀ p ∈ e.2, p.fits (sizeBytes f.fn) := by
    rintro ⟨v, ps⟩ he
    have hmem := mem_okThreads.1 he
    rw [← hrs] at hmem
    obtain ⟨⟨v', x⟩, hx, heq⟩ := List.mem_map.1 hmem
    obtain ⟨rfl, hok⟩ := Prod.mk.inj heq
    exact hfits v' ps (hostAtomic_eq_ok hok ▸ hx)
  obtain ⟨o, hjoins, hkind, hthreads, hcover, hcnt⟩ :=
    hruns.puts _ (okThreads rs) (r.sys rs) (hready.released f) (okThreads_pairwise hsort) hfit
  refine ⟨_, o, ?_, hjoins, hcnt, hkind, hthreads, hcover⟩
  rw [hruns.exec, State.access_of_some hpend hrs hsome hrel (hruns.prot hagree),
    State.finishChecked_of_fault _ _ (firstFault_of_lowest hsort hlow), hjoins.2.1]
  rfl

/-! ## The accesses of the core's own memories -/

/-- A checked access of a core's memories all of whose threads fault with one cause traps them all. -/
theorem State.coreAccess_of_faults {s : State} {f : InsM} {check : Nat → Checked} {prot : Bool}
    {commit : State → List (Nat × List Piece) → State} (hact : s.wv.activeMask f.g ≠ 0) {c : Nat}
    (h : ∀ t, (s.wv.activeMask f.g).getLsbD t = true → check t = .fault c 0) :
    s.coreAccess f check prot commit =
      s.trap c 0 (s.wv.activeMask f.g) (s.wv.ctl.pc + BitVec.ofNat 57 (lenM f)) s.wv.ctl.pc := by
  have hmap : ((threadsOf (s.wv.activeMask f.g)).map (fun t => (t, check t))).map Prod.fst = threadsOf (s.wv.activeMask f.g) := by
    rw [List.map_map]
    exact List.map_id _
  have hall : ∀ e ∈ (threadsOf (s.wv.activeMask f.g)).map (fun t => (t, check t)), ∃ c i, e.2 = .fault c i :=
    List.forall_mem_map.2 fun t ht => ⟨c, 0, h t ((mem_threadsOf _ _).1 ht)⟩
  obtain ⟨t, ts, hcons⟩ := List.exists_cons_of_ne_nil (threadsOf_ne_nil hact)
  have hfirst : firstFault ((threadsOf (s.wv.activeMask f.g)).map (fun t => (t, check t))) = some (c, 0) := by
    refine firstFault_of_head ?_
    rw [hcons]
    exact congrArg some (h t ((mem_threadsOf _ _).1 (hcons ▸ List.mem_cons_self)))
  unfold State.coreAccess
  dsimp only
  rw [if_pos (by rw [okThreads_eq_nil hall]; rfl), State.finishChecked_of_fault _ _ hfirst, Option.getD_none,
    faultsMask_of_all hmap hall]

theorem wrapTo_lt (w : Nat) (v : Int) : wrapTo w v < 2 ^ w := by
  have hpos : (0 : Int) < 2 ^ w := by positivity
  have hlt := Int.emod_lt_of_pos v hpos
  have hnonneg := Int.emod_nonneg v hpos.ne'
  unfold wrapTo
  zify
  rwa [Int.toNat_of_nonneg hnonneg]

/-- An access that starts at or beyond the allocation has a byte outside it. -/
theorem spadCheck_outside {size : Nat} (t : Nat) {a n : Nat} (hn : 0 < n) (ha : a < 2 ^ 17) (h : size ≤ a) :
    spadCheck size (spadPieces t a n) = .fault 0x15 0 := by
  refine if_neg fun hin => ?_
  rw [spadPieces, cutPieces, if_neg hn.ne'] at hin
  simp only [List.map_cons, List.all_cons, Bool.and_eq_true, decide_eq_true_eq, Nat.mod_eq_of_lt ha] at hin
  have hlen := (alignedPiece_bounds a 4 hn).1
  omega

/-- How the instruction of a row runs: as an access of the core's memories with the comparison `prot` and the commit `commit`, which
puts in flight the threads that fly. -/
structure CoreRow.Runs (r : CoreRow) (f : InsM) (s : State) (prot : Bool) (commit : State → List (Nat × List Piece) → State) :
    Prop where
  exec : r.held = false → exec r.i s =
    .next (if r.sends then (s.coreAccess f r.check prot commit).progress s.cur.core else s.coreAccess f r.check prot commit)
  prot : (∀ n, r.data = some n → s.shadowsAgree f 32 n) → prot = false
  puts : ∀ ok, (∀ e ∈ ok, r.check e.1 = .ok e.2) → ∃ new, s.joins (commit s ok) new ∧
    (∀ j sp, ((commit s ok).core j).buf sp = (s.core j).buf sp) ∧
    ∀ v, v < 64 → ((∃ o ∈ new, o.threads.getLsbD v = true) ↔ r.flies v = true ∧ ∃ ps, (v, ps) ∈ ok)

theorem getLsbD_okMask (ok : List (Nat × List Piece)) {v : Nat} (hv : v < 64) :
    (okMask ok).getLsbD v = true ↔ ∃ ps, (v, ps) ∈ ok := by
  simp [okMask, maskOf_getLsbD _ _ hv]

/-- Beats put at a port: one operation of the threads that commit, with no change to a memory. -/
theorem State.joins_enterBeats (s : State) (f : InsM) (kind : OpKind) (counted : Bool) (space op n base : Nat)
    (data : Nat → List Byte) (ok : List (Nat × List Piece)) :
    (∃ v, s.joins (s.enterBeats f kind counted space op n base data ok) [v] ∧ v.threads = okMask ok) ∧
      ∀ j sp, ((s.enterBeats f kind counted space op n base data ok).core j).buf sp = (s.core j).buf sp := by
  have hst : ∀ r ∈ s.beatRequests kind space base data ok, r.st ≠ .rewalk := fun r hr => by
    obtain ⟨e, -, p, -, heq⟩ := State.mem_beatRequests hr
    rw [heq]
    simp [beatRequest]
  refine ⟨?_, s.issueOp_buf _ _⟩
  obtain ⟨v, hv, -, hthreads, -⟩ := s.joins_issueOp (o := { newOp s kind
    (if !counted then none else some (if kind == .coreStore then Cls.st else .ld)) f n (okMask ok)
    (s.beatRequests kind space base data ok) with
      dst := if kind == .coreStore then none else some f.d.toNat, opx := space + 4 * op, scope := 1
      sign := kind == .coreLoad && space == 3 && fnHi f.fn == 1 }) hst
    (if kind == .coreStore then [] else sbVec s.wv.win.cur f.d.toNat (regWidth (8 * n)))
  exact ⟨v, hv, hthreads⟩

/-- LDS, LDB, STS and STB: every thread that commits flies. -/
theorem CoreRow.puts_beats {f : InsM} {s t : State} (h : s.joins t []) (hbuf : ∀ j sp, (t.core j).buf sp = (s.core j).buf sp)
    (kind : OpKind) (space n base : Nat) (data : Nat → List Byte) (ok : List (Nat × List Piece)) :
    ∃ new, s.joins (t.enterBeats f kind true space 0 n base data ok) new ∧
      (∀ j sp, ((t.enterBeats f kind true space 0 n base data ok).core j).buf sp = (s.core j).buf sp) ∧
      ∀ v, v < 64 → ((∃ o ∈ new, o.threads.getLsbD v = true) ↔ true = true ∧ ∃ ps, (v, ps) ∈ ok) := by
  obtain ⟨⟨o, ho, hthreads⟩, hsame⟩ := t.joins_enterBeats f kind true space 0 n base data ok
  refine ⟨[o], h.trans ho, fun j sp => (hsame j sp).trans (hbuf j sp), fun v hv => ?_⟩
  simp [hthreads, getLsbD_okMask ok hv]

/-! ## ATOMS (R184, R185) -/

theorem atomsCheck_ok {size n a t : Nat} {ps : List Piece} (h : atomsCheck size n a t = .ok ps) :
    ps = [⟨t, a, a % 2 ^ 17, n, 0, 0, 0⟩] := by
  unfold atomsCheck at h
  dsimp only at h
  split_ifs at h
  cases h
  rfl

/-- Operations of some threads put in flight one after another fly as the threads of both. -/
theorem joins_threads_append {s t u : State} {a b : List MemOp} {p q : Nat → Prop} (ha : s.joins t a) (hb : t.joins u b)
    (hp : ∀ v, v < 64 → ((∃ o ∈ a, o.threads.getLsbD v = true) ↔ p v))
    (hq : ∀ v, v < 64 → ((∃ o ∈ b, o.threads.getLsbD v = true) ↔ q v)) :
    ∃ new, s.joins u new ∧ ∀ v, v < 64 → ((∃ o ∈ new, o.threads.getLsbD v = true) ↔ p v ∨ q v) := by
  refine ⟨a ++ b, ha.trans hb, fun v hv => ?_⟩
  rw [← hp v hv, ← hq v hv]
  simp only [List.mem_append, or_and_right, exists_or]

/-- The local threads of an ATOMS, if there are any, enter the port of the scratchpad. -/
theorem State.joins_near (s : State) (f : InsM) (counted : Bool) (op n base : Nat) (data : Nat → List Byte)
    (near : List (Nat × List Piece)) :
    let u := if near.isEmpty then s else s.enterBeats f .coreAtom counted 3 op n base data near
    ∃ new, s.joins u new ∧ (∀ j sp, (u.core j).buf sp = (s.core j).buf sp) ∧
      ∀ v, v < 64 → ((∃ o ∈ new, o.threads.getLsbD v = true) ↔ ∃ ps, (v, ps) ∈ near) := by
  cases near with
  | nil => exact ⟨[], (State.Readies.refl s).joins, fun _ _ => rfl, by simp⟩
  | cons e near =>
    obtain ⟨⟨o, ho, hthreads⟩, hbuf⟩ := s.joins_enterBeats f .coreAtom counted 3 op n base data (e :: near)
    exact ⟨[o], ho, hbuf, fun v hv => by rw [← getLsbD_okMask _ hv, ← hthreads]; simp⟩

/-- The remote threads of an ATOMS that may go, if there are any, go as one operation of messages. -/
theorem State.joins_far (s : State) (far : List (Nat × List Piece)) {o : MemOp} (ho : o.threads = okMask far)
    (hst : ∀ r ∈ o.reqs, r.st ≠ .rewalk) (regs : List SbReg) :
    let u := if far.isEmpty then s else s.issueOp o regs
    ∃ new, s.joins u new ∧ (∀ j sp, (u.core j).buf sp = (s.core j).buf sp) ∧
      ∀ v, v < 64 → ((∃ o ∈ new, o.threads.getLsbD v = true) ↔ ∃ ps, (v, ps) ∈ far) := by
  cases far with
  | nil => exact ⟨[], (State.Readies.refl s).joins, fun _ _ => rfl, by simp⟩
  | cons e far =>
    obtain ⟨v, hv, -, hthreads, -⟩ := s.joins_issueOp hst regs
    exact ⟨[v], hv, s.issueOp_buf o regs, fun l hl => by rw [← getLsbD_okMask _ hl, ← ho, ← hthreads]; simp⟩

/-- The part of a commit before its operations: a release, and the results of the denied threads. -/
theorem State.joins_beforeAtoms (s : State) (f : InsM) {g : Wave → Wave} (hctl : ∀ w : Wave, (g w).ctl = w.ctl)
    (hcsr : ∀ w : Wave, (g w).csr = w.csr) : s.joins ((if f.so.getLsbD 1 then s.mapWv Wave.released else s).mapWv g) [] := by
  split
  · exact (s.joins_mapWv (fun _ => rfl) (fun _ => rfl)).trans (State.joins_mapWv _ hctl hcsr)
  · exact s.joins_mapWv hctl hcsr

theorem State.core_beforeAtoms (s : State) (f : InsM) (g : Wave → Wave) (j : Nat) :
    ((if f.so.getLsbD 1 then s.mapWv Wave.released else s).mapWv g).core j = s.core j := by
  split <;> rfl

/-- Which threads of an ATOMS that passed its checks go where: to the block's own scratchpad, to another core, or nowhere (R185). -/
theorem atoms_flies {s : State} {f : InsM} {size n : Nat} {ok : List (Nat × List Piece)}
    (hok : ∀ e ∈ ok, atomsCheck size n (s.atomsTarget f e.1) e.1 = .ok e.2) (v : Nat) :
    ((∃ ps, (v, ps) ∈ ok.filter (fun e => !e.2.any (fun p => decide (2 ^ 31 ≤ p.va)))) ∨
        ∃ ps, (v, ps) ∈ ok.filter (fun e => e.2.any (fun p => decide (2 ^ 31 ≤ p.va)) && !remoteDenied s e)) ↔
      (decide (s.atomsTarget f v < 2 ^ 31) ||
        (s.domOf s.wv.ctx.dom).clusters.contains (clusterOf (atomsCore (s.atomsTarget f v)))) = true ∧ ∃ ps, (v, ps) ∈ ok := by
  have hremote : ∀ ps, (v, ps) ∈ ok → ps.any (fun p => decide (2 ^ 31 ≤ p.va)) = decide (2 ^ 31 ≤ s.atomsTarget f v) ∧
      remoteDenied s (v, ps) = !(s.domOf s.wv.ctx.dom).clusters.contains (clusterOf (atomsCore (s.atomsTarget f v))) := by
    intro ps hps
    rw [show ps = _ from atomsCheck_ok (hok _ hps)]
    simp [remoteDenied]
  rw [← exists_or, ← exists_and_left]
  refine exists_congr fun ps => ?_
  simp only [List.mem_filter]
  rw [← and_or_left, and_comm]
  refine and_congr_left fun hps => ?_
  obtain ⟨hany, hdenied⟩ := hremote ps hps
  rw [hany, hdenied]
  grind

/-- ATOMS: the local threads enter the port, those of a core of the domain leave as messages, the others fly not at all. -/
theorem CoreRow.puts_atoms {f : InsM} {s : State} {size n : Nat} (op base : Nat) (g : Wave → Wave)
    (hctl : ∀ w : Wave, (g w).ctl = w.ctl) (hcsr : ∀ w : Wave, (g w).csr = w.csr) (data : Nat → List Byte)
    {ok : List (Nat × List Piece)} {o : MemOp} (regs : List SbReg)
    (hok : ∀ e ∈ ok, atomsCheck size n (s.atomsTarget f e.1) e.1 = .ok e.2) (hst : ∀ r ∈ o.reqs, r.st ≠ .rewalk) :
    let near := ok.filter (fun e => !e.2.any (fun p => decide (2 ^ 31 ≤ p.va)))
    let far := ok.filter (fun e => e.2.any (fun p => decide (2 ^ 31 ≤ p.va)) && !remoteDenied s e)
    let s2 := (if f.so.getLsbD 1 then s.mapWv Wave.released else s).mapWv g
    let s3 := if near.isEmpty then s2 else s2.enterBeats f .coreAtom far.isEmpty 3 op n base data near
    let u := if far.isEmpty then s3 else s3.issueOp o regs
    o.threads = okMask far → ∃ new, s.joins u new ∧ (∀ j sp, (u.core j).buf sp = (s.core j).buf sp) ∧
      ∀ v, v < 64 → ((∃ o ∈ new, o.threads.getLsbD v = true) ↔ (decide (s.atomsTarget f v < 2 ^ 31) ||
        (s.domOf s.wv.ctx.dom).clusters.contains (clusterOf (atomsCore (s.atomsTarget f v)))) = true ∧ ∃ ps, (v, ps) ∈ ok) := by
  intro near far s2 s3 u hthreads
  obtain ⟨a, ha, habuf, hnear⟩ := State.joins_near s2 f far.isEmpty op n base data near
  obtain ⟨b, hb, hbbuf, hfar⟩ := State.joins_far s3 far hthreads hst regs
  obtain ⟨new, hnew, hflies⟩ := joins_threads_append ha hb hnear hfar
  exact ⟨new, (s.joins_beforeAtoms f hctl hcsr).trans hnew,
    fun j sp => (hbbuf j sp).trans ((habuf j sp).trans (congrArg (Core.buf · sp) (s.core_beforeAtoms f g j))),
    fun v hv => (hflies v hv).trans (atoms_flies hok v)⟩

theorem coreRows_run {f : InsM} {s : State} (hact : s.wv.activeMask f.g ≠ 0) {r : CoreRow} (hr : r ∈ coreRows f s) :
    ∃ prot commit, r.Runs f s prot commit := by
  have hprot := fun n h => State.protMismatch_of_agree (s := s) (f := f) (a := 32) (d := n) h
  have hself : s.joins s [] := (State.Readies.refl s).joins
  simp only [coreRows, List.mem_cons, List.not_mem_nil, or_false] at hr
  rcases hr with rfl | rfl | rfl | rfl | rfl
  case inl =>
    refine ⟨false, ?ldsCommit, ⟨fun hheld => ?exec, fun _ => rfl, fun ok _ => ?puts⟩⟩
    case exec =>
      dsimp only at hheld
      show execLds f s = _
      simp only [execLds, if_neg hact, hheld]
      rfl
    case puts => exact CoreRow.puts_beats hself (fun _ _ => rfl) ..
  case inr.inl =>
    have hrel : s.joins (if f.so.getLsbD 1 then s.mapWv Wave.released else s) [] := by
      split
      · exact s.joins_mapWv (fun _ => rfl) (fun _ => rfl)
      · exact hself
    refine ⟨_, ?stsCommit, ⟨fun hheld => ?exec, fun h => hprot _ (h _ rfl), fun ok _ => ?puts⟩⟩
    case exec =>
      dsimp only at hheld
      show execSts f s = _
      simp only [execSts, if_neg hact, hheld]
      rfl
    case puts => exact CoreRow.puts_beats hrel (fun j sp => by split <;> rfl) ..
  case inr.inr.inl =>
    refine ⟨false, ?ldbCommit, ⟨fun hheld => ?exec, fun _ => rfl, fun ok _ => ?puts⟩⟩
    case exec =>
      dsimp only at hheld
      show execLdb f s = _
      simp only [execLdb, if_neg hact, hheld]
      rfl
    case puts => exact CoreRow.puts_beats hself (fun _ _ => rfl) ..
  case inr.inr.inr.inl =>
    refine ⟨_, ?stbCommit, ⟨fun hheld => ?exec, fun h => hprot _ (h _ rfl), fun ok _ => ?puts⟩⟩
    case exec =>
      dsimp only at hheld
      show execStb f s = _
      simp only [execStb, if_neg hact, hheld]
      rfl
    case puts => exact CoreRow.puts_beats hself (fun _ _ => rfl) ..
  case inr.inr.inr.inr =>
    have hbits : (if fnHi f.fn = 7 then 16 * sizeBytes f.fn else 8 * sizeBytes f.fn) =
        8 * (if fnHi f.fn = 7 then 2 * sizeBytes f.fn else sizeBytes f.fn) := by
      split <;> omega
    refine ⟨_, ?atomsCommit, ⟨fun hheld => ?exec, fun h => hprot _ (hbits ▸ h _ rfl), fun ok hok => ?puts⟩⟩
    case exec =>
      dsimp only at hheld
      show execAtoms f s = _
      simp only [execAtoms, if_neg hact, hheld]
      rfl
    case puts =>
      refine CoreRow.puts_atoms (n := sizeBytes f.fn) _ _ _ (fun _ => ?_) (fun _ => ?_) _ _ hok (fun q hq => ?_) ?_
      · rw [Wave.putOk, Wave.putV_eq]
      · rw [Wave.putOk, Wave.putV_eq]
      · obtain ⟨e, -, rfl⟩ := List.mem_map.1 hq
        simp [remoteRequest]
      · rfl

/-- An access of the core's memories some of whose threads fault: those that commit and fly are put in flight, the others trap. -/
theorem coreRows_fragment {f : InsM} {s : State} (hact : s.wv.activeMask f.g ≠ 0) {r : CoreRow} (hr : r ∈ coreRows f s)
    {rs : List (Nat × Checked)} (hrs : (threadsOf (s.wv.activeMask f.g)).map (fun t => (t, r.check t)) = rs)
    (hheld : r.held = false) (hagree : ∀ n, r.data = some n → s.shadowsAgree f 32 n) (hsome : someCommit rs) {t c i : Nat}
    (hlow : lowestFault rs t c i) : ∃ u new,
      (let v := u.trap c i (faultsMask rs) (s.wv.ctl.pc + BitVec.ofNat 57 (lenM f)) s.wv.ctl.pc
       exec r.i s = .next (if r.sends then v.progress s.cur.core else v)) ∧
      s.joins u new ∧ (∀ j sp, (u.core j).buf sp = (s.core j).buf sp) ∧
      ∀ v, v < 64 → ((∃ o ∈ new, o.threads.getLsbD v = true) ↔ r.flies v = true ∧ ∃ ps, (v, Checked.ok ps) ∈ rs) := by
  obtain ⟨prot, commit, hruns⟩ := coreRows_run hact hr
  have hsort : (rs.map Prod.fst).Pairwise (· < ·) := by
    rw [← hrs, List.map_map]
    exact (List.map_id _).symm ▸ threadsOf_sorted _
  obtain ⟨new, hjoins, hbuf, hflies⟩ := hruns.puts (okThreads rs) fun ⟨v, ps⟩ he => by
    have hmem := mem_okThreads.1 he
    rw [← hrs] at hmem
    obtain ⟨v', -, heq⟩ := List.mem_map.1 hmem
    obtain ⟨rfl, hok⟩ := Prod.mk.inj heq
    exact hok
  refine ⟨commit s (okThreads rs), new, ?_, hjoins, hbuf, fun v hv => ?_⟩
  · have haccess : s.coreAccess f r.check prot commit = (commit s (okThreads rs)).trap c i (faultsMask rs)
        (s.wv.ctl.pc + BitVec.ofNat 57 (lenM f)) s.wv.ctl.pc := by
      unfold State.coreAccess
      dsimp only
      rw [hrs, if_neg (by simp [okThreads_ne_nil hsome]), if_neg (by simp [hruns.prot hagree]),
        State.finishChecked_of_fault _ _ (firstFault_of_lowest hsort hlow), hjoins.2.1]
      rfl
    rw [hruns.exec hheld, haccess]
  · simpa only [mem_okThreads] using hflies v hv

theorem CoreRow.traps {f : InsM} {s : State} (hact : s.wv.activeMask f.g ≠ 0) {r : CoreRow} (hr : r ∈ coreRows f s)
    (hheld : r.held = false) (hsends : r.sends = false) {c : Nat}
    (h : ∀ t, (s.wv.activeMask f.g).getLsbD t = true → r.check t = .fault c 0) :
    exec r.i s = .next (s.trap c 0 (s.wv.activeMask f.g) (s.wv.ctl.pc + BitVec.ofNat 57 (lenM f)) s.wv.ctl.pc) := by
  obtain ⟨prot, commit, hruns⟩ := coreRows_run hact hr
  rw [hruns.exec hheld, hsends, State.coreAccess_of_faults hact h]
  rfl

/-- A buffer access of which every thread is misaligned (R176). -/
theorem State.bufCheck_misaligned (s : State) {space n a : Nat} (t : Nat) (h : a % n ≠ 0) :
    s.bufCheck space n a t = .fault 0x14 0 :=
  if_pos h

/-- A buffer access of which no byte is the block's (R166). -/
theorem State.bufCheck_outside (s : State) {space n a : Nat} (t : Nat) (h : a % n = 0) (hheld : s.holdsBuf space a = false) :
    s.bufCheck space n a t = .fault 0x16 0 := by
  rw [State.bufCheck, if_neg (not_not.2 h), if_neg (ne_true_of_eq_false hheld)]

/-- LDS and STS with every thread beyond the block's allocation (R159). -/
theorem exec_spad_outside {f : InsM} {s : State} (hact : s.wv.activeMask f.g ≠ 0)
    (h : ∀ t, (s.wv.activeMask f.g).getLsbD t = true → s.spadRange.2 ≤ s.effAddr f 32 17 t) {r : CoreRow}
    (hr : r ∈ coreRows f s) (hheld : r.held = false) (hsends : r.sends = false)
    (hcheck : r.check = fun t => spadCheck s.spadRange.2 (spadPieces t (s.effAddr f 32 17 t) (sizeBytes f.fn))) :
    exec r.i s = .next (s.trap 0x15 0 (s.wv.activeMask f.g) (s.wv.ctl.pc + BitVec.ofNat 57 (lenM f)) s.wv.ctl.pc) := by
  refine CoreRow.traps hact hr hheld hsends fun t ht => ?_
  rw [hcheck]
  exact spadCheck_outside t (sizeBytes_pos f.fn) (wrapTo_lt ..) (h t ht)

/-- LDB and STB with every thread misaligned, or every thread outside what the block holds (R166, R176). -/
theorem exec_buf_faults {f : InsM} {s : State} (hact : s.wv.activeMask f.g ≠ 0) {r : CoreRow} (hr : r ∈ coreRows f s)
    (hheld : r.held = false) (hsends : r.sends = false)
    (hcheck : r.check = fun t => s.bufCheck (fnHi f.fn) (sizeBytes f.fn) (s.effAddr f 32 (bufWidth (fnHi f.fn)) t) t) :
    let trap := fun c => s.trap c 0 (s.wv.activeMask f.g) (s.wv.ctl.pc + BitVec.ofNat 57 (lenM f)) s.wv.ctl.pc
    let a := s.effAddr f 32 (bufWidth (fnHi f.fn))
    ((∀ t, (s.wv.activeMask f.g).getLsbD t = true → a t % sizeBytes f.fn ≠ 0) → exec r.i s = .next (trap 0x14)) ∧
      ((∀ t, (s.wv.activeMask f.g).getLsbD t = true → a t % sizeBytes f.fn = 0 ∧ s.holdsBuf (fnHi f.fn) (a t) = false) →
        exec r.i s = .next (trap 0x16)) := by
  refine ⟨fun h => CoreRow.traps hact hr hheld hsends fun t ht => ?_, fun h => CoreRow.traps hact hr hheld hsends fun t ht => ?_⟩
  · rw [hcheck]
    exact s.bufCheck_misaligned t (h t ht)
  · rw [hcheck]
    exact s.bufCheck_outside t (h t ht).1 (h t ht).2

/-- Settles O22: the rows of `accessRows` and `coreRows` say how each access runs; a fault of every thread is one trap, a fault of
some traps after the commit of the others. -/
theorem accessesTrap : Obligations.AccessesTrap := by
  unfold Obligations.AccessesTrap
  refine ⟨fun f s hact hpend => ⟨fun r hr hall c i hhead => accessRows_fault hact hpend hr hall hhead, ?_⟩,
    fun f s hact => ⟨fun _ h => ⟨?_, ?_⟩, fun hpend => ?_⟩, ?_, ?_⟩
  · simp only [List.forall_mem_cons, List.not_mem_nil, false_imp_iff, implies_true, and_true]
    exact ⟨exec_misaligned hact hpend (List.mem_of_getElem? (l := accessRows f s) (i := 4) rfl) rfl rfl,
      exec_misaligned hact hpend (List.mem_of_getElem? (l := accessRows f s) (i := 5) rfl) rfl rfl⟩
  · exact fun hheld => exec_spad_outside hact h (List.mem_of_getElem? (l := coreRows f s) (i := 0) rfl) hheld rfl rfl
  · exact fun hheld => exec_spad_outside hact h (List.mem_of_getElem? (l := coreRows f s) (i := 1) rfl) hheld rfl rfl
  · simp only [List.forall_mem_cons, List.not_mem_nil, false_imp_iff, implies_true, and_true]
    exact ⟨exec_buf_faults hact (List.mem_of_getElem? (l := coreRows f s) (i := 2) rfl) hpend rfl rfl,
      exec_buf_faults hact (List.mem_of_getElem? (l := coreRows f s) (i := 3) rfl) hpend rfl rfl⟩
  · intro f s hact hpend r hr q rs hagree hsome hrel t c i hlow
    obtain ⟨u, o, hexec, hjoins, hcnt, hkind, hthreads, hcover, hmeet⟩ :=
      accessRows_fragment hact hpend hr (rs := rs) rfl hagree hsome hrel hlow
    obtain ⟨hcur, hctl, hcsr, hops, hms, hslot⟩ := hjoins
    refine ⟨u, o, faultsMask rs, hexec, faultMask_faultsMask rs, hcur, hctl, hcsr, hcnt, hops, hkind, hslot o (by simp),
      fun v hv => ?_, fun v ps hok p hp => hcover (v, ps) (mem_okThreads.2 hok) p hp, fun x hx => ?_, fun a => by rw [hms]⟩
    · rw [hthreads, getLsbD_okMask _ hv]
      simp only [mem_okThreads]
    · obtain ⟨⟨v, ps⟩, he, p, hp, hover⟩ := hmeet x hx
      exact ⟨v, ps, mem_okThreads.1 he, p, hp, hover⟩
  · intro f s hact r hr rs hheld hagree hsome t c i hlow
    obtain ⟨u, new, hexec, hjoins, hbuf, hflies⟩ := coreRows_fragment hact hr (rs := rs) rfl hheld hagree hsome hlow
    obtain ⟨hcur, hctl, hcsr, hops, hms, hslot⟩ := hjoins
    refine ⟨u, new, faultsMask rs, hexec, faultMask_faultsMask rs, hcur, hctl, hcsr, hops, hms, fun sp => ?_, hslot, hflies⟩
    rw [State.myCore, hcur]
    exact hbuf _ sp

end Sys2Proof.Machine
end

section
/-! SUPPORT. SUPPORT. The answers of the engines to waves: byte counts, polls, walks and expiries. -/

namespace Sys2Proof.Machine

/-! ## Byte counts, polls and expiries -/

theorem Phaser.addBytes_eq (p : Phaser) (n : Nat) (ts : Option Nat) :
    p.addBytes n ts = Phaser.test { p with bytes := (p.bytes + n) % 2 ^ 32, cts := max p.cts (ts.getD 0) } := rfl

/-- An add at the engine of the cluster that its live handle names reaches its phaser (R336). -/
theorem State.applyAdd_here {s : State} {k o g : Nat} {clean : Bool} {a : ByteAdd}
    (href : phRef (BitVec.ofNat 32 a.handle) = .hardware k o g clean) (hdead : s.phDead (.hardware k o g clean) none = false) :
    s.applyAdd k a = s.setPhaser (.hardware k o g clean) ((s.phaserAt (.hardware k o g clean)).addBytes a.bytes a.ts) := by
  simp only [State.applyAdd, href, if_pos, hdead]
  rfl

theorem execPhaserByteAdd_here {s : State} {k i o g : Nat} {clean : Bool} {a : ByteAdd} (ha : (s.cluster k).adds[i]? = some a)
    (href : phRef (BitVec.ofNat 32 a.handle) = .hardware k o g clean) (hdead : s.phDead (.hardware k o g clean) none = false) :
    let p := Map.getD (s.cluster k).phasers o Phaser.reset
    completes (.phaserByteAdd k i) s (fun t => t.ms = s.ms ∧ (t.cluster k).adds = dropAt (s.cluster k).adds i ∧
      Map.getD (t.cluster k).phasers o Phaser.reset =
        Phaser.test { p with bytes := (p.bytes + a.bytes) % 2 ^ 32, cts := max p.cts (a.ts.getD 0) }) := by
  intro p
  -- Taking the add from the queue leaves the phasers.
  let u := s.setCluster k { s.cluster k with adds := dropAt (s.cluster k).adds i }
  have hcluster : u.cluster k = { s.cluster k with adds := dropAt (s.cluster k).adds i } := by
    rw [State.cluster_setCluster, if_pos rfl]
  have hphaser : u.phaserAt (.hardware k o g clean) = p := by
    show Map.getD (u.cluster k).phasers o Phaser.reset = p
    rw [hcluster]
  have hdead' : u.phDead (.hardware k o g clean) none = false := by
    unfold State.phDead at hdead ⊢
    rwa [hphaser]
  refine ⟨u.applyAdd k a, ?_, ?_⟩
  · show execPhaserByteAdd k i s = _
    simp only [execPhaserByteAdd, ha]
    rfl
  · rw [State.applyAdd_here href hdead', hphaser]
    simp only [State.setPhaser, State.cluster_setCluster, if_pos, hcluster, Map.getD_set_self, Phaser.addBytes_eq]
    exact ⟨rfl, trivial, trivial⟩

/-! ## Walks -/

/-- The events that serve a walk entry: the next action of a walk under way, and the retry of one whose interval has passed. -/
def servesWalk (s : State) (k i : Nat) (w : Walker) (ev : Instr) : Prop :=
  (ev = Instr.pageWalkComplete k i ∧ w.migrating = false) ∨
    (ev = Instr.migrationWalkRetry k i ∧ w.migrating = true ∧ w.retryAt ≤ s.netNow)

theorem exec_servesWalk {s : State} {k i : Nat} {w : Walker} {ev : Instr} (hw : (s.cluster k).walks[i]? = some w)
    (hev : servesWalk s k i w ev) : exec ev s = .next (s.serveWalk k i w) := by
  rcases hev with ⟨rfl, hmig⟩ | ⟨rfl, hmig, hat⟩
  · show execPageWalkComplete k i s = _
    simp [execPageWalkComplete, hw, hmig]
  · show execMigrationWalkRetry k i s = _
    simp [execMigrationWalkRetry, hw, hmig, hat]

theorem bitsOf_eq (lo len v : Nat) : bitsOf lo len v = v / 2 ^ lo % 2 ^ len := by
  rw [bitsOf, Nat.shiftRight_eq_div_pow]

/-- Of an entry that is not a leaf every kind of access has the same fault (R84). -/
theorem State.entryFault_table (s : State) (d : Dom) (level : Nat) {e : Nat} (hleaf : e.testBit 1 = false) (kind : Nat) :
    s.entryFault d level e kind = s.entryFault d level e 0 := by
  simp only [State.entryFault, hleaf, Bool.false_and]

/-- A walk goes on from a table entry that passes and has A set, with no write to it (R78, R80). -/
theorem State.walkUse_table {s : State} {die : Nat} {d : Dom} {ctx : Context} {va ts : Nat} {ks : List Nat} {p : WalkPos} {e : Nat}
    (hleaf : e.testBit 1 = false) (ha : e.testBit 5 = true) (hok : s.entryFault d p.level e 0 = none) (hks : ks ≠ []) :
    s.walkUse die d ctx va ts ks p e = (s.cacheEntry ⟨die, ctx.asn, p.level, cacheIndex va p.level, e⟩,
      .go ⟨p.level - 1, bitsOf 12 40 e * 4096, bitsOf 52 12 e, none⟩) := by
  have hset : e ||| 0x20 = e := by
    refine Nat.eq_of_testBit_eq fun i => ?_
    rw [Nat.testBit_or, show (0x20 : Nat) = 2 ^ 5 from rfl, Nat.testBit_two_pow]
    by_cases hi : 5 = i
    · simp [← hi, ha]
    · simp [hi]
  simp [State.walkUse, walkNext, hleaf, State.entryFault_table s d p.level hleaf, hok, hks, hset]

theorem State.walkAct_table {s : State} {die : Nat} {d : Dom} {ctx : Context} {va ts : Nat} {ks : List Nat} {fresh : Bool}
    {l table key e : Nat} (hdom : s.dom? ctx.dom = some d) (hkey : s.keyFault ctx.dom ctx.key = none)
    (hleaf : e.testBit 1 = false) (ha : e.testBit 5 = true) (hok : s.entryFault d l e 0 = none) (hks : ks ≠ []) :
    s.walkAct die ctx va ts ks fresh (some ⟨l, table, key, some e⟩) = (s.cacheEntry ⟨die, ctx.asn, l, cacheIndex va l, e⟩,
      .go ⟨l - 1, bitsOf 12 40 e * 4096, bitsOf 52 12 e, none⟩) := by
  simp only [State.walkAct, State.walkStart, hdom, hkey, State.domOf, Option.getD_some]
  exact State.walkUse_table hleaf ha hok hks

@[simp] theorem State.cacheEntry_net (s : State) (c : CachedEntry) : (s.cacheEntry c).net = s.net := by
  unfold State.cacheEntry
  dsimp only
  split <;> rfl

@[simp] theorem State.cacheEntry_cluster (s : State) (c : CachedEntry) (k : Nat) : (s.cacheEntry c).cluster k = s.cluster k := by
  unfold State.cacheEntry
  dsimp only
  split <;> rfl

@[simp] theorem State.cluster_setWalk (s : State) (k i : Nat) (w : Walker) :
    (s.setWalk k i w).cluster k = { s.cluster k with walks := modAt (fun _ => w) (s.cluster k).walks i } := by
  rw [State.setWalk, State.cluster_setCluster, if_pos rfl]

@[simp] theorem State.cluster_endWalk (s : State) (k i : Nat) :
    (s.endWalk k i).cluster k = { s.cluster k with walks := dropAt (s.cluster k).walks i } := by
  rw [State.endWalk, State.cluster_setCluster, if_pos rfl]

/-- The walk entry as a walk's next place leaves it. -/
theorem exec_walk_table {s : State} {k i : Nat} {w : Walker} {ev : Instr} (hw : (s.cluster k).walks[i]? = some w)
    (hev : servesWalk s k i w ev) {d : Dom} {l table key e : Nat} (hdom : s.dom? w.ctx.dom = some d)
    (hkey : s.keyFault w.ctx.dom w.ctx.key = none) (hpos : w.pos = some ⟨l, table, key, some e⟩) (hvalid : e % 4 = 1)
    (ha : e.testBit 5 = true) (hok : s.entryFault d l e 0 = none) (hwaits : w.waiters ≠ []) :
    completes ev s (fun t => t.ms.mem = s.ms.mem ∧ t.net = s.net ∧ (t.cluster k).walks = modAt (fun _ =>
      { w with migrating := false, pos := some ⟨l - 1, e / 2 ^ 12 % 2 ^ 40 * 4096, e / 2 ^ 52 % 2 ^ 12, none⟩ })
        (s.cluster k).walks i) := by
  have hleaf : e.testBit 1 = false := by
    rw [Nat.testBit_eq_decide_div_mod_eq]
    simp only [decide_eq_false_iff_not]
    omega
  have hact := State.walkAct_table (die := k / 128) (va := w.page * 4096) (ts := w.ts) (fresh := w.fresh) (table := table) (key := key)
    (ks := w.waiters.map (fun m => m.2.2)) hdom hkey hleaf ha hok (by simpa using hwaits)
  refine ⟨_, exec_servesWalk hw hev, ?_⟩
  rw [← hpos] at hact
  simp only [State.serveWalk, hact, bitsOf_eq, State.cluster_setWalk, State.cacheEntry_cluster]
  exact ⟨State.cacheEntry_mem .., State.cacheEntry_net .., trivial⟩

/-! ## The end of a walk for one waiter -/

section OneWaiter
variable {s s1 : State} {k i core slot kind : Nat} {w : Walker} {ev : Instr}

/-- The walk entry is gone, with no memory changed. -/
def walkEnded (s t : State) (k i : Nat) : Prop := t.ms = s.ms ∧ (t.cluster k).walks = dropAt (s.cluster k).walks i

/-- What a walk found is the last answer of a wave. -/
def walkTold (s t : State) (core slot : Nat) (a : WalkAnswer) : Prop :=
  (t.wave ⟨core, slot⟩).answers = (s.wave ⟨core, slot⟩).answers ++ [a]

theorem State.cluster_setWave (s : State) (id : WaveId) (v : Wave) (k : Nat) : (s.setWave id v).cluster k = s.cluster k := by
  unfold State.setWave
  split <;> rfl

theorem State.tellWaiter_wave (s : State) (w : Walker) {f : WalkFault} (hslot : slot < 8) (hf : f ≠ .poison) :
    s.tellWaiter w (core, slot, kind) f = s.setWave ⟨core, slot⟩ { s.wave ⟨core, slot⟩ with
      answers := (s.wave ⟨core, slot⟩).answers ++ [⟨w.page, kind, f⟩] } := by
  simp only [State.tellWaiter, if_neg hslot.ne, if_neg hf]

/-- A wave told a fault or a translation, and the walk entry freed. -/
theorem State.endWalk_tellWaiter (s : State) (w : Walker) (k i : Nat) {f : WalkFault} (hslot : slot < 8) (hf : f ≠ .poison) :
    let t := (s.tellWaiter w (core, slot, kind) f).endWalk k i
    walkEnded s t k i ∧ walkTold s t core slot ⟨w.page, kind, f⟩ ∧ (∀ j, t.core j = s.core j) ∧
      (t.cluster k).tlb = (s.cluster k).tlb := by
  have hcluster : (s.tellWaiter w (core, slot, kind) f).cluster k = s.cluster k := by
    rw [State.tellWaiter_wave s w hslot hf]
    exact State.cluster_setWave ..
  have hcore : ∀ j, (s.tellWaiter w (core, slot, kind) f).core j = s.core j := fun j => by
    rw [State.tellWaiter_wave s w hslot hf]
    exact congrArg (Map.getD · j Core.reset) (State.setWave_cores ..)
  refine ⟨⟨State.tellWaiter_ms .., ?_⟩, ?_, hcore, ?_⟩
  · rw [State.cluster_endWalk, hcluster]
  · show ((s.tellWaiter w (core, slot, kind) f).wave ⟨core, slot⟩).answers = _
    rw [State.tellWaiter_wave s w hslot hf, State.wave_setWave_self]
  · rw [State.cluster_endWalk, hcluster]

theorem mem_tlbInsert (tlb : List TlbEntry) (n pick : Nat) (e : TlbEntry) : e ∈ tlbInsert tlb n pick e := by
  unfold tlbInsert
  dsimp only
  split <;> exact List.mem_cons_self

theorem State.mem_fillL1Tlb (s : State) (j : Nat) (x : TlbEntry) : x ∈ ((s.fillL1Tlb j x).core j).tlb := by
  show x ∈ ((s.setCore j _).core j).tlb
  rw [State.core_setCore, if_pos rfl]
  exact mem_tlbInsert ..

theorem State.mem_fillSharedTlb (s : State) (k : Nat) (x : TlbEntry) : x ∈ ((s.fillSharedTlb k x).cluster k).tlb := by
  show x ∈ ((s.setCluster k _).cluster k).tlb
  rw [State.cluster_setCluster, if_pos rfl]
  exact List.mem_append_left _ (mem_tlbInsert ..)

theorem State.fillSharedTlb_walks (s : State) (k : Nat) (x : TlbEntry) :
    ((s.fillSharedTlb k x).cluster k).walks = (s.cluster k).walks := by
  show ((s.setCluster k _).cluster k).walks = _
  rw [State.cluster_setCluster, if_pos rfl]

/-- The TLBs filled, the translation told, and the walk entry freed. -/
theorem State.endWalk_filled (s : State) (w : Walker) (k i : Nat) (hslot : slot < 8) (x : TlbEntry) :
    let t := (((s.fillSharedTlb k x).fillL1Tlb core x).tellWaiter w (core, slot, kind) (.found x)).endWalk k i
    walkEnded s t k i ∧ x ∈ (t.core core).tlb ∧ x ∈ (t.cluster k).tlb ∧ walkTold s t core slot ⟨w.page, kind, .found x⟩ := by
  intro t
  obtain ⟨⟨hms, hwalks⟩, htold, hcore, htlb⟩ := ((s.fillSharedTlb k x).fillL1Tlb core x).endWalk_tellWaiter (core := core)
    (slot := slot) (kind := kind) (f := .found x) w k i hslot (by simp)
  refine ⟨⟨hms, hwalks.trans (congrArg (dropAt · i) (s.fillSharedTlb_walks k x))⟩, ?_, ?_, htold⟩
  · rw [hcore]
    exact State.mem_fillL1Tlb ..
  · rw [htlb]
    exact s.mem_fillSharedTlb k x

/-- A walk of one wave that ends in a fault leaves it to the wave. -/
theorem exec_walk_fault (hw : (s.cluster k).walks[i]? = some w) (hev : servesWalk s k i w ev) {f : WalkFault}
    (hact : s.walkAct (k / 128) w.ctx (w.page * 4096) w.ts (w.waiters.map (fun m => m.2.2)) w.fresh w.pos = (s1, .fault f))
    (hwaits : w.waiters = [(core, slot, kind)]) (hslot : slot < 8) (hf : f ≠ .poison) :
    completes ev s (fun t => walkEnded s1 t k i ∧ walkTold s1 t core slot ⟨w.page, kind, f⟩) := by
  obtain ⟨hended, htold, -⟩ := s1.endWalk_tellWaiter (core := core) (kind := kind) w k i hslot hf
  refine ⟨_, exec_servesWalk hw hev, ?_⟩
  simp only [State.serveWalk, hact]
  simp only [State.failAll, hwaits, List.foldl_cons, List.foldl_nil]
  exact ⟨hended, htold⟩

/-- A walk of one wave that has found its leaf, by what the leaf gives the access (R82, R84, R86). -/
theorem exec_walk_leaf (hw : (s.cluster k).walks[i]? = some w) (hev : servesWalk s k i w ev) {l e : Nat}
    (hact : s.walkAct (k / 128) w.ctx (w.page * 4096) w.ts (w.waiters.map (fun m => m.2.2)) w.fresh w.pos = (s1, .leaf l e))
    (hwaits : w.waiters = [(core, slot, kind)]) (hslot : slot < 8) :
    (∀ x, s1.judgeLeaf w.ctx (w.page * 4096) kind l e = .leaf x → completes ev s (fun t => walkEnded s1 t k i ∧
      x ∈ (t.core core).tlb ∧ x ∈ (t.cluster k).tlb ∧ walkTold s1 t core slot ⟨w.page, kind, .found x⟩)) ∧
    (∀ f, f ≠ .poison → s1.judgeLeaf w.ctx (w.page * 4096) kind l e = .fault f →
      completes ev s (fun t => walkEnded s1 t k i ∧ walkTold s1 t core slot ⟨w.page, kind, f⟩)) ∧
    (s1.judgeLeaf w.ctx (w.page * 4096) kind l e = .migrating → completes ev s (fun t =>
      ∃ x, (t.cluster k).walks = modAt (fun _ => x) (s1.cluster k).walks i ∧
        x.migrating = true ∧ x.retryAt = s.netNow + 1024 ∧ x.waiters = w.waiters)) := by
  refine ⟨fun x hjudge => ⟨_, exec_servesWalk hw hev, ?_⟩, fun f hf hjudge => ⟨_, exec_servesWalk hw hev, ?_⟩,
    fun hjudge => ⟨_, exec_servesWalk hw hev, ?_⟩⟩ <;>
    simp only [State.serveWalk, hact] <;> simp only [hwaits, State.answerAll, hjudge, List.isEmpty_nil, if_true]
  · exact s1.endWalk_filled w k i hslot x
  · obtain ⟨hended, htold, -⟩ := s1.endWalk_tellWaiter (core := core) (kind := kind) w k i hslot hf
    exact ⟨hended, htold⟩
  · rw [if_neg (by simp), State.cluster_setWalk]
    exact ⟨_, rfl, rfl, rfl, rfl⟩

end OneWaiter

/-- Settles O46. -/
theorem enginesAnswerWaves : Obligations.EnginesAnswerWaves := by
  unfold Obligations.EnginesAnswerWaves
  refine ⟨fun s k i o g clean a ha href => execPhaserByteAdd_here ha href,
    fun s id hlive hhalt hstop hpolls hat hid => ?_, fun s k i w hw ev hev => ⟨?_, fun s1 a hact => ⟨?_, ?_, ?_, ?_⟩⟩, ?_⟩
  · show execFallbackPoll id s = _
    simp [execFallbackPoll, hlive, hhalt, hstop, hpolls, hat, hid]
  · exact fun d l table key e hdom hkey hpos hvalid ha hok hwaits =>
      exec_walk_table hw hev hdom hkey hpos hvalid ha hok hwaits
  · rintro rfl
    rw [exec_servesWalk hw hev, State.serveWalk, hact]
  · rintro p rfl
    rw [exec_servesWalk hw hev, State.serveWalk, hact]
  · rintro rfl
    rw [exec_servesWalk hw hev, State.serveWalk, hact]
  · rintro core slot kind hwaits hslot ended told
    refine ⟨?_, ?_⟩
    · rintro c l rfl
      exact exec_walk_fault hw hev hact hwaits hslot (by simp)
    · rintro l e rfl
      obtain ⟨hleaf, hfault, hmig⟩ := exec_walk_leaf hw hev hact hwaits hslot
      exact ⟨hleaf, fun c n => hfault (.sub c n) (by simp), hmig⟩
  · intro s k i l hl hat
    show execL1LineExpiry k i s = _
    simp [execL1LineExpiry, hl, hat]

end Sys2Proof.Machine
end

section
/-! SUPPORT. SUPPORT. A key table that lists a slot twice, which the re-initialisation of a domain tells apart. -/

namespace Sys2Proof.Machine

/-- Domain 0 as an eighth of the first die. -/
def eighthOfDie : Dom := planDom [] { Dom.undivided.plan with spanning := false, n := 8, nopelPorts := [] }

/-- A state of that domain with a key table that lists slot 0 twice: the entry that the table answers is domain 1's, a second one
behind it names domain 0. -/
def keyListedTwice : State :=
  { State.reset with ms := { State.reset.ms with
      doms := [(0, eighthOfDie)], keys := [(0, ⟨.loaded, 1, 0, false⟩), (0, ⟨.loaded, 0, 0, false⟩)] } }

/-- The re-initialisation of domain 0 empties every entry that names it, and so writes the slot that domain 1 owns. -/
theorem keyListedTwice_reinitialised :
    (match exec (.domainReinitialisation 0) keyListedTwice with
      | .next t => (t.key 0).st
      | _ => (keyListedTwice.key 0).st) = .empty := by
  decide +kernel

/-- Refutes O60: the re-initialisation of a domain goes through all entries of the key table that name the domain, and no
hypothesis says that the table is sorted: where an entry of the domain stands behind another's with the same index, the slot that
the other owns changes. -/
theorem not_failuresAndResets : ¬ Obligations.FailuresAndResets := by
  unfold Obligations.FailuresAndResets
  rintro ⟨-, -, hreinit, -⟩
  obtain ⟨t, hexec, -, -, hkept⟩ := hreinit keyListedTwice 0 eighthOfDie (by decide) (by decide)
  have hempty := keyListedTwice_reinitialised
  rw [hexec] at hempty
  dsimp only at hempty
  rw [hkept 0 (by decide)] at hempty
  exact absurd hempty (by decide)

end Sys2Proof.Machine
end

section
/-! SUPPORT. SUPPORT. The packets of a queue: accesses of Cicada that are done, what the end of a packet leaves, and its retirement. -/

namespace Sys2Proof.Machine

/-! ## Accesses of Cicada that have been answered

An access that is done changes nothing: each of its chunks stands among the answers already. -/

theorem State.feSend_ne_done (s : State) (die owner key : Nat) (ctx : Context) (e : TlbEntry) (va n ts : Nat)
    (write : Option (List Byte)) (bs : List Byte) : (s.feSend die owner key ctx e va n ts write).2 ≠ .done bs := by
  unfold State.feSend
  dsimp only
  split
  · simp
  · split
    · split <;> simp
    · split
      · simp
      · split <;> simp

theorem State.feChunk_done {s s1 : State} {die owner : Nat} {ctx : Context} {va n ts : Nat} {write : Option (List Byte)}
    {bs : List Byte} (h : s.feChunk die owner ctx va n ts write = (s1, .done bs)) : s1 = s := by
  unfold State.feChunk at h
  dsimp only at h
  split at h
  · exact (congrArg Prod.fst h).symm
  · split at h
    · cases h
    · split at h
      · cases h
      · cases h
      · exact absurd (congrArg Prod.snd h) (State.feSend_ne_done _ _ _ _ _ _ _ _ _ _ _)

theorem State.feRead_done {die owner : Nat} {ctx : Context} {ts : Nat} (k : Nat) : ∀ {s s1 : State} {va n : Nat} {bs : List Byte},
    State.feRead die owner ctx ts k s va n = (s1, .done bs) → s1 = s := by
  induction k with
  | zero => exact fun h => (congrArg Prod.fst h).symm
  | succ k ih =>
    intro s s1 va n bs h
    unfold State.feRead at h
    dsimp only at h
    split at h
    · exact (congrArg Prod.fst h).symm
    · split at h
      case h_1 t cs hchunk =>
        have hsame := State.feChunk_done hchunk
        split at h
        case h_1 v ds hrest =>
          rw [← hsame, ← ih hrest]
          exact (congrArg Prod.fst h).symm
        case h_2 hne => exact (hne s1 bs h).elim
      case h_2 hne => exact (hne s1 bs h).elim

theorem State.feLoad_done {s s1 : State} {die owner : Nat} {ctx : Context} {va n ts : Nat} {bs : List Byte}
    (h : s.feLoad die owner ctx va n ts = (s1, .done bs)) : s1 = s := State.feRead_done _ h

theorem State.feWrite_done {die owner : Nat} {ctx : Context} {ts : Nat} (k : Nat) : ∀ {s s1 : State} {va : Nat} {bs cs : List Byte},
    State.feWrite die owner ctx ts k s va bs = (s1, .done cs) → s1 = s := by
  induction k with
  | zero => exact fun h => (congrArg Prod.fst h).symm
  | succ k ih =>
    intro s s1 va bs cs h
    unfold State.feWrite at h
    dsimp only at h
    split at h
    · exact (congrArg Prod.fst h).symm
    · split at h
      case h_1 t ds hchunk => exact (ih h).trans (State.feChunk_done hchunk)
      case h_2 hne => exact (hne s1 cs h).elim

theorem State.feStore_done {s s1 : State} {die owner : Nat} {ctx : Context} {va ts : Nat} {bs cs : List Byte}
    (h : s.feStore die owner ctx va ts bs = (s1, .done cs)) : s1 = s := State.feWrite_done _ h

/-! ## The packet of a queue -/

section NextPacket
variable {s : State} {n i : Nat} {b : List Byte} {row : Instr}

theorem State.laneDie_of_holder (h : s.holder n = some i) : s.laneDie n = i / 32 := by
  simp only [State.laneDie, h]

theorem State.laneQueue_of_holder (h : s.holder n = some i) : s.laneQueue n = s.queueAt (i / 32) n := by
  rw [State.laneQueue, State.laneDie_of_holder h]

theorem State.nextPacket.holder (h : s.nextPacket n i b row) : s.holder n = some i := h.2.2.1

theorem State.nextPacket.laneQueue (h : s.nextPacket n i b row) : s.laneQueue n = s.queueAt (i / 32) n :=
  State.laneQueue_of_holder h.holder

/-- The act of a row on its packet: the body, on the state without it. -/
theorem State.nextPacket.withPacket (h : s.nextPacket n i b row) (body : State → Nat → List Byte → State) :
    s.withPacket n row body = body s.packetTaken (i / 32) b := by
  obtain ⟨⟨rest, htodo⟩, hrow, hholder, hmay⟩ := h
  have htaken : s.withFe { s.fe with todo := rest } = s.packetTaken := by
    rw [State.packetTaken, htodo]
    rfl
  have hholder' : s.packetTaken.holder n = some i := hholder
  have hmay' : s.packetTaken.mayChange (i / 32) n = true := hmay
  simp only [State.withPacket, htodo, hrow, ne_eq, not_true_eq_false, or_self, if_false, htaken, hholder', hmay', if_true]

end NextPacket

/-! ## What the end of a packet leaves

Three relations between states, each a frame: what they name may differ, the rest stands. -/

/-- From `s` to `t` an event may have been posted: host memory, the rings and the draws. -/
def State.posts (s t : State) : Prop :=
  t = { s with ms := { s.ms with mem := t.ms.mem }, fe := { s.fe with rings := t.fe.rings }, draws := t.draws }

/-- From `s` to `t` Cicada's work in hand may have changed. -/
def State.tidies (s t : State) : Prop :=
  t = { s with fe := { s.fe with
    lanes := t.fe.lanes, todo := t.fe.todo, polls := t.fe.polls, hands := t.fe.hands, reads := t.fe.reads,
    retries := t.fe.retries, walks := t.fe.walks } }

/-- From `s` to `t` a packet may have ended: an event, the work in hand, and the records of the queues. -/
def State.ends (s t : State) : Prop :=
  t = { s with
    ms := { s.ms with mem := t.ms.mem }, draws := t.draws
    fe := { s.fe with
      rings := t.fe.rings, lanes := t.fe.lanes, todo := t.fe.todo, polls := t.fe.polls, hands := t.fe.hands
      reads := t.fe.reads, retries := t.fe.retries, walks := t.fe.walks
      queues := t.fe.queues, changes := t.fe.changes, replicas := t.fe.replicas } }

section Frames
variable {s t u : State}

theorem State.posts.refl (s : State) : s.posts s := rfl
theorem State.tidies.refl (s : State) : s.tidies s := rfl

theorem State.posts.trans (h : s.posts t) (h' : t.posts u) : s.posts u := by
  unfold State.posts at h h' ⊢
  rw [h', h]

theorem State.tidies.trans (h : s.tidies t) (h' : t.tidies u) : s.tidies u := by
  unfold State.tidies at h h' ⊢
  rw [h', h]

theorem State.ends.trans (h : s.ends t) (h' : t.ends u) : s.ends u := by
  unfold State.ends at h h' ⊢
  rw [h', h]

theorem State.posts.ends (h : s.posts t) : s.ends t := by
  unfold State.posts at h
  unfold State.ends
  rw [h]

theorem State.tidies.ends (h : s.tidies t) : s.ends t := by
  unfold State.tidies at h
  unfold State.ends
  rw [h]

theorem State.posts.queues (h : s.posts t) : t.fe.queues = s.fe.queues := by rw [h]
theorem State.posts.changes (h : s.posts t) : t.fe.changes = s.fe.changes := by rw [h]
theorem State.posts.lanes (h : s.posts t) : t.fe.lanes = s.fe.lanes := by rw [h]
theorem State.tidies.queues (h : s.tidies t) : t.fe.queues = s.fe.queues := by rw [h]
theorem State.tidies.changes (h : s.tidies t) : t.fe.changes = s.fe.changes := by rw [h]
theorem State.tidies.ms (h : s.tidies t) : t.ms = s.ms := by rw [h]

theorem State.posts.queue (h : s.posts t) (j : Nat) : t.queue j = s.queue j := by rw [State.queue, h.queues, State.queue]
theorem State.tidies.queue (h : s.tidies t) (j : Nat) : t.queue j = s.queue j := by rw [State.queue, h.queues, State.queue]
theorem State.posts.holder (h : s.posts t) (n : Nat) : t.holder n = s.holder n := by rw [State.holder, h.lanes, State.holder]

theorem State.tidies.recordsStand (h : s.tidies t) : s.recordsStand t := ⟨h.queue, h.changes⟩
theorem State.posts.recordsStand (h : s.posts t) : s.recordsStand t := ⟨h.queue, h.changes⟩

end Frames

section Posts
variable (s : State)

theorem State.posts_drawn : s.posts s.drawn := rfl
theorem State.posts_putEvent (d : Nat) (v : BitVec 128) : s.posts (s.putEvent d v) := rfl
theorem State.posts_setRing (d : Nat) (r : EventRing) : s.posts (s.setRing d r) := rfl

theorem State.posts_postEvent (d : Nat) (v : BitVec 128) : s.posts (s.postEvent d v) := by
  unfold State.postEvent
  dsimp only
  split_ifs
  · exact s.posts_putEvent d v
  · exact s.posts_setRing ..

theorem State.posts_mgmtNoted (n : Nat) (b : List Byte) : s.posts (s.mgmtNoted n b) := by
  unfold State.mgmtNoted
  split_ifs
  · exact (s.posts_postEvent ..).trans (State.posts_drawn _)
  · exact State.posts.refl s

theorem State.posts_queueError (n code : Nat) (q : QueueRec) : s.posts (s.queueError n code q).1 := by
  unfold State.queueError
  dsimp only
  split_ifs
  · exact s.posts_putEvent ..
  · exact State.posts.refl s

theorem State.queueError_head (n code : Nat) (q : QueueRec) : (s.queueError n code q).2.head = q.head := by
  unfold State.queueError
  dsimp only
  split_ifs <;> rfl

theorem State.tidies_setLane (i : Nat) (l : Lane) : s.tidies (s.setLane i l) := rfl
theorem State.tidies_dropPoll (n : Nat) (all : Bool) : s.tidies (s.dropPoll n all) := rfl
theorem State.tidies_feClear (n : Nat) : s.tidies (s.feClear n) := rfl
theorem State.tidies_feForget (owner : Nat) : s.tidies (s.feForget owner) := rfl
theorem State.tidies_putBack (n : Nat) : s.tidies (s.putBack n) := rfl
theorem State.tidies_packetTaken : s.tidies s.packetTaken := rfl

theorem State.tidies_unbind (n : Nat) : s.tidies (s.unbind n) := by
  unfold State.unbind
  split
  · exact ((s.tidies_setLane ..).trans (State.tidies_dropPoll ..)).trans (State.tidies_feClear ..)
  · exact State.tidies.refl s

end Posts

/-! ## The retirement of a packet -/

/-- The change of a record as its owner makes it. -/
def State.madeChange (s : State) (c : QueueChange) : State :=
  if s.laneDie c.queue % 2 = c.queue % 2 then s.applyChange c
  else s.withFe { s.fe with changes := s.fe.changes ++ [c], replicas := Map.del s.fe.replicas c.queue }

theorem State.tidies_retirePacket (s : State) (c : QueueChange) : (s.madeChange c).tidies (s.retirePacket c) := by
  have htidy := ((s.madeChange c).tidies_dropPoll c.queue true).trans (State.tidies_feClear _ c.queue)
  unfold State.retirePacket
  dsimp only
  split
  · exact htidy.trans (State.tidies_setLane ..)
  · exact htidy

theorem QueueRec.taking_eq_changed (q : QueueRec) (c : QueueChange) : q.taking c = q.changed c := by
  unfold QueueRec.taking QueueRec.changed
  rcases c.ended with - | ts <;> rcases c.fields with - | v <;> cases c.seq <;> simp [QueueRec.ended, QueueRec.withFields]

theorem QueueRec.changed_ver (q : QueueRec) (c : QueueChange) : (q.changed c).ver = q.ver := by
  unfold QueueRec.changed
  rcases c.fields with - | v <;> rfl

section Retire
variable {s : State} {i : Nat} {c : QueueChange}

theorem State.madeChange_took (hholder : s.holder c.queue = some i) (hbell : c.bell = none) (hnote : c.note = none)
    (herr : c.err = none) : s.tookRecord (s.madeChange c) i c ∧ (s.madeChange c).ms = s.ms := by
  unfold State.tookRecord State.madeChange
  rw [State.laneDie_of_holder hholder]
  split_ifs with hdie
  · simp only [State.applyChange, hbell, hnote, herr, QueueRec.taking_eq_changed]
    refine ⟨⟨fun j hj => ?_, ?_, rfl⟩, rfl⟩
    · rw [State.queue_setQueue, if_neg hj]
    · rw [State.queue_setQueue, if_pos rfl, QueueRec.changed_ver]
  · exact ⟨⟨fun _ _ => rfl, rfl, rfl⟩, rfl⟩

theorem State.ends_madeChange (hbell : c.bell = none) (hnote : c.note = none) : s.ends (s.madeChange c) := by
  unfold State.madeChange
  split_ifs
  · simp only [State.applyChange, hbell, hnote]
    split
    · exact (s.posts_queueError ..).ends.trans rfl
    · rfl
  · rfl

theorem State.tookRecord.of_tidies {t u : State} (h : s.tookRecord t i c) (htidy : t.tidies u) : s.tookRecord u i c := by
  unfold State.tookRecord at h ⊢
  simpa only [htidy.queue, htidy.changes] using h

theorem State.tookRecord.of_stand {t u : State} (hstand : s.recordsStand t) (h : t.tookRecord u i c) : s.tookRecord u i c := by
  unfold State.tookRecord at h ⊢
  simpa only [hstand.1, hstand.2] using h

/-- A packet retired without an error: the change of its record, and nothing but the work in hand besides. -/
theorem State.retirePacket_took (hholder : s.holder c.queue = some i) (hbell : c.bell = none) (hnote : c.note = none)
    (herr : c.err = none) :
    s.tookRecord (s.retirePacket c) i c ∧ (s.retirePacket c).ms = s.ms ∧ s.ends (s.retirePacket c) := by
  obtain ⟨htook, hms⟩ := State.madeChange_took hholder hbell hnote herr
  have htidy := s.tidies_retirePacket c
  exact ⟨htook.of_tidies htidy, htidy.ms.trans hms, (State.ends_madeChange hbell hnote).trans htidy.ends⟩

/-- The owner's write of a record whose head has gone on takes a packet from its queue. -/
theorem State.popped_setQueue {t : State} (hposts : s.posts t) {n : Nat} (hdie : i / 32 % 2 = n % 2) {q : QueueRec}
    (hhead : q.head = (s.queue n).head + 1) : s.popped (t.setQueue n q) n i := by
  unfold State.popped
  refine ⟨fun j hj => ?_, ?_⟩
  · rw [State.queue_setQueue, if_neg hj, hposts.queue]
  · rw [if_pos hdie, State.queue_setQueue, if_pos rfl, hhead]

theorem State.popped.of_tidies {t u : State} {n : Nat} (h : s.popped t n i) (htidy : t.tidies u) : s.popped u n i := by
  unfold State.popped at h ⊢
  simpa only [htidy.queue, htidy.changes] using h

theorem State.madeChange_popped (hholder : s.holder c.queue = some i) (hbell : c.bell = none) (hnote : c.note = none)
    (hfields : c.fields = none) (hpop : c.pop = true) : s.popped (s.madeChange c) c.queue i := by
  have hhead : ((s.queue c.queue).changed c).head = (s.queue c.queue).head + 1 := by
    simp [QueueRec.changed, hfields, hpop]
  unfold State.madeChange
  rw [State.laneDie_of_holder hholder]
  split_ifs with hdie
  · simp only [State.applyChange, hbell, hnote, QueueRec.taking_eq_changed]
    rcases c.err with - | e
    · exact State.popped_setQueue (State.posts.refl s) hdie hhead
    · exact State.popped_setQueue (s.posts_queueError ..) hdie ((s.queueError_head ..).trans hhead)
  · unfold State.popped
    rw [if_neg hdie]
    exact ⟨fun _ _ => rfl, rfl, c, rfl, rfl, hpop⟩

/-- A packet retired, with an error or without one: it is gone from its queue. -/
theorem State.retirePacket_popped (hholder : s.holder c.queue = some i) (hbell : c.bell = none) (hnote : c.note = none)
    (hfields : c.fields = none) (hpop : c.pop = true) :
    s.popped (s.retirePacket c) c.queue i ∧ s.ends (s.retirePacket c) :=
  ⟨(State.madeChange_popped hholder hbell hnote hfields hpop).of_tidies (s.tidies_retirePacket c),
    (State.ends_madeChange hbell hnote).trans (s.tidies_retirePacket c).ends⟩

end Retire

section Ends
variable {s : State} {n i : Nat}

theorem State.retired_took (hholder : s.holder n = some i) :
    s.tookRecord (s.retired n) i (plainChange n) ∧ (s.retired n).ms = s.ms ∧ s.ends (s.retired n) :=
  State.retirePacket_took (c := plainChange n) hholder rfl rfl rfl

theorem State.retiredWith_popped (hholder : s.holder n = some i) (code : Nat) :
    s.popped (s.retiredWith n code) n i ∧ s.ends (s.retiredWith n code) :=
  State.retirePacket_popped (c := { QueueChange.blank n with pop := true, err := some code }) hholder rfl rfl rfl rfl

theorem State.mgmtFail_popped (hholder : s.holder n = some i) : s.popped (s.mgmtFail n) n i ∧ s.ends (s.mgmtFail n) :=
  State.retiredWith_popped hholder _

theorem State.mgmtDone_took (hholder : s.holder n = some i) (b : List Byte) :
    s.tookRecord (s.mgmtDone n b) i (plainChange n) ∧ s.ends (s.mgmtDone n b) := by
  have hposts := s.posts_mgmtNoted n b
  obtain ⟨htook, -, hends⟩ := State.retired_took ((hposts.holder n).trans hholder)
  exact ⟨htook.of_stand hposts.recordsStand, hposts.ends.trans hends⟩

theorem State.popped_of_took {t : State} (h : s.tookRecord t i (plainChange n)) : s.popped t n i := by
  unfold State.tookRecord at h
  unfold State.popped
  refine ⟨h.1, ?_⟩
  have h2 := h.2
  rw [show (plainChange n).queue = n from rfl] at h2
  by_cases hdie : i / 32 % 2 = n % 2
  · rw [if_pos hdie] at h2 ⊢
    rw [h2.1]
    simp [QueueRec.changed, plainChange, QueueChange.blank]
  · rw [if_neg hdie] at h2 ⊢
    exact ⟨h2.1, _, h2.2, rfl, rfl⟩

end Ends

/-! ## What an access of Cicada may change -/

/-- From `s` to `t` an access of Cicada may have begun or gone on: the butterflies and homes with memory, the host interface and
the links, the draws, and Cicada's own walks and retries. -/
def State.accesses (s t : State) : Prop :=
  t = { s with
    net := t.net, ms := t.ms, draws := t.draws, host := t.host, nopel := t.nopel
    fe := { s.fe with reads := t.fe.reads, retries := t.fe.retries, walks := t.fe.walks } }

theorem State.accesses.refl (s : State) : s.accesses s := rfl

theorem State.accesses.trans {s t u : State} (h : s.accesses t) (h' : t.accesses u) : s.accesses u := by
  unfold State.accesses at h h' ⊢
  rw [h', h]

section Accesses
variable (s : State)

theorem State.accesses_startWinv (slice dom line ts : Nat) (reply : Option Packet) :
    s.accesses (s.startWinv slice dom line ts reply) := rfl

theorem State.accesses_ensureLine (d : Dom) (pa key : Nat) : s.accesses (s.ensureLine d pa key) := by
  unfold State.ensureLine
  dsimp only
  split
  · split_ifs <;> rfl
  · split
    · rfl
    · split
      · rfl
      · split <;> rfl

theorem State.accesses_lineFor (d : Dom) (pa key : Nat) (mt2 : Bool) : s.accesses (s.lineFor d pa key mt2).1 := by
  unfold State.lineFor
  dsimp only
  split_ifs
  · rfl
  · exact s.accesses_ensureLine d pa key

theorem State.accesses_keepLine (d : Dom) (pa : Nat) (mt2 : Bool) (w : Way) : s.accesses (s.keepLine d pa mt2 w) := by
  unfold State.keepLine
  dsimp only
  split_ifs <;> rfl

theorem State.accesses_homeRead (d : Dom) (key pa n ts : Nat) (mt2 : Bool) : s.accesses (s.homeRead d key pa n ts mt2).1 := by
  unfold State.homeRead
  dsimp only
  split_ifs
  · rfl
  all_goals exact (s.accesses_lineFor ..).trans (State.accesses_keepLine ..)

theorem State.accesses_writeLine (k a : Nat) (bs : List Byte) : s.accesses (s.writeLine k a bs) := rfl

theorem State.accesses_homeWrite (d : Dom) (key pa n ts : Nat) (mt2 rmw : Bool) (new : List Byte → List Byte)
    (cuts : List (Nat × Nat)) : s.accesses (s.homeWrite d key pa n ts mt2 rmw new cuts).1 := by
  have hline := s.accesses_lineFor d pa key mt2
  unfold State.homeWrite
  dsimp only
  split_ifs
  · rfl
  · exact hline.trans (State.accesses_keepLine ..)
  · refine ((hline.trans ?_).trans (State.accesses_keepLine ..)).trans (State.accesses_writeLine ..)
    rfl

theorem State.accesses_cacheEntry (c : CachedEntry) : s.accesses (s.cacheEntry c) := by
  unfold State.cacheEntry
  dsimp only
  split_ifs <;> rfl

theorem State.accesses_walkRead (die : Nat) (d : Dom) (ctx : Context) (va ts : Nat) (fresh : Bool) (p : WalkPos) :
    s.accesses (s.walkRead die d ctx va ts fresh p).1 := by
  have hread := s.accesses_homeRead d p.key (p.entryPa va) 8 ts false
  unfold State.walkRead
  dsimp only
  split
  · rfl
  · split
    · rfl
    · split
      · rfl
      · split
        · rfl
        · split <;> exact hread

theorem State.accesses_walkUse (die : Nat) (d : Dom) (ctx : Context) (va ts : Nat) (ks : List Nat) (p : WalkPos) (e : Nat) :
    s.accesses (s.walkUse die d ctx va ts ks p e).1 := by
  unfold State.walkUse
  extract_lets leaf good pa e1 r s1
  have hset : s.accesses s1 := by
    have hwrite : s.accesses r.1 := s.accesses_homeWrite ..
    show s.accesses (if r.2.watched then _ else _)
    split_ifs
    · exact hwrite.trans (State.accesses_startWinv ..)
    · exact hwrite
  split
  · rfl
  · split
    · rfl
    · split
      · exact s.accesses_cacheEntry _
      · split
        · rfl
        · split
          · rfl
          · split
            · exact hset
            · split
              · exact hset
              · exact hset.trans (State.accesses_cacheEntry ..)

theorem State.accesses_walkAct (die : Nat) (ctx : Context) (va ts : Nat) (ks : List Nat) (fresh : Bool) (pos : Option WalkPos) :
    s.accesses (s.walkAct die ctx va ts ks fresh pos).1 := by
  unfold State.walkAct
  split
  · rfl
  · dsimp only
    split
    · exact s.accesses_walkRead ..
    · exact s.accesses_walkUse ..

theorem State.accesses_feWalkAt (owner key : Nat) (w : Option FeWalk) : s.accesses (s.feWalkAt owner key w) := rfl

theorem State.accesses_feWalk (die owner key : Nat) (ctx : Context) (va ts : Nat) (write : Bool) :
    s.accesses (s.feWalk die owner key ctx va ts write).1 := by
  have hact := s.accesses_walkAct die ctx va ts [if write then 5 else 4] (s.feWalkOf owner key).fresh (s.feWalkOf owner key).pos
  unfold State.feWalk
  split
  · rfl
  · dsimp only
    generalize s.walkAct die ctx va ts [if write then 5 else 4] (s.feWalkOf owner key).fresh (s.feWalkOf owner key).pos = r at hact
    obtain ⟨s1, a⟩ := r
    cases a with
    | busy => exact hact
    | go p => exact hact.trans (State.accesses_feWalkAt ..)
    | restart => exact hact.trans (State.accesses_feWalkAt ..)
    | fault f => exact hact.trans (State.accesses_feWalkAt ..)
    | leaf l e =>
      dsimp only
      split
      · refine hact.trans ?_
        rfl
      · exact hact.trans (State.accesses_feWalkAt ..)
      · exact hact.trans (State.accesses_feWalkAt ..)

theorem State.accesses_drainPort (port k : Nat) : ∀ s : State, s.accesses (s.drainPort port k) := by
  induction k with
  | zero => exact fun _ => rfl
  | succ k ih =>
    intro s
    unfold State.drainPort
    dsimp only
    split
    · rfl
    · split_ifs
      · refine State.accesses.trans ?_ (ih _)
        rfl
      · rfl

theorem State.accesses_portQueue (port : Nat) (p : Packet) (c : Client) : s.accesses (s.portQueue port p c) := by
  refine State.accesses.trans ?_ (State.accesses_drainPort ..)
  rfl

theorem State.accesses_sendSystem {t : State} {p : Packet} {c : Client} (h : s.sendSystem p c = some t) : s.accesses t := by
  unfold State.sendSystem at h
  split_ifs at h
  · cases h
    rfl
  · split at h
    · cases h
    · split_ifs at h
      cases h
      rfl

theorem State.accesses_feSend (die owner key : Nat) (ctx : Context) (e : TlbEntry) (va n ts : Nat) (write : Option (List Byte)) :
    s.accesses (s.feSend die owner key ctx e va n ts write).1 := by
  unfold State.feSend
  dsimp only
  split
  · rfl
  · split
    · split
      · rfl
      · exact s.accesses_portQueue ..
    · split
      · rfl
      · split
        · next h => exact s.accesses_sendSystem h
        · rfl

theorem State.accesses_feChunk (die owner : Nat) (ctx : Context) (va n ts : Nat) (write : Option (List Byte)) :
    s.accesses (s.feChunk die owner ctx va n ts write).1 := by
  have hwalk := s.accesses_feWalk die owner (2 * va + write.isSome.toNat) ctx va ts write.isSome
  unfold State.feChunk
  dsimp only
  split
  · rfl
  · split
    · rfl
    · split
      · next heq => rwa [heq] at hwalk
      · next heq => rwa [heq] at hwalk
      · next heq =>
        rw [heq] at hwalk
        exact hwalk.trans (State.accesses_feSend ..)

theorem State.accesses_feRead (die owner : Nat) (ctx : Context) (ts k : Nat) : ∀ (s : State) (va n : Nat),
    s.accesses (State.feRead die owner ctx ts k s va n).1 := by
  induction k with
  | zero => exact fun _ _ _ => rfl
  | succ k ih =>
    intro s va n
    unfold State.feRead
    dsimp only
    split
    · rfl
    · have hchunk := s.accesses_feChunk die owner ctx ((coverBlock va (pieceLen va n)).1 % 2 ^ 57)
        (coverBlock va (pieceLen va n)).2 ts none
      split
      · next t cs heq =>
        rw [heq] at hchunk
        have hrest := ih t (va + pieceLen va n) (n - pieceLen va n)
        split
        · next heq' =>
          rw [heq'] at hrest
          exact hchunk.trans hrest
        · exact hchunk.trans hrest
      · exact hchunk

theorem State.accesses_feLoad (die owner : Nat) (ctx : Context) (va n ts : Nat) :
    s.accesses (s.feLoad die owner ctx va n ts).1 := State.accesses_feRead ..

end Accesses

section Frame
variable {s t : State}

theorem State.accesses.queues (h : s.accesses t) : t.fe.queues = s.fe.queues := by rw [h]
theorem State.accesses.changes (h : s.accesses t) : t.fe.changes = s.fe.changes := by rw [h]
theorem State.accesses.lanes (h : s.accesses t) : t.fe.lanes = s.fe.lanes := by rw [h]
theorem State.accesses.queue (h : s.accesses t) (j : Nat) : t.queue j = s.queue j := by rw [State.queue, h.queues, State.queue]
theorem State.accesses.holder (h : s.accesses t) (n : Nat) : t.holder n = s.holder n := by rw [State.holder, h.lanes, State.holder]
theorem State.accesses.recordsStand (h : s.accesses t) : s.recordsStand t := ⟨h.queue, h.changes⟩

end Frame

end Sys2Proof.Machine
end

section
/-! SUPPORT. SUPPORT. WAIT, SIGNAL and COPY, the binding of a lane, and a step of Cicada. -/

namespace Sys2Proof.Machine

/-! ## WAIT, SIGNAL and COPY -/

/-- From `s` to `u` lane `i` still holds queue `n`, with no record and no wave changed. -/
def State.stillHeld (s u : State) (n i : Nat) : Prop :=
  s.recordsStand u ∧ u.waves = s.waves ∧ u.wv = s.wv ∧ u.holder n = some i

section StillHeld
variable {s u t : State} {n i : Nat} {b : List Byte}

theorem State.nextPacket.stillHeld {row : Instr} (h : s.nextPacket n i b row) : s.stillHeld s.packetTaken n i :=
  ⟨s.tidies_packetTaken.recordsStand, rfl, rfl, h.holder⟩

theorem State.stillHeld.refl (h : s.holder n = some i) : s.stillHeld s n i := ⟨⟨fun _ => rfl, rfl⟩, rfl, rfl, h⟩

theorem State.stillHeld.accesses (h : s.stillHeld u n i) (hacc : u.accesses t) : s.stillHeld t n i := by
  obtain ⟨⟨hqueue, hchanges⟩, hwaves, hwv, hholder⟩ := h
  refine ⟨⟨fun j => (hacc.queue j).trans (hqueue j), hacc.changes.trans hchanges⟩, ?_, ?_, (hacc.holder n).trans hholder⟩
  · rw [hacc]
    exact hwaves
  · rw [hacc]
    exact hwv

theorem State.stillHeld.posts (h : s.stillHeld u n i) (hposts : u.posts t) : s.stillHeld t n i := by
  obtain ⟨⟨hqueue, hchanges⟩, hwaves, hwv, hholder⟩ := h
  refine ⟨⟨fun j => (hposts.queue j).trans (hqueue j), hposts.changes.trans hchanges⟩, ?_, ?_, (hposts.holder n).trans hholder⟩
  · rw [hposts]
    exact hwaves
  · rw [hposts]
    exact hwv

/-- A packet of a lane that still holds its queue retires with the change of its record alone. -/
theorem State.stillHeld.retired (h : s.stillHeld u n i) :
    s.tookPacket (u.retired n) i (plainChange n) ∧ (u.retired n).ms = u.ms := by
  obtain ⟨hstand, hwaves, hwv, hholder⟩ := h
  obtain ⟨htook, hms, hends⟩ := State.retired_took hholder
  refine ⟨⟨htook.of_stand hstand, ?_, ?_⟩, hms⟩
  · rw [hends]
    exact hwaves
  · rw [hends]
    exact hwv

end StillHeld

section Packets
variable {s : State} {n i : Nat} {b : List Byte}

theorem exec_waitPacket (h : s.nextPacket n i b (.waitPacket n)) :
    (pktField b 24 8 = 0 → completes (.waitPacket n) s (fun t => s.tookPacket t i (plainChange n) ∧ t.ms = s.ms)) ∧
    (pktField b 24 8 ≠ 0 → exec (.waitPacket n) s = .next (s.packetTaken.withFe { s.packetTaken.fe with
      polls := Map.set s.fe.polls n (s.netNow, b) })) := by
  have hexec : exec (.waitPacket n) s = .next (if pktField b 24 8 = 0 then s.packetTaken.retired n
      else s.packetTaken.withFe { s.packetTaken.fe with polls := Map.set s.packetTaken.fe.polls n (s.packetTaken.netNow, b) }) :=
    congrArg Host.Outcome.next (h.withPacket _)
  refine ⟨fun hzero => ?_, fun hne => ?_⟩
  · rw [if_pos hzero] at hexec
    exact ⟨_, hexec, h.stillHeld.retired⟩
  · rw [hexec, if_neg hne]
    rfl

theorem exec_waitPoll {tm : Nat} (hpoll : Map.get? s.fe.polls n = some (tm, b)) (hholder : s.holder n = some i)
    (htype : pktType b = 1) (hdue : tm ≤ s.netNow) (hmay : s.mayChange (i / 32) n = true)
    (hhalt : (s.queueAt (i / 32) n).halt = false) {s1 : State} {v : List Byte}
    (hload : s.feLoad (i / 32) (feOwner n 2) (s.queueContext n) (pktField b 24 8) 8 (s.queueAt (i / 32) n).hts = (s1, .done v)) :
    (pktField b 32 8 ≤ leNat v → completes (.waitPoll n) s (fun t => s.tookPacket t i (plainChange n) ∧ t.ms = s1.ms)) ∧
    (leNat v < pktField b 32 8 → completes (.waitPoll n) s (fun t => t.ms = s1.ms ∧ s.recordsStand t ∧
      Map.get? t.fe.polls n = some (s.netNow + 2000, b))) := by
  obtain rfl := State.feLoad_done hload
  have hexec : exec (.waitPoll n) s1 = .next (if pktField b 32 8 ≤ leNat v then s1.retired n else
      (s1.feForget (feOwner n 2)).withFe { (s1.feForget (feOwner n 2)).fe with
        polls := Map.set (s1.feForget (feOwner n 2)).fe.polls n (s1.netNow + microsecond, b) }) := by
    show execWaitPoll n s1 = _
    simp [execWaitPoll, hpoll, hholder, htype, tWait, Nat.not_lt.2 hdue, hmay, hhalt, hload]
  refine ⟨fun hle => ?_, fun hlt => ?_⟩
  · rw [if_pos hle] at hexec
    exact ⟨_, hexec, (State.stillHeld.refl hholder).retired⟩
  · rw [if_neg (Nat.not_le.2 hlt)] at hexec
    exact ⟨_, hexec, rfl, ⟨fun _ => rfl, rfl⟩, Map.get?_set_self ..⟩

/-- A SIGNAL whose store is done, by its event and the room of the ring (R396). -/
theorem State.stillHeld.signalEnd {u : State} (h : s.stillHeld u n i) {q : QueueRec} (hq : u.queueAt (i / 32) n = q) :
    (pktEvt b = false → s.tookPacket (u.signalEnd n b) i (plainChange n) ∧ (u.signalEnd n b).ms = u.ms) ∧
    (pktEvt b = true → 0 < (u.ring q.dom).room → s.tookPacket (u.signalEnd n b) i (plainChange n) ∧
      (u.signalEnd n b).ms = (u.putEvent q.dom (eventRecord u.netNow q.nextseq.toNat n 1)).ms) ∧
    (pktEvt b = true → (u.ring q.dom).room = 0 → s.recordsStand (u.signalEnd n b) ∧ (u.signalEnd n b).ms = u.ms) := by
  have hlane : u.laneQueue n = q := (State.laneQueue_of_holder h.2.2.2).trans hq
  refine ⟨fun hevt => ?_, fun hevt hroom => ?_, fun hevt hroom => ?_⟩
  · simp only [State.signalEnd, hevt, Bool.not_false, if_true]
    exact h.retired
  · simp only [State.signalEnd, hlane, hevt, Bool.not_true, Bool.false_eq_true, if_false, if_neg hroom.ne']
    exact (h.posts (u.posts_putEvent ..)).retired
  · simp only [State.signalEnd, hlane, hevt, Bool.not_true, Bool.false_eq_true, if_false, hroom, if_true]
    exact ⟨h.1, rfl⟩

theorem exec_signalPacket (h : s.nextPacket n i b (.signalPacket n)) :
    let u := s.packetTaken
    let q := s.queueAt (i / 32) n
    (q.done ≠ q.nextseq → exec (.signalPacket n) s = .next (u.putBack n)) ∧
    (q.done = q.nextseq → Map.get? s.fe.polls n = none → ∀ s1 bs,
      (pktField b 24 8 = 0 ∧ s1 = u ∨ pktField b 24 8 ≠ 0 ∧
        u.feStore (i / 32) (feOwner n 2) (s.queueContext n) (pktField b 24 8) (max q.hts q.dts) ((b.drop 32).take 8) =
          (s1, .done bs)) →
      (pktEvt b = false → completes (.signalPacket n) s (fun t => s.tookPacket t i (plainChange n) ∧ t.ms = s1.ms)) ∧
      (pktEvt b = true → 0 < (s1.ring q.dom).room → completes (.signalPacket n) s (fun t => s.tookPacket t i (plainChange n) ∧
        t.ms = (s1.putEvent q.dom (eventRecord s1.netNow q.nextseq.toNat n 1)).ms)) ∧
      (pktEvt b = true → (s1.ring q.dom).room = 0 → completes (.signalPacket n) s (fun t => s.recordsStand t ∧ t.ms = s1.ms))) := by
  intro u q
  refine ⟨fun hne => ?_, fun heq hpoll s1 bs hstore => ?_⟩
  · show execSignalPacket n s = _
    rw [execSignalPacket, h.withPacket]
    exact congrArg Host.Outcome.next (if_pos hne)
  have hsame : s1 = u := by
    rcases hstore with ⟨-, hsame⟩ | ⟨-, hdone⟩
    · exact hsame
    · exact State.feStore_done hdone
  have hexec : exec (.signalPacket n) s = .next ((u.withFe { u.fe with polls := Map.set u.fe.polls n (0, b) }).signalEnd n b) := by
    have hdone : ¬ (u.queueAt (i / 32) n).done ≠ (u.queueAt (i / 32) n).nextseq := not_not.2 heq
    have hfirst : ¬ (Map.get? u.fe.polls n).isSome = true := by simp [show Map.get? u.fe.polls n = none from hpoll]
    show execSignalPacket n s = _
    rw [execSignalPacket, h.withPacket]
    dsimp only
    rw [if_neg hdone, if_neg hfirst]
    rcases hstore with ⟨hzero, -⟩ | ⟨hne, hdone⟩
    · rw [if_pos hzero]
    · rw [hsame] at hdone
      have hdone' : u.feStore (i / 32) (feOwner n 2) (u.queueContext n) (pktField b 24 8)
          (max (u.queueAt (i / 32) n).hts (u.queueAt (i / 32) n).dts) ((b.drop 32).take 8) = (u, .done bs) := hdone
      rw [if_neg hne, hdone']
  subst hsame
  have hend := State.stillHeld.signalEnd (b := b) (q := q) (u := u.withFe { u.fe with polls := Map.set u.fe.polls n (0, b) })
    h.stillHeld rfl
  obtain ⟨hquiet, hevent, hfull⟩ := hend
  exact ⟨fun hevt => ⟨_, hexec, hquiet hevt⟩, fun hevt hroom => ⟨_, hexec, hevent hevt hroom⟩,
    fun hevt hroom => ⟨_, hexec, hfull hevt hroom⟩⟩

theorem State.accesses_feWindow (s : State) (die n : Nat) (ctx : Context) (va : Nat) (write : Bool) :
    s.accesses (s.feWindow die n ctx va write).1 := by
  have hwalk := s.accesses_feWalk die (feOwner n 3) (2 * (va % 2 ^ 57) + write.toNat) ctx (va % 2 ^ 57) 0 write
  unfold State.feWindow
  split <;> next heq => rwa [heq] at hwalk

/-- A COPY of one chunk, read and written, retires. -/
theorem State.copyOn_chunk {s2 s3 s4 : State} {die : Nat} {ctx : Context} {src dst len : Nat} {bs cs : List Byte} (k : Nat)
    (hpos : 0 < len) (hlen : len ≤ 64 - dst % 64) (hload : s2.feLoad die (feOwner n 3) ctx src len 0 = (s3, .done bs))
    (hstore : s3.feStore die (feOwner n 3) ctx dst 0 bs = (s4, .done cs)) :
    State.copyOn die n ctx src dst len b (k + 2) s2 0 = (s4.feForget (feOwner n 3)).retired n := by
  have hpiece : pieceLen dst len = len := Nat.min_eq_left hlen
  unfold State.copyOn
  simp only [if_neg (Nat.not_le.2 hpos), Nat.add_zero, Nat.sub_zero, hpiece, hload, hstore, Nat.zero_add]
  unfold State.copyOn
  rw [if_pos (Nat.le_refl _)]

theorem exec_copyPacket (h : s.nextPacket n i b (.copyPacket n)) (hpoll : Map.get? s.fe.polls n = none) {s1 s2 : State} {x y : Nat}
    (hsrc : s.packetTaken.feWindow (i / 32) n (s.queueContext n) (pktField b 24 8) false = (s1, .done [], x))
    (hdst : s1.feWindow (i / 32) n (s.queueContext n) (pktField b 32 8) true = (s2, .done [], y)) :
    (x ≠ 2 → y ≠ 2 → exec (.copyPacket n) s = .next (s2.retiredWith n 0x01)) ∧
    (x = 2 ∨ y = 2 → 0 < pktField b 40 4 → pktField b 40 4 ≤ 64 - pktField b 32 8 % 64 → ∀ s3 s4 bs cs,
      s2.feLoad (i / 32) (feOwner n 3) (s.queueContext n) (pktField b 24 8) (pktField b 40 4) 0 = (s3, .done bs) →
      s3.feStore (i / 32) (feOwner n 3) (s.queueContext n) (pktField b 32 8) 0 bs = (s4, .done cs) →
      completes (.copyPacket n) s (fun t => s.tookPacket t i (plainChange n) ∧ t.ms = s4.ms)) := by
  have hexec : exec (.copyPacket n) s = .next (if x ≠ 2 ∧ y ≠ 2 then s2.retiredWith n qBadPkt else
      State.copyOn (i / 32) n (s.queueContext n) (pktField b 24 8) (pktField b 32 8) (pktField b 40 4) b 70 s2 0) := by
    have hpoll' : Map.get? s.packetTaken.fe.polls n = none := hpoll
    have hctx : s.packetTaken.queueContext n = s.queueContext n := rfl
    show execCopyPacket n s = _
    rw [execCopyPacket, h.withPacket]
    simp only [hpoll', hctx, hsrc, hdst]
  refine ⟨fun hx hy => ?_, fun hxy hpos hlen s3 s4 bs cs hload hstore => ?_⟩
  · rw [hexec, if_pos ⟨hx, hy⟩]
    rfl
  · rw [if_neg (by omega), State.copyOn_chunk 68 hpos hlen hload hstore] at hexec
    have hwindows : s.packetTaken.accesses s2 := by
      have h1 := s.packetTaken.accesses_feWindow (i / 32) n (s.queueContext n) (pktField b 24 8) false
      have h2 := s1.accesses_feWindow (i / 32) n (s.queueContext n) (pktField b 32 8) true
      rw [hsrc] at h1
      rw [hdst] at h2
      exact h1.trans h2
    obtain rfl := State.feLoad_done hload
    obtain rfl := State.feStore_done hstore
    have hforget : s4.accesses (s4.feForget (feOwner n 3)) := rfl
    exact ⟨_, hexec, ((h.stillHeld.accesses hwindows).accesses hforget).retired⟩

end Packets

/-! ## A lane binds a queue (R381) -/

theorem State.refetch_replicas (s : State) (die n : Nat) :
    s.refetch die n = s.withFe { s.fe with replicas := (s.refetch die n).fe.replicas } := by
  unfold State.refetch
  split_ifs <;> rfl

/-- Replicas fetched again are all that a run of refetches changes. -/
theorem State.foldl_refetch {α : Type} (die : Nat) (f : α → Nat) (l : List α) : ∀ s : State,
    l.foldl (fun t e => t.refetch die (f e)) s =
      s.withFe { s.fe with replicas := (l.foldl (fun t e => t.refetch die (f e)) s).fe.replicas } := by
  induction l with
  | nil => exact fun _ => rfl
  | cons e l ih =>
    intro s
    rw [List.foldl_cons, ih, s.refetch_replicas]
    rfl

theorem le_foldl_max {α : Type} (f : α → Nat) (l : List α) : ∀ m, m ≤ l.foldl (fun m n => max m (f n)) m ∧
    ∀ e ∈ l, f e ≤ l.foldl (fun m n => max m (f n)) m := by
  induction l with
  | nil => exact fun m => ⟨Nat.le_refl m, fun _ he => by cases he⟩
  | cons x l ih =>
    intro m
    obtain ⟨hstart, hall⟩ := ih (max m (f x))
    rw [List.foldl_cons]
    refine ⟨by omega, fun e he => ?_⟩
    rcases List.mem_cons.1 he with rfl | he
    · omega
    · exact hall e he

/-- The queue that a lane binds: listed, of the domain and ready, with the highest PRIO of those. -/
theorem State.nextQueue_best {s : State} {die d n : Nat} (h : s.nextQueue die d = some n) :
    (∃ q, (n, q) ∈ s.fe.queues) ∧ (s.queueAt die n).dom = d ∧ s.queueReady die n = true ∧
      ∀ e ∈ s.fe.queues, (s.queueAt die e.1).dom = d → s.queueReady die e.1 = true →
        (s.queueAt die e.1).prio ≤ (s.queueAt die n).prio := by
  unfold State.nextQueue at h
  extract_lets ready top best last at h
  have hbest : n ∈ best := by
    split at h
    · next heq =>
      cases h
      exact List.mem_of_find?_eq_some heq
    · exact List.mem_of_head? h
  obtain ⟨hready, htop⟩ := List.mem_filter.1 hbest
  obtain ⟨hlisted, hjudged⟩ := List.mem_filter.1 hready
  obtain ⟨⟨m, q⟩, hq, rfl⟩ := List.mem_map.1 hlisted
  simp only [Bool.and_eq_true, beq_iff_eq] at hjudged htop
  refine ⟨⟨q, hq⟩, hjudged.1, hjudged.2, fun e he hdom hr => ?_⟩
  rw [htop]
  refine (le_foldl_max (fun n => (s.queueAt die n).prio) ready 0).2 e.1 (List.mem_filter.2 ⟨List.mem_map_of_mem he, ?_⟩)
  simp [hdom, hr]

theorem exec_laneBind {s s1 : State} {die lane d n : Nat} (hdark : s.box.dark.contains die = false) (hdie : die < 2)
    (hlane : lane < 32) (hfree : (s.lane (32 * die + lane)).queue = none) (hdom : s.laneDomain die lane = some d)
    (hs1 : s1 = (s.fe.queues.filter (fun e => e.2.dom == d)).foldl (fun t e => t.refetch die e.1) s)
    (hnext : s1.nextQueue die d = some n) :
    completes (.laneBind die lane) s (fun t =>
      t = { s with fe := { s.fe with lanes := t.fe.lanes, rr := t.fe.rr, replicas := s1.fe.replicas } } ∧
      t.lane (32 * die + lane) = ⟨some n, 0⟩ ∧ (∀ j, j ≠ 32 * die + lane → t.lane j = s.lane j) ∧
      Map.getD t.fe.rr d 4095 = n ∧ (∃ q, (n, q) ∈ s.fe.queues) ∧ (s1.queueAt die n).dom = d ∧
      s1.queueReady die n = true ∧ ∀ e ∈ s.fe.queues, (s1.queueAt die e.1).dom = d → s1.queueReady die e.1 = true →
        (s1.queueAt die e.1).prio ≤ (s1.queueAt die n).prio) := by
  have hframe : s1 = s.withFe { s.fe with replicas := s1.fe.replicas } := by
    rw [hs1]
    exact State.foldl_refetch die (fun e : Nat × QueueRec => e.1) _ s
  have hqueues : s1.fe.queues = s.fe.queues := by rw [hframe]; rfl
  have hlanes : s1.fe.lanes = s.fe.lanes := by rw [hframe]; rfl
  have hbest := State.nextQueue_best hnext
  rw [hqueues] at hbest
  refine ⟨(s1.setLane (32 * die + lane) ⟨some n, 0⟩).withFe { (s1.setLane (32 * die + lane) ⟨some n, 0⟩).fe with
    rr := Map.set s1.fe.rr d n }, ?_, ?_, Map.getD_set_self .., fun j hj => ?_, Map.getD_set_self .., hbest⟩
  · have hgo : ¬ (s.box.dark.contains die = true ∨ 2 ≤ die ∨ 32 ≤ lane ∨
        (s.lane (32 * die + lane)).queue.isSome = true) := by
      simp only [hdark, hfree]
      simp
      omega
    show execLaneBind die lane s = _
    rw [execLaneBind, if_neg hgo]
    simp only [hdom, ← hs1, hnext]
    rfl
  · rw [hframe]
    rfl
  · show Map.getD (Map.set s1.fe.lanes (32 * die + lane) ⟨some n, 0⟩) j Lane.reset = _
    rw [Map.getD_set, if_neg hj, hlanes]
    rfl

/-! ## A step of Cicada (R382) -/

/-- From `s` to `t` a step has served lanes without a packet that executes in it. -/
def State.serves (s t : State) : Prop :=
  t.fe.todo = s.fe.todo ∧ t.agenda = s.agenda ∧ t.fe.grids = s.fe.grids ∧ t.now = s.now ∧
    ∀ j n, (t.lane j).queue = some n → (s.lane j).queue = some n

section Serves
variable {s t u : State}

theorem State.serves.refl (s : State) : s.serves s := ⟨rfl, rfl, rfl, rfl, fun _ _ h => h⟩

theorem State.serves.trans (h : s.serves t) (h' : t.serves u) : s.serves u := by
  obtain ⟨htodo, hagenda, hgrids, hnow, hlanes⟩ := h
  obtain ⟨htodo', hagenda', hgrids', hnow', hlanes'⟩ := h'
  exact ⟨htodo'.trans htodo, hagenda'.trans hagenda, hgrids'.trans hgrids, hnow'.trans hnow,
    fun j n hj => hlanes j n (hlanes' j n hj)⟩

theorem State.serves_of_lanes (htodo : t.fe.todo = s.fe.todo) (hagenda : t.agenda = s.agenda) (hgrids : t.fe.grids = s.fe.grids)
    (hnow : t.now = s.now) (hlanes : t.fe.lanes = s.fe.lanes) : s.serves t :=
  ⟨htodo, hagenda, hgrids, hnow, fun j n hj => by rwa [State.lane, hlanes] at hj⟩

theorem State.accesses.serves (h : s.accesses t) : s.serves t := by
  refine State.serves_of_lanes ?_ ?_ ?_ ?_ ?_ <;> rw [h]

theorem State.posts.serves (h : s.posts t) : s.serves t := by
  refine State.serves_of_lanes ?_ ?_ ?_ ?_ ?_ <;> rw [h]

theorem State.serves_setLane (s : State) (i : Nat) {l : Lane} (h : ∀ n, l.queue = some n → (s.lane i).queue = some n) :
    s.serves (s.setLane i l) := by
  refine ⟨rfl, rfl, rfl, rfl, fun j n hj => ?_⟩
  rw [show (s.setLane i l).lane j = if j = i then l else s.lane j from Map.getD_set ..] at hj
  split_ifs at hj with heq
  · rw [heq]
    exact h n hj
  · exact hj

theorem State.serves_refetch (s : State) (die n : Nat) : s.serves (s.refetch die n) := by
  rw [s.refetch_replicas]
  exact State.serves_of_lanes rfl rfl rfl rfl rfl

theorem State.serves_feClear (s : State) (n : Nat) : s.serves (s.feClear n) := State.serves_of_lanes rfl rfl rfl rfl rfl

theorem State.serves_dropPoll (s : State) (n : Nat) (all : Bool) : s.serves (s.dropPoll n all) :=
  State.serves_of_lanes rfl rfl rfl rfl rfl

theorem State.serves_unbind (s : State) (n : Nat) : s.serves (s.unbind n) := by
  unfold State.unbind
  split
  · exact ((s.serves_setLane _ (by simp [Lane.reset])).trans (State.serves_dropPoll ..)).trans (State.serves_feClear ..)
  · exact State.serves.refl s

theorem State.serves_retirePacket (s : State) {c : QueueChange} (hbell : c.bell = none) (hnote : c.note = none) :
    s.serves (s.retirePacket c) := by
  have hmade : s.serves (s.madeChange c) := by
    unfold State.madeChange
    split_ifs
    · simp only [State.applyChange, hbell, hnote]
      rcases c.err with - | e
      · exact State.serves_of_lanes rfl rfl rfl rfl rfl
      · refine (s.posts_queueError c.queue e ((s.queue c.queue).taking c)).serves.trans ?_
        exact State.serves_of_lanes rfl rfl rfl rfl rfl
    · exact State.serves_of_lanes rfl rfl rfl rfl rfl
  have htidy := (hmade.trans (State.serves_dropPoll _ c.queue true)).trans (State.serves_feClear _ c.queue)
  unfold State.retirePacket
  dsimp only
  split
  · exact htidy.trans (State.serves_setLane _ _ fun _ h => h)
  · exact htidy

theorem State.serves_retiredWith (s : State) (n code : Nat) : s.serves (s.retiredWith n code) := s.serves_retirePacket rfl rfl

theorem State.serves_launchEnded (s : State) (n ts : Nat) (err : Option Nat) : s.serves (s.launchEnded n ts err) :=
  s.serves_retirePacket rfl rfl

/-- From `s` to `t` a step has served queue `n`, whose packet executes in it or not. -/
def State.servesQueue (s t : State) (n : Nat) : Prop := s.serves t ∨ ∃ u b, s.serves u ∧ t = u.takeInHand n b

theorem State.servesQueue.of_serves {n : Nat} (h : s.serves t) (h' : t.servesQueue u n) : s.servesQueue u n := by
  rcases h' with h' | ⟨v, b, hv, rfl⟩
  · exact .inl (h.trans h')
  · exact .inr ⟨v, b, h.trans hv, rfl⟩

theorem State.servesQueue_takeInHand (s : State) (n : Nat) (b : List Byte) : s.servesQueue (s.takeInHand n b) n :=
  .inr ⟨s, b, State.serves.refl s, rfl⟩

theorem State.servesQueue_parse (s : State) (die n : Nat) : s.servesQueue (s.parse die n) n := by
  unfold State.parse
  extract_lets q ctx va
  split_ifs
  · exact .inl (s.serves_retiredWith ..)
  · have hload := (s.accesses_feLoad die (feOwner n 0) ctx va 64 q.hts).serves
    split
    · next heq => rw [heq] at hload; exact .inl hload
    · next heq => rw [heq] at hload; exact .inl (hload.trans (State.serves_retiredWith ..))
    · next s1 b heq =>
      rw [heq] at hload
      refine State.servesQueue.of_serves hload ?_
      extract_lets bad
      have hbad : s1.servesQueue (bad s1) n := by
        show s1.servesQueue (if isLaunch (pktType b) then _ else _) n
        split_ifs
        · exact .inl (s1.serves_launchEnded ..)
        · exact .inl (s1.serves_retiredWith ..)
      split
      · exact hbad
      · split
        · exact .inl (s1.serves_refetch ..)
        · split
          · exact hbad
          · split
            · exact .inl (s1.serves_unbind n)
            · split
              · exact s1.servesQueue_takeInHand n b
              · have hagain := (s1.accesses_feLoad die (feOwner n 1) ctx va 64 (s1.startTs die n b)).serves
                split
                · next heq' => rw [heq'] at hagain; exact .inl hagain
                · next heq' => rw [heq'] at hagain; exact .inl (hagain.trans (State.serves_retiredWith ..))
                · next s2 b2 heq' =>
                  rw [heq'] at hagain
                  refine State.servesQueue.of_serves hagain ?_
                  split_ifs
                  · exact s2.servesQueue_takeInHand n b
                  · exact .inl (s2.serves_feClear n)

/-- What a step does with one lane: it serves the lane's queue. -/
theorem State.serveLane_serves (s : State) (die i : Nat) :
    s.serves (s.serveLane die i) ∨ ∃ n, (s.lane i).queue = some n ∧ s.servesQueue (s.serveLane die i) n := by
  unfold State.serveLane
  split
  · exact .inl (State.serves.refl s)
  · next n hn =>
    refine .inr ⟨n, hn, ?_⟩
    extract_lets q busy
    split_ifs
    · exact .inl (s.serves_refetch ..)
    · exact .inl (State.serves.refl s)
    · exact .inl (s.serves_unbind n)
    · split
      · split_ifs
        · exact .inl (State.serves.refl s)
        · exact s.servesQueue_takeInHand ..
      · exact s.servesQueue_parse die n

end Serves

theorem mem_insertTodo {x e : Nat × List Byte} {l : List (Nat × List Byte)} : e ∈ insertTodo x l ↔ e = x ∨ e ∈ l := by
  induction l with
  | nil => simp [insertTodo]
  | cons y l ih =>
    unfold insertTodo
    split_ifs
    · simp
    · simp only [List.mem_cons, ih]
      tauto

theorem insertTodo_pairwise (x : Nat × List Byte) {l : List (Nat × List Byte)}
    (h : l.Pairwise (fun x y => pktType x.2 ≤ pktType y.2)) :
    (insertTodo x l).Pairwise (fun x y => pktType x.2 ≤ pktType y.2) := by
  induction l with
  | nil => exact List.pairwise_singleton _ _
  | cons y l ih =>
    obtain ⟨hy, hl⟩ := List.pairwise_cons.1 h
    unfold insertTodo
    split_ifs with hlt
    · refine List.pairwise_cons.2 ⟨fun e he => ?_, h⟩
      rcases List.mem_cons.1 he with rfl | he
      · omega
      · have := hy e he
        omega
    · refine List.pairwise_cons.2 ⟨fun e he => ?_, ih hl⟩
      rcases mem_insertTodo.1 he with rfl | he
      · omega
      · exact hy e he

/-- A step of a die so far: the packets that execute are in order of TYPE and of bound lanes of the die. -/
def State.stepping (s t : State) (die : Nat) : Prop :=
  t.fe.todo.Pairwise (fun x y => pktType x.2 ≤ pktType y.2) ∧
    (∀ e ∈ t.fe.todo, ∃ i, i < 32 ∧ (s.lane (32 * die + i)).queue = some e.1) ∧ t.agenda = s.agenda ∧
    t.fe.grids = s.fe.grids ∧ t.now = s.now ∧ ∀ j n, (t.lane j).queue = some n → (s.lane j).queue = some n

section Stepping
variable {s t u : State} {die : Nat}

theorem State.stepping.serves (h : s.stepping t die) (hserves : t.serves u) : s.stepping u die := by
  obtain ⟨hsort, hbound, hagenda, hgrids, hnow, hlanes⟩ := h
  obtain ⟨htodo', hagenda', hgrids', hnow', hlanes'⟩ := hserves
  exact ⟨htodo' ▸ hsort, htodo' ▸ hbound, hagenda'.trans hagenda, hgrids'.trans hgrids, hnow'.trans hnow,
    fun j n hj => hlanes j n (hlanes' j n hj)⟩

theorem State.stepping.takeInHand (h : s.stepping t die) {i n : Nat} (hi : i < 32)
    (hlane : (s.lane (32 * die + i)).queue = some n) (b : List Byte) : s.stepping (t.takeInHand n b) die := by
  obtain ⟨hsort, hbound, hagenda, hgrids, hnow, hlanes⟩ := h
  refine ⟨insertTodo_pairwise _ hsort, fun e he => ?_, hagenda, hgrids, hnow, hlanes⟩
  rcases mem_insertTodo.1 he with rfl | he
  · exact ⟨i, hi, hlane⟩
  · exact hbound e he

theorem State.stepping.serveLane (h : s.stepping t die) {i : Nat} (hi : i < 32) :
    s.stepping (t.serveLane die (32 * die + i)) die := by
  rcases t.serveLane_serves die (32 * die + i) with hserves | ⟨n, hn, hserves | ⟨v, b, hv, heq⟩⟩
  · exact h.serves hserves
  · exact h.serves hserves
  · rw [heq]
    obtain ⟨-, -, -, -, -, hlanes⟩ := id h
    exact (h.serves hv).takeInHand hi (hlanes _ _ hn) b

theorem State.stepping_foldl (l : List Nat) (hl : ∀ i ∈ l, i < 32) : ∀ t : State, s.stepping t die →
    s.stepping (l.foldl (fun t i => t.serveLane die (32 * die + i)) t) die := by
  induction l with
  | nil => exact fun _ h => h
  | cons i l ih =>
    obtain ⟨hi, hl⟩ := List.forall_mem_cons.1 hl
    exact fun t h => ih hl _ (h.serveLane hi)

/-- The step of a die: its lanes served in turn, and the packets that execute set down as rows. -/
theorem exec_cicadaStep (hdark : s.box.dark.contains die = false) (hdie : die < 2) (htodo : s.fe.todo = []) :
    exec (.cicadaStep die) s = .next
      (let u := (List.range 32).foldl (fun t i => t.serveLane die (32 * die + i)) s
       { u.drawn with agenda := u.fe.todo.map (fun e => packetRow (Config.layout (u.draws + e.1)) e.1 e.2) ++ u.agenda }) := by
  have hgo : ¬ (s.box.dark.contains die = true ∨ 2 ≤ die ∨ (!s.fe.todo.isEmpty) = true) := by
    rw [hdark, htodo]
    simp
    omega
  show execCicadaStep die s = _
  rw [execCicadaStep, if_neg hgo]

theorem cicadaStep_all (hdark : s.box.dark.contains die = false) (hdie : die < 2) (htodo : s.fe.todo = []) :
    completes (.cicadaStep die) s (fun t => t.fe.todo.Pairwise (fun x y => pktType x.2 ≤ pktType y.2) ∧
      (∃ layout : Nat → List DomainPlan, t.agenda = t.fe.todo.map (fun e => packetRow (layout e.1) e.1 e.2) ++ s.agenda) ∧
      (∀ e ∈ t.fe.todo, ∃ i, i < 32 ∧ (s.lane (32 * die + i)).queue = some e.1) ∧ t.fe.grids = s.fe.grids ∧ t.now = s.now) := by
  have hstart : s.stepping s die := by
    refine ⟨?_, ?_, rfl, rfl, rfl, fun _ _ h => h⟩
    · rw [htodo]
      exact List.Pairwise.nil
    · rw [htodo]
      exact fun _ h => by cases h
  have hexec := exec_cicadaStep hdark hdie htodo
  have hstep := State.stepping_foldl (List.range 32) (fun i hi => List.mem_range.1 hi) s hstart
  generalize (List.range 32).foldl (fun t i => t.serveLane die (32 * die + i)) s = u at hexec hstep
  obtain ⟨hsort, hbound, hagenda, hgrids, hnow, -⟩ := hstep
  refine ⟨_, hexec, hsort, ⟨fun n => Config.layout (u.draws + n), ?_⟩, hbound, hgrids, hnow⟩
  dsimp only
  rw [hagenda]
  rfl

end Stepping

/-! ## A step with one bound lane -/

theorem foldl_fixed {α β : Type} {f : β → α → β} {s : β} {l : List α} (h : ∀ x ∈ l, f s x = s) : l.foldl f s = s := by
  induction l with
  | nil => rfl
  | cons x l ih =>
    obtain ⟨hx, hl⟩ := List.forall_mem_cons.1 h
    rw [List.foldl_cons, hx, ih hl]

theorem State.serveLane_unbound {t : State} (die : Nat) {j : Nat} (h : (t.lane j).queue = none) : t.serveLane die j = t := by
  simp only [State.serveLane, h]

/-- With one lane of a die bound, a step serves that lane. -/
theorem State.foldl_serveLane {s : State} {die i : Nat} (hi : i < 32)
    (hfree : ∀ j, j < 32 → j ≠ i → (s.lane (32 * die + j)).queue = none)
    (hlanes : (s.serveLane die (32 * die + i)).fe.lanes = s.fe.lanes) :
    (List.range 32).foldl (fun t i => t.serveLane die (32 * die + i)) s = s.serveLane die (32 * die + i) := by
  obtain ⟨l, r, hsplit⟩ := List.append_of_mem (List.mem_range.2 hi)
  have hnodup : (l ++ i :: r).Nodup := hsplit ▸ List.nodup_range
  have hne : ∀ j ∈ l ++ r, j < 32 ∧ j ≠ i := by
    intro j hj
    have hmem : j ∈ List.range 32 := by
      rw [hsplit]
      simp only [List.mem_append, List.mem_cons] at hj ⊢
      tauto
    refine ⟨List.mem_range.1 hmem, ?_⟩
    rintro rfl
    exact (List.nodup_middle.1 hnodup).notMem hj
  have hl : l.foldl (fun t i => t.serveLane die (32 * die + i)) s = s :=
    foldl_fixed fun j hj => State.serveLane_unbound die (hfree j (hne j (by simp [hj])).1 (hne j (by simp [hj])).2)
  rw [hsplit, List.foldl_append, hl, List.foldl_cons]
  refine foldl_fixed fun j hj => State.serveLane_unbound die ?_
  rw [State.lane, hlanes]
  exact hfree j (hne j (by simp [hj])).1 (hne j (by simp [hj])).2

section OneLane
variable {s : State} {die i n : Nat} {b : List Byte}

/-- A lane that holds a ready queue and no packet reads the queue's packet. -/
theorem State.serveLane_reads (hqueue : (s.lane i).queue = some n) (hretired : (s.lane i).retired < 16)
    (hcurrent : s.current die n = true) (hmay : s.mayChange die n = true) (henable : (s.queueAt die n).enable = true)
    (hhalt : (s.queueAt die n).halt = false) (hhead : (s.queueAt die n).head ≠ (s.queueAt die n).tail)
    (hstop : (s.ctx (s.queueAt die n).asr).stopping = false) (hhand : Map.get? s.fe.hands n = none) :
    s.serveLane die i = s.parse die n := by
  simp [State.serveLane, hqueue, hcurrent, hmay, henable, hhalt, hhead, hstop, hhand, Nat.not_le.2 hretired]

/-- A packet read and sound, whose entries are known and met: taken in hand, or read again at its start timestamp (R390). -/
theorem State.parse_sound (hdom : (s.asrContext (s.queueAt die n).asr).dom = (s.queueAt die n).dom)
    (hload : s.feLoad die (feOwner n 0) (s.asrContext (s.queueAt die n).asr) ((s.queueAt die n).base + 64 *
      ((s.queueAt die n).head.toNat % 2 ^ (s.queueAt die n).logn)) 64 (s.queueAt die n).hts = (s, .done b))
    (hgood : packetBad b = false) (hmet : ∀ e ∈ pktEntries b, s.current die e.1 = true ∧
      s.entryBad die (s.queueAt die n).dom e = false ∧ s.entryMet die e = true) :
    let ready := isLaunch (pktType b) = false ∨ s.startTs die n b ≤ (s.queueAt die n).hts
    (ready → s.parse die n = s.takeInHand n b) ∧
    (¬ ready → ∀ b2, s.feLoad die (feOwner n 1) (s.asrContext (s.queueAt die n).asr) ((s.queueAt die n).base + 64 *
        ((s.queueAt die n).head.toNat % 2 ^ (s.queueAt die n).logn)) 64 (s.startTs die n b) = (s, .done b2) →
      s.parse die n = if b2 = b then s.takeInHand n b else s.feClear n) := by
  intro ready
  have hknown : (pktEntries b).find? (fun e => !s.current die e.1) = none :=
    List.find?_eq_none.2 fun e he => by simp [(hmet e he).1]
  have hown : ¬ (pktEntries b).any (s.entryBad die (s.queueAt die n).dom) = true := by
    rw [Bool.not_eq_true, List.any_eq_false]
    exact fun e he => by simp [(hmet e he).2.1]
  have hall : (!(pktEntries b).all (s.entryMet die)) = false := by
    rw [Bool.not_eq_false', List.all_eq_true]
    exact fun e he => (hmet e he).2.2
  refine ⟨fun hready => ?_, fun hlate b2 hagain => ?_⟩
  · have hready' : (!isLaunch (pktType b)) = true ∨ s.startTs die n b ≤ (s.queueAt die n).hts := by simpa using hready
    simp only [State.parse, hdom, ne_eq, not_true_eq_false, if_false, hload, hgood, Bool.false_eq_true, hknown, hown, hall,
      if_pos hready']
  · have hlate' : ¬ ((!isLaunch (pktType b)) = true ∨ s.startTs die n b ≤ (s.queueAt die n).hts) := by simpa [ready] using hlate
    simp only [State.parse, hdom, ne_eq, not_true_eq_false, if_false, hload, hgood, Bool.false_eq_true, hknown, hown, hall,
      if_neg hlate', hagain]

/-- A step of one bound lane whose packet is taken in hand. -/
theorem cicadaStep_ready (hdark : s.box.dark.contains die = false) (hdie : die < 2) (htodo : s.fe.todo = []) (hi : i < 32)
    (hfree : ∀ j, j < 32 → j ≠ i → (s.lane (32 * die + j)).queue = none)
    (hserve : s.serveLane die (32 * die + i) = s.takeInHand n b) :
    completes (.cicadaStep die) s (fun t => t.fe.todo = [(n, b)] ∧ Map.get? t.fe.hands n = some b ∧ s.recordsStand t ∧
      t.ms = s.ms ∧ ∃ layout, t.agenda = packetRow layout n b :: s.agenda) := by
  have hfold := State.foldl_serveLane hi hfree (by rw [hserve]; rfl)
  rw [hserve] at hfold
  have hlist : (s.takeInHand n b).fe.todo = [(n, b)] := by
    show insertTodo (n, b) s.fe.todo = _
    rw [htodo]
    rfl
  have hexec := exec_cicadaStep hdark hdie htodo
  rw [hfold] at hexec
  dsimp only at hexec
  rw [hlist] at hexec
  have htidy : s.tidies (s.takeInHand n b) := rfl
  exact ⟨_, hexec, hlist, Map.get?_set_self .., htidy.recordsStand, rfl, Config.layout ((s.takeInHand n b).draws + n), rfl⟩

/-- A step of one bound lane whose packet has changed since it was read. -/
theorem cicadaStep_changed (hdark : s.box.dark.contains die = false) (hdie : die < 2) (htodo : s.fe.todo = []) (hi : i < 32)
    (hfree : ∀ j, j < 32 → j ≠ i → (s.lane (32 * die + j)).queue = none)
    (hserve : s.serveLane die (32 * die + i) = s.feClear n) :
    completes (.cicadaStep die) s (fun t => t.fe.todo = [] ∧ s.recordsStand t ∧ t.ms = s.ms) := by
  have hfold := State.foldl_serveLane hi hfree (by rw [hserve]; rfl)
  rw [hserve] at hfold
  have hexec := exec_cicadaStep hdark hdie htodo
  rw [hfold] at hexec
  exact ⟨_, hexec, htodo, ⟨fun _ => rfl, rfl⟩, rfl⟩

end OneLane

/-- Settles O50: a lane binds the best of the ready queues, a step serves its lanes in turn, and WAIT, SIGNAL and COPY end with the
retirement of their packet. -/
theorem lanesAndPackets : Obligations.LanesAndPackets := by
  unfold Obligations.LanesAndPackets
  refine ⟨⟨fun s die lane d n hdark hdie hlane hfree hdom s1 hs1 hnext => exec_laneBind hdark hdie hlane hfree hdom hs1 hnext,
    fun s die hdark hdie htodo => cicadaStep_all hdark hdie htodo, ?_⟩, fun s n i b => ⟨exec_waitPacket,
      fun tm hpoll hholder htype hdue hmay hhalt s1 v hload => exec_waitPoll hpoll hholder htype hdue hmay hhalt hload,
      exec_signalPacket, fun h hpoll s1 s2 x y hsrc hdst => exec_copyPacket h hpoll hsrc hdst⟩⟩
  intro s die i n hdark hdie htodo hi hqueue hretired hfree q ctx va hcurrent hmay henable hhalt hhead hstop hhand hdom s1 b hload
    hgood hmet
  obtain rfl := State.feLoad_done hload
  have hserve := State.serveLane_reads hqueue hretired hcurrent hmay henable hhalt hhead hstop hhand
  obtain ⟨hnow, hlater⟩ := State.parse_sound hdom hload hgood hmet
  refine ⟨fun hready => ?_, fun hlaunch hlate s2 b2 hagain => ?_⟩
  · exact cicadaStep_ready hdark hdie htodo hi hfree (hserve.trans (hnow hready))
  · obtain rfl := State.feLoad_done hagain
    have hparse := hlater (by simpa [hlaunch] using hlate) b2 hagain
    refine ⟨fun heq => ?_, fun hne => ?_⟩
    · exact cicadaStep_ready hdark hdie htodo hi hfree (hserve.trans (hparse.trans (if_pos heq)))
    · exact cicadaStep_changed hdark hdie htodo hi hfree (hserve.trans (hparse.trans (if_neg hne)))

end Sys2Proof.Machine
end

section
/-! SUPPORT. Accesses in flight, translations dropped, and the invalidations (R83). -/

namespace Sys2Proof.Machine

/-! ## Accesses in flight, by the translations they used (R83) -/

/-- The operations of a core, whether one of their requests without an answer used a translation that a test picks. -/
def State.opsUse (s : State) (hit : Nat → Nat → Nat → Bool) (c : Nat × List MemOp) : Bool :=
  c.2.any (fun o => o.kind.translated && o.reqs.any (fun r => r.st != .rewalk && !s.redirected r &&
    r.pieces.any (fun p => hit (s.wave ⟨c.1, o.slot⟩).ctx.asn p.va r.key)))

theorem State.inFlight_eq (s : State) (hit : Nat → Nat → Nat → Bool) : s.inFlight hit =
    ((s.cores.map (fun c => (c.1, c.2.ops))).any (s.opsUse hit) || s.pendingRequests.any (fun e => s.clientUses hit e.1 e.2)) := by
  rw [List.any_map]
  rfl

/-- From `s` to `t` everything stands that tells which accesses are in flight and by which translations. -/
def State.sameFlights (s t : State) : Prop :=
  (t.net = s.net ∧ t.host = s.host ∧ t.nopel = s.nopel) ∧
    ((∀ owner, t.feAsn owner = s.feAsn owner) ∧ ∀ n, t.asrContext n = s.asrContext n) ∧
    t.cores.map (fun c => (c.1, c.2.ops)) = s.cores.map (fun c => (c.1, c.2.ops)) ∧
    (∀ k, (t.core k).copies = (s.core k).copies ∧ (t.core k).tiles = (s.core k).tiles) ∧
    (∀ id, (t.wave id).ctx = (s.wave id).ctx) ∧ ∀ k j, (t.cluster k).residency j = (s.cluster k).residency j

section Flights
variable {s t : State}

theorem State.sameFlights.trans {u : State} (h : s.sameFlights t) (h' : t.sameFlights u) : s.sameFlights u := by
  obtain ⟨⟨hnet, hhost, hnopel⟩, ⟨hasn, hasr⟩, hops, hcore, hwave, hres⟩ := h
  obtain ⟨⟨hnet', hhost', hnopel'⟩, ⟨hasn', hasr'⟩, hops', hcore', hwave', hres'⟩ := h'
  exact ⟨⟨hnet'.trans hnet, hhost'.trans hhost, hnopel'.trans hnopel⟩,
    ⟨fun o => (hasn' o).trans (hasn o), fun n => (hasr' n).trans (hasr n)⟩, hops'.trans hops,
    fun k => ⟨(hcore' k).1.trans (hcore k).1, (hcore' k).2.trans (hcore k).2⟩, fun id => (hwave' id).trans (hwave id),
    fun k j => (hres' k j).trans (hres k j)⟩

theorem State.sameFlights.redirected (h : s.sameFlights t) (r : Request) : t.redirected r = s.redirected r := by
  obtain ⟨⟨hnet, -⟩, -⟩ := h
  simp only [State.redirected, State.port, hnet]

theorem State.sameFlights.pendingRequests (h : s.sameFlights t) : t.pendingRequests = s.pendingRequests := by
  obtain ⟨⟨hnet, hhost, hnopel⟩, -⟩ := h
  simp only [State.pendingRequests, hnet, hhost, hnopel]

theorem State.sameFlights.imageBase (h : s.sameFlights t) (e : SeqEntry) :
    t.imageBase e (t.entryResidency e) = s.imageBase e (s.entryResidency e) := by
  obtain ⟨-, -, -, hcore, -, hres⟩ := h
  simp only [State.imageBase, State.loadBehind, State.entryResidency, (hcore _).2, hres]

theorem State.sameFlights.clientUses (h : s.sameFlights t) (hit : Nat → Nat → Nat → Bool) (p : Packet) (c : Client) :
    t.clientUses hit p c = s.clientUses hit p c := by
  have hbase := h.imageBase
  obtain ⟨-, ⟨hasn, hasr⟩, -, hcore, hwave, -⟩ := h
  cases c <;> simp only [State.clientUses, (hcore _).1, (hcore _).2, hwave, hbase, hasn, hasr]

theorem State.sameFlights.inFlight (h : s.sameFlights t) (hit : Nat → Nat → Nat → Bool) : t.inFlight hit = s.inFlight hit := by
  have hredirected := h.redirected
  have hclient := h.clientUses hit
  have hpending := h.pendingRequests
  obtain ⟨-, -, hops, -, hwave, -⟩ := h
  have huse : t.opsUse hit = s.opsUse hit := by
    funext c
    simp only [State.opsUse, hredirected, hwave]
  rw [State.inFlight_eq, State.inFlight_eq, hops, huse, hpending]
  simp only [hclient]

theorem State.sameFlights.rangeInFlight (h : s.sameFlights t) (asn va len : Nat) :
    t.rangeInFlight asn va len = s.rangeInFlight asn va len := h.inFlight _

end Flights

/-! ## Translations dropped -/

/-- A core whose translations a test drops. -/
def Core.untranslated (tlb : TlbEntry → Bool) (walk : Nat → Nat → Bool) (c : Core) : Core := { c with
  tlb := c.tlb.filter (fun x => !tlb x), answers := c.answers.filter (fun a => !walk a.1 a.2.page) }

/-- A cluster whose translations a test drops. -/
def Cluster.untranslated (tlb : TlbEntry → Bool) (walk : Nat → Nat → Bool) (c : Cluster) : Cluster := { c with
  tlb := c.tlb.filter (fun x => !tlb x)
  walks := c.walks.map (fun w => if walk w.asn w.page then { w with pos := none } else w) }

/-- A wave without the answers of walks that a test drops. -/
def Wave.untranslated (walk : Nat → Nat → Bool) (w : Wave) : Wave := { w with
  answers := w.answers.filter (fun a => !walk w.ctx.asn a.page) }

/-- A core without the instructions fetched under a key slot. -/
def Core.unfetched (k : Nat) (c : Core) : Core := { c with icache := c.icache.filter (fun l => l.key != k) }

section Drop
variable (s : State) (tlb : TlbEntry → Bool) (cached : CachedEntry → Bool) (walk : Nat → Nat → Bool)

theorem State.core_dropTranslations (k : Nat) :
    (s.dropTranslations tlb cached walk).core k = (s.core k).untranslated tlb walk :=
  Map.getD_map s.cores (Core.untranslated tlb walk) k Core.reset

theorem State.cluster_dropTranslations (k : Nat) :
    (s.dropTranslations tlb cached walk).cluster k = (s.cluster k).untranslated tlb walk :=
  Map.getD_map s.clusters (Cluster.untranslated tlb walk) k Cluster.reset

theorem State.wave_dropTranslations (id : WaveId) :
    (s.dropTranslations tlb cached walk).wave id = (s.wave id).untranslated walk := by
  by_cases hid : id = s.cur
  · rw [State.wave, State.wave, if_pos hid]
    exact if_pos hid
  · rw [State.wave, State.wave, if_neg hid]
    exact (if_neg hid).trans (Map.getD_map s.waves (Wave.untranslated walk) (slotIndex id) Wave.reset)

theorem State.sameFlights_dropTranslations : s.sameFlights (s.dropTranslations tlb cached walk) := by
  refine ⟨⟨rfl, rfl, rfl⟩, ⟨fun _ => rfl, fun _ => rfl⟩, ?_, fun k => ?_, fun id => ?_, fun k j => ?_⟩
  · exact (List.map_map ..).trans rfl
  · rw [State.core_dropTranslations]
    exact ⟨rfl, rfl⟩
  · rw [State.wave_dropTranslations]
    rfl
  · rw [State.cluster_dropTranslations]
    rfl

theorem State.sameFlights_dropRange (asn va len : Nat) : s.sameFlights (s.dropRange asn va len) :=
  s.sameFlights_dropTranslations ..

theorem State.core_dropKey (k j : Nat) :
    (s.dropKey k).core j = ((s.core j).untranslated (fun e => e.key == k) (fun _ _ => true)).unfetched k := by
  rw [← s.core_dropTranslations (fun e => e.key == k) (fun c => bitsOf 52 12 c.entry == k)]
  exact Map.getD_map _ (Core.unfetched k) j Core.reset

theorem State.cluster_dropKey (k j : Nat) : ((s.dropKey k).cluster j).tlb = (s.cluster j).tlb.filter (fun e => !(e.key == k)) ∧
    ∀ r, ((s.dropKey k).cluster j).residency r = (s.cluster j).residency r := by
  have hcluster : (s.dropKey k).cluster j = (s.dropTranslations (fun e => e.key == k) (fun c => bitsOf 52 12 c.entry == k)
    (fun _ _ => true)).cluster j := rfl
  rw [hcluster, State.cluster_dropTranslations]
  exact ⟨rfl, fun _ => rfl⟩

theorem State.sameFlights_dropKey (k : Nat) : s.sameFlights (s.dropKey k) := by
  refine (s.sameFlights_dropTranslations (fun e => e.key == k) (fun c => bitsOf 52 12 c.entry == k) (fun _ _ => true)).trans
    ⟨⟨rfl, rfl, rfl⟩, ⟨fun _ => rfl, fun _ => rfl⟩, ?_, fun j => ?_, fun _ => rfl, fun _ _ => rfl⟩
  · exact (List.map_map ..).trans rfl
  · rw [State.core_dropKey, State.core_dropTranslations]
    exact ⟨rfl, rfl⟩

theorem State.mem_tlb_dropRange (asn va len k : Nat) (e : TlbEntry) :
    e ∈ ((s.dropRange asn va len).core k).tlb ↔ e ∈ (s.core k).tlb ∧ ¬ e.touches asn va len := by
  rw [State.dropRange, State.core_dropTranslations]
  simp [Core.untranslated, TlbEntry.touches, imp_iff_not_or]

theorem State.mem_sharedTlb_dropRange (asn va len k : Nat) (e : TlbEntry) :
    e ∈ ((s.dropRange asn va len).cluster k).tlb ↔ e ∈ (s.cluster k).tlb ∧ ¬ e.touches asn va len := by
  rw [State.dropRange, State.cluster_dropTranslations]
  simp [Cluster.untranslated, TlbEntry.touches, imp_iff_not_or]

theorem State.mem_tlb_dropKey (key k : Nat) (e : TlbEntry) :
    e ∈ ((s.dropKey key).core k).tlb ↔ e ∈ (s.core k).tlb ∧ e.key ≠ key := by
  rw [State.core_dropKey]
  simp [Core.untranslated, Core.unfetched]

theorem State.mem_icache_dropKey (key k : Nat) (e : ILine) :
    e ∈ ((s.dropKey key).core k).icache ↔ e ∈ (s.core k).icache ∧ e.key ≠ key := by
  rw [State.core_dropKey]
  simp [Core.untranslated, Core.unfetched]

theorem State.mem_sharedTlb_dropKey (key k : Nat) (e : TlbEntry) :
    e ∈ ((s.dropKey key).cluster k).tlb ↔ e ∈ (s.cluster k).tlb ∧ e.key ≠ key := by
  rw [(s.cluster_dropKey key k).1]
  simp

theorem State.wave_dropRange (asn va len : Nat) (id : WaveId) :
    ∃ as, (s.dropRange asn va len).wave id = { s.wave id with answers := as } ∧ ∀ x ∈ as, x ∈ (s.wave id).answers ∧
      ¬ ((s.wave id).ctx.asn = asn ∧ overlaps (x.page * 4096) 4096 va len = true) := by
  refine ⟨_, s.wave_dropTranslations .., fun x hx => ?_⟩
  obtain ⟨hmem, hkeep⟩ := List.mem_filter.1 hx
  exact ⟨hmem, by simpa [imp_iff_not_or] using hkeep⟩

end Drop

section EndsParts
variable {s t : State}

theorem State.ends.refl (s : State) : s.ends s := rfl
theorem State.ends.core (h : s.ends t) (k : Nat) : t.core k = s.core k := by rw [h]; rfl
theorem State.ends.cluster (h : s.ends t) (k : Nat) : t.cluster k = s.cluster k := by rw [h]; rfl
theorem State.ends.wave (h : s.ends t) (id : WaveId) : t.wave id = s.wave id := by rw [h]; rfl
theorem State.ends.slice (h : s.ends t) (k : Nat) : t.slice k = s.slice k := by rw [h]; rfl
theorem State.ends.box (h : s.ends t) : t.box = s.box := by rw [h]
theorem State.ends.key (h : s.ends t) (k : Nat) : t.key k = s.key k := by rw [h]; rfl

theorem State.recordsStand.trans {u : State} (h : s.recordsStand t) (h' : t.recordsStand u) : s.recordsStand u :=
  ⟨fun j => (h'.1 j).trans (h.1 j), h'.2.trans h.2⟩

theorem State.popped.of_stand {u : State} {n i : Nat} (h : s.recordsStand t) (h' : t.popped u n i) : s.popped u n i := by
  unfold State.popped at h' ⊢
  simpa only [h.1, h.2] using h'

end EndsParts

/-! ## INVAL and INVALKEY (R83) -/

section Invalidate
variable {s : State} {n i : Nat} {b : List Byte}

theorem exec_inval (h : s.nextPacket n i b (.inval n)) (hasn : mgmtArg b 0 < 2 ^ 16) :
    let a := mgmtArg b 0
    let va := mgmtArg b 1 % 2 ^ 57
    let len := mgmtArg b 2
    completes (.inval n) s (fun t => t.fe.headers = [] ∧
      (∀ k e, e ∈ (t.core k).tlb ↔ e ∈ (s.core k).tlb ∧ ¬ e.touches a va len) ∧
      (∀ k e, e ∈ (t.cluster k).tlb ↔ e ∈ (s.cluster k).tlb ∧ ¬ e.touches a va len) ∧
      (∀ id, ∃ as, t.wave id = { s.wave id with answers := as } ∧ ∀ x ∈ as, x ∈ (s.wave id).answers ∧
        ¬ ((s.wave id).ctx.asn = a ∧ overlaps (x.page * 4096) 4096 va len = true)) ∧
      (s.rangeInFlight a va len = false → s.tookRecord t i (plainChange n)) ∧
      (s.rangeInFlight a va len = true → s.recordsStand t)) := by
  intro a va len
  let u := (s.packetTaken.dropRange a va len).withFe { s.packetTaken.fe with headers := [] }
  have hflights : s.sameFlights u := (s.sameFlights_dropRange a va len).trans
    ⟨⟨rfl, rfl, rfl⟩, ⟨fun _ => rfl, fun _ => rfl⟩, rfl, fun _ => ⟨rfl, rfl⟩, fun _ => rfl, fun _ _ => rfl⟩
  have hstand : s.recordsStand u := ⟨fun _ => rfl, rfl⟩
  have hexec : exec (.inval n) s = .next (if s.rangeInFlight a va len then u else u.mgmtDone n b) := by
    rw [← hflights.rangeInFlight]
    show execInval n s = _
    rw [execInval, h.withPacket]
    exact congrArg Host.Outcome.next (if_neg (Nat.not_le.2 hasn))
  obtain ⟨htook, hends⟩ := State.mgmtDone_took (s := u) h.holder b
  have hleft : ∀ t, u.ends t → t.fe.headers = [] ∧
      (∀ k e, e ∈ (t.core k).tlb ↔ e ∈ (s.core k).tlb ∧ ¬ e.touches a va len) ∧
      (∀ k e, e ∈ (t.cluster k).tlb ↔ e ∈ (s.cluster k).tlb ∧ ¬ e.touches a va len) ∧
      ∀ id, ∃ as, t.wave id = { s.wave id with answers := as } ∧ ∀ x ∈ as, x ∈ (s.wave id).answers ∧
        ¬ ((s.wave id).ctx.asn = a ∧ overlaps (x.page * 4096) 4096 va len = true) := by
    refine fun t ht => ⟨by rw [ht]; rfl, fun k e => ?_, fun k e => ?_, fun id => ?_⟩
    · rw [ht.core]
      exact s.mem_tlb_dropRange a va len k e
    · rw [ht.cluster]
      exact s.mem_sharedTlb_dropRange a va len k e
    · rw [ht.wave]
      exact s.wave_dropRange a va len id
  cases hbusy : s.rangeInFlight a va len with
  | true =>
    rw [hbusy, if_pos rfl] at hexec
    obtain ⟨hheaders, hcore, hcluster, hwave⟩ := hleft u (State.ends.refl u)
    exact ⟨u, hexec, hheaders, hcore, hcluster, hwave, fun hno => (by cases hno), fun _ => hstand⟩
  | false =>
    rw [hbusy, if_neg Bool.false_ne_true] at hexec
    obtain ⟨hheaders, hcore, hcluster, hwave⟩ := hleft _ hends
    exact ⟨_, hexec, hheaders, hcore, hcluster, hwave, fun _ => htook.of_stand hstand, fun hno => (by cases hno)⟩

theorem exec_invalkey (h : s.nextPacket n i b (.invalkey n)) (hkey : mgmtArg b 0 < 4096) :
    let a := mgmtArg b 0
    let busy := s.inFlight (fun _ _ x => x == a)
    completes (.invalkey n) s (fun t =>
      (∀ k e, e ∈ (t.core k).tlb ↔ e ∈ (s.core k).tlb ∧ e.key ≠ a) ∧
      (∀ k e, e ∈ (t.cluster k).tlb ↔ e ∈ (s.cluster k).tlb ∧ e.key ≠ a) ∧
      (∀ k e, e ∈ (t.core k).icache ↔ e ∈ (s.core k).icache ∧ e.key ≠ a) ∧
      (busy = false → s.tookRecord t i (plainChange n) ∧ t.key a = { s.key a with cleared := true }) ∧
      (busy = true → s.recordsStand t ∧ t.key a = s.key a)) := by
  intro a busy
  let u := s.packetTaken.dropKey a
  let v := u.setKey a { u.key a with cleared := true }
  have hflights : s.sameFlights u := s.sameFlights_dropKey a
  have hstand : s.recordsStand u := ⟨fun _ => rfl, rfl⟩
  have hexec : exec (.invalkey n) s = .next (if busy then u else v.mgmtDone n b) := by
    rw [show busy = u.inFlight (fun _ _ x => x == a) from (hflights.inFlight _).symm]
    show execInvalkey n s = _
    rw [execInvalkey, h.withPacket]
    exact congrArg Host.Outcome.next (if_neg (Nat.not_le.2 hkey))
  obtain ⟨htook, hends⟩ := State.mgmtDone_took (s := v) h.holder b
  have hleft : ∀ w t : State, w.cores = u.cores → w.clusters = u.clusters → w.ends t →
      (∀ k e, e ∈ (t.core k).tlb ↔ e ∈ (s.core k).tlb ∧ e.key ≠ a) ∧
      (∀ k e, e ∈ (t.cluster k).tlb ↔ e ∈ (s.cluster k).tlb ∧ e.key ≠ a) ∧
      ∀ k e, e ∈ (t.core k).icache ↔ e ∈ (s.core k).icache ∧ e.key ≠ a := by
    intro w t hcores hclusters ht
    have hcore : ∀ k, t.core k = u.core k := fun k => by rw [ht.core, State.core, hcores, State.core]
    have hcluster : ∀ k, t.cluster k = u.cluster k := fun k => by rw [ht.cluster, State.cluster, hclusters, State.cluster]
    refine ⟨fun k e => ?_, fun k e => ?_, fun k e => ?_⟩
    · rw [hcore]
      exact s.mem_tlb_dropKey a k e
    · rw [hcluster]
      exact s.mem_sharedTlb_dropKey a k e
    · rw [hcore]
      exact s.mem_icache_dropKey a k e
  cases hbusy : busy with
  | true =>
    rw [hbusy, if_pos rfl] at hexec
    obtain ⟨htlb, hshared, hicache⟩ := hleft u u rfl rfl (State.ends.refl u)
    exact ⟨u, hexec, htlb, hshared, hicache, fun hno => (by cases hno), fun _ => ⟨hstand, rfl⟩⟩
  | false =>
    rw [hbusy, if_neg Bool.false_ne_true] at hexec
    obtain ⟨htlb, hshared, hicache⟩ := hleft v _ rfl rfl hends
    exact ⟨_, hexec, htlb, hshared, hicache,
      fun _ => ⟨htook.of_stand hstand, (hends.key a).trans (Map.getD_set_self ..)⟩, fun hno => (by cases hno)⟩

end Invalidate

end Sys2Proof.Machine
end

section
/-! SUPPORT. Residencies and lines of a revoked slot, and sealed blobs (R89 to R92, R441). -/

namespace Sys2Proof.Machine

/-! ## The residencies of a revoked slot (R91) -/

/-- What holds once one element of a list has been dealt with holds at the end of a fold, where nothing that follows undoes it and
nothing before prevents it. -/
theorem foldl_reaches {α β : Type} {f : β → α → β} {before after : β → Prop} {x : α} (hbefore : ∀ a y, before a → before (f a y))
    (hmake : ∀ a, before a → after (f a x)) (hafter : ∀ a y, after a → after (f a y)) {l : List α} (hx : x ∈ l) :
    ∀ a, before a → after (l.foldl f a) := by
  have hkept : ∀ (l : List α) (a : β), after a → after (l.foldl f a) := by
    intro l
    induction l with
    | nil => exact fun _ h => h
    | cons y l ih => exact fun a h => ih _ (hafter a y h)
  induction l with
  | nil => cases hx
  | cons y l ih =>
    intro a ha
    rcases List.mem_cons.1 hx with rfl | hx
    · exact hkept l _ (hmake a ha)
    · exact ih hx _ (hbefore a y ha)

/-- From `s` to `t` planes may have been freed: the cores but for their TLBs and L1 lines, and the clusters. -/
def State.frees (s t : State) : Prop :=
  t = { s with cores := t.cores, clusters := t.clusters } ∧
    ∀ k, (t.core k).tlb = (s.core k).tlb ∧ (t.core k).l1 = (s.core k).l1

theorem State.frees.refl (s : State) : s.frees s := ⟨rfl, fun _ => ⟨rfl, rfl⟩⟩

theorem State.frees.trans {s t u : State} (h : s.frees t) (h' : t.frees u) : s.frees u := by
  obtain ⟨hrest, hcore⟩ := h
  obtain ⟨hrest', hcore'⟩ := h'
  refine ⟨?_, fun k => ⟨(hcore' k).1.trans (hcore k).1, (hcore' k).2.trans (hcore k).2⟩⟩
  rw [hrest', hrest]

theorem State.frees_foldl {α : Type} {f : State → α → State} (h : ∀ (s : State) x, s.frees (f s x)) (l : List α) (s : State) :
    s.frees (l.foldl f s) := by
  induction l generalizing s with
  | nil => exact State.frees.refl s
  | cons x l ih => exact (h s x).trans (ih _)

theorem Core.zeroPlanes_kept (c : Core) (ps : List Nat) : (c.zeroPlanes ps).tlb = c.tlb ∧ (c.zeroPlanes ps).l1 = c.l1 := by
  unfold Core.zeroPlanes
  induction ps generalizing c with
  | nil => exact ⟨rfl, rfl⟩
  | cons p ps ih => exact ih _

theorem State.frees_setCore (s : State) (k : Nat) {c : Core} (htlb : c.tlb = (s.core k).tlb) (hl1 : c.l1 = (s.core k).l1) :
    s.frees (s.setCore k c) := by
  refine ⟨rfl, fun j => ?_⟩
  rw [State.core_setCore]
  split_ifs with hj
  · rw [hj]
    exact ⟨htlb, hl1⟩
  · exact ⟨rfl, rfl⟩

theorem State.frees_mapResidency (s : State) (k i : Nat) (f : Residency → Residency) : s.frees (s.mapResidency k i f) :=
  ⟨rfl, fun _ => ⟨rfl, rfl⟩⟩

/-- The step of `State.freePlanes` at one core. -/
def State.freeOn (s : State) (k i : Nat) (n : Nat) (ps : List Nat) : State :=
  let c := (s.core n).zeroPlanes ps
  s.setCore n { c with wowner := c.wowner.filter (fun e => e.2 != 256 * k + i) }

theorem State.freePlanes_eq (s : State) (k i : Nat) : s.freePlanes k i =
    ((((s.cluster k).residency i).cores k).foldl (fun t n => t.freeOn k i n (((s.cluster k).residency i).planesOn n)) s).mapResidency k i
      (fun r => { r with planes := [], sidePlane := [] }) := rfl

theorem State.frees_freeOn (s : State) (k i n : Nat) (ps : List Nat) : s.frees (s.freeOn k i n ps) := by
  obtain ⟨htlb, hl1⟩ := (s.core n).zeroPlanes_kept ps
  exact s.frees_setCore n htlb hl1

theorem State.clusters_freeOn (k i : Nat) (f : Nat → List Nat) (l : List Nat) (s : State) :
    (l.foldl (fun t n => t.freeOn k i n (f n)) s).clusters = s.clusters := by
  induction l generalizing s with
  | nil => rfl
  | cons n l ih => exact ih _

theorem State.frees_freePlanes (s : State) (k i : Nat) : s.frees (s.freePlanes k i) := by
  rw [State.freePlanes_eq]
  exact (State.frees_foldl (fun t n => t.frees_freeOn ..) _ s).trans (State.frees_mapResidency ..)

theorem State.residency_mapResidency (s : State) (k i : Nat) (f : Residency → Residency) (k' j : Nat) :
    ((s.mapResidency k i f).cluster k').residency j =
      if k' = k ∧ j = i then f ((s.cluster k).residency i) else (s.cluster k').residency j := by
  unfold State.mapResidency
  dsimp only
  rw [State.cluster_setCluster]
  by_cases hk : k' = k
  · rw [if_pos hk]
    show Map.getD (Map.set _ _ _) _ _ = _
    rw [Map.getD_set]
    subst hk
    by_cases hj : j = i
    · simp [hj]
    · simp [hj, Cluster.residency]
  · rw [if_neg hk, if_neg (fun h => hk h.1)]

/-- A residency whose descriptor names a key slot is revoked, its planes zero and free. -/
def State.revokeOne (s : State) (key c i : Nat) : State :=
  if ((s.cluster c).residency i).st ≠ .free ∧ ((s.cluster c).residency i).key = key then
    (s.freePlanes c i).mapResidency c i (fun r => { r with st := .revoked })
  else s

theorem State.revokeResidencies_eq (s : State) (key : Nat) : s.revokeResidencies key =
    (s.clusters.map (fun e => e.1)).foldl (fun t c => (List.range 256).foldl (fun u i => u.revokeOne key c i) t) s := rfl

theorem State.frees_revokeOne (s : State) (key c i : Nat) : s.frees (s.revokeOne key c i) := by
  unfold State.revokeOne
  split_ifs
  · exact (s.frees_freePlanes c i).trans (State.frees_mapResidency ..)
  · exact State.frees.refl s

theorem State.frees_revokeResidencies (s : State) (key : Nat) : s.frees (s.revokeResidencies key) :=
  State.frees_foldl (fun _ c => State.frees_foldl (fun u i => u.frees_revokeOne key c i) _ _) _ s

theorem State.residency_revokeOne (s : State) (key c i c' j : Nat) : ((s.revokeOne key c i).cluster c').residency j =
    if (c' = c ∧ j = i) ∧ ((s.cluster c).residency i).st ≠ .free ∧ ((s.cluster c).residency i).key = key then
      { (s.cluster c).residency i with planes := [], sidePlane := [], st := .revoked }
    else (s.cluster c').residency j := by
  have hcluster : ∀ k, (((((s.cluster c).residency i).cores c).foldl (fun t n =>
      t.freeOn c i n (((s.cluster c).residency i).planesOn n)) s).cluster k) = s.cluster k := fun k => by
    rw [State.cluster, State.clusters_freeOn, State.cluster]
  unfold State.revokeOne
  by_cases hhit : ((s.cluster c).residency i).st ≠ .free ∧ ((s.cluster c).residency i).key = key
  · rw [if_pos hhit, State.residency_mapResidency, State.freePlanes_eq, State.residency_mapResidency, State.residency_mapResidency,
      hcluster, hcluster]
    by_cases hat : c' = c ∧ j = i
    · simp [hat, hhit]
    · simp only [hat, if_false, false_and]
  · rw [if_neg hhit, if_neg (fun h => hhit h.2)]

/-- A residency that names a key slot is REVOKED once its slot's residencies have been gone through. -/
theorem State.revoked_revokeResidencies {s : State} {key c j : Nat} (hc : c ∈ s.clusters.map (fun e => e.1)) (hj : j < 256)
    (hst : ((s.cluster c).residency j).st ≠ .free) (hkey : ((s.cluster c).residency j).key = key) :
    (((s.revokeResidencies key).cluster c).residency j).st = .revoked := by
  let named := fun u : State => ((u.cluster c).residency j).st ≠ .free ∧ ((u.cluster c).residency j).key = key
  let gone := fun u : State => ((u.cluster c).residency j).st = .revoked
  have hnamed : ∀ (u : State) d i, named u → named (u.revokeOne key d i) := by
    intro u d i h
    simp only [named, u.residency_revokeOne key d i c j]
    split_ifs with hat
    · exact ⟨by simp, hat.2.2⟩
    · exact h
  have hgone : ∀ (u : State) d i, gone u → gone (u.revokeOne key d i) := by
    intro u d i h
    simp only [gone, u.residency_revokeOne key d i c j]
    split_ifs
    · rfl
    · exact h
  have hmake : ∀ u : State, named u → gone (u.revokeOne key c j) := by
    intro u h
    show (((u.revokeOne key c j).cluster c).residency j).st = .revoked
    rw [u.residency_revokeOne key c j c j, if_pos ⟨⟨rfl, rfl⟩, h⟩]
  have hkept : ∀ {P : State → Prop}, (∀ (u : State) d i, P u → P (u.revokeOne key d i)) → ∀ u d, P u →
      P ((List.range 256).foldl (fun u i => u.revokeOne key d i) u) := fun {P} hP u d hu => by
    generalize List.range 256 = l
    induction l generalizing u with
    | nil => exact hu
    | cons i l ih => exact ih _ (hP u d i hu)
  rw [State.revokeResidencies_eq]
  exact foldl_reaches (before := named) (after := gone) (x := c) (fun u d => hkept hnamed u d)
    (foldl_reaches (fun u i => hnamed u c i) hmake (fun u i => hgone u c i) (List.mem_range.2 hj))
    (fun u d => hkept hgone u d) hc s ⟨hst, hkey⟩

/-! ## Lines dropped -/

section DropLines
variable (s : State) (key : Nat)

theorem State.l1_dropLines (k : Nat) : ((s.dropLines key).core k).l1 = (s.core k).l1.filter (fun l => l.key != key) :=
  congrArg Core.l1 (Map.getD_map s.cores (fun c : Core => ({ c with l1 := c.l1.filter (fun l => l.key != key) } : Core)) k Core.reset)

/-- A slice without the lines tagged with a key slot. -/
def Slice.unlined (x : Slice) : Slice := { x with
  sets := x.sets.map (fun v => (v.1, v.2.filter (fun w => w.key != key)))
  mts := x.sets.foldl (fun t e => e.2.foldl (fun t w => if w.key == key then max t w.rts else t) t) x.mts }

theorem State.slice_dropLines (k : Nat) : (s.dropLines key).slice k = (s.slice k).unlined key :=
  Map.getD_map s.net.slices (Slice.unlined key) k Slice.reset

theorem Slice.key_of_unlined (x : Slice) {e : Nat × List Way} (he : e ∈ (x.unlined key).sets) {w : Way} (hw : w ∈ e.2) :
    w.key ≠ key := by
  obtain ⟨v, -, rfl⟩ := List.mem_map.1 he
  simpa using (List.mem_filter.1 hw).2

end DropLines

/-! ## Sealed blobs (R441) -/

/-- A blob opened for a domain and an operation, with a counter that has not been used. -/
def Blob.accepted (v : Blob) (dom op counter : Nat) : Prop := v.dom = dom ∧ v.op = op ∧ counter ≤ v.counter ∧ v.slot < 4096

/-- The state with the counter of a blob accepted. -/
def State.counted (s : State) (dom : Nat) (x : Session) (v : Blob) : State :=
  { s with box := { s.box with sessions := Map.set s.box.sessions dom { x with counter := v.counter + 1 } } }

section Blobs
variable {s : State} {die n op i : Nat} {b bs : List Byte} {x : Session} {body : State → Nat → Option State}

theorem State.withBlob_refused
    (hload : s.feLoad die (feOwner n 2) (s.queueContext n) (mgmtArg b 0 % 2 ^ 57) blobBytes (s.laneQueue n).hts = (s, .done bs))
    (hsession : Map.get? s.box.sessions (s.laneQueue n).dom = some x)
    (hbad : ∀ v, openBlob x.secret bs = some v → ¬ v.accepted (s.laneQueue n).dom op x.counter) :
    s.withBlob die n op b body = s.mgmtFail n := by
  cases hopen : openBlob x.secret bs with
  | none => simp only [State.withBlob, hload, hsession, hopen]
  | some v =>
    have hrefused : v.dom ≠ (s.laneQueue n).dom ∨ v.op ≠ op ∨ v.counter < x.counter ∨ 4096 ≤ v.slot := by
      have h := hbad v hopen
      unfold Blob.accepted at h
      omega
    simp only [State.withBlob, hload, hsession, hopen, if_pos hrefused]

theorem State.withBlob_accepted
    (hload : s.feLoad die (feOwner n 2) (s.queueContext n) (mgmtArg b 0 % 2 ^ 57) blobBytes (s.laneQueue n).hts = (s, .done bs))
    (hsession : Map.get? s.box.sessions (s.laneQueue n).dom = some x) {v : Blob} (hopen : openBlob x.secret bs = some v)
    (hgood : v.accepted (s.laneQueue n).dom op x.counter) :
    (body (s.counted (s.laneQueue n).dom x v) v.slot = none →
      s.withBlob die n op b body = (s.counted (s.laneQueue n).dom x v).mgmtFail n) ∧
    ∀ t, body (s.counted (s.laneQueue n).dom x v) v.slot = some t →
      s.withBlob die n op b body = (t.logNote die 0x12 false (s.laneQueue n).dom 0 v.slot).mgmtDone n b := by
  have hgood' : ¬ (v.dom ≠ (s.laneQueue n).dom ∨ v.op ≠ op ∨ v.counter < x.counter ∨ 4096 ≤ v.slot) := by
    unfold Blob.accepted at hgood
    omega
  refine ⟨fun hbody => ?_, fun t hbody => ?_⟩ <;> unfold State.counted at hbody <;>
    simp only [State.withBlob, hload, hsession, hopen, if_neg hgood', hbody]
  rfl

end Blobs

/-! ## KEYLOAD and KEYREVOKE (R89, R91, R92) -/

/-- What KEYLOAD does with the slot that its blob names. -/
def State.keyLoaded (n : Nat) (s : State) (k : Nat) : Option State :=
  let x := s.key k
  if x.st = .empty ∨ (x.st = .revoked ∧ x.cleared) then some (s.setKey k ⟨.loaded, (s.laneQueue n).dom, x.epoch + 1, false⟩)
  else none

/-- What KEYREVOKE does with the slot that its blob names. -/
def State.keyRevoked (n : Nat) (s : State) (k : Nat) : Option State :=
  let x := s.key k
  if x.st = .loaded ∧ x.owner = (s.laneQueue n).dom then
    some ((((s.setKey k { x with st := .revoked, cleared := false }).dropLines k).dropKey k).revokeResidencies k)
  else none

/-- What a sealed operation keeps of a state for the retirement of its packet. -/
def State.sealedOn (s t : State) : Prop := s.recordsStand t ∧ (∀ n, t.holder n = s.holder n) ∧ t.box = s.box

section Sealed
variable {s t u : State} {n i op : Nat} {row : Instr} {b bs : List Byte} {x : Session}
  {body : State → Nat → Option State}

/-- A sealed operation takes its packet from its queue: without effect where the blob is not accepted, and else with the counter
kept, and what the operation does with the slot. -/
theorem exec_sealed (h : s.nextPacket n i b row)
    (hexec : exec row s = .next (s.packetTaken.withBlob (i / 32) n op b body))
    (himage : s.packetTaken.imageAt (i / 32) n (mgmtArg b 0) blobBytes t bs)
    (hsession : Map.get? s.box.sessions (s.queueAt (i / 32) n).dom = some x)
    (hbody : ∀ u k v, body u k = some v → u.sealedOn v) :
    ∃ t, exec row s = .next t ∧ s.popped t n i ∧
      ((∀ v, openBlob x.secret bs = some v → ¬ v.accepted (s.queueAt (i / 32) n).dom op x.counter) → s.packetTaken.ends t) ∧
      ∀ v, openBlob x.secret bs = some v → v.accepted (s.queueAt (i / 32) n).dom op x.counter →
        let u := s.packetTaken.counted (s.queueAt (i / 32) n).dom x v
        (body u v.slot = none ∧ u.ends t) ∨ ∃ w, body u v.slot = some w ∧
          (w.logNote (i / 32) 0x12 false (s.queueAt (i / 32) n).dom 0 v.slot).ends t := by
  let u := s.packetTaken
  have hdom : u.laneQueue n = s.queueAt (i / 32) n := h.laneQueue
  have hstand : s.recordsStand u := s.tidies_packetTaken.recordsStand
  obtain rfl : t = u := State.feLoad_done himage
  have hsession' : Map.get? u.box.sessions (u.laneQueue n).dom = some x := by rwa [hdom]
  rw [← hdom]
  by_cases hgood : ∃ v, openBlob x.secret bs = some v ∧ v.accepted (u.laneQueue n).dom op x.counter
  · obtain ⟨v, hopen, haccepted⟩ := hgood
    have hv : ∀ {v'}, openBlob x.secret bs = some v' → v' = v := fun h' => Option.some.inj (h'.symm.trans hopen)
    let w := u.counted (u.laneQueue n).dom x v
    have hholder : w.holder n = some i := h.holder
    obtain ⟨hnone, hsome⟩ := State.withBlob_accepted (body := body) himage hsession' hopen haccepted
    cases hw : body w v.slot with
    | none =>
      rw [hnone hw] at hexec
      obtain ⟨hpopped, hends⟩ := State.mgmtFail_popped hholder
      refine ⟨_, hexec, State.popped.of_stand hstand hpopped, fun hbad => absurd haccepted (hbad v hopen), fun v' h' _ => ?_⟩
      obtain rfl := hv h'
      exact .inl ⟨hw, hends⟩
    | some w' =>
      rw [hsome w' hw] at hexec
      obtain ⟨hstand', hholder', -⟩ := hbody w v.slot w' hw
      have hnote : w'.recordsStand (w'.logNote (i / 32) 0x12 false (u.laneQueue n).dom 0 v.slot) := ⟨fun _ => rfl, rfl⟩
      obtain ⟨htook, hends⟩ := State.mgmtDone_took (n := n) (i := i)
        (s := w'.logNote (i / 32) 0x12 false (u.laneQueue n).dom 0 v.slot) ((hholder' n).trans hholder) b
      have hall : s.recordsStand (w'.logNote (i / 32) 0x12 false (u.laneQueue n).dom 0 v.slot) :=
        hstand.trans (State.recordsStand.trans hstand' hnote)
      refine ⟨_, hexec, State.popped_of_took (htook.of_stand hall), fun hbad => absurd haccepted (hbad v hopen),
        fun v' h' _ => ?_⟩
      obtain rfl := hv h'
      exact .inr ⟨w', hw, hends⟩
  · have hbad : ∀ v, openBlob x.secret bs = some v → ¬ v.accepted (u.laneQueue n).dom op x.counter :=
      fun v hopen haccepted => hgood ⟨v, hopen, haccepted⟩
    rw [State.withBlob_refused himage hsession' hbad] at hexec
    obtain ⟨hpopped, hends⟩ := State.mgmtFail_popped (s := u) h.holder
    exact ⟨_, hexec, State.popped.of_stand hstand hpopped, fun _ => hends, fun v hopen haccepted => absurd haccepted (hbad v hopen)⟩

end Sealed

section Keys
variable {s t : State} {n k : Nat}

theorem State.sealedOn_keyLoaded (h : s.keyLoaded n k = some t) : s.sealedOn t := by
  unfold State.keyLoaded at h
  dsimp only at h
  split_ifs at h
  obtain rfl := Option.some.inj h
  exact ⟨⟨fun _ => rfl, rfl⟩, fun _ => rfl, rfl⟩

theorem State.frees.recordsStand (h : s.frees t) : s.recordsStand t := by
  obtain ⟨hrest, -⟩ := h
  rw [hrest]
  exact ⟨fun _ => rfl, rfl⟩

theorem State.sealedOn_keyRevoked (h : s.keyRevoked n k = some t) : s.sealedOn t := by
  unfold State.keyRevoked at h
  dsimp only at h
  split_ifs at h
  obtain rfl := Option.some.inj h
  have hfrees := (((s.setKey k { s.key k with st := .revoked, cleared := false }).dropLines k).dropKey k).frees_revokeResidencies k
  obtain ⟨hrest, -⟩ := id hfrees
  refine ⟨hfrees.recordsStand, fun n => ?_, ?_⟩
  · rw [hrest]
    rfl
  · rw [hrest]
    rfl

/-- A slot that is not LOADED for the domain of its KEYREVOKE stands; of one that is, nothing tagged with it is left. -/
theorem State.keyRevoked_leaves {w : State} (h : s.keyRevoked n k = some w) :
    (w.key k).st = .revoked ∧ (w.key k).cleared = false ∧ (∀ j, ∀ e ∈ (w.core j).tlb, e.key ≠ k) ∧
      (∀ j, ∀ e ∈ (w.core j).l1, e.key ≠ k) ∧ (∀ j, ∀ e ∈ (w.slice j).sets, ∀ x ∈ e.2, x.key ≠ k) ∧
      ∀ e ∈ s.clusters, ∀ j, j < 256 → ((s.cluster e.1).residency j).st ≠ .free →
        ((s.cluster e.1).residency j).key = k → ((w.cluster e.1).residency j).st = .revoked := by
  unfold State.keyRevoked at h
  dsimp only at h
  split_ifs at h
  obtain rfl := Option.some.inj h
  let lines := (s.setKey k { s.key k with st := .revoked, cleared := false }).dropLines k
  let u := lines.dropKey k
  have hfrees := u.frees_revokeResidencies k
  obtain ⟨hrest, hcore⟩ := hfrees
  have hkey : (u.revokeResidencies k).key k = { s.key k with st := .revoked, cleared := false } := by
    rw [hrest]
    exact Map.getD_set_self ..
  have hslice : ∀ j, (u.revokeResidencies k).slice j = (s.slice j).unlined k := fun j => by
    rw [hrest]
    exact State.slice_dropLines (s.setKey k { s.key k with st := .revoked, cleared := false }) k j
  refine ⟨by rw [hkey], by rw [hkey], fun j e he => ?_, fun j e he => ?_, fun j e he x hx => ?_, fun e he j hj hst hk => ?_⟩
  · rw [(hcore j).1] at he
    exact ((lines.mem_tlb_dropKey k j e).1 he).2
  · have hl1 : (u.core j).l1 = (s.core j).l1.filter (fun l => l.key != k) := by
      rw [State.core_dropKey]
      exact State.l1_dropLines (s.setKey k { s.key k with st := .revoked, cleared := false }) k j
    rw [(hcore j).2, hl1] at he
    simpa using (List.mem_filter.1 he).2
  · rw [hslice j] at he
    exact (s.slice j).key_of_unlined k he hx
  · have hresidency : ∀ c r, (u.cluster c).residency r = (s.cluster c).residency r := fun c => (lines.cluster_dropKey k c).2
    have hmem : e.1 ∈ u.clusters.map (fun e => e.1) := by
      show e.1 ∈ (s.clusters.map _).map _
      rw [List.map_map]
      exact List.mem_map.2 ⟨e, he, rfl⟩
    exact State.revoked_revokeResidencies hmem hj (by rwa [hresidency]) (by rwa [hresidency])

end Keys

section KeyPackets
variable {s t : State} {n i : Nat} {b bs : List Byte} {x : Session}

theorem State.counted_session {s t : State} {dom : Nat} {x : Session} {v : Blob} (hbox : t.box = (s.counted dom x v).box) :
    ∀ z, Map.get? t.box.sessions dom = some z → z = { x with counter := v.counter + 1 } := by
  intro z hz
  rw [hbox] at hz
  exact Option.some.inj (hz.symm.trans (Map.get?_set_self ..))

/-- What a sealed operation leaves of the slots, the sessions and what a revoked slot's data were in. -/
theorem exec_keys {r : Instr × Nat} (hr : r ∈ ([(.keyload n, 3), (.keyrevoke n, 4)] : List (Instr × Nat)))
    (h : s.nextPacket n i b r.1) (himage : s.packetTaken.imageAt (i / 32) n (mgmtArg b 0) blobBytes t bs)
    (hsession : Map.get? s.box.sessions (s.queueAt (i / 32) n).dom = some x) :
    let q := s.queueAt (i / 32) n
    completes r.1 s (fun t => s.popped t n i ∧
      ((∀ v, openBlob x.secret bs = some v → ¬ (v.dom = q.dom ∧ v.op = r.2 ∧ x.counter ≤ v.counter ∧ v.slot < 4096)) →
        t.ms.keys = s.ms.keys ∧ t.box = s.box) ∧
      ∀ v, openBlob x.secret bs = some v → v.dom = q.dom → v.op = r.2 → x.counter ≤ v.counter → v.slot < 4096 →
        let y := s.key v.slot
        (∀ z, Map.get? t.box.sessions q.dom = some z → z = { x with counter := v.counter + 1 }) ∧
        (r.2 = 3 → t.key v.slot =
          if y.st = .empty ∨ (y.st = .revoked ∧ y.cleared = true) then ⟨.loaded, q.dom, y.epoch + 1, false⟩ else y) ∧
        (r.2 = 4 → y.st = .loaded → y.owner = q.dom →
          (t.key v.slot).st = .revoked ∧ (t.key v.slot).cleared = false ∧
          (∀ k, ∀ e ∈ (t.core k).tlb, e.key ≠ v.slot) ∧ (∀ k, ∀ e ∈ (t.core k).l1, e.key ≠ v.slot) ∧
          (∀ k, ∀ e ∈ (t.slice k).sets, ∀ w ∈ e.2, w.key ≠ v.slot) ∧
          ∀ e ∈ s.clusters, ∀ j, j < 256 → ((s.cluster e.1).residency j).st ≠ .free →
            ((s.cluster e.1).residency j).key = v.slot → ((t.cluster e.1).residency j).st = .revoked)) := by
  intro q
  have hlane : ∀ v, (s.packetTaken.counted q.dom x v).laneQueue n = q := fun _ => h.laneQueue
  rcases List.mem_cons.1 hr with rfl | hr
  · obtain ⟨t, hexec, hpopped, hbad, hgood⟩ := exec_sealed (body := State.keyLoaded n) h (congrArg Host.Outcome.next (h.withPacket _))
      himage hsession fun u k v hv => State.sealedOn_keyLoaded hv
    refine ⟨t, hexec, hpopped, fun hno => ⟨by rw [hbad hno]; rfl, (hbad hno).box⟩, fun v hopen hdom hop hcount hslot => ?_⟩
    rcases hgood v hopen ⟨hdom, hop, hcount, hslot⟩ with ⟨hnone, hends⟩ | ⟨w, hsome, hends⟩
    · refine ⟨State.counted_session hends.box, fun _ => ?_, fun hno => by cases hno⟩
      unfold State.keyLoaded at hnone
      dsimp only at hnone
      split_ifs at hnone with hfree
      exact (hends.key v.slot).trans (if_neg hfree).symm
    · refine ⟨State.counted_session (hends.box.trans (State.sealedOn_keyLoaded hsome).2.2), fun _ => ?_, fun hno => by cases hno⟩
      unfold State.keyLoaded at hsome
      dsimp only at hsome
      split_ifs at hsome with hfree
      obtain rfl := Option.some.inj hsome
      refine (hends.key v.slot).trans ((Map.getD_set_self ..).trans ?_)
      rw [hlane v]
      exact (if_pos hfree).symm
  · obtain rfl := List.mem_singleton.1 hr
    obtain ⟨t, hexec, hpopped, hbad, hgood⟩ := exec_sealed (body := State.keyRevoked n) h (congrArg Host.Outcome.next (h.withPacket _))
      himage hsession fun u k v hv => State.sealedOn_keyRevoked hv
    refine ⟨t, hexec, hpopped, fun hno => ⟨by rw [hbad hno]; rfl, (hbad hno).box⟩, fun v hopen hdom hop hcount hslot => ?_⟩
    rcases hgood v hopen ⟨hdom, hop, hcount, hslot⟩ with ⟨hnone, hends⟩ | ⟨w, hsome, hends⟩
    · refine ⟨State.counted_session hends.box, fun hno => (by cases hno), fun _ hst howner => ?_⟩
      unfold State.keyRevoked at hnone
      dsimp only at hnone
      rw [hlane v, if_pos ⟨hst, howner⟩] at hnone
      cases hnone
    · refine ⟨State.counted_session (hends.box.trans (State.sealedOn_keyRevoked hsome).2.2), fun hno => (by cases hno), fun _ hst howner => ?_⟩
      obtain ⟨hrevoked, hcleared, htlb, hl1, hslices, hresidencies⟩ := State.keyRevoked_leaves hsome
      have hcore : ∀ k, t.core k = w.core k := hends.core
      have hcluster : ∀ k, t.cluster k = w.cluster k := hends.cluster
      have hslice : ∀ k, t.slice k = w.slice k := hends.slice
      have hkey : t.key v.slot = w.key v.slot := hends.key _
      simp only [hcore, hcluster, hslice, hkey]
      exact ⟨hrevoked, hcleared, htlb, hl1, hslices, hresidencies⟩

end KeyPackets

/-- Settles O54: an invalidation drops what it covers and retires where no access in flight used it; a sealed blob is accepted or
refused, and one that is accepted loads or revokes its slot. -/
theorem invalidationsAndKeys : Obligations.InvalidationsAndKeys := by
  unfold Obligations.InvalidationsAndKeys
  exact fun s n i b => ⟨exec_inval, exec_invalkey, fun r hr h t bs himage x hsession => exec_keys hr h himage hsession⟩

end Sys2Proof.Machine
end

section
/-! SUPPORT. The parts of a page's migration (R85, R88). -/

namespace Sys2Proof.Machine

/-! ## Accesses of firmware to the entries of a page table (R85)

An access that has been answered, well or ill, changes nothing. -/

section Phys
variable {s s1 : State} {die owner dom key pa ts opx : Nat} {ty : PType} {data : List Byte} {x : FeAnswer}

theorem State.fePhys_answered (h : s.fePhys die owner dom key pa ts ty opx data = (s1, x)) (hx : x ≠ .later) : s1 = s := by
  unfold State.fePhys at h
  dsimp only at h
  split at h
  · exact (congrArg Prod.fst h).symm
  · split at h
    · exact absurd (congrArg Prod.snd h).symm hx
    · split at h
      · exact (congrArg Prod.fst h).symm
      · exact absurd (congrArg Prod.snd h).symm hx

theorem State.leafFrom_answered {d : Dom} {va : Nat} {y : LeafFound} (k : Nat) : ∀ {s s1 : State} {l table key : Nat},
    State.leafFrom die owner d va ts k s l table key = (s1, y) → y ≠ .later → s1 = s := by
  induction k with
  | zero => exact fun h _ => (congrArg Prod.fst h).symm
  | succ k ih =>
    intro s s1 l table key h hy
    unfold State.leafFrom at h
    dsimp only at h
    split at h
    · exact (congrArg Prod.fst h).symm
    · split at h
      case h_1 => exact absurd (congrArg Prod.snd h).symm hy
      case h_2 hfail =>
        rw [← State.fePhys_answered hfail (by simp)]
        exact (congrArg Prod.fst h).symm
      case h_3 hdone =>
        have hsame := State.fePhys_answered hdone (by simp)
        rw [← hsame]
        split_ifs at h
        · exact (congrArg Prod.fst h).symm
        · exact (congrArg Prod.fst h).symm
        · exact ih h hy

theorem State.markLeaves_answered {m : Migration} (k : Nat) : ∀ {s s1 : State},
    State.markLeaves die owner dom ts m k s = (s1, x) → x ≠ .later → s1 = s := by
  induction k with
  | zero => exact fun h _ => (congrArg Prod.fst h).symm
  | succ k ih =>
    intro s s1 h hx
    unfold State.markLeaves at h
    split at h
    case h_1 hdone =>
      rw [← State.fePhys_answered hdone (by simp)]
      exact ih h hx
    case h_2 => exact State.fePhys_answered h hx

theorem State.moveLeaves_answered {m : Migration} {new : Nat} (k : Nat) : ∀ {s s1 : State},
    State.moveLeaves die owner dom ts m new k s = (s1, x) → x ≠ .later → s1 = s := by
  induction k with
  | zero => exact fun h _ => (congrArg Prod.fst h).symm
  | succ k ih =>
    intro s s1 h hx
    unfold State.moveLeaves at h
    dsimp only at h
    split at h
    case h_1 hread =>
      have hsame := State.fePhys_answered hread (by simp)
      split at h
      case h_1 hwrite =>
        rw [← hsame, ← State.fePhys_answered hwrite (by simp)]
        exact ih h hx
      case h_2 => exact (State.fePhys_answered h hx).trans hsame
    case h_2 => exact State.fePhys_answered h hx

end Phys

/-! ## Packets to the old homes of a page -/

section Send
variable {die : Nat} {d : Dom} {m : Migration} {ty : PType}

/-- The packet to an old home of a page. -/
def migrationPacket (die : Nat) (d : Dom) (m : Migration) (ty : PType) (k : Nat) : Packet :=
  { (fePacket ty d.plan.num m.key m.base m.len 0 []) with port := cicadaPort die, slice := k, ld := m.new, mt2 := m.mt2 }

/-- Packets sent to slices: their wires, behind those there. -/
theorem State.foldl_sendRequest (p : Nat → Packet) (l : List Nat) (s : State) :
    l.foldl (fun t k => t.sendRequest (p k)) s = { s with net := { s.net with
      wires := s.net.wires ++ l.map (fun k => ⟨p k, 0, requestPath (s.domOf (p k).dom) (p k).port (p k).slice, []⟩) } } := by
  induction l generalizing s with
  | nil => simp
  | cons k l ih =>
    rw [List.foldl_cons, ih]
    simp only [State.sendRequest, List.map_cons, List.append_assoc, List.singleton_append]
    rfl

theorem State.sendMigration_eq (s : State) : s.sendMigration die d m ty = { s with net := { s.net with
    wires := s.net.wires ++ d.slices.map (fun k => ⟨migrationPacket die d m ty k, 0,
      requestPath (s.domOf d.plan.num) (cicadaPort die) k, []⟩) } } :=
  State.foldl_sendRequest (migrationPacket die d m ty) d.slices s

theorem State.wires_sendMigration (s : State) : (∀ f ∈ (s.sendMigration die d m ty).net.wires, f ∈ s.net.wires ∨ f.pkt.ty = ty) ∧
    ∀ k ∈ d.slices, ∃ f ∈ (s.sendMigration die d m ty).net.wires, f.pkt = migrationPacket die d m ty k := by
  rw [State.sendMigration_eq]
  refine ⟨fun f hf => ?_, fun k hk => ⟨_, List.mem_append_right _ (List.mem_map.2 ⟨k, hk, rfl⟩), rfl⟩⟩
  rcases List.mem_append.1 hf with hf | hf
  · exact .inl hf
  · obtain ⟨k, -, rfl⟩ := List.mem_map.1 hf
    exact .inr rfl

end Send

/-! ## The parts of a MIGRATE (R85) -/

section EndsMigration
variable {s t : State}

theorem State.ends.migs (h : s.ends t) : t.fe.migs = s.fe.migs := by rw [h]
theorem State.ends.net (h : s.ends t) : t.net = s.net := by rw [h]

/-- A migration that ends with its packet, whatever it sends: the packet is gone from its queue, and the queue migrates nothing. -/
theorem State.migration_failed {u : State} {n i : Nat} (hstand : s.recordsStand u) (hholder : u.holder n = some i)
    (hmigs : u.fe.migs = s.fe.migs) (hsorted : Map.sorted s.fe.migs = true) :
    s.popped ((u.setMigration n none).mgmtFail n) n i ∧ Map.get? ((u.setMigration n none).mgmtFail n).fe.migs n = none ∧
      ((u.setMigration n none).mgmtFail n).net = u.net := by
  obtain ⟨hpopped, hends⟩ := State.mgmtFail_popped (s := u.setMigration n none) (n := n) (i := i) hholder
  refine ⟨State.popped.of_stand ⟨hstand.1, hstand.2⟩ hpopped, ?_, hends.net⟩
  rw [hends.migs]
  show Map.get? (Map.del u.fe.migs n) n = none
  rw [hmigs, Map.get?_del _ _ _ hsorted, if_pos rfl]

end EndsMigration

section Parts
variable {s : State} {n i : Nat} {b : List Byte}

theorem exec_migrate (h : s.nextPacket n i b (.migrate n)) :
    (Map.get? s.fe.migs n = none → exec (.migrate n) s =
      .next (s.packetTaken.startMigration (i / 32) n (s.domOf (s.queueAt (i / 32) n).dom) b)) ∧
    ∀ m, Map.get? s.fe.migs n = some m → exec (.migrate n) s =
      .next (s.packetTaken.runMigration (i / 32) n (s.domOf (s.queueAt (i / 32) n).dom) b m) := by
  have hexec : exec (.migrate n) s = .next (match Map.get? s.packetTaken.fe.migs n with
      | none => s.packetTaken.startMigration (i / 32) n (s.packetTaken.domOf (s.packetTaken.laneQueue n).dom) b
      | some m => s.packetTaken.runMigration (i / 32) n (s.packetTaken.domOf (s.packetTaken.laneQueue n).dom) b m) :=
    congrArg Host.Outcome.next (h.withPacket _)
  have hdom : s.packetTaken.domOf (s.packetTaken.laneQueue n).dom = s.domOf (s.queueAt (i / 32) n).dom := by
    rw [show s.packetTaken.laneQueue n = s.queueAt (i / 32) n from h.laneQueue]
    rfl
  rw [hexec, hdom]
  refine ⟨fun hnone => ?_, fun m hsome => ?_⟩
  · rw [show Map.get? s.packetTaken.fe.migs n = none from hnone]
  · rw [show Map.get? s.packetTaken.fe.migs n = some m from hsome]

end Parts

section Start
variable {s : State} {n i : Nat} {b : List Byte}

/-- The first part of a migration: the leaf entry found and judged. -/
theorem exec_migrate_start (h : s.nextPacket n i b (.migrate n)) (hnone : Map.get? s.fe.migs n = none) (s1 : State) :
    let u := s.packetTaken
    let q := s.queueAt (i / 32) n
    let d := s.domOf q.dom
    let ctx := s.queueContext n
    let va := mgmtArg b 0 % 2 ^ 57
    let frame := mgmtArg b 1
    let walked := State.leafFrom (i / 32) (feOwner n 2) d va q.hts 5 u 4 (ctx.root * 4096) ctx.key
    (walked = (s1, .later) → exec (.migrate n) s = .next s1) ∧
    (walked = (s1, .bad) → completes (.migrate n) s (fun t => s.popped t n i)) ∧
    ∀ pa level e key, walked = (s1, .found pa level e key) →
      let size := e.testBit 4
      let bits := leafBits level size
      let new := frame * 4096 / 2 ^ bits * 2 ^ bits
      let leaf := if size then pa / 128 * 128 else pa
      e.testBit 7 = false → leafBase level e < 2 ^ 50 → frame < 2 ^ 40 → (size = true ∨ frame * 4096 % 2 ^ bits = 0) →
      (frame * 4096 / 2 ^ 50 = 3 ∨ d.holds new = true ∧ d.holds (new + 2 ^ bits - 1) = true) →
      completes (.migrate n) s (fun t => s.recordsStand t ∧ t.ms = s1.ms ∧ (∀ r ∈ t.fe.reads, r.owner ≠ feOwner n 2) ∧
        Map.get? t.fe.migs n = some {
          asr := q.asr, va := va / 2 ^ bits * 2 ^ bits, base := leafBase level e, len := 2 ^ bits, new := new
          key := bitsOf 52 12 e, mt2 := bitsOf 8 2 e == 2, leaf := leaf, count := if size then 16 else 1
          tableKey := key, phase := 0 }) := by
  intro u q d ctx va frame walked
  have hexec := (exec_migrate h).1 hnone
  have hq : u.laneQueue n = q := h.laneQueue
  have hctx : u.queueContext n = ctx := rfl
  have hwalked : State.leafFrom (i / 32) (feOwner n 2) d va (u.laneQueue n).hts 5 u 4 ((u.queueContext n).root * 4096)
      (u.queueContext n).key = walked := by rw [hq, hctx]
  have hstand : s.recordsStand u := s.tidies_packetTaken.recordsStand
  unfold State.startMigration at hexec
  dsimp only at hexec
  refine ⟨fun hlater => ?_, fun hbad => ?_, ?_⟩
  · rw [hwalked.trans hlater] at hexec
    exact hexec
  · obtain rfl : s1 = u := State.leafFrom_answered _ hbad (by simp)
    rw [hwalked.trans hbad] at hexec
    exact ⟨_, hexec, State.popped.of_stand hstand (State.mgmtFail_popped (s := u) h.holder).1⟩
  · intro pa level e key hfound size bits new leaf hmig hbase hframe halign hplace
    obtain rfl : s1 = u := State.leafFrom_answered _ hfound (by simp)
    have hok : newFrameOk d frame bits size = true := by
      simp only [newFrameOk, Bool.and_eq_true, Bool.or_eq_true, decide_eq_true_eq, beq_iff_eq]
      exact ⟨⟨hframe, halign⟩, hplace⟩
    have hsound : ¬ (e.testBit 7 = true ∨ 2 ^ 50 ≤ leafBase level e ∨ (!newFrameOk d frame bits size) = true) := by
      rw [hmig, hok]
      simp only [Bool.not_true, Bool.false_eq_true, false_or, or_false, Nat.not_le]
      exact hbase
    rw [hwalked.trans hfound] at hexec
    dsimp only at hexec
    rw [if_neg hsound] at hexec
    refine ⟨_, hexec, ⟨fun _ => rfl, rfl⟩, rfl, fun r hr => ?_, ?_⟩
    · simpa using (List.mem_filter.1 hr).2
    · rw [hq]
      exact Map.get?_set_self ..

end Start

section Phases
variable {s : State} {n i : Nat} {b : List Byte} {m : Migration}

/-- The state with a migration in its next part. -/
def State.nextPart (s : State) (n : Nat) (m : Migration) (p : Nat) : State :=
  (s.feForget (feOwner n 2)).setMigration n (some { m with phase := p })

theorem State.migs_nextPart (s : State) (p : Nat) : Map.get? (s.nextPart n m p).fe.migs n = some { m with phase := p } :=
  Map.get?_set_self ..

/-- MIG = 1 set in the leaf entries of the page, one after another. -/
theorem exec_migrate_mark (h : s.nextPacket n i b (.migrate n)) (hm : Map.get? s.fe.migs n = some m) (hphase : m.phase = 0)
    (s1 : State) :
    let q := s.queueAt (i / 32) n
    let d := s.domOf q.dom
    let marked := State.markLeaves (i / 32) (feOwner n 2) d.plan.num q.hts m m.count s.packetTaken
    (marked = (s1, .later) → exec (.migrate n) s = .next s1) ∧
    (∀ bs, marked = (s1, .done bs) → completes (.migrate n) s (fun t => s.recordsStand t ∧ t.ms = s1.ms ∧
      Map.get? t.fe.migs n = some { m with phase := 1 })) ∧
    (marked = (s1, .fail) → Map.sorted s.fe.migs = true →
      completes (.migrate n) s (fun t => s.popped t n i ∧ Map.get? t.fe.migs n = none)) := by
  intro q d marked
  have hexec := (exec_migrate h).2 m hm
  have hmarked : State.markLeaves (i / 32) (feOwner n 2) d.plan.num (s.packetTaken.laneQueue n).hts m m.count s.packetTaken = marked := by
    rw [show s.packetTaken.laneQueue n = q from h.laneQueue]
  simp only [State.runMigration, hphase] at hexec
  refine ⟨fun hlater => ?_, fun bs hdone => ?_, fun hfail hsorted => ?_⟩
  · rw [hmarked.trans hlater] at hexec
    exact hexec
  · obtain rfl := State.markLeaves_answered _ hdone (by simp)
    rw [hmarked.trans hdone] at hexec
    exact ⟨_, hexec, ⟨fun _ => rfl, rfl⟩, rfl, State.migs_nextPart ..⟩
  · obtain rfl := State.markLeaves_answered _ hfail (by simp)
    rw [hmarked.trans hfail] at hexec
    obtain ⟨hpopped, hmigs, -⟩ := State.migration_failed (s := s) s.tidies_packetTaken.recordsStand h.holder rfl hsorted
    exact ⟨_, hexec, hpopped, hmigs⟩

/-- The reduction of the first leaf entry, sent to its home. -/
theorem exec_migrate_red (h : s.nextPacket n i b (.migrate n)) (hm : Map.get? s.fe.migs n = some m) (hphase : m.phase = 0)
    (hcount : 0 < m.count) (hreads : ∀ r ∈ s.fe.reads, r.owner ≠ feOwner n 2) :
    let u := s.packetTaken
    let q := s.queueAt (i / 32) n
    let d := s.domOf q.dom
    let me := Client.cicada (feOwner n 2) (2 ^ 58 + 2 * m.leaf + 1)
    u.asked (cicadaPort (i / 32)) me = false → ∀ x home, u.homeOf d.plan.num m.leaf = some (x, home) →
    exec (.migrate n) s = .next (u.portQueue (cicadaPort (i / 32)) { fePacket .red d.plan.num m.tableKey m.leaf 8 q.hts (leBytes 8 0x80)
      with slice := home, opx := 4 } me) := by
  intro u q d me hasked x home hhome
  obtain ⟨k, hk⟩ : ∃ k, m.count = k + 1 := ⟨m.count - 1, by omega⟩
  have hread : u.fe.reads.find? (fun r => r.owner == feOwner n 2 && r.key == 2 ^ 58 + 2 * m.leaf + 1) = none := by
    refine List.find?_eq_none.2 fun r hr => ?_
    simp [hreads r hr]
  have hphys : u.fePhys (i / 32) (feOwner n 2) d.plan.num m.tableKey m.leaf q.hts .red 4 (leBytes 8 0x80) =
      (u.portQueue (cicadaPort (i / 32)) { fePacket .red d.plan.num m.tableKey m.leaf 8 q.hts (leBytes 8 0x80)
        with slice := home, opx := 4 } me, .later) := by
    have hkey : 2 ^ 58 + 2 * m.leaf + (PType.red != PType.rd).toNat = 2 ^ 58 + 2 * m.leaf + 1 := rfl
    simp only [State.fePhys, hkey, hread, hhome, show Client.cicada (feOwner n 2) (2 ^ 58 + 2 * m.leaf + 1) = me from rfl, hasked,
      Bool.false_eq_true, if_false]
  refine (exec_migrate_mark h hm hphase _).1 ?_
  rw [hk]
  have hfirst : m.leaf + 8 * (m.count - (k + 1)) = m.leaf := by omega
  unfold State.markLeaves
  rw [hfirst, hphys]

/-- The invalidation: no translation of the page is left, and the old homes hear of it once no access in flight used one. -/
theorem exec_migrate_drop (h : s.nextPacket n i b (.migrate n)) (hm : Map.get? s.fe.migs n = some m) (hphase : m.phase = 1) :
    let u := s.packetTaken
    let d := s.domOf (s.queueAt (i / 32) n).dom
    let ctx := s.queueContext n
    (s.rangeInFlight ctx.asn m.va m.len = false → completes (.migrate n) s (fun t => s.recordsStand t ∧
      t.ms.mem = s.ms.mem ∧ Map.get? t.fe.migs n = some { m with phase := 2 } ∧
      (∀ k, ∀ e ∈ (t.core k).tlb, ¬ e.touches ctx.asn m.va m.len) ∧
      (∀ f ∈ t.net.wires, f ∈ s.net.wires ∨ f.pkt.ty = .migrate) ∧
      ∀ k ∈ d.slices, ∃ f ∈ t.net.wires, f.pkt.ty = .migrate ∧ f.pkt.slice = k ∧ f.pkt.addr = m.base ∧ f.pkt.len = m.len ∧
        f.pkt.ld = m.new ∧ f.pkt.mt2 = m.mt2)) ∧
    (s.rangeInFlight ctx.asn m.va m.len = true → exec (.migrate n) s = .next (u.dropRange ctx.asn m.va m.len)) := by
  intro u d ctx
  have hexec := (exec_migrate h).2 m hm
  have hflight : (u.dropRange ctx.asn m.va m.len).rangeInFlight ctx.asn m.va m.len = s.rangeInFlight ctx.asn m.va m.len :=
    (u.sameFlights_dropRange ctx.asn m.va m.len).rangeInFlight ..
  have hctx : u.queueContext n = ctx := rfl
  simp only [State.runMigration, hphase] at hexec
  rw [show s.packetTaken.queueContext n = ctx from hctx, hflight] at hexec
  refine ⟨fun hidle => ?_, fun hbusy => ?_⟩
  · rw [hidle, if_neg Bool.false_ne_true] at hexec
    obtain ⟨hwires, hsent⟩ := (u.dropRange ctx.asn m.va m.len).wires_sendMigration (die := i / 32) (d := d) (m := m) (ty := .migrate)
    rw [State.sendMigration_eq] at hexec hwires hsent
    refine ⟨_, hexec, ⟨fun _ => rfl, rfl⟩, rfl, State.migs_nextPart .., fun k e he => ?_, hwires, fun k hk => ?_⟩
    · exact ((u.mem_tlb_dropRange ctx.asn m.va m.len k e).1 he).2
    · obtain ⟨f, hf, hpkt⟩ := hsent k hk
      refine ⟨f, hf, ?_⟩
      rw [hpkt]
      exact ⟨rfl, rfl, rfl, rfl, rfl, rfl⟩
  · rw [hbusy, if_pos rfl] at hexec
    exact hexec

/-- What a slice holds of the range that a migration moves. -/
def State.movedFrom (s : State) (m : Migration) (k : Nat) : Option Migrating := (s.slice k).migrating.find? (fun v => v.base == m.base)

/-- RELEASE is on its way to the old homes of a page. -/
def State.releases (t : State) (d : Dom) (m : Migration) : Prop :=
  ∀ k ∈ d.slices, ∃ f ∈ t.net.wires, f.pkt.ty = .release ∧ f.pkt.slice = k ∧ f.pkt.addr = m.base

theorem State.releases_sendMigration (u : State) (die : Nat) (d : Dom) : (u.sendMigration die d m .release).releases d m := by
  intro k hk
  obtain ⟨f, hf, hpkt⟩ := (u.wires_sendMigration (die := die) (d := d) (m := m) (ty := .release)).2 k hk
  refine ⟨f, hf, ?_⟩
  rw [hpkt]
  exact ⟨rfl, rfl, rfl⟩

/-- A migration given up releases the page and ends with its packet. -/
theorem State.migration_released {u : State} {d : Dom} (h : s.nextPacket n i b (.migrate n)) (hu : u = s.packetTaken)
    (hsorted : Map.sorted s.fe.migs = true) :
    let t := ((u.sendMigration (i / 32) d m .release).setMigration n none).mgmtFail n
    (s.popped t n i ∧ Map.get? t.fe.migs n = none) ∧ t.releases d m := by
  subst hu
  intro t
  have hsent := s.packetTaken.sendMigration_eq (die := i / 32) (d := d) (m := m) (ty := .release)
  have hstand : s.recordsStand (s.packetTaken.sendMigration (i / 32) d m .release) := by
    rw [hsent]
    exact ⟨fun _ => rfl, rfl⟩
  have hholder : (s.packetTaken.sendMigration (i / 32) d m .release).holder n = some i := by
    rw [hsent]
    exact h.holder
  have hmigs : (s.packetTaken.sendMigration (i / 32) d m .release).fe.migs = s.fe.migs := by
    rw [hsent]
    rfl
  obtain ⟨hpopped, hnone, hnet⟩ := State.migration_failed hstand hholder hmigs hsorted
  refine ⟨⟨hpopped, hnone⟩, ?_⟩
  unfold State.releases
  rw [hnet]
  exact s.packetTaken.releases_sendMigration (i / 32) d

/-- The drain and copy at the old homes, which the migration waits for. -/
theorem exec_migrate_copy (h : s.nextPacket n i b (.migrate n)) (hm : Map.get? s.fe.migs n = some m) (hphase : m.phase = 2) :
    let d := s.domOf (s.queueAt (i / 32) n).dom
    (s.keyUsable m.key d.plan.num = true →
      (∀ k ∈ d.slices, ∃ v, s.movedFrom m k = some v ∧ v.failed = false ∧ s.migrated k v = true) →
      completes (.migrate n) s (fun t => s.recordsStand t ∧ t.ms = s.ms ∧ Map.get? t.fe.migs n = some { m with phase := 3 })) ∧
    (s.keyUsable m.key d.plan.num = false ∨ (∃ k ∈ d.slices, ∃ v, s.movedFrom m k = some v ∧ v.failed = true) →
      Map.sorted s.fe.migs = true →
      completes (.migrate n) s (fun t => (s.popped t n i ∧ Map.get? t.fe.migs n = none) ∧ t.releases d m)) := by
  intro d
  have hexec := (exec_migrate h).2 m hm
  have hmoved : ∀ k, (s.packetTaken.slice k).migrating.find? (fun v => v.base == m.base) = s.movedFrom m k := fun _ => rfl
  have husable : s.packetTaken.keyUsable m.key d.plan.num = s.keyUsable m.key d.plan.num := rfl
  simp only [State.runMigration, hphase, hmoved] at hexec
  refine ⟨fun hkey hdone => ?_, fun hstop hsorted => ?_⟩
  · have hgo : ¬ ((!s.packetTaken.keyUsable m.key d.plan.num) = true ∨
        d.slices.any (fun k => ((s.movedFrom m k).map (fun v => v.failed)).getD false) = true) := by
      rw [husable, hkey, List.any_eq_true]
      rintro (hno | ⟨k, hk, hfailed⟩)
      · cases hno
      · obtain ⟨v, hv, hgood, -⟩ := hdone k hk
        rw [hv] at hfailed
        exact absurd hfailed (by simp [hgood])
    have hall : d.slices.all (fun k => ((s.movedFrom m k).map (s.packetTaken.migrated k)).getD false) = true := by
      rw [List.all_eq_true]
      intro k hk
      obtain ⟨v, hv, -, hmigrated⟩ := hdone k hk
      rw [hv]
      exact hmigrated
    rw [if_neg hgo, if_pos hall] at hexec
    exact ⟨_, hexec, ⟨fun _ => rfl, rfl⟩, rfl, State.migs_nextPart ..⟩
  · have hno : (!s.packetTaken.keyUsable m.key d.plan.num) = true ∨
        d.slices.any (fun k => ((s.movedFrom m k).map (fun v => v.failed)).getD false) = true := by
      rw [husable, List.any_eq_true]
      refine hstop.imp (fun hkey => by rw [hkey]; rfl) ?_
      rintro ⟨k, hk, v, hv, hfailed⟩
      exact ⟨k, hk, by rw [hv]; exact hfailed⟩
    rw [if_pos hno] at hexec
    exact ⟨_, hexec, State.migration_released h rfl hsorted⟩

/-- The new FRAME written to the leaf entries, one after another. -/
theorem exec_migrate_move (h : s.nextPacket n i b (.migrate n)) (hm : Map.get? s.fe.migs n = some m) (hphase : m.phase = 3)
    (s1 : State) :
    let q := s.queueAt (i / 32) n
    let d := s.domOf q.dom
    let moved := State.moveLeaves (i / 32) (feOwner n 2) d.plan.num q.hts m (mgmtArg b 1 * 4096) m.count s.packetTaken
    (moved = (s1, .later) → exec (.migrate n) s = .next s1) ∧
    (∀ bs, moved = (s1, .done bs) → completes (.migrate n) s (fun t => s.recordsStand t ∧ t.ms = s1.ms ∧
      Map.get? t.fe.migs n = some { m with phase := 4 } ∧ t.releases d m)) ∧
    (moved = (s1, .fail) → Map.sorted s.fe.migs = true →
      completes (.migrate n) s (fun t => (s.popped t n i ∧ Map.get? t.fe.migs n = none) ∧ t.releases d m)) := by
  intro q d moved
  have hexec := (exec_migrate h).2 m hm
  have hmoved : State.moveLeaves (i / 32) (feOwner n 2) d.plan.num (s.packetTaken.laneQueue n).hts m (mgmtArg b 1 * 4096) m.count
      s.packetTaken = moved := by
    rw [show s.packetTaken.laneQueue n = q from h.laneQueue]
  simp only [State.runMigration, hphase] at hexec
  refine ⟨fun hlater => ?_, fun bs hdone => ?_, fun hfail hsorted => ?_⟩
  · rw [hmoved.trans hlater] at hexec
    exact hexec
  · obtain rfl := State.moveLeaves_answered _ hdone (by simp)
    rw [hmoved.trans hdone] at hexec
    have hsent := s.packetTaken.releases_sendMigration (m := m) (i / 32) d
    dsimp only at hexec
    rw [State.sendMigration_eq] at hexec hsent
    exact ⟨_, hexec, ⟨fun _ => rfl, rfl⟩, rfl, State.migs_nextPart .., hsent⟩
  · have hsame := State.moveLeaves_answered _ hfail (by simp)
    rw [hmoved.trans hfail] at hexec
    exact ⟨_, hexec, State.migration_released h hsame hsorted⟩

/-- The migration over, once no old home holds anything of the page. -/
theorem exec_migrate_end (h : s.nextPacket n i b (.migrate n)) (hm : Map.get? s.fe.migs n = some m) (hphase : m.phase = 4)
    (hgone : ∀ k ∈ (s.domOf (s.queueAt (i / 32) n).dom).slices, s.movedFrom m k = none) (hsorted : Map.sorted s.fe.migs = true) :
    completes (.migrate n) s (fun t => s.tookPacket t i (plainChange n) ∧ Map.get? t.fe.migs n = none) := by
  have hexec := (exec_migrate h).2 m hm
  have hmoved : ∀ k, (s.packetTaken.slice k).migrating.find? (fun v => v.base == m.base) = s.movedFrom m k := fun _ => rfl
  have hall : (s.domOf (s.queueAt (i / 32) n).dom).slices.all (fun k => (s.movedFrom m k).isNone) = true := by
    rw [List.all_eq_true]
    exact fun k hk => by rw [hgone k hk]; rfl
  simp only [State.runMigration, hphase, hmoved, hall, if_true] at hexec
  let u := s.packetTaken.setMigration n none
  have hheld : s.stillHeld u n i := ⟨⟨fun _ => rfl, rfl⟩, rfl, rfl, h.holder⟩
  obtain ⟨htook, -⟩ := (hheld.posts (u.posts_mgmtNoted n b)).retired
  have hends := (State.mgmtDone_took (s := u) hheld.2.2.2 b).2
  refine ⟨_, hexec, htook, ?_⟩
  rw [hends.migs]
  show Map.get? (Map.del s.fe.migs n) n = none
  rw [Map.get?_del _ _ _ hsorted, if_pos rfl]

end Phases

end Sys2Proof.Machine
end

section
/-! SUPPORT. The cut of the package into domains (R128 to R131). -/

namespace Sys2Proof.Machine

/-! ## Tables written entry by entry -/

section Tables
variable {α β : Type} {key : β → Nat} {val : β → α}

theorem Map.get?_foldl_set_other {l : List β} {j : Nat} (h : ∀ p ∈ l, key p ≠ j) (m : Map α) :
    Map.get? (l.foldl (fun m p => Map.set m (key p) (val p)) m) j = Map.get? m j := by
  induction l generalizing m with
  | nil => rfl
  | cons p l ih =>
    obtain ⟨hp, hl⟩ := List.forall_mem_cons.1 h
    rw [List.foldl_cons, ih hl, Map.get?_set, if_neg hp.symm]

theorem Map.get?_foldl_set_of_mem {l : List β} (hl : l.Pairwise (fun p q => key p ≠ key q)) {p : β} (hp : p ∈ l) (m : Map α) :
    Map.get? (l.foldl (fun m p => Map.set m (key p) (val p)) m) (key p) = some (val p) := by
  induction l generalizing m with
  | nil => cases hp
  | cons q l ih =>
    obtain ⟨hq, hl⟩ := List.pairwise_cons.1 hl
    rw [List.foldl_cons]
    rcases List.mem_cons.1 hp with rfl | hp
    · rw [Map.get?_foldl_set_other fun x hx => (hq x hx).symm, Map.get?_set_self]
    · exact ih hl hp _

theorem Map.mem_foldl_set {l : List β} {e : Nat × α} {m : Map α}
    (h : e ∈ l.foldl (fun m p => Map.set m (key p) (val p)) m) : (∃ p ∈ l, e = (key p, val p)) ∨ e ∈ m := by
  induction l generalizing m with
  | nil => exact .inr h
  | cons q l ih =>
    rcases ih h with ⟨p, hp, he⟩ | he
    · exact .inl ⟨p, List.mem_cons_of_mem _ hp, he⟩
    · rcases Map.mem_set _ _ _ _ he with he | he
      · exact .inl ⟨q, List.mem_cons_self, he⟩
      · exact .inr he

/-- A table of which the entries that a test picks are changed, by a function that keeps the default. -/
theorem Map.getD_map_if (m : Map α) (keeps : Nat → Bool) (f : α → α) (n : Nat) {d : α} (hd : f d = d) :
    Map.getD (m.map (fun e => if keeps e.1 then e else (e.1, f e.2))) n d =
      if keeps n then Map.getD m n d else f (Map.getD m n d) := by
  induction m with
  | nil =>
    show d = if keeps n then d else f d
    rw [hd, ite_self]
  | cons e m ih =>
    obtain ⟨k, v⟩ := e
    have hkey : (if keeps k then (k, v) else (k, f v)) = (k, if keeps k then v else f v) := by split_ifs <;> rfl
    simp only [Map.getD, List.map_cons, hkey, Map.get?] at ih ⊢
    by_cases hlt : n < k
    · simp [hlt, hd]
    · by_cases heq : n = k
      · subst heq
        simp
      · simp only [hlt, heq, if_false]
        exact ih

end Tables

/-! ## What a cut changes (R131) -/

/-- From `s` to `t` nothing has changed but cores and clusters. -/
def State.sameButUnits (s t : State) : Prop := t = { s with cores := t.cores, clusters := t.clusters }

theorem State.sameButUnits.trans {s t u : State} (h : s.sameButUnits t) (h' : t.sameButUnits u) : s.sameButUnits u := by
  unfold State.sameButUnits at h h' ⊢
  rw [h', h]

theorem State.sameButUnits_foldl {α : Type} {f : State → α → State} (h : ∀ (s : State) x, s.sameButUnits (f s x)) (l : List α)
    (s : State) : s.sameButUnits (l.foldl f s) := by
  induction l generalizing s with
  | nil => rfl
  | cons x l ih => exact (h s x).trans (ih _)

theorem State.sameButUnits_setCore (s : State) (k : Nat) (c : Core) : s.sameButUnits (s.setCore k c) := rfl
theorem State.sameButUnits_setCluster (s : State) (k : Nat) (c : Cluster) : s.sameButUnits (s.setCluster k c) := rfl

theorem State.sameButUnits_handOver (s : State) (k : Nat) : s.sameButUnits (s.handOver k) := by
  have hplanes : ∀ (t : State) i, t.sameButUnits (if ((t.cluster k).residency i).st = .free then t
      else (t.freePlanes k i).mapResidency k i Residency.released) := by
    intro t i
    split_ifs
    · rfl
    · exact State.sameButUnits.trans (t.frees_freePlanes k i).1 (State.sameButUnits_setCluster ..)
  have hcores : ∀ t : State, t.sameButUnits ((coresOf k).foldl (fun t c =>
      t.setCore c { (t.core c) with l1 := [], icache := [], tlb := [], recs := [], answers := [] }) t) :=
    State.sameButUnits_foldl (fun t c => t.sameButUnits_setCore c _) _
  exact ((State.sameButUnits_foldl hplanes _ s).trans (hcores _)).trans (State.sameButUnits_setCluster ..)

theorem foldl_scramble_doms (l : List (Nat × Dom)) (draw : Nat) (m : MemSys) :
    (l.foldl (fun m e => m.scramble e.2 draw) m).doms = m.doms ∧ (l.foldl (fun m e => m.scramble e.2 draw) m).xcache = m.xcache := by
  induction l generalizing m with
  | nil => exact ⟨rfl, rfl⟩
  | cons e l ih => exact ih _

/-- Whether a part that a test picks stays with its domain. -/
def keepsPart (old new : Map Dom) (f : Dom → Bool) : Bool := domWith old f == domWith new f

section Recut
variable (s : State) (new : Map Dom)

theorem State.fe_recut : (s.recut new).fe = s.fe := by
  unfold State.recut
  dsimp only
  rw [State.sameButUnits_foldl (fun t k => t.sameButUnits_handOver k) _ s]

theorem State.doms_recut : (s.recut new).ms.doms = new ∧ (s.recut new).ms.xcache = [] :=
  foldl_scramble_doms ..

theorem State.slice_recut (k : Nat) : (s.recut new).slice k =
    if keepsPart s.ms.doms new (fun d => d.ownsSlice k) then s.slice k else (s.slice k).zeroised := by
  have hslice : ∀ t : State, s.sameButUnits t → Map.getD (t.net.slices.map (fun e =>
      if keepsPart s.ms.doms new (fun d => d.ownsSlice e.1) then e else (e.1, e.2.zeroised))) k Slice.reset =
      if keepsPart s.ms.doms new (fun d => d.ownsSlice k) then s.slice k else (s.slice k).zeroised := by
    intro t ht
    rw [Map.getD_map_if t.net.slices (fun n => keepsPart s.ms.doms new (fun d => d.ownsSlice n)) Slice.zeroised k rfl, ht]
    rfl
  exact hslice _ (State.sameButUnits_foldl (fun t k => t.sameButUnits_handOver k) _ s)

end Recut

/-- The domains of a layout. -/
def layoutDoms (lost : List Nat) (layout : List DomainPlan) : Map Dom :=
  layout.foldl (fun m p => Map.set m p.num (planDom lost p)) []

section Layout
variable {lost : List Nat} {layout : List DomainPlan}

theorem plansApart_nums (h : plansApart lost layout = true) : layout.Pairwise (fun p q => p.num ≠ q.num) := by
  induction layout with
  | nil => exact List.Pairwise.nil
  | cons p ps ih =>
    simp only [plansApart, Bool.and_eq_true, List.all_eq_true] at h
    obtain ⟨hp, hps⟩ := h
    refine List.pairwise_cons.2 ⟨fun q hq heq => ?_, ih hps⟩
    have hclash := hp q hq
    simp [plansClash, heq] at hclash

theorem layoutOk_apart {old : List Dom} {n : Nat} (h : layoutOk lost old n layout = true) : plansApart lost layout = true := by
  simp only [layoutOk, Bool.and_eq_true] at h
  exact h.1.2

theorem get?_layoutDoms (h : plansApart lost layout = true) {p : DomainPlan} (hp : p ∈ layout) :
    Map.get? (layoutDoms lost layout) p.num = some (planDom lost p) :=
  Map.get?_foldl_set_of_mem (key := DomainPlan.num) (val := planDom lost) (plansApart_nums h) hp []

theorem mem_layoutDoms {e : Nat × Dom} (he : e ∈ layoutDoms lost layout) : ∃ p ∈ layout, p.num = e.1 ∧ e.2 = planDom lost p := by
  rcases Map.mem_foldl_set (key := DomainPlan.num) (val := planDom lost) he with ⟨p, hp, rfl⟩ | hno
  · exact ⟨p, hp, rfl, rfl⟩
  · cases hno

theorem domWith_eq_some {ds : Map Dom} {f : Dom → Bool} {d : Dom} (h : domWith ds f = some d) :
    f d = true ∧ ∃ k, (k, d) ∈ ds := by
  obtain ⟨e, he, rfl⟩ := Option.map_eq_some_iff.1 h
  exact ⟨List.find?_some (p := fun e : Nat × Dom => f e.2) he, e.1, List.mem_of_find?_eq_some he⟩

theorem domWith_isSome {ds : Map Dom} {f : Dom → Bool} {k : Nat} {d : Dom} (hmem : (k, d) ∈ ds) (hf : f d = true) :
    ∃ d', domWith ds f = some d' := by
  obtain ⟨e, he⟩ := Option.isSome_iff_exists.1
    ((List.find?_isSome (p := fun e : Nat × Dom => f e.2)).2 ⟨(k, d), hmem, hf⟩)
  exact ⟨e.2, by rw [domWith, he]; rfl⟩

/-- A part that a layout gives to a domain which no domain was before passes on. -/
theorem keepsPart_layout {old : Map Dom} {f : Dom → Bool} (h : plansApart lost layout = true)
    (hnew : ∀ p ∈ layout, f (planDom lost p) = true → ∀ e ∈ old, e.2 ≠ planDom lost p)
    (hsome : ∃ p ∈ layout, f (planDom lost p) = true) : keepsPart old (layoutDoms lost layout) f = false := by
  obtain ⟨p, hp, hf⟩ := hsome
  obtain ⟨d, hd⟩ := domWith_isSome (Map.mem_of_get? (get?_layoutDoms h hp)) hf
  obtain ⟨hfd, k, hmem⟩ := domWith_eq_some hd
  obtain ⟨p', hp', -, hdom⟩ := mem_layoutDoms hmem
  dsimp only at hdom
  rw [keepsPart, hd, beq_eq_false_iff_ne]
  intro hold
  obtain ⟨-, k', hmem'⟩ := domWith_eq_some hold
  exact hnew p' hp' (hdom ▸ hfd) _ hmem' hdom

end Layout

theorem State.tidies_freeLanes (s : State) : s.tidies s.freeLanes := by
  have hfold : ∀ (l : Map Lane) (t : State), t.tidies (l.foldl (fun t e => match e.2.queue with
      | some n => if t.laneDomain (e.1 / 32) (e.1 % 32) = some (t.queue n).dom then t else t.unbind n
      | none => t) t) := by
    intro l
    induction l with
    | nil => exact fun t => State.tidies.refl t
    | cons e l ih =>
      intro t
      refine State.tidies.trans ?_ (ih _)
      dsimp only
      split
      · split_ifs
        · exact State.tidies.refl t
        · exact t.tidies_unbind _
      · exact State.tidies.refl t
  exact hfold s.fe.lanes s

section PoppedOn
variable {s t u : State} {n i : Nat}

theorem State.popped.of_recordsStand (h : s.popped t n i) (hstand : t.recordsStand u) : s.popped u n i := by
  unfold State.popped at h ⊢
  simpa only [hstand.1, hstand.2] using h

theorem State.popped.of_note (h : s.popped t n i) (die cls : Nat) (g : Bool) (dom unit index : Nat) :
    s.popped (t.logNote die cls g dom unit index) n i := h.of_recordsStand ⟨fun _ => rfl, rfl⟩

end PoppedOn

/-- What a cut leaves: the domains of the layout, quotas of 512, no cached entry, and zeroised slices where the domain is new. -/
theorem State.cut_leaves (s : State) {layout : List DomainPlan} (h : plansApart s.ms.lost layout = true) :
    let t := s.cut layout
    s.recordsStand t ∧ t.ms.doms = layoutDoms s.ms.lost layout ∧ t.ms.xcache = [] ∧
      (∀ k d, Map.getD (t.cluster k).quota d 512 = 512) ∧
      ∀ k, (∀ p ∈ layout, (planDom s.ms.lost p).ownsSlice k = true → ∀ e ∈ s.ms.doms, e.2 ≠ planDom s.ms.lost p) →
        (∃ p ∈ layout, (planDom s.ms.lost p).ownsSlice k = true) → t.slice k = (s.slice k).zeroised := by
  intro t
  let u := s.recut (layoutDoms s.ms.lost layout)
  have hfe : t.fe = s.fe := s.fe_recut _
  obtain ⟨hdoms, hxcache⟩ := s.doms_recut (layoutDoms s.ms.lost layout)
  refine ⟨⟨fun j => ?_, ?_⟩, hdoms, hxcache, fun k d => ?_, fun k hnew hsome => ?_⟩
  · rw [State.queue, hfe, State.queue]
  · rw [hfe]
  · have hcluster : t.cluster k = { u.cluster k with quota := [] } :=
      Map.getD_map u.clusters (fun c : Cluster => ({ c with quota := [] } : Cluster)) k Cluster.reset
    rw [hcluster]
    rfl
  · show u.slice k = _
    rw [State.slice_recut, keepsPart_layout h hnew hsome, if_neg Bool.false_ne_true]

section Domaincut
variable {s s1 : State} {n i : Nat} {b bs : List Byte} {layout : List DomainPlan}

/-- A DOMAINCUT whose layout is sound and whose changed domains are stopped: the cut, behind the packet's retirement. -/
theorem exec_domaincut (h : s.nextPacket n i b (.domaincut n layout)) (hpriv : (s.queueAt (i / 32) n).priv = true)
    (himage : s.packetTaken.imageAt (i / 32) n (mgmtArg b 1) 1 s1 bs)
    (hlayout : layoutOk s.ms.lost (s.ms.doms.map (fun e => e.2)) (mgmtArg b 0) layout = true)
    (hstopped : ∀ e ∈ s.ms.doms, (∀ p ∈ layout, planDom s.ms.lost p ≠ e.2) → s1.domStopped e.1 = true) :
    exec (.domaincut n layout) s =
      .next (((s.packetTaken.mgmtDone n b).cut layout).freeLanes.logNote (i / 32) 0x11 true 0 0 0) := by
  obtain rfl : s1 = s.packetTaken := State.feLoad_done himage
  let u := s.packetTaken
  have hpriv' : (u.laneQueue n).priv = true := by rwa [show u.laneQueue n = s.queueAt (i / 32) n from h.laneQueue]
  have hall : (u.ms.doms.filter (fun e => !layout.any (fun p => planDom u.ms.lost p == e.2))).all
      (fun e => u.domStopped e.1) = true := by
    rw [List.all_eq_true]
    intro e he
    obtain ⟨hmem, hchanged⟩ := List.mem_filter.1 he
    refine hstopped e hmem fun p hp heq => ?_
    simp only [Bool.not_eq_true', List.any_eq_false, beq_iff_eq] at hchanged
    exact hchanged p hp heq
  have hgo : ¬ ((!layoutOk u.ms.lost (u.ms.doms.map (fun e => e.2)) (mgmtArg b 0) layout) = true ∨
      (!(u.ms.doms.filter (fun e => !layout.any (fun p => planDom u.ms.lost p == e.2))).all
        (fun e => u.domStopped e.1)) = true) := by
    rw [hall, show layoutOk u.ms.lost (u.ms.doms.map (fun e => e.2)) (mgmtArg b 0) layout = true from hlayout]
    simp
  show execDomaincut n layout s = _
  rw [execDomaincut, h.withPacket, State.privileged, if_pos hpriv',
    show u.feLoad (i / 32) (feOwner n 2) (u.queueContext n) (mgmtArg b 1 % 2 ^ 57) 1 (u.laneQueue n).hts = (u, .done bs) from himage]
  exact congrArg Host.Outcome.next (if_neg hgo)

theorem exec_domaincut_leaves (h : s.nextPacket n i b (.domaincut n layout)) :
    let lost := s.ms.lost
    (s.queueAt (i / 32) n).priv = true → ∀ s1 bs, s.packetTaken.imageAt (i / 32) n (mgmtArg b 1) 1 s1 bs →
    layoutOk lost (s.ms.doms.map (fun e => e.2)) (mgmtArg b 0) layout = true →
    (∀ e ∈ s.ms.doms, (∀ p ∈ layout, planDom lost p ≠ e.2) → s1.domStopped e.1 = true) →
    completes (.domaincut n layout) s (fun t => s.popped t n i ∧
      (∀ p ∈ layout, Map.get? t.ms.doms p.num = some (planDom lost p)) ∧
      (∀ d x, Map.get? t.ms.doms d = some x → ∃ p ∈ layout, p.num = d ∧ x = planDom lost p) ∧
      (∀ k d, Map.getD (t.cluster k).quota d 512 = 512) ∧ t.ms.xcache = [] ∧
      ∀ k, k < 512 → (∀ p ∈ layout, (planDom lost p).ownsSlice k = true → ∀ e ∈ s.ms.doms, e.2 ≠ planDom lost p) →
        (∃ p ∈ layout, (planDom lost p).ownsSlice k = true) →
        t.slice k = { Slice.reset with swept := (s.slice k).swept, fenced := (s.slice k).fenced }) := by
  intro lost hpriv s1 bs himage hlayout hstopped
  have hexec := exec_domaincut h hpriv himage hlayout hstopped
  obtain ⟨htook, hends⟩ := State.mgmtDone_took (s := s.packetTaken) h.holder b
  generalize s.packetTaken.mgmtDone n b = v at hexec htook hends
  have hlost : v.ms.lost = lost := by rw [hends]; rfl
  have hold : v.ms.doms = s.ms.doms := by rw [hends]; rfl
  have hslice : ∀ k, v.slice k = s.slice k := hends.slice
  have hapart : plansApart lost layout = true := layoutOk_apart hlayout
  obtain ⟨hrecords, hdoms, hxcache, hquota, hslices⟩ := v.cut_leaves (layout := layout) (by rwa [hlost])
  simp only [hlost, hold, hslice] at hdoms hslices
  have htidy := (v.cut layout).tidies_freeLanes
  generalize v.cut layout = c at hexec htidy hrecords hdoms hxcache hquota hslices
  generalize c.freeLanes = w at hexec htidy
  rw [← htidy.ms] at hdoms hxcache
  simp only [← htidy.ends.cluster, ← htidy.ends.slice] at hquota hslices
  have hpopped : s.popped v n i := State.popped_of_took (htook.of_stand s.tidies_packetTaken.recordsStand)
  refine ⟨_, hexec, ((hpopped.of_recordsStand hrecords).of_tidies htidy).of_note .., fun p hp => ?_, fun d x hx => ?_, hquota, hxcache,
    fun k _ => hslices k⟩
  · exact (congrArg (fun m => Map.get? m p.num) hdoms).trans (get?_layoutDoms hapart hp)
  · have hx' : Map.get? w.ms.doms d = some x := hx
    rw [hdoms] at hx'
    obtain ⟨p, hp, hnum, hdom⟩ := mem_layoutDoms (Map.mem_of_get? hx')
    exact ⟨p, hp, hnum, hdom⟩

end Domaincut

/-- Settles O55: a migration goes on by the part it is in, and a cut gives the domains of a sound layout their parts anew. -/
theorem migrationAndCut : Obligations.MigrationAndCut := by
  unfold Obligations.MigrationAndCut
  refine ⟨fun s n i b h => ⟨fun hnone s1 => exec_migrate_start h hnone s1, fun m hm => ?_⟩,
    fun s n i b layout h => exec_domaincut_leaves h⟩
  exact ⟨fun hphase hcount hreads => exec_migrate_red h hm hphase hcount hreads, fun hphase s1 => exec_migrate_mark h hm hphase s1,
    fun hphase => (exec_migrate_drop h hm hphase).1, fun hphase => (exec_migrate_drop h hm hphase).2,
    fun hphase => (exec_migrate_copy h hm hphase).1, fun hphase => (exec_migrate_copy h hm hphase).2,
    fun hphase s1 => exec_migrate_move h hm hphase s1, fun hphase hgone hsorted => exec_migrate_end h hm hphase hgone hsorted⟩

end Sys2Proof.Machine
end

section
/-! SUPPORT. Ways of a slice, the bytes of a line written whole, and a migrating range copied (R85, R88, R90, R95). -/

namespace Sys2Proof.Machine

/-! ## Ways of a slice (R93, R95, R96)

What writing or removing a way leaves of its slice, and a slice none of whose lines is watched. -/

/-- From `x` to `y` a slice has served a line: its ways, its timestamps and its monitor may differ. -/
def Slice.served (x y : Slice) : Prop := y = { x with sets := y.sets, sbase := y.sbase, mts := y.mts, monitor := y.monitor }

/-- No line of a slice is watched. -/
def Slice.unwatched (x : Slice) : Prop := ∀ n, ∀ w ∈ Map.getD x.sets n [], w.watch = false

section Ways
variable {x y : Slice}

theorem Slice.served.refl (x : Slice) : x.served x := rfl

theorem Slice.served.trans {z : Slice} (h : x.served y) (h' : y.served z) : x.served z := by
  unfold Slice.served at h h' ⊢
  rw [h', h]

theorem Slice.served_evict (x : Slice) (set : Nat) (w : Way) : x.served (x.evict set w) := rfl
theorem Slice.served_noteWrite (x : Slice) (e : MonitorEntry) : x.served (x.noteWrite e) := by
  simp only [Slice.served, Slice.noteWrite]

theorem Slice.unwatched.noteWrite (h : x.unwatched) (e : MonitorEntry) : (x.noteWrite e).unwatched := by
  have hsets : (x.noteWrite e).sets = x.sets := by simp only [Slice.noteWrite]
  unfold Slice.unwatched
  rwa [hsets]

theorem Slice.served_fit (x : Slice) (wts : Nat) : x.served (x.fit wts) := by
  unfold Slice.fit
  split_ifs <;> rfl

theorem Slice.served_putWay (x : Slice) (set : Nat) (w : Way) : x.served (x.putWay set w) := by
  have hset : ∀ sets, x.served { x with sets := sets } := fun _ => rfl
  exact (hset _).trans (Slice.served_fit ..)

/-- What timestamps rise to leaves a way's line, key slot and marks. -/
def Way.sameLine (w v : Way) : Prop := v = { w with wts := v.wts, rts := v.rts }

theorem Way.sameLine_fit (w : Way) : w.sameLine w.fit := by
  unfold Way.fit
  split_ifs <;> rfl

theorem Slice.sameLine_raise (x : Slice) (w : Way) : w.sameLine (x.raise w) := by
  unfold Slice.raise
  split_ifs
  · exact Way.sameLine_fit { w with wts := x.sbase, rts := max w.rts x.sbase }
  · exact w.sameLine_fit

theorem Slice.raise_watch (x : Slice) (w : Way) : (x.raise w).watch = w.watch := by
  rw [x.sameLine_raise w]

/-- The ways of a set after timestamps have risen. -/
theorem Slice.getD_fit (x : Slice) (wts n : Nat) : ∃ f : Way → Way, (∀ w : Way, w.sameLine (f w)) ∧
    Map.getD (x.fit wts).sets n [] = (Map.getD x.sets n []).map f := by
  unfold Slice.fit
  split_ifs
  · exact ⟨id, fun _ => rfl, (List.map_id _).symm⟩
  · refine ⟨_, fun w => ?_, Map.getD_map x.sets (List.map _) n []⟩
    split_ifs <;> rfl

theorem Slice.getD_putWay (x : Slice) (set : Nat) (w : Way) (n : Nat) : ∃ f : Way → Way, (∀ w : Way, w.sameLine (f w)) ∧
    Map.getD (x.putWay set w).sets n [] = (if n = set then
      (Map.getD x.sets set []).filter (fun v => v.way != (x.raise w).way) ++ [x.raise w] else Map.getD x.sets n []).map f := by
  obtain ⟨f, hf, hget⟩ := Slice.getD_fit { x with
    sets := (Map.set x.sets set ((Map.getD x.sets set []).filter (fun v => v.way != (x.raise w).way) ++ [x.raise w])) }
    (x.raise w).wts n
  refine ⟨f, hf, hget.trans ?_⟩
  rw [Map.getD_set]

theorem Slice.unwatched.evict (h : x.unwatched) (set : Nat) (w : Way) : (x.evict set w).unwatched := by
  intro n v hv
  rw [show (x.evict set w).sets = Map.set x.sets set _ from rfl, Map.getD_set] at hv
  split_ifs at hv
  · exact h set v (List.mem_filter.1 hv).1
  · exact h n v hv

theorem Slice.unwatched.putWay (h : x.unwatched) (set : Nat) {w : Way} (hw : w.watch = false) : (x.putWay set w).unwatched := by
  intro n v hv
  obtain ⟨f, hf, hget⟩ := x.getD_putWay set w n
  rw [hget] at hv
  obtain ⟨u, hu, rfl⟩ := List.mem_map.1 hv
  rw [hf u]
  show u.watch = false
  split_ifs at hu
  · rcases List.mem_append.1 hu with hu | hu
    · exact h set u (List.mem_filter.1 hu).1
    · rw [List.mem_singleton.1 hu, x.raise_watch, hw]
  · exact h n u hu

theorem Slice.unwatched.way? (h : x.unwatched) {set line : Nat} {w : Way} (hw : x.way? set line = some w) : w.watch = false :=
  h set w (List.mem_of_find?_eq_some hw)

/-- A way written for a line that no way held is found for it. -/
theorem Slice.way?_putWay {set : Nat} {w : Way} (hnone : x.way? set w.line = none) :
    ∃ v, (x.putWay set w).way? set w.line = some v ∧ w.sameLine v := by
  obtain ⟨f, hf, hget⟩ := x.getD_putWay set w set
  rw [if_pos rfl] at hget
  have hraise := x.sameLine_raise w
  have hline : ∀ u : Way, (f u).line = u.line := fun u => by rw [hf u]
  have hself : (x.raise w).line = w.line := by rw [hraise]
  have hother : ((Map.getD x.sets set []).filter (fun v => v.way != (x.raise w).way)).find? (fun v => v.line == w.line) = none := by
    rw [List.find?_eq_none]
    exact fun v hv => List.find?_eq_none.1 hnone v (List.mem_filter.1 hv).1
  refine ⟨f (x.raise w), ?_, ?_⟩
  · rw [Slice.way?, hget, List.find?_map]
    have hcomp : ((fun v : Way => v.line == w.line) ∘ f) = fun v => v.line == w.line := by
      funext v
      exact congrArg (· == w.line) (hline v)
    rw [hcomp, List.find?_append, hother]
    simp [hself]
  · have hrise := hf (x.raise w)
    unfold Way.sameLine at hrise hraise ⊢
    rw [hrise, hraise]

theorem Slice.way?_evict {set line : Nat} (w : Way) (hnone : x.way? set line = none) : (x.evict set w).way? set line = none := by
  rw [Slice.way?, show (x.evict set w).sets = Map.set x.sets set _ from rfl, Map.getD_set_self, List.find?_eq_none]
  exact fun v hv => List.find?_eq_none.1 hnone v (List.mem_filter.1 hv).1

theorem leastUsed_eq_none {ws : List Way} : leastUsed ws = none ↔ ws = [] := by
  refine ⟨fun h => ?_, fun h => by rw [h]; rfl⟩
  cases ws with
  | nil => rfl
  | cons w ws =>
    unfold leastUsed at h
    split at h
    · cases h
    · split_ifs at h

end Ways

/-! ## A line brought into its slice, and written there -/

/-- No line that a slice holds is watched. -/
def State.unwatched (s : State) : Prop := ∀ k, (s.slice k).unwatched

/-- From `s` to `t` slices have served lines, none of them watched. -/
def State.serviced (s t : State) : Prop :=
  t = { s with net := { s.net with slices := t.net.slices } } ∧ (∀ k, (s.slice k).served (t.slice k)) ∧ t.unwatched

section Serviced
variable {s t u : State}

theorem State.serviced.refl (h : s.unwatched) : s.serviced s := ⟨rfl, fun _ => rfl, h⟩

theorem State.serviced.trans (h : s.serviced t) (h' : t.serviced u) : s.serviced u := by
  obtain ⟨hrest, hslice, -⟩ := h
  obtain ⟨hrest', hslice', hwatch⟩ := h'
  refine ⟨?_, fun k => (hslice k).trans (hslice' k), hwatch⟩
  rw [hrest', hrest]

theorem State.serviced_setSlice (h : s.unwatched) (k : Nat) {x : Slice} (hx : (s.slice k).served x) (hwatch : x.unwatched) :
    s.serviced (s.setSlice k x) := by
  refine ⟨rfl, fun j => ?_, fun j => ?_⟩ <;> rw [State.slice_setSlice] <;> split_ifs with hj
  · exact hj ▸ hx
  · rfl
  · exact hwatch
  · exact h j

theorem State.serviced.ms (h : s.serviced t) : t.ms = s.ms := by rw [h.1]

theorem State.serviced_ensureLine (h : s.unwatched) (d : Dom) (pa key : Nat) : s.serviced (s.ensureLine d pa key) := by
  have hx : (s.slice (d.home pa)).unwatched := h _
  unfold State.ensureLine
  dsimp only
  split
  next w hw =>
    have hwatch := hx.way? hw
    split_ifs
    · exact State.serviced.refl h
    · exact State.serviced_setSlice h _ ((Slice.served_evict ..).trans (Slice.served_putWay ..))
        ((hx.evict _ _).putWay _ hwatch)
  next =>
    split
    · exact State.serviced_setSlice h _ (Slice.served_putWay ..) (hx.putWay _ rfl)
    · split
      · exact State.serviced_setSlice h _ ((Slice.served_evict ..).trans (Slice.served_putWay ..)) ((hx.evict _ _).putWay _ rfl)
      next hnone =>
        have hall : ∀ l : List Way, (∀ w ∈ l, w ∈ Map.getD (s.slice (d.home pa)).sets (d.set pa) []) →
            l.filter (fun w => !w.watch) = l := fun l hl =>
          List.filter_eq_self.2 fun w hw => by rw [hx _ w (hl w hw)]; rfl
        rw [hall _ fun w hw => (List.mem_filter.1 hw).1] at hnone
        rw [hnone]
        exact State.serviced.refl h

theorem State.serviced_lineFor (h : s.unwatched) (d : Dom) (pa key : Nat) (mt2 : Bool) :
    s.serviced (s.lineFor d pa key mt2).1 ∧ (s.lineFor d pa key mt2).2.watch = false := by
  have hensure := State.serviced_ensureLine h d pa key
  unfold State.lineFor
  dsimp only
  split_ifs
  · exact ⟨State.serviced.refl h, rfl⟩
  · refine ⟨hensure, ?_⟩
    cases hway : ((s.ensureLine d pa key).slice (d.home pa)).way? (d.set pa) (pa / 128) with
    | none => rfl
    | some w => exact (hensure.2.2 _).way? hway

theorem State.serviced_keepLine (h : s.unwatched) (d : Dom) (pa : Nat) (mt2 : Bool) {w : Way} (hw : w.watch = false) :
    s.serviced (s.keepLine d pa mt2 w) := by
  unfold State.keepLine
  dsimp only
  split_ifs
  · exact State.serviced_setSlice h _ (Slice.served_evict ..) ((h _).evict _ _)
  · exact State.serviced_setSlice h _ (Slice.served_putWay ..) ((h _).putWay _ hw)

/-- A write of an engine under a key slot that may be used, where no line is watched: its line served, and its bytes written. -/
theorem State.engineWrite_unwatched (h : s.unwatched) (d : Dom) (key pa ts : Nat) (mt2 : Bool) (bs : List Byte)
    (hkey : s.keyUsable key d.plan.num = true) :
    ∃ t, s.serviced t ∧ (s.engineWrite d key pa ts mt2 bs).1 = t.writeLine key pa bs := by
  have hst : s.accessStatus d key pa bs.length ≠ 5 := by
    unfold State.accessStatus
    rw [hkey]
    split_ifs with hno
    · simp at hno
    · simp
    · simp
  obtain ⟨hline, hwatch⟩ := State.serviced_lineFor h d pa key mt2
  have hwrite : ∃ t, s.serviced t ∧ (s.homeWrite d key pa bs.length ts mt2 false (fun _ => bs)).1 = t.writeLine key pa bs ∧
      (s.homeWrite d key pa bs.length ts mt2 false (fun _ => bs)).2.watched = false := by
    unfold State.homeWrite
    dsimp only
    rw [if_neg hst, Bool.false_and, if_neg Bool.false_ne_true]
    refine ⟨_, ?_, rfl, ?_⟩
    · refine hline.trans (State.serviced.trans ?_ (State.serviced_keepLine ?_ d pa mt2 rfl))
      · exact State.serviced_setSlice hline.2.2 _ (Slice.served_noteWrite ..) ((hline.2.2 _).noteWrite _)
      · exact (State.serviced_setSlice hline.2.2 _ (Slice.served_noteWrite ..) ((hline.2.2 _).noteWrite _)).2.2
    · rw [Slice.raise_watch, hwatch]
  obtain ⟨t, hserviced, hstate, hquiet⟩ := hwrite
  refine ⟨t, hserviced, ?_⟩
  unfold State.engineWrite
  dsimp only
  rw [hquiet, if_neg Bool.false_ne_true, hstate]

end Serviced

/-! ## The bytes of a line written whole (R90) -/

section Bytes
variable {s t : State}

theorem State.byteUnder_of_ms (hmem : t.ms.mem = s.ms.mem) (htags : t.ms.lineKey = s.ms.lineKey) (hundef : t.ms.undef = s.ms.undef)
    (hkeys : t.ms.keys = s.ms.keys) (k a : Nat) : t.byteUnder k a = s.byteUnder k a := by
  have htag : t.lineTag (a / 128) = s.lineTag (a / 128) := by rw [State.lineTag, htags, hundef, State.lineTag]
  have hkey : t.key k = s.key k := by rw [State.key, hkeys, State.key]
  rw [State.byteUnder, hmem, htag, hkey, State.byteUnder]

theorem State.length_bytesUnder (s : State) (k n : Nat) : ∀ a, (s.bytesUnder k a n).length = n := by
  induction n with
  | zero => exact fun _ => rfl
  | succ n ih => exact fun a => congrArg (· + 1) (ih (a + 1))

theorem State.getD_bytesUnder (s : State) (k n : Nat) : ∀ a j, j < n → (s.bytesUnder k a n).getD j 0 = s.byteUnder k (a + j) := by
  induction n with
  | zero => exact fun _ j hj => absurd hj (Nat.not_lt_zero j)
  | succ n ih =>
    intro a j hj
    cases j with
    | zero => rfl
    | succ j =>
      rw [State.bytesUnder, List.getD_cons_succ, ih (a + 1) j (by omega), Nat.add_assoc, Nat.add_comm 1 j]

/-- Memory after a write of a line: its bytes, over the line as the key slot reads it. -/
theorem State.mem_writeLine (s : State) (k a : Nat) (bs : List Byte) : ∃ m, (m = s.ms.mem ∨
      m = Memory.write s.ms.mem (128 * (a / 128)) (s.bytesUnder k (128 * (a / 128)) 128)) ∧
    (s.writeLine k a bs).ms.mem = Memory.write m a bs :=
  ⟨_, ite_eq_or_eq .., rfl⟩

variable {k a j : Nat} {bs : List Byte}

theorem State.byteUnder_writeLine_same (hmem : s.memoryKept) (ha : a % 128 = 0) (hlen : bs.length = 128) (hj : j < 128) :
    (s.writeLine k a bs).byteUnder k (a + j) = bs.getD j 0 := by
  have hline : (a + j) / 128 = a / 128 := by omega
  obtain ⟨m, hm, hwrite⟩ := s.mem_writeLine k a bs
  have hwf : Memory.wf m = true := by
    rcases hm with rfl | rfl
    · exact hmem
    · exact Memory.wf_write _ _ _ hmem
  have htag : (s.writeLine k a bs).lineTag (a / 128) = some (k, (s.key k).epoch) := by
    unfold State.lineTag
    rw [show (s.writeLine k a bs).ms.lineKey = Map.set s.ms.lineKey (a / 128) (k, (s.key k).epoch) from rfl, Map.get?_set_self]
  have hkey : ((s.writeLine k a bs).key k).epoch = (s.key k).epoch := rfl
  unfold State.byteUnder
  rw [hline, htag, hwrite, Memory.get_write _ _ _ _ hwf, if_pos (by omega), hkey, Nat.add_sub_cancel_left]
  exact if_pos (.inr ⟨rfl, rfl⟩)

theorem State.byteUnder_writeLine_other (hmem : s.memoryKept) (ha : a % 128 = 0) (hlen : bs.length = 128) {k' c : Nat}
    (hc : c / 128 ≠ a / 128) : (s.writeLine k a bs).byteUnder k' c = s.byteUnder k' c := by
  obtain ⟨m, hm, hwrite⟩ := s.mem_writeLine k a bs
  have hout : ¬ (a ≤ c ∧ c < a + 128) := by omega
  have hbefore : Memory.wf m = true ∧ Memory.get m c = Memory.get s.ms.mem c := by
    rcases hm with rfl | rfl
    · exact ⟨hmem, rfl⟩
    · refine ⟨Memory.wf_write _ _ _ hmem, ?_⟩
      rw [Memory.get_write _ _ _ _ hmem, State.length_bytesUnder, if_neg (by omega)]
  have hget : Memory.get (s.writeLine k a bs).ms.mem c = Memory.get s.ms.mem c := by
    rw [hwrite, Memory.get_write _ _ _ _ hbefore.1, hlen, if_neg hout, hbefore.2]
  have htag : (s.writeLine k a bs).lineTag (c / 128) = s.lineTag (c / 128) := by
    unfold State.lineTag
    rw [show (s.writeLine k a bs).ms.lineKey = Map.set s.ms.lineKey (a / 128) (k, (s.key k).epoch) from rfl, Map.get?_set, if_neg hc]
    rfl
  have hkey : (s.writeLine k a bs).key k' = s.key k' := rfl
  unfold State.byteUnder
  rw [hget, htag, hkey]

end Bytes

/-! ## A migrating range copied (R85, R88) -/

/-- Where a line of a migrating range goes. -/
def Migrating.newPlace (m : Migrating) (line : Nat) : Nat := m.new + (128 * line - m.base)

/-- A range of whole lines that goes to another place of package memory. -/
def Migrating.movable (m : Migrating) : Prop :=
  m.base % 128 = 0 ∧ m.len % 128 = 0 ∧ m.new % 128 = 0 ∧ m.new + m.len ≤ 2 ^ 50 ∧
    (m.base + m.len ≤ m.new ∨ m.new + m.len ≤ m.base)

section Places
variable {d : Dom} {slice : Nat} {m : Migrating} {l l' : Nat}

theorem Dom.mem_linesAt (h : m.movable) (hl : l ∈ d.linesAt slice m.base m.len) :
    m.base ≤ 128 * l ∧ 128 * l + 128 ≤ m.base + m.len := by
  obtain ⟨hbase, hlen, -⟩ := h
  obtain ⟨i, hi, rfl⟩ := List.mem_map.1 (List.mem_filter.1 hl).1
  have := List.mem_range.1 hi
  omega

theorem Migrating.newPlace_aligned (h : m.movable) (hl : l ∈ d.linesAt slice m.base m.len) :
    m.newPlace l % 128 = 0 ∧ m.newPlace l < 2 ^ 50 := by
  have hin := Dom.mem_linesAt h hl
  obtain ⟨hbase, hlen, hnew, hfit, -⟩ := h
  unfold Migrating.newPlace
  omega

theorem Migrating.newPlace_ne_old (h : m.movable) (hl : l ∈ d.linesAt slice m.base m.len)
    (hl' : l' ∈ d.linesAt slice m.base m.len) : l' ≠ m.newPlace l / 128 := by
  have hin := Dom.mem_linesAt h hl
  have hin' := Dom.mem_linesAt h hl'
  obtain ⟨hbase, hlen, hnew, hfit, hapart⟩ := h
  unfold Migrating.newPlace
  omega

theorem Migrating.newPlace_ne (h : m.movable) (hl : l ∈ d.linesAt slice m.base m.len)
    (hl' : l' ∈ d.linesAt slice m.base m.len) (hne : l' ≠ l) : m.newPlace l' / 128 ≠ m.newPlace l / 128 := by
  have hin := Dom.mem_linesAt h hl
  have hin' := Dom.mem_linesAt h hl'
  obtain ⟨hbase, hlen, hnew, -⟩ := h
  unfold Migrating.newPlace
  omega

end Places

section Copy
variable {s t : State} {d : Dom} {slice : Nat} {m : Migrating}

/-- A line copied where no line is watched: its bytes written at its new place, with its poison. -/
theorem State.copyLine_unwatched (h : t.unwatched) (hwinvs : ∀ k, (t.slice k).winvs.length < 64)
    (hkey : t.keyUsable m.key d.plan.num = true) {l : Nat} (hplace : m.newPlace l < 2 ^ 50) :
    ∃ u poison, t.serviced u ∧ t.copyLine d slice m l = some
      (let v := u.writeLine m.key (m.newPlace l) (t.bytesUnder m.key (128 * l) 128)
       v.withMs { v.ms with poison := v.ms.poison ++ poison }) := by
  have hwatch : (((t.slice slice).way? (d.set (128 * l)) l).map (fun w => w.watch)).getD false = false := by
    cases hw : (t.slice slice).way? (d.set (128 * l)) l with
    | none => rfl
    | some w => exact (h slice).way? hw
  have hfree : t.winvBlocked d (m.newPlace l) m.mt2 true = false := by
    unfold State.winvBlocked
    rw [decide_eq_false (Nat.not_le.2 (hwinvs _)), Bool.false_and]
  have hpackage : m.newPlace l / 2 ^ 50 = 0 := Nat.div_eq_of_lt hplace
  unfold Migrating.newPlace at hfree hpackage
  obtain ⟨u, hu, hwrite⟩ := State.engineWrite_unwatched h d m.key (m.new + (128 * l - m.base))
    ((((t.slice slice).way? (d.set (128 * l)) l).map (fun w => w.rts)).getD (t.slice slice).mts) m.mt2
    (t.bytesUnder m.key (128 * l) 128) hkey
  refine ⟨u, ?poison, hu, ?copied⟩
  case copied =>
    unfold State.copyLine
    dsimp only
    rw [hwatch, hfree, hwrite]
    simp only [Bool.false_and, Bool.or_self, Bool.false_eq_true, if_false, hpackage, if_true]
    rfl

/-- A range is being copied: what `s` holds of its lines stands, and the lines done stand at their new places. -/
def State.copying (s t : State) (slice : Nat) (m : Migrating) (lines done : List Nat) : Prop :=
  t.unwatched ∧ (∀ k, (t.slice k).winvs.length < 64) ∧ (t.slice slice).migrating = [m] ∧ t.ms.keys = s.ms.keys ∧ t.memoryKept ∧
    (∀ l ∈ lines, ∀ j, j < 128 → t.byteUnder m.key (128 * l + j) = s.byteUnder m.key (128 * l + j)) ∧
    ∀ l ∈ done, ∀ j, j < 128 → t.byteUnder m.key (m.newPlace l + j) = s.byteUnder m.key (128 * l + j)

theorem State.copying.copyLine {done : List Nat} {l : Nat} (h : s.copying t slice m (d.linesAt slice m.base m.len) done)
    (hm : m.movable) (hkey : s.keyUsable m.key d.plan.num = true) (hl : l ∈ d.linesAt slice m.base m.len)
    (hdone : ∀ l' ∈ done, l' ∈ d.linesAt slice m.base m.len) :
    ∃ v, t.copyLine d slice m l = some v ∧ s.copying v slice m (d.linesAt slice m.base m.len) (l :: done) := by
  obtain ⟨hwatch, hwinvs, hmigrating, hkeys, hmem, hold, hnew⟩ := h
  have hkey' : t.keyUsable m.key d.plan.num = true := by
    rw [← hkey, State.keyUsable, State.key, hkeys, State.keyUsable, State.key]
  obtain ⟨haligned, hplace⟩ := Migrating.newPlace_aligned hm hl
  obtain ⟨u, poison, ⟨hrest, hserved, hwatch'⟩, hcopy⟩ := State.copyLine_unwatched hwatch hwinvs hkey' hplace
  have hms : u.ms = t.ms := by rw [hrest]
  have hmem' : u.memoryKept := by rwa [State.memoryKept, hms]
  have hbytes : ∀ k a, u.byteUnder k a = t.byteUnder k a :=
    State.byteUnder_of_ms (by rw [hms]) (by rw [hms]) (by rw [hms]) (by rw [hms])
  have hlen : (t.bytesUnder m.key (128 * l) 128).length = 128 := t.length_bytesUnder ..
  refine ⟨_, hcopy, hwatch', fun k => ?_, ?_, ?_, ?_, fun l' hl' j hj => ?_, fun l' hl' j hj => ?_⟩
  · show (u.slice k).winvs.length < 64
    rw [hserved k]
    exact hwinvs k
  · show (u.slice slice).migrating = [m]
    rw [hserved slice]
    exact hmigrating
  · show u.ms.keys = s.ms.keys
    rw [hms, hkeys]
  · exact u.writeLine_wf m.key (m.newPlace l) _ hmem'
  · show (u.writeLine m.key (m.newPlace l) _).byteUnder m.key (128 * l' + j) = _
    have hne := Migrating.newPlace_ne_old hm hl hl'
    rw [State.byteUnder_writeLine_other hmem' haligned hlen (by omega), hbytes]
    exact hold l' hl' j hj
  · show (u.writeLine m.key (m.newPlace l) _).byteUnder m.key (m.newPlace l' + j) = _
    by_cases heq : l' = l
    · rw [heq, State.byteUnder_writeLine_same hmem' haligned hlen hj, State.getD_bytesUnder _ _ _ _ _ hj]
      exact hold l hl j hj
    · have hl' : l' ∈ done := (List.mem_cons.1 hl').resolve_left heq
      have hne := Migrating.newPlace_ne hm hl (hdone l' hl') heq
      have haligned' := (Migrating.newPlace_aligned hm (hdone l' hl')).1
      rw [State.byteUnder_writeLine_other hmem' haligned hlen (by omega), hbytes]
      exact hnew l' hl' j hj

theorem State.copying.copyLines (hm : m.movable) (hkey : s.keyUsable m.key d.plan.num = true) (ls : List Nat) :
    ∀ {t : State} {done : List Nat}, s.copying t slice m (d.linesAt slice m.base m.len) done →
      (∀ l ∈ ls, l ∈ d.linesAt slice m.base m.len) → (∀ l ∈ done, l ∈ d.linesAt slice m.base m.len) →
      ∃ v, State.copyLines d slice m ls t = (v, 0) ∧ ∃ all, (∀ l, l ∈ all ↔ l ∈ ls ∨ l ∈ done) ∧
        s.copying v slice m (d.linesAt slice m.base m.len) all := by
  induction ls with
  | nil => exact fun {t done} h _ _ => ⟨t, rfl, done, by simp, h⟩
  | cons l ls ih =>
    intro t done h hls hdone
    obtain ⟨hl, hls⟩ := List.forall_mem_cons.1 hls
    obtain ⟨u, hu, hcopying⟩ := h.copyLine hm hkey hl hdone
    obtain ⟨v, hv, all, hall, hfinal⟩ := ih hcopying hls (List.forall_mem_cons.2 ⟨hl, hdone⟩)
    refine ⟨v, ?_, all, fun x => ?_, hfinal⟩
    · unfold State.copyLines
      rw [hu]
      exact hv
    · rw [hall, List.mem_cons, List.mem_cons]
      tauto

end Copy

/-! ## The drain point of a range, and its release -/

section Migrate
variable {s : State} {slice i : Nat} {p : Packet}

theorem Slice.inboxAs_of {x : Slice} {ty : PType} (h : x.inbox[i]? = some p) (hty : p.ty = ty) : x.inboxAs i ty = some p := by
  simp [Slice.inboxAs, h, hty]

/-- A slice with a range's drain point taken. -/
def Slice.draining (x : Slice) (i : Nat) (m : Migrating) : Slice := { x with
  inbox := dropAt x.inbox i
  migrating := [m] }

/-- The range that a MIGRATE packet names. -/
def Packet.range (p : Packet) : Migrating := ⟨p.addr, p.len, p.ld, p.key, 0, 0, false, false, p.mt2⟩

theorem exec_sliceMigrate (h : (s.slice slice).inbox[i]? = some p) (hty : p.ty = .migrate) (hnone : (s.slice slice).migrating = []) :
    exec (.sliceMigrate slice i) s =
      .next ((s.setSlice slice ((s.slice slice).draining i p.range)).copyDrained slice p.dom) := by
  show execSliceMigrate slice i s = _
  unfold execSliceMigrate
  dsimp only
  rw [Slice.inboxAs_of h hty]
  dsimp only
  rw [hnone]
  rfl

theorem State.slice_setSlice_self (s : State) (k : Nat) (x : Slice) : (s.setSlice k x).slice k = x := Map.getD_set_self ..

/-- A range that has not drained, or whose key slot may not be used, stays as it is. -/
theorem exec_sliceMigrate_waits (h : (s.slice slice).inbox[i]? = some p) (hty : p.ty = .migrate)
    (hnone : (s.slice slice).migrating = []) (hwait : s.keyUsable p.key p.dom = false ∨ (s.slice slice).drained p.range = false) :
    completes (.sliceMigrate slice i) s (fun t => (t.slice slice).migrating = [p.range] ∧ t.ms = s.ms) := by
  have hexec := exec_sliceMigrate h hty hnone
  let u := s.setSlice slice ((s.slice slice).draining i p.range)
  have hslice : u.slice slice = (s.slice slice).draining i p.range := s.slice_setSlice_self ..
  have hmigrating : (u.slice slice).migrating = [p.range] := by rw [hslice]; rfl
  have hdrained : (u.slice slice).drained p.range = (s.slice slice).drained p.range := by rw [hslice]; rfl
  have hstop : (p.range.copied || p.range.failed || (p.range.next == 0 && !(u.slice slice).drained p.range) ||
      !u.keyUsable p.range.key p.dom) = true := by
    rw [hdrained, show u.keyUsable p.range.key p.dom = s.keyUsable p.key p.dom from rfl]
    rcases hwait with hno | hno <;> rw [hno]
    · exact Bool.or_true _
    · rfl
  have hcopy : u.copyDrained slice p.dom = u := by
    unfold State.copyDrained
    dsimp only
    rw [hmigrating, List.foldl_cons, List.foldl_nil, if_pos hstop]
  rw [show s.setSlice slice ((s.slice slice).draining i p.range) = u from rfl, hcopy] at hexec
  exact ⟨u, hexec, hmigrating, rfl⟩

/-- A range that has drained is copied line by line. -/
theorem exec_sliceMigrate_copies (h : (s.slice slice).inbox[i]? = some p) (hty : p.ty = .migrate)
    (hnone : (s.slice slice).migrating = []) (hkey : s.keyUsable p.key p.dom = true)
    (hdrained : (s.slice slice).drained p.range = true) (hmem : s.memoryKept) {d : Dom} (hdom : s.dom? p.dom = some d)
    (hnum : d.plan.num = p.dom) (hm : p.range.movable) (hwatch : s.unwatched) (hwinvs : ∀ x, (s.slice x).winvs.length < 64) :
    completes (.sliceMigrate slice i) s (fun t =>
      (t.slice slice).migrating = [{ p.range with next := (d.linesAt slice p.addr p.len).length, copied := true }] ∧
      ∀ l ∈ d.linesAt slice p.addr p.len, ∀ j, j < 128 →
        t.byteUnder p.key (p.range.newPlace l + j) = s.byteUnder p.key (128 * l + j)) := by
  have hexec := exec_sliceMigrate h hty hnone
  let m := p.range
  let u := s.setSlice slice ((s.slice slice).draining i m)
  have hslice : u.slice slice = (s.slice slice).draining i m := s.slice_setSlice_self ..
  have hother : ∀ k, (u.slice k).sets = (s.slice k).sets ∧ (u.slice k).winvs = (s.slice k).winvs := fun k => by
    rw [State.slice_setSlice]
    split_ifs with hk
    · rw [hk]
      exact ⟨rfl, rfl⟩
    · exact ⟨rfl, rfl⟩
  have hmigrating : (u.slice slice).migrating = [m] := by rw [hslice]; rfl
  have hgo : (m.copied || m.failed || (m.next == 0 && !(u.slice slice).drained m) || !u.keyUsable m.key p.dom) = false := by
    have hdrained' : (u.slice slice).drained m = true := by rw [hslice]; exact hdrained
    rw [hdrained', show u.keyUsable m.key p.dom = true from hkey]
    rfl
  have hdomOf : u.domOf p.dom = d := by
    show (s.dom? p.dom).getD _ = d
    rw [hdom]
    rfl
  have hstart : s.copying u slice m (d.linesAt slice m.base m.len) [] := by
    refine ⟨fun k n w hw => ?_, fun k => ?_, hmigrating, rfl, hmem, fun _ _ _ _ => rfl, fun l hl => by cases hl⟩
    · rw [(hother k).1] at hw
      exact hwatch k n w hw
    · rw [(hother k).2]
      exact hwinvs k
  obtain ⟨v, hcopies, all, hall, hfinal⟩ := hstart.copyLines hm (by rwa [hnum]) (d.linesAt slice m.base m.len) (fun _ h => h)
    (fun l hl => by cases hl)
  obtain ⟨-, -, hmigrating', -, -, -, hnew⟩ := hfinal
  have hcopy : u.copyDrained slice p.dom = v.setSlice slice { v.slice slice with
      migrating := [{ m with next := (d.linesAt slice p.addr p.len).length, copied := true }] } := by
    unfold State.copyDrained
    dsimp only
    rw [hmigrating, List.foldl_cons, List.foldl_nil, if_neg (by rw [hgo]; exact Bool.false_ne_true), hdomOf,
      show m.next = 0 from rfl, List.drop_zero, hcopies, hmigrating', List.map_singleton, if_pos (beq_self_eq_true _)]
    simp only [Nat.zero_add, Nat.sub_zero, beq_self_eq_true]
    rfl
  rw [show s.setSlice slice ((s.slice slice).draining i p.range) = u from rfl, hcopy] at hexec
  refine ⟨_, hexec, ?_, fun l hl j hj => ?_⟩
  · rw [State.slice_setSlice_self]
  · exact hnew l ((hall l).2 (.inl hl)) j hj

theorem le_foldl_of_le {α : Type} (f : Nat → α → Nat) (hf : ∀ t x, t ≤ f t x) (l : List α) : ∀ t, t ≤ l.foldl f t := by
  induction l with
  | nil => exact fun t => Nat.le_refl t
  | cons x l ih => exact fun t => (hf t x).trans (ih _)

/-- A release drops the range and its lines; what they carried stays below MTS. -/
theorem exec_sliceRelease (h : (s.slice slice).inbox[i]? = some p) (hty : p.ty = .release) :
    completes (.sliceRelease slice i) s (fun t => t.ms = s.ms ∧ (∀ m ∈ (t.slice slice).migrating, m.base ≠ p.addr) ∧
      (∀ e ∈ (t.slice slice).sets, ∀ w ∈ e.2, ¬ (p.addr ≤ 128 * w.line ∧ 128 * w.line < p.addr + p.len)) ∧
      (s.slice slice).mts ≤ (t.slice slice).mts) := by
  have hexec : exec (.sliceRelease slice i) s = execSliceRelease slice i s := rfl
  unfold execSliceRelease at hexec
  dsimp only at hexec
  rw [Slice.inboxAs_of h hty] at hexec
  refine ⟨_, hexec, rfl, ?_, ?_, ?_⟩ <;> rw [State.slice_setSlice_self]
  · intro m hm
    simpa using (List.mem_filter.1 hm).2
  · rintro e he w hw ⟨hlow, hhigh⟩
    obtain ⟨v, -, rfl⟩ := List.mem_map.1 he
    have hout := (List.mem_filter.1 hw).2
    rw [decide_eq_true hlow, decide_eq_true hhigh] at hout
    cases hout
  · refine le_foldl_of_le _ (fun t e => le_foldl_of_le _ (fun t w => ?_) _ _) _ _
    split_ifs
    · exact Nat.le_max_left ..
    · exact Nat.le_refl t

end Migrate

end Sys2Proof.Machine
end

section
/-! SUPPORT. Errors recorded, fills and scrubbing (R95, R135, R431). -/

namespace Sys2Proof.Machine

/-! ## Errors recorded (R431, R464) -/

/-- From `s` to `t` errors have been recorded: poison, the records and the ring of their unit's domain, and no byte of package
memory. -/
def State.records (s t : State) : Prop :=
  t = { s with
    ms := { s.ms with mem := t.ms.mem, poison := t.ms.poison }, fe := { s.fe with rings := t.fe.rings }
    draws := t.draws, health := t.health } ∧
  s.draws ≤ t.draws ∧ (s.memoryKept → t.memoryKept ∧ ∀ a, a < 2 ^ 51 → Memory.get t.ms.mem a = Memory.get s.ms.mem a)

section Records
variable {s t u : State}

theorem State.records.refl (s : State) : s.records s := ⟨rfl, Nat.le_refl _, fun h => ⟨h, fun _ _ => rfl⟩⟩

theorem State.records.trans (h : s.records t) (h' : t.records u) : s.records u := by
  obtain ⟨hrest, hdraws, hmem⟩ := h
  obtain ⟨hrest', hdraws', hmem'⟩ := h'
  refine ⟨?_, hdraws.trans hdraws', fun hkept => ?_⟩
  · rw [hrest', hrest]
  · obtain ⟨hkept1, hget⟩ := hmem hkept
    obtain ⟨hkept2, hget'⟩ := hmem' hkept1
    exact ⟨hkept2, fun a ha => (hget' a ha).trans (hget a ha)⟩

/-- What leaves memory as it is but for poison and draws no less records errors. -/
theorem State.records_of_mem (h : t = { s with
      ms := { s.ms with mem := s.ms.mem, poison := t.ms.poison }, fe := { s.fe with rings := t.fe.rings }
      draws := t.draws, health := t.health }) (hdraws : s.draws ≤ t.draws) : s.records t := by
  have hmem : t.ms.mem = s.ms.mem := by rw [h]
  refine ⟨?_, hdraws, fun hkept => ⟨?_, fun a _ => ?_⟩⟩
  · rw [hmem]
    exact h
  · rwa [State.memoryKept, hmem]
  · rw [hmem]

theorem State.records_drawn (s : State) : s.records s.drawn := State.records_of_mem rfl (Nat.le_succ _)

theorem State.records_lineBad (s : State) (die cls dom unit index : Nat) (cs : List Nat) :
    s.records (s.lineBad die cls dom unit index cs) := State.records_of_mem rfl (Nat.le_refl _)

theorem Memory.get_hostWrite {m : List Host.Cell} (h : Memory.wf m = true) (a : Nat) (bs : List Byte) {c : Nat} (hc : c < 2 ^ 51) :
    Memory.get (Memory.write m (hostPa a) bs) c = Memory.get m c := by
  rw [Memory.get_write _ _ _ _ h, if_neg]
  unfold hostPa
  omega

theorem State.records_putEvent (s : State) (d : Nat) (v : BitVec 128) : s.records (s.putEvent d v) := by
  refine ⟨rfl, Nat.le_refl _, fun hkept => ⟨State.putEvent_wf _ _ _ hkept, fun a ha => ?_⟩⟩
  exact (Memory.get_hostWrite (Memory.wf_write _ _ _ hkept) _ _ ha).trans (Memory.get_hostWrite hkept _ _ ha)

theorem State.records_requestReplace (s : State) (d : Nat) : s.records (s.requestReplace d) := by
  unfold State.requestReplace
  dsimp only
  split_ifs
  · exact (s.records_putEvent ..).trans (State.records_drawn _)
  · exact State.records_of_mem rfl (Nat.le_refl _)

theorem State.records_corrected (s : State) (die cls synd dom part unit index : Nat) :
    s.records (s.corrected die cls synd dom part unit index) := by
  unfold State.corrected
  dsimp only
  split_ifs
  · exact State.records.trans (State.records_of_mem rfl (Nat.le_refl _)) (State.records_requestReplace ..)
  · exact State.records_of_mem rfl (Nat.le_refl _)

theorem State.records.net (h : s.records t) : t.net = s.net := by rw [h.1]
theorem State.records.slice (h : s.records t) (k : Nat) : t.slice k = s.slice k := by rw [State.slice, h.net, State.slice]

end Records

/-! ## Fills (R95, R135) -/

section Fill
variable {s : State} {d : Dom} {pa key : Nat}

/-- A slice in which a line has come under a key slot, and which waits for the same fills. -/
def Slice.filled (x y : Slice) (set line key : Nat) : Prop :=
  y.fills = x.fills ∧ ∃ w, y.way? set line = some w ∧ w.key = key ∧ w.dirty = false ∧ w.watch = false

theorem Slice.filled_putWay {x y : Slice} {set : Nat} {w : Way} (hfills : y.fills = x.fills) (hnone : y.way? set w.line = none)
    (hdirty : w.dirty = false) (hwatch : w.watch = false) : x.filled (y.putWay set w) set w.line w.key := by
  obtain ⟨v, hv, hsame⟩ := Slice.way?_putWay hnone
  refine ⟨?_, v, hv, ?_⟩
  · rw [y.served_putWay set w]
    exact hfills
  · rw [hsame]
    exact ⟨rfl, hdirty, hwatch⟩

/-- A line that its slice does not hold comes into a way: one that is free, or the place of a line that makes room. -/
theorem State.filled_ensureLine (hnone : (s.slice (d.home pa)).way? (d.set pa) (pa / 128) = none) :
    (s.slice (d.home pa)).filled ((s.ensureLine d pa key).slice (d.home pa)) (d.set pa) (pa / 128) key := by
  let x := s.slice (d.home pa)
  have hput : ∀ (y : Slice) (i wts rts : Nat), y.fills = x.fills → y.way? (d.set pa) (pa / 128) = none →
      x.filled (y.putWay (d.set pa) ⟨i, pa / 128, key, false, false, wts, rts, s.now⟩) (d.set pa) (pa / 128) key :=
    fun y i wts rts hfills hfree => Slice.filled_putWay (w := ⟨i, pa / 128, key, false, false, wts, rts, s.now⟩) hfills hfree rfl rfl
  have hevict : ∀ w, (x.evict (d.set pa) w).way? (d.set pa) (pa / 128) = none := fun w => Slice.way?_evict w hnone
  unfold State.ensureLine
  dsimp only
  rw [hnone]
  dsimp only
  split
  · rw [State.slice_setSlice_self]
    exact hput x _ _ _ rfl hnone
  next hfull =>
    split
    · rw [State.slice_setSlice_self]
      exact hput _ _ _ _ rfl (hevict _)
    · split
      · have hwinv : ∀ (t : State) k dom line ts, (t.startWinv k dom line ts none).slice k =
            { t.slice k with winvs := ((t.startWinv k dom line ts none).slice k).winvs } := fun t k dom line ts => by
          have hstart : (t.startWinv k dom line ts none).slice k =
              { t.slice k with winvs := (t.slice k).winvs ++ [⟨line, (t.domOf dom).clusters, none⟩] } := t.slice_setSlice_self ..
          rw [hstart]
        rw [hwinv, State.slice_setSlice_self]
        exact hput _ _ _ _ rfl (hevict _)
      next hempty =>
        exfalso
        have hways : 0 < (if x.swept.contains (d.set pa) then 14 else 16) := by split_ifs <;> decide
        have htaken := List.find?_eq_none.1 hfull 0 (List.mem_range.2 hways)
        simp only [Bool.not_eq_true', Bool.not_eq_false, List.any_eq_true, beq_iff_eq] at htaken
        obtain ⟨w, hw, hway⟩ := htaken
        have hcand := leastUsed_eq_none.1 hempty
        have hin : w ∈ (Map.getD x.sets (d.set pa) []).filter
            (fun w => w.way < (if x.swept.contains (d.set pa) then 14 else 16)) :=
          List.mem_filter.2 ⟨hw, by rw [hway]; exact decide_eq_true hways⟩
        rw [hcand] at hin
        cases hin

end Fill

section Maintenance
variable {s : State} {slice i : Nat}

/-- A line that a request waits for arrives: into a way, or for a page with MT = 2 beside the ways. -/
theorem exec_hbmFillComplete {line key dom : Nat} {mt2 : Bool} {d : Dom} (hfill : (s.slice slice).fills[i]? = some (line, key, mt2))
    (hdom : s.ms.doms.find? (fun e => e.2.holds (128 * line) && e.2.home (128 * line) == slice) = some (dom, d))
    (hfree : s.winvBlocked d (128 * line) mt2 false = false) (hnone : (s.slice slice).way? (d.set (128 * line)) line = none) :
    completes (.hbmFillComplete slice i) s (fun t =>
      (t.slice slice).fills = dropAt (s.slice slice).fills i ∧
      (mt2 = false → ∃ w, (t.slice slice).way? (d.set (128 * line)) line = some w ∧ w.key = key ∧ w.dirty = false ∧
        w.watch = false) ∧
      (mt2 = true → (t.slice slice).sets = (s.slice slice).sets ∧
        (t.slice slice).loose = (s.slice slice).loose ++ [(line, key)])) := by
  let s1 := s.setSlice slice { s.slice slice with fills := dropAt (s.slice slice).fills i }
  let s2 := if mt2 then s1.setSlice slice { (s1.slice slice) with loose := (s1.slice slice).loose ++ [(line, key)] }
    else s1.ensureLine d (128 * line) key
  have hslice1 : s1.slice slice = { s.slice slice with fills := dropAt (s.slice slice).fills i } := s.slice_setSlice_self ..
  obtain ⟨t, hexec, ht⟩ : ∃ t, exec (.hbmFillComplete slice i) s = .next t ∧ s2.records t := by
    have hexec : exec (.hbmFillComplete slice i) s = execHbmFillComplete slice i s := rfl
    unfold execHbmFillComplete at hexec
    dsimp only at hexec
    rw [hfill] at hexec
    dsimp only at hexec
    rw [hdom] at hexec
    dsimp only at hexec
    rw [hfree, if_neg Bool.false_ne_true] at hexec
    refine ⟨_, hexec, s2.records_drawn.trans ?_⟩
    split
    · exact State.records_corrected ..
    · exact State.records_lineBad ..
    · exact State.records_lineBad ..
    · exact State.records_lineBad ..
    · exact State.records.refl _
  have hhome : d.home (128 * line) = slice := by
    have h := List.find?_some hdom
    simp only [Bool.and_eq_true, beq_iff_eq] at h
    exact h.2
  refine ⟨t, hexec, ?_⟩
  beta_reduce
  rw [ht.slice slice]
  cases mt2 with
  | true =>
    have hslice2 : s2.slice slice = { s1.slice slice with loose := (s1.slice slice).loose ++ [(line, key)] } :=
      s1.slice_setSlice_self ..
    rw [hslice2, hslice1]
    exact ⟨rfl, fun hno => (by cases hno), fun _ => ⟨rfl, rfl⟩⟩
  | false =>
    have hline : 128 * line / 128 = line := Nat.mul_div_cancel_left line (by decide)
    have hfilled := State.filled_ensureLine (s := s1) (d := d) (pa := 128 * line) (key := key)
    rw [hline, hhome, hslice1] at hfilled
    obtain ⟨hfills, hway⟩ := hfilled hnone
    exact ⟨hfills, fun _ => hway, fun hno => by cases hno⟩

/-- A scrubbed line changes no byte of package memory, and of its slice at most the fence. -/
theorem exec_sliceScrub {set : Nat} {w : Way}
    (h : ((s.slice slice).sets.flatMap (fun e => e.2.map (fun w => (e.1, w))))[i]? = some (set, w)) :
    ∃ t u, exec (.sliceScrub slice i) s = .next t.drawn ∧ u.records t ∧
      (u = s ∨ u = s.setSlice slice { s.slice slice with fenced := true }) := by
  have hexec : exec (.sliceScrub slice i) s = execSliceScrub slice i s := rfl
  unfold execSliceScrub at hexec
  rw [h] at hexec
  dsimp only at hexec
  split at hexec
  · exact ⟨_, s, hexec, State.records_corrected .., .inl rfl⟩
  · refine ⟨_, s, hexec, ?_, .inl rfl⟩
    split_ifs
    · exact State.records_corrected ..
    · exact State.records.refl s
  · exact ⟨_, s, hexec, State.records_lineBad .., .inl rfl⟩
  · exact ⟨_, s, hexec, State.records_lineBad .., .inl rfl⟩
  · exact ⟨_, s, hexec, State.records_lineBad .., .inl rfl⟩
  · exact ⟨_, _, hexec, State.records_lineBad .., .inr rfl⟩
  · exact ⟨_, s, hexec, State.records.refl s, .inl rfl⟩

theorem exec_sliceScrub_leaves {set : Nat} {w : Way}
    (h : ((s.slice slice).sets.flatMap (fun e => e.2.map (fun w => (e.1, w))))[i]? = some (set, w)) :
    completes (.sliceScrub slice i) s (fun t => t.draws ≥ s.draws + 1 ∧ t.wv = s.wv ∧ t.waves = s.waves ∧ t.cores = s.cores ∧
      (t.slice slice = s.slice slice ∨ t.slice slice = { s.slice slice with fenced := true }) ∧
      (∀ x, x ≠ slice → t.slice x = s.slice x) ∧ t.net.wires = s.net.wires ∧ t.net.outs = s.net.outs ∧
      t.net.ports = s.net.ports ∧ t.ms.keys = s.ms.keys ∧ t.ms.lineKey = s.ms.lineKey ∧
      (s.memoryKept → ∀ a, a < 2 ^ 51 → Memory.get t.ms.mem a = Memory.get s.ms.mem a)) := by
  obtain ⟨t, u, hexec, hrecords, hu⟩ := exec_sliceScrub h
  have hslice : ∀ k, t.drawn.slice k = u.slice k := hrecords.slice
  obtain ⟨hrest, hdraws, hmem⟩ := hrecords
  have hunit : u = { s with net := { s.net with slices := u.net.slices } } ∧
      (u.slice slice = s.slice slice ∨ u.slice slice = { s.slice slice with fenced := true }) ∧
      ∀ x, x ≠ slice → u.slice x = s.slice x := by
    rcases hu with rfl | rfl
    · exact ⟨rfl, .inl rfl, fun _ _ => rfl⟩
    · refine ⟨rfl, .inr (s.slice_setSlice_self ..), fun x hx => ?_⟩
      rw [State.slice_setSlice, if_neg hx]
  obtain ⟨hnet, hfence, hothers⟩ := hunit
  have hframe : t.wv = s.wv ∧ t.waves = s.waves ∧ t.cores = s.cores ∧ t.net.wires = s.net.wires ∧ t.net.outs = s.net.outs ∧
      t.net.ports = s.net.ports ∧ t.ms.keys = s.ms.keys ∧ t.ms.lineKey = s.ms.lineKey := by
    rw [hrest, hnet]
    exact ⟨rfl, rfl, rfl, rfl, rfl, rfl, rfl, rfl⟩
  obtain ⟨hwv, hwaves, hcores, hwires, houts, hports, hkeys, htags⟩ := hframe
  have hms : u.ms = s.ms ∧ u.draws = s.draws := by
    rw [hnet]
    exact ⟨rfl, rfl⟩
  rw [State.memoryKept, hms.1] at hmem
  refine ⟨_, hexec, ?_, hwv, hwaves, hcores, ?_, fun x hx => ?_, hwires, houts, hports, hkeys, htags, fun hkept => (hmem hkept).2⟩
  · rw [hms.2] at hdraws
    exact Nat.succ_le_succ hdraws
  · rw [hslice]
    exact hfence
  · rw [hslice]
    exact hothers x hx

end Maintenance

/-- Settles O43: a migrating range waits, is copied or is released; a fill takes a way or none; a scrub records what it finds. -/
theorem sliceMaintenance : Obligations.SliceMaintenance := by
  unfold Obligations.SliceMaintenance
  refine ⟨fun s slice i p h => ⟨fun hty hnone => ⟨fun hwait => exec_sliceMigrate_waits h hty hnone hwait, ?_⟩,
    fun hty => exec_sliceRelease h hty⟩, fun s slice i line key dom mt2 d hfill hdom hfree hnone =>
      exec_hbmFillComplete hfill hdom hfree hnone, fun s slice i set w h => exec_sliceScrub_leaves h⟩
  intro hkey hdrained hmem d hdom hnum hbase hlen hnew hfit hapart hwatch hwinvs
  exact exec_sliceMigrate_copies h hty hnone hkey hdrained hmem hdom hnum ⟨hbase, hlen, hnew, hfit, hapart⟩ hwatch hwinvs

end Sys2Proof.Machine
end

section
/-! SUPPORT. A message of the host's port, which its slice holds under another key slot than the packet names. -/

namespace Sys2Proof.Machine

/-- A MSG of port 513 that names key slot 0. -/
def hostMessage : Packet := { winvPacket 0 0 0 0 0 with ty := .msg, port := hostPort, len := 0 }

/-- The reset state with that message at the input of slice 0. -/
def hostMessageArrived : State := State.reset.setSlice 0 { Slice.reset with inbox := [hostMessage] }

theorem hostMessageArrived_ready : hostMessageArrived.ready 0 0 hostMessage :=
  ⟨rfl, rfl, rfl, by decide, rfl, rfl⟩

/-- `State.keyed` gives the message the key slot of the line at its address, as it does for the host's reads and writes. -/
theorem hostMessageArrived_held :
    (match exec (.sliceMsg 0 0) hostMessageArrived with
      | .next t => (t.slice 0).msgs.map (fun m => m.pkt.key)
      | _ => []) = [hostSlot] := by
  decide +kernel

/-- Refutes O42: no hypothesis keeps the message from coming from the host's port, and of such a packet the slice holds a copy
that `State.keyed` has given another key slot, where the statement has the very packet held. -/
theorem not_messagesAreRelayed : ¬ Obligations.MessagesAreRelayed := by
  unfold Obligations.MessagesAreRelayed
  rintro ⟨harrives, -⟩
  obtain ⟨t, hexec, -, m, hmsgs, hpkt, -⟩ := harrives hostMessageArrived 0 0 hostMessage hostMessageArrived_ready
    rfl rfl rfl rfl rfl rfl
  have hheld := hostMessageArrived_held
  rw [hexec] at hheld
  dsimp only at hheld
  rw [hmsgs, List.map_singleton, hpkt] at hheld
  exact absurd hheld (by decide)

end Sys2Proof.Machine
end

section
/-! SUPPORT. A request taken from a slice's input and applied at the home of a line that it holds (R107, R112, R116, R135). -/

namespace Sys2Proof.Machine

/-! ## What taking and applying a request leaves of its slice -/

/-- From `x` to `y` a slice has taken a packet from its input. -/
def Slice.taken (x y : Slice) : Prop := y = { x with inbox := y.inbox, loose := y.loose, holes := y.holes, cnt := y.cnt }

/-- From `s` to `t` slice `k` has taken a packet from its input. -/
def State.taken (s t : State) (k : Nat) : Prop :=
  t = { s with net := { s.net with slices := t.net.slices } } ∧ (s.slice k).taken (t.slice k)

/-- From `x` to `y` a slice has served a request: what waits in it, its messages and its WINV operations stand. -/
def Slice.handled (x y : Slice) : Prop :=
  y = { x with
    inbox := y.inbox, loose := y.loose, cnt := y.cnt, results := y.results
    sets := y.sets, sbase := y.sbase, mts := y.mts, monitor := y.monitor }

/-- From `s` to `t` slice `k` has served a request, which has written package memory or left it. -/
def State.handled (s t : State) (k : Nat) : Prop :=
  t = { s with
    net := { s.net with slices := t.net.slices }
    ms := { s.ms with mem := t.ms.mem, lineKey := t.ms.lineKey, poison := t.ms.poison }
    fe := t.fe } ∧ (s.slice k).handled (t.slice k)

section Handled
variable {s t u : State} {k : Nat} {p : Packet}

theorem State.taken.trans (h : s.taken t k) (h' : t.taken u k) : s.taken u k := by
  obtain ⟨hrest, hslice⟩ := h
  obtain ⟨hrest', hslice'⟩ := h'
  refine ⟨by rw [hrest', hrest], ?_⟩
  unfold Slice.taken at hslice hslice' ⊢
  rw [hslice', hslice]

theorem State.taken_setSlice {y : Slice} (h : (s.slice k).taken y) : s.taken (s.setSlice k y) k :=
  ⟨rfl, by rwa [State.slice_setSlice_self]⟩

theorem State.taken_dropLoose (s : State) (p : Packet) : s.taken (s.dropLoose p) p.slice := by
  unfold State.dropLoose
  dsimp only
  split_ifs
  · exact State.taken_setSlice rfl
  · exact ⟨rfl, rfl⟩

theorem State.handled.refl (s : State) (k : Nat) : s.handled s k := ⟨rfl, rfl⟩

theorem State.handled.trans (h : s.handled t k) (h' : t.handled u k) : s.handled u k := by
  obtain ⟨hrest, hslice⟩ := h
  obtain ⟨hrest', hslice'⟩ := h'
  refine ⟨by rw [hrest', hrest], ?_⟩
  unfold Slice.handled at hslice hslice' ⊢
  rw [hslice', hslice]

/-- Taking a packet that opens or fills no hole is part of serving it. -/
theorem State.taken.handled (h : s.taken t k) (hholes : (t.slice k).holes = (s.slice k).holes) : s.handled t k := by
  obtain ⟨hrest, hslice⟩ := h
  refine ⟨by rw [hrest], ?_⟩
  unfold Slice.taken at hslice
  unfold Slice.handled
  rw [hslice, hholes]

theorem State.handled_setSlice {y : Slice} (h : (s.slice k).handled y) : s.handled (s.setSlice k y) k :=
  ⟨rfl, by rwa [State.slice_setSlice_self]⟩

theorem Slice.served.handled {x y : Slice} (h : x.served y) : x.handled y := by
  unfold Slice.served at h
  unfold Slice.handled
  rw [h]

theorem State.handled_dropLoose (s : State) (p : Packet) : s.handled (s.dropLoose p) p.slice := by
  refine (State.taken_dropLoose s p).handled ?_
  unfold State.dropLoose
  dsimp only
  split_ifs
  · rw [State.slice_setSlice_self]
  · rfl

theorem State.handled_keepLine (s : State) (d : Dom) (pa : Nat) (mt2 : Bool) (w : Way) : s.handled (s.keepLine d pa mt2 w) (d.home pa) := by
  unfold State.keepLine
  dsimp only
  split_ifs
  · exact State.handled_setSlice (Slice.served_evict ..).handled
  · exact State.handled_setSlice (Slice.served_putWay ..).handled

theorem State.handled_watchLine (s : State) (d : Dom) (pa : Nat) : s.handled (s.watchLine d pa) (d.home pa) := by
  unfold State.watchLine
  dsimp only
  split
  · exact State.handled_setSlice (Slice.served_putWay ..).handled
  · exact .refl ..

theorem State.handled_writeLine (s : State) (key a k : Nat) (bs : List Byte) : s.handled (s.writeLine key a bs) k := ⟨rfl, rfl⟩

theorem State.handled_noteHost (s : State) (p : Packet) (a : HomeAnswer) (k : Nat) : s.handled (s.noteHost p a) k := by
  unfold State.noteHost
  split_ifs <;> exact ⟨rfl, rfl⟩

theorem State.handled.wires (h : s.handled t k) : t.net.wires = s.net.wires := by rw [h.1]

theorem State.handled.domOf (h : s.handled t k) (n : Nat) : t.domOf n = s.domOf n := by
  rw [h.1]
  rfl

theorem State.handled.slice (h : s.handled t k) : (t.slice k).winvs = (s.slice k).winvs ∧ (t.slice k).waiting = (s.slice k).waiting ∧
    (t.slice k).migrating = (s.slice k).migrating ∧ (t.slice k).holes = (s.slice k).holes := by
  rw [h.2]
  exact ⟨rfl, rfl, rfl, rfl⟩

end Handled

/-! ## A slice at which nothing waits -/

/-- Nothing waits in a slice and no range of it migrates, so that nothing follows a change there. -/
def Slice.idle (x : Slice) : Prop := x.waiting = [] ∧ x.migrating = []

theorem State.settleSlice_of_idle {s : State} {slice : Nat} (h : (s.slice slice).idle) (dom : Nat) : s.settleSlice slice dom = s := by
  obtain ⟨hwaiting, hmigrating⟩ := h
  unfold State.settleSlice
  rw [hwaiting]
  show s.copyDrained slice dom = s
  unfold State.copyDrained
  dsimp only
  rw [hmigrating]
  rfl

theorem State.handled.idle {s t : State} {k : Nat} (h : s.handled t k) (hidle : (s.slice k).idle) : (t.slice k).idle := by
  obtain ⟨-, hwaiting, hmigrating, -⟩ := h.slice
  exact ⟨hwaiting.trans hidle.1, hmigrating.trans hidle.2⟩

/-! ## A line that its home holds -/

section Hits
variable {s t : State} {p : Packet} {w : Way}

/-- The home that a request hits, under the domain that the packet names. -/
theorem State.hits.home (h : s.hits p w) : (s.domOf p.dom).home p.addr = p.slice ∧ (s.domOf p.dom).plan.num = p.dom := by
  obtain ⟨-, d, hdom, hnum, hhome, -⟩ := h
  rw [State.domOf, hdom]
  exact ⟨hhome, hnum⟩

theorem State.hits.way (h : s.hits p w) :
    (s.slice p.slice).way? ((s.domOf p.dom).set p.addr) (p.addr / 128) = some w ∧ w.key = p.key := by
  obtain ⟨-, d, hdom, -, -, -, hway, hkey, -⟩ := h
  rw [State.domOf, hdom]
  exact ⟨hway, hkey⟩

theorem State.hits.sound (h : s.hits p w) : s.keyUsable p.key p.dom = true ∧
    (s.slice p.slice).flagged p.addr p.len s.netNow = false ∧ s.rangePoisoned (s.domOf p.dom) p.addr p.len = false := by
  obtain ⟨-, d, hdom, -, -, husable, -, -, hflag, hpoison, -⟩ := h
  rw [State.domOf, hdom]
  exact ⟨husable, hflag, hpoison⟩

theorem State.hits.room (h : s.hits p w) : w.watch = true → (s.slice p.slice).winvs.length < 64 := h.2.choose_spec.2.2.2.2.2.2.2.2

theorem State.keyed_of_ms (h : t.ms = s.ms) (p : Packet) : t.keyed p = s.keyed p := by
  unfold State.keyed State.hostKey
  rw [h]

/-- Taking the request from the input leaves what it finds at its home. -/
theorem State.taken.hits (h : s.taken t p.slice) (hhits : s.hits p w) : t.hits p w := by
  obtain ⟨hrest, hslice⟩ := h
  obtain ⟨hkeyed, d, hdom, hnum, hhome, husable, hway, hkey, hflag, hpoison, hroom⟩ := hhits
  have hms : t.ms = s.ms := by rw [hrest]
  have hnow : t.netNow = s.netNow := by rw [hrest]; rfl
  have hsame : (t.slice p.slice).sets = (s.slice p.slice).sets ∧ (t.slice p.slice).monitor = (s.slice p.slice).monitor ∧
      (t.slice p.slice).fenced = (s.slice p.slice).fenced ∧ (t.slice p.slice).winvs = (s.slice p.slice).winvs := by
    rw [hslice]
    exact ⟨rfl, rfl, rfl, rfl⟩
  obtain ⟨hsets, hmonitor, hfenced, hwinvs⟩ := hsame
  refine ⟨(State.keyed_of_ms hms p).trans hkeyed, d, ?_, hnum, hhome, ?_, ?_, hkey, ?_, ?_, ?_⟩
  · rwa [State.dom?, hms]
  · rwa [State.keyUsable, State.key, hms]
  · rwa [Slice.way?, hsets]
  · rwa [Slice.flagged, hmonitor, hnow]
  · rw [State.rangePoisoned, hhome, hfenced, ← hhome]
    unfold State.lineLost
    rw [hms]
    have hchunk : t.chunkPoisoned = s.chunkPoisoned := by
      funext c
      unfold State.chunkPoisoned State.unwritten
      rw [hms]
    rw [hchunk]
    exact hpoison
  · rwa [hwinvs]

theorem State.hits.accessStatus (h : s.hits p w) : s.accessStatus (s.domOf p.dom) p.key p.addr p.len = 0 := by
  obtain ⟨hhome, hnum⟩ := h.home
  obtain ⟨husable, hflag, -⟩ := h.sound
  rw [State.accessStatus, hhome, hnum, husable, hflag, if_neg, if_neg Bool.false_ne_true]
  rintro ⟨-, hno⟩
  cases hno

/-- The line needs no fill: the way that holds it serves the request. -/
theorem State.hits.lineFor (h : s.hits p w) (mt2 : Bool) : s.lineFor (s.domOf p.dom) p.addr p.key mt2 = (s, w) := by
  obtain ⟨hway, hkey⟩ := h.way
  have hstays : s.ensureLine (s.domOf p.dom) p.addr p.key = s := by
    unfold State.ensureLine
    rw [h.home.1]
    dsimp only
    rw [hway]
    exact if_pos hkey
  unfold State.lineFor
  rw [h.home.1, hstays]
  dsimp only
  rw [hway]
  simp

theorem State.hits.needsFill (h : s.hits p w) : s.needsFill p = false := by
  obtain ⟨hway, hkey⟩ := h.way
  unfold State.needsFill
  rw [h.1]
  dsimp only
  rw [Slice.present, hway]
  simp [hkey]

theorem State.hits.winvFull (h : s.hits p w) : s.winvFull p = false := by
  obtain ⟨hway, -⟩ := h.way
  unfold State.winvFull State.winvBlocked State.winvNeeded
  rw [h.home.1]
  dsimp only
  rw [hway]
  cases hwatch : w.watch with
  | false => simp [hwatch]
  | true => simp [Nat.not_le.2 (h.room hwatch)]

end Hits

/-! ## Reads and writes of such a line (R133, R135) -/

section Served
variable {s : State} {p : Packet} {w : Way}

theorem State.keepLine_monitor (s : State) (d : Dom) (pa : Nat) (mt2 : Bool) (w : Way) :
    ((s.keepLine d pa mt2 w).slice (d.home pa)).monitor = (s.slice (d.home pa)).monitor := by
  unfold State.keepLine
  dsimp only
  split_ifs <;> rw [State.slice_setSlice_self]
  · rfl
  · unfold Slice.putWay Slice.fit
    dsimp only
    split_ifs <;> rfl

/-- What a way's LEASE holds does not depend on when it was used last. -/
theorem Slice.raise_used (x : Slice) (w : Way) (n : Nat) : x.raise { w with used := n } = { x.raise w with used := n } := by
  unfold Slice.raise Way.fit
  dsimp only
  split_ifs <;> simp_all

/-- The way of a line after a read at timestamp `ts`. -/
def Slice.leased (x : Slice) (w : Way) (ts : Nat) : Way := x.raise { w with rts := max w.rts (max (w.wts + 64) (ts + 64)) }

theorem State.hits.homeRead (h : s.hits p w) (mt2 : Bool) :
    ∃ t, s.handled t p.slice ∧ t.ms = s.ms ∧ (t.slice p.slice).monitor = (s.slice p.slice).monitor ∧ s.homeRead (s.domOf p.dom) p.key p.addr p.len p.ts mt2 =
      (t, ⟨s.bytesUnder p.key p.addr p.len, 0, ((s.slice p.slice).leased w p.ts).wts,
        ((s.slice p.slice).leased w p.ts).rts - ((s.slice p.slice).leased w p.ts).wts, false⟩) := by
  obtain ⟨hhome, -⟩ := h.home
  obtain ⟨-, -, hpoison⟩ := h.sound
  unfold State.homeRead
  dsimp only
  rw [h.accessStatus, if_neg (by decide), h.lineFor, hpoison, hhome, Slice.raise_used (s.slice p.slice) { w with
    rts := max w.rts (max (w.wts + 64) (p.ts + 64)) } s.now]
  exact ⟨_, hhome ▸ State.handled_keepLine .., State.keepLine_ms .., hhome ▸ State.keepLine_monitor .., rfl⟩

/-- The timestamp of the next write of a line at timestamp `ts`. -/
def Slice.nextWts (x : Slice) (w : Way) (ts : Nat) : Nat := max ts ((x.raise w).rts + 1)

theorem State.hits.homeWrite (h : s.hits p w) (mt2 rmw : Bool) (new : List Byte → List Byte) (cuts : List (Nat × Nat)) :
    ∃ t, s.handled t p.slice ∧ t.ms = s.ms ∧ s.homeWrite (s.domOf p.dom) p.key p.addr p.len p.ts mt2 rmw new cuts =
      (t.writeLine p.key p.addr (new (s.bytesUnder p.key p.addr p.len)),
        ⟨s.bytesUnder p.key p.addr p.len, 0, (s.slice p.slice).nextWts w p.ts, 0, w.watch⟩) := by
  obtain ⟨hhome, -⟩ := h.home
  obtain ⟨-, -, hpoison⟩ := h.sound
  unfold State.homeWrite
  dsimp only
  rw [h.accessStatus, if_neg (by decide), h.lineFor, hpoison, Bool.and_false, if_neg Bool.false_ne_true, hhome, Slice.raise_watch]
  have hkeep : ∀ t v, State.handled t (t.keepLine (s.domOf p.dom) p.addr mt2 v) p.slice := fun t v => by
    have hkept := t.handled_keepLine (s.domOf p.dom) p.addr mt2 v
    rwa [hhome] at hkept
  exact ⟨_, State.handled.trans (State.handled_setSlice (Slice.served_noteWrite ..).handled) (hkeep ..), State.keepLine_ms .., rfl⟩

end Served

/-! ## The bytes of a write (R90) -/

section Bytes
variable {s : State} {k a : Nat} {bs : List Byte}

theorem State.byteUnder_eq_of_tag {n : Nat} (h : s.lineTag (n / 128) = some (k, (s.key k).epoch)) :
    s.byteUnder k n = Memory.get s.ms.mem n := by
  unfold State.byteUnder
  dsimp only
  rw [h]
  exact if_pos (.inr ⟨rfl, rfl⟩)

/-- Memory under the key slot of a write, before its bytes go in: the line reads as that slot read it. -/
theorem State.writeLine_base (s : State) (k a : Nat) (bs : List Byte) (hmem : s.memoryKept) :
    ∃ m, Memory.wf m = true ∧ (s.writeLine k a bs).ms.mem = Memory.write m a bs ∧
      (∀ n, n / 128 = a / 128 → Memory.get m n = s.byteUnder k n) ∧
      ∀ n, n / 128 ≠ a / 128 → Memory.get m n = Memory.get s.ms.mem n := by
  by_cases hsame : s.lineTag (a / 128) = none ∨ s.lineTag (a / 128) = some (k, (s.key k).epoch)
  · refine ⟨s.ms.mem, hmem, ?_, fun n hn => ?_, fun _ _ => rfl⟩
    · rcases hsame with htag | htag <;> simp [State.writeLine, htag, State.withMs]
    · rcases hsame with htag | htag <;> rw [← hn] at htag
      · unfold State.byteUnder
        dsimp only
        rw [htag]
      · exact (State.byteUnder_eq_of_tag htag).symm
  · have hlen := s.length_bytesUnder k 128 (128 * (a / 128))
    refine ⟨Memory.write s.ms.mem (128 * (a / 128)) (s.bytesUnder k (128 * (a / 128)) 128), Memory.wf_write _ _ _ hmem, ?_,
      fun n hn => ?_, fun n hn => ?_⟩
    · rw [not_or] at hsame
      obtain ⟨hsome, hother⟩ := hsame
      obtain ⟨⟨k0, e0⟩, htag⟩ := Option.ne_none_iff_exists'.1 hsome
      rw [htag] at hother
      have hne : (decide (k0 = k) && decide (e0 = (s.key k).epoch)) = false := by
        by_contra hboth
        simp only [Bool.not_eq_false, Bool.and_eq_true, decide_eq_true_eq] at hboth
        exact hother (by rw [hboth.1, hboth.2])
      simp only [State.writeLine, State.withMs, htag, hne, Bool.false_eq_true, if_false]
    · rw [Memory.get_write _ _ _ _ hmem, hlen, if_pos (by omega), State.getD_bytesUnder _ _ _ _ _ (by omega),
        Nat.add_sub_of_le (by omega)]
    · rw [Memory.get_write _ _ _ _ hmem, hlen, if_neg (by omega)]

theorem State.wroteLine_writeLine (hmem : s.memoryKept) {p : Packet} (hfit : p.addr % 128 + bs.length ≤ 128) :
    s.wroteLine (s.writeLine p.key p.addr bs) p bs := by
  obtain ⟨m, hwf, hwrite, hline, hother⟩ := s.writeLine_base p.key p.addr bs hmem
  have hget : ∀ n, Memory.get (s.writeLine p.key p.addr bs).ms.mem n =
      if p.addr ≤ n ∧ n < p.addr + bs.length then bs.getD (n - p.addr) 0 else Memory.get m n := fun n => by
    rw [hwrite, Memory.get_write _ _ _ _ hwf]
  have hkeys : (s.writeLine p.key p.addr bs).ms.lineKey = Map.set s.ms.lineKey (p.addr / 128) (p.key, (s.key p.key).epoch) := rfl
  refine ⟨fun n => ?_, fun n hn => ?_⟩
  · by_cases hn : n / 128 = p.addr / 128
    · have htag : (s.writeLine p.key p.addr bs).lineTag (n / 128) =
          some (p.key, ((s.writeLine p.key p.addr bs).key p.key).epoch) := by
        rw [State.lineTag, hkeys, hn, Map.get?_set_self]
        rfl
      rw [State.byteUnder_eq_of_tag htag, hget, hline n hn]
    · have htag : (s.writeLine p.key p.addr bs).lineTag (n / 128) = s.lineTag (n / 128) := by
        rw [State.lineTag, hkeys, Map.get?_set, if_neg hn, State.lineTag]
        rfl
      have hkey : (s.writeLine p.key p.addr bs).key p.key = s.key p.key := rfl
      have hout : ¬ (p.addr ≤ n ∧ n < p.addr + bs.length) := by omega
      have hsame : Memory.get (s.writeLine p.key p.addr bs).ms.mem n = Memory.get s.ms.mem n := by
        rw [hget, if_neg hout, hother n hn]
      rw [if_neg hout, State.byteUnder, State.byteUnder, hsame, htag, hkey]
  · have hout : ¬ (p.addr ≤ n ∧ n < p.addr + bs.length) := by omega
    rw [hget, if_neg hout, hother n hn]

/-- A write leaves what it leaves wherever else the state differs. -/
theorem State.wroteLine.of_ms {s' t t' : State} {p : Packet} (h : s.wroteLine t p bs) (hs : s'.ms = s.ms) (ht : t'.ms = t.ms) :
    s'.wroteLine t' p bs := by
  have hbytes : ∀ {u u' : State}, u'.ms = u.ms → ∀ n, u'.byteUnder p.key n = u.byteUnder p.key n := fun {u u'} hms n =>
    State.byteUnder_of_ms (by rw [hms]) (by rw [hms]) (by rw [hms]) (by rw [hms]) _ _
  obtain ⟨hline, hother⟩ := h
  refine ⟨fun n => ?_, fun n hn => ?_⟩
  · rw [hbytes ht, hbytes hs, hline]
  · rw [ht, hs, hother n hn]

end Bytes

end Sys2Proof.Machine
end

section
/-! SUPPORT. The requests of a slice applied and answered (R96, R118, R119, R133 to R135, R463). -/

namespace Sys2Proof.Machine

/-! ## Multicast reads (R119) -/

section Multicast
variable {s t : State}

/-- From `s` to `t` some MDATA packets have left a slice with data `bs` and timestamp `ts`. -/
def State.sentMdata (s t : State) (bs : List Byte) (ts : Nat) (fs : List Flight) : Prop :=
  t.net = { s.net with wires := s.net.wires ++ fs } ∧ t.ms = s.ms ∧
    ∀ f ∈ fs, f.pkt.ty = .mdata ∧ f.pkt.data = bs ∧ f.pkt.ts = ts

theorem State.sentMdata.trans {u : State} {bs : List Byte} {ts : Nat} {fs gs : List Flight} (h : s.sentMdata t bs ts fs)
    (h' : t.sentMdata u bs ts gs) : s.sentMdata u bs ts (fs ++ gs) := by
  obtain ⟨hnet, hms, hfs⟩ := h
  obtain ⟨hnet', hms', hgs⟩ := h'
  refine ⟨by rw [hnet', hnet, List.append_assoc], hms'.trans hms, fun f hf => ?_⟩
  rcases List.mem_append.1 hf with hf | hf
  · exact hfs f hf
  · exact hgs f hf

/-- A discarded packet leaves a record and sends nothing. -/
theorem State.sentMdata_note (s : State) (b : Bool) (die unit dom : Nat) (bs : List Byte) (ts : Nat) :
    s.sentMdata (if b then s.discardPacket die unit dom else s) bs ts [] := by
  split_ifs <;> exact ⟨by simp [State.discardPacket, State.logError], rfl, fun f hf => by cases hf⟩

theorem State.sentMdata_sendMulticast (s : State) {p : Packet} (ports : List Nat) (h : p.ty = .mdata) :
    s.sentMdata (s.sendMulticast p ports) p.data p.ts [⟨{ p with born := s.now }, 0, [], ports⟩] :=
  ⟨rfl, rfl, fun f hf => by rw [List.mem_singleton.1 hf]; exact ⟨h, rfl, rfl⟩⟩

/-- The copies of a multicast read for one target: one packet where its mask names a cluster, none where it names none. -/
theorem State.sentMdata_target (s : State) {p : Packet} (grp mask : Nat) (h : p.ty = .mdata) :
    ∃ fs, (mask ≠ 0 → fs ≠ []) ∧ s.sentMdata (if mask = 0 then s else
      s.sendMulticast { p with mgrp := grp, mcast := mask } (mdataPorts grp mask)) p.data p.ts fs := by
  split_ifs with hmask
  · exact ⟨[], fun hne => absurd hmask hne, by rw [State.sentMdata, List.append_nil]; exact ⟨rfl, rfl, fun f hf => by cases hf⟩⟩
  · exact ⟨_, fun _ => List.cons_ne_nil _ _, State.sentMdata_sendMulticast s (p := { p with mgrp := grp, mcast := mask }) _ h⟩

theorem mdataPorts_zero (grp : Nat) : mdataPorts grp 0 = [] := by
  simp [mdataPorts]

theorem State.multicast_sends (s : State) (d : Dom) (p : Packet) (a : HomeAnswer) :
    ∃ fs, fs ≠ [] ∧ s.sentMdata (s.multicast d p a) a.data a.ts fs := by
  unfold State.multicast
  extract_lets w t0 t1 note answer out send s1 reached
  have hout : out.ty = .mdata := rfl
  have hnote : ∀ b (v : State), v.sentMdata (note b v) a.data a.ts [] := fun b v => v.sentMdata_note ..
  have hsend : ∀ g m (v : State), ∃ fs, (m ≠ 0 → fs ≠ []) ∧ v.sentMdata (send g m v) a.data a.ts fs := fun g m v => v.sentMdata_target g m hout
  obtain ⟨fs, hfs, hfirst⟩ := hsend (w / 2 ^ 16 % 16) t0.1 (note t1.2 (note t0.2 s))
  obtain ⟨gs, hgs, hsecond⟩ := hsend (w / 2 ^ 36 % 16) t1.1 (send (w / 2 ^ 16 % 16) t0.1 (note t1.2 (note t0.2 s)))
  have hs1 : s.sentMdata s1 a.data a.ts (fs ++ gs) :=
    (((hnote t0.2 s).trans (hnote t1.2 _)).trans hfirst).trans hsecond
  cases hreached : reached with
  | false => exact ⟨_, by simp, hs1.trans (s1.sentMdata_sendMulticast [p.port] hout)⟩
  | true =>
    refine ⟨fs ++ gs, fun hnil => ?_, hs1⟩
    obtain ⟨hf, hg⟩ := List.append_eq_nil_iff.1 hnil
    have h0 : t0.1 = 0 := by_contra fun hne => hfs hne hf
    have h1 : t1.1 = 0 := by_contra fun hne => hgs hne hg
    have hnone : reached = false := by
      show (mdataPorts _ t0.1 ++ mdataPorts _ t1.1).contains p.port = false
      rw [h0, h1, mdataPorts_zero, mdataPorts_zero]
      rfl
    rw [hnone] at hreached
    cases hreached

end Multicast

/-! ## The completion of a write (R96) -/

/-- From `s` to `t` a write of a line that way `w` held has been answered, or where clusters watched the line its WINV has gone
to each group of them and the answer waits. -/
def State.wroteUnder (s t : State) (p : Packet) (w : Way) (ty : PType) (ts : Nat) (data : List Byte) : Prop :=
  (w.watch = false → s.replied t p ty 0 ts 0 data) ∧
    (w.watch = true → (∃ o, (t.slice p.slice).winvs = (s.slice p.slice).winvs ++ [o] ∧ o.line = p.addr / 128 ∧
        o.clusters = (s.domOf p.dom).clusters ∧ o.reply.isSome = true) ∧
      ∃ fs, t.net.wires = s.net.wires ++ fs ∧
        fs.map (fun f => f.targets) = (((s.domOf p.dom).clusters.map (· / 16)).eraseDups).map groupPorts ∧
        ∀ f ∈ fs, f.pkt.ty = .winv ∧ f.pkt.ts = p.ts ∧ f.pkt.addr / 128 = p.addr / 128)

section Completion
variable {s u t : State} {p : Packet} {w : Way} {a : HomeAnswer}

/-- A reply sent after a request has been taken and served. -/
theorem State.replied_of_handled (hu : s.taken u p.slice) (ht : u.handled t p.slice) (ty : PType) (opx ts ld : Nat)
    (data : List Byte) (olds : List MonitorEntry) :
    s.replied (t.sendReply { p.answer ty opx ts ld data with olds := olds }) p ty opx ts ld data := by
  unfold State.sendReply
  rw [State.replied, ht.wires, hu.1]
  exact ⟨_, _, rfl, rfl, rfl, rfl, rfl, rfl, rfl, rfl, rfl, rfl, rfl⟩

theorem State.wroteUnder_complete (hu : s.taken u p.slice) (ht : u.handled t p.slice) (ha : a.watched = w.watch) (ty : PType)
    (ts : Nat) (data : List Byte) : s.wroteUnder (t.complete p a (p.answer ty 0 ts 0 data)) p w ty ts data := by
  have hdom : t.domOf p.dom = s.domOf p.dom := by
    rw [ht.domOf, hu.1]
    rfl
  have hwinvs : (t.slice p.slice).winvs = (s.slice p.slice).winvs := by rw [ht.slice.1, hu.2]
  have hwires : t.net.wires = s.net.wires := by rw [ht.wires, hu.1]
  unfold State.complete
  rw [ha]
  constructor <;> intro hwatch <;> rw [hwatch]
  · exact State.replied_of_handled hu ht ..
  · rw [if_pos rfl]
    unfold State.startWinv
    dsimp only
    rw [hdom, hwinvs]
    refine ⟨⟨_, congrArg Slice.winvs (t.slice_setSlice_self ..), rfl, rfl, rfl⟩, _, congrArg (· ++ _) hwires, ?_, fun f hf => ?_⟩
    · rw [List.map_map]
      rfl
    · obtain ⟨g, -, rfl⟩ := List.mem_map.1 hf
      exact ⟨rfl, rfl, Nat.mul_div_cancel_left _ (by decide)⟩

theorem State.slice_startWinv (s : State) (slice dom line ts : Nat) (reply : Option Packet) :
    (s.startWinv slice dom line ts reply).slice slice =
      { s.slice slice with winvs := (s.slice slice).winvs ++ [⟨line, (s.domOf dom).clusters, reply⟩] } :=
  s.slice_setSlice_self ..

theorem State.complete_leaves (t : State) (p : Packet) (a : HomeAnswer) (reply : Packet) :
    (t.complete p a reply).ms = t.ms ∧ ((t.complete p a reply).slice p.slice).waiting = (t.slice p.slice).waiting ∧
      ((t.complete p a reply).slice p.slice).migrating = (t.slice p.slice).migrating ∧
      ((t.complete p a reply).slice p.slice).holes = (t.slice p.slice).holes := by
  unfold State.complete
  split_ifs
  · rw [State.slice_startWinv]
    exact ⟨State.startWinv_ms .., rfl, rfl, rfl⟩
  · exact ⟨rfl, rfl, rfl, rfl⟩

end Completion

/-! ## Each request applied to a line that its home holds -/

section Applied
variable {s u : State} {p : Packet} {w : Way}

theorem State.taken.bytesUnder (hu : s.taken u p.slice) (k a : Nat) : ∀ n, u.bytesUnder k a n = s.bytesUnder k a n := by
  intro n
  induction n generalizing a with
  | zero => rfl
  | succ n ih =>
    have hms : u.ms = s.ms := by rw [hu.1]
    have hbyte : u.byteUnder k a = s.byteUnder k a :=
      State.byteUnder_of_ms (by rw [hms]) (by rw [hms]) (by rw [hms]) (by rw [hms]) k a
    rw [State.bytesUnder, State.bytesUnder, ih, hbyte]

theorem State.taken.sbase (hu : s.taken u p.slice) : (u.slice p.slice).sbase = (s.slice p.slice).sbase := by rw [hu.2]

theorem Slice.raise_of_sbase {x y : Slice} (h : y.sbase = x.sbase) (w : Way) : y.raise w = x.raise w := by
  unfold Slice.raise
  rw [h]

theorem State.taken.leased (hu : s.taken u p.slice) (w : Way) (ts : Nat) :
    (u.slice p.slice).leased w ts = (s.slice p.slice).leased w ts := Slice.raise_of_sbase hu.sbase _

theorem State.taken.nextWts (hu : s.taken u p.slice) (w : Way) (ts : Nat) :
    (u.slice p.slice).nextWts w ts = (s.slice p.slice).nextWts w ts := by
  rw [Slice.nextWts, Slice.raise_of_sbase hu.sbase, Slice.nextWts]

/-- What a request finds as it is applied: the packet as it stands, and its home without a line read for it alone. -/
theorem State.applying (hhits : s.hits p w) (hu : s.taken u p.slice) :
    u.keyed p = p ∧ s.taken (u.dropLoose p) p.slice ∧ (u.dropLoose p).hits p w ∧
      ((u.dropLoose p).slice p.slice).holes = (u.slice p.slice).holes :=
  have hdrop := hu.trans (State.taken_dropLoose u p)
  ⟨(hu.hits hhits).1, hdrop, hdrop.hits hhits, (State.handled_dropLoose u p).slice.2.2.2⟩

theorem State.settleSlice_sendReply {t : State} {k : Nat} (h : (t.slice k).idle) (r : Packet) (dom : Nat) :
    (t.sendReply r).settleSlice k dom = t.sendReply r :=
  State.settleSlice_of_idle (s := t.sendReply r) h dom

/-- Where nothing waited, nothing waits after a request has been taken and served. -/
theorem State.settles (hu : s.taken u p.slice) {t : State} (ht : u.handled t p.slice) (hidle : (s.slice p.slice).idle) :
    (t.slice p.slice).idle := by
  refine ht.idle ?_
  rw [hu.2]
  exact hidle

theorem State.applyRequest_rd (hhits : s.hits p w) (hu : s.taken u p.slice) (hidle : (s.slice p.slice).idle) (hty : p.ty = .rd) :
    let t := (u.applyRequest p).settleSlice p.slice p.dom
    let read := (s.slice p.slice).leased w p.ts
    t.ms = s.ms ∧ s.replied t p .rdata 0 read.wts (read.rts - read.wts) (s.bytesUnder p.key p.addr p.len) := by
  obtain ⟨hkeyed, hv, hvhits, -⟩ := State.applying hhits hu
  obtain ⟨t, ht, hms, hmonitor, hread⟩ := hvhits.homeRead (p.mt2 && !p.watch)
  have hwatched : (u.dropLoose p).handled (if p.watch then t.watchLine ((u.dropLoose p).domOf p.dom) p.addr else t) p.slice ∧
      (if p.watch then t.watchLine ((u.dropLoose p).domOf p.dom) p.addr else t).ms = t.ms := by
    split_ifs
    · have hline := t.handled_watchLine ((u.dropLoose p).domOf p.dom) p.addr
      rw [hvhits.home.1] at hline
      exact ⟨ht.trans hline, State.watchLine_ms ..⟩
    · exact ⟨ht, rfl⟩
  unfold State.applyRequest
  rw [hkeyed]
  dsimp only
  rw [hty]
  dsimp only
  rw [hread]
  dsimp only
  rw [State.settleSlice_sendReply (State.settles hv hwatched.1 hidle)]
  refine ⟨(hwatched.2.trans hms).trans (by rw [hv.1]), ?_⟩
  rw [hv.bytesUnder, hv.leased]
  exact State.replied_of_handled hv hwatched.1 ..

theorem State.applyRequest_cprdm (hhits : s.hits p w) (hu : s.taken u p.slice) (hidle : (s.slice p.slice).idle) (hty : p.ty = .cprdm)
    (hrace : missable ((s.slice p.slice).recent p.addr p.len s.netNow) p.addr p.len p.ts s.netNow = []) :
    let t := (u.applyRequest p).settleSlice p.slice p.dom
    t.ms = s.ms ∧ ∃ fs, fs ≠ [] ∧ t.net.wires = s.net.wires ++ fs ∧
      ∀ f ∈ fs, f.pkt.ty = .mdata ∧ f.pkt.data = s.bytesUnder p.key p.addr p.len ∧ f.pkt.ts = ((s.slice p.slice).leased w p.ts).wts := by
  obtain ⟨hkeyed, hv, hvhits, -⟩ := State.applying hhits hu
  obtain ⟨t, ht, hms, hmonitor, hread⟩ := hvhits.homeRead p.mt2
  have hmissable : missable (t.recentAt ((u.dropLoose p).domOf p.dom) p.addr p.len) p.addr p.len p.ts t.netNow = [] := by
    have hnow : t.netNow = s.netNow := by
      rw [ht.1, hv.1]
      rfl
    have hrecent : (t.slice p.slice).recent p.addr p.len s.netNow = (s.slice p.slice).recent p.addr p.len s.netNow := by
      unfold Slice.recent
      rw [hmonitor, hv.2]
    rw [State.recentAt, hvhits.home.1, hnow, hrecent]
    exact hrace
  unfold State.applyRequest
  rw [hkeyed]
  dsimp only
  rw [hty]
  dsimp only
  rw [hread]
  dsimp only
  rw [State.engineBytes, hmissable]
  dsimp only
  obtain ⟨fs, hne, hnet, hmsent, hfs⟩ := t.multicast_sends ((u.dropLoose p).domOf p.dom) p
    ⟨(u.dropLoose p).bytesUnder p.key p.addr p.len, 0, (((u.dropLoose p).slice p.slice).leased w p.ts).wts,
      (((u.dropLoose p).slice p.slice).leased w p.ts).rts - (((u.dropLoose p).slice p.slice).leased w p.ts).wts, false⟩
  rw [State.settleSlice_of_idle (by rw [State.slice, hnet]; exact State.settles hv ht hidle)]
  refine ⟨(hmsent.trans hms).trans (by rw [hv.1]), fs, hne, ?_, fun f hf => ?_⟩
  · rw [hnet, ht.wires, hv.1]
  · rw [← hv.bytesUnder, ← hv.leased]
    exact hfs f hf

/-- A write's bytes put in memory under its key slot, and its completion: what it leaves once the slice has settled. -/
theorem State.wrote_complete (hmem : s.memoryKept) (hidle : (s.slice p.slice).idle) (hu : s.taken u p.slice) {t t0 : State}
    (ht : u.handled t p.slice) (ht0 : t0.ms = u.ms) {bs : List Byte} (hms : t.ms = (t0.writeLine p.key p.addr bs).ms)
    (hfit : p.addr % 128 + bs.length ≤ 128) {a : HomeAnswer} (ha : a.watched = w.watch) (ty : PType) (ts : Nat) (data : List Byte) :
    let v := (t.complete p a (p.answer ty 0 ts 0 data)).settleSlice p.slice p.dom
    s.wroteLine v p bs ∧ s.wroteUnder v p w ty ts data ∧ (v.slice p.slice).holes = (u.slice p.slice).holes := by
  obtain ⟨hstand, hwaiting, hmigrating, hholes⟩ := t.complete_leaves p a (p.answer ty 0 ts 0 data)
  obtain ⟨htwaiting, htmigrating⟩ := State.settles hu ht hidle
  have hms0 : t0.ms = s.ms := by rw [ht0, hu.1]
  dsimp only
  rw [State.settleSlice_of_idle ⟨hwaiting.trans htwaiting, hmigrating.trans htmigrating⟩]
  refine ⟨?_, State.wroteUnder_complete hu ht ha ty ts data, hholes.trans ht.slice.2.2.2⟩
  have hmem0 : t0.memoryKept := State.memoryKept_of_ms hms0 hmem
  exact (State.wroteLine_writeLine hmem0 hfit).of_ms hms0.symm (hstand.trans hms)

theorem State.applyRequest_wr (hhits : s.hits p w) (hu : s.taken u p.slice) (hidle : (s.slice p.slice).idle) (hty : p.ty = .wr)
    (hmem : s.memoryKept) (hfit : p.addr % 128 + p.len ≤ 128) (hlen : p.data.length = p.len) :
    let t := (u.applyRequest p).settleSlice p.slice p.dom
    s.wroteLine t p p.data ∧ s.wroteUnder t p w .wdone ((s.slice p.slice).nextWts w p.ts) [] ∧
      (t.slice p.slice).holes = (u.slice p.slice).holes := by
  obtain ⟨hkeyed, hv, hvhits, hholes⟩ := State.applying hhits hu
  obtain ⟨t, ht, hms, hwrite⟩ := hvhits.homeWrite p.mt2 false (fun _ => p.data) p.cuts
  unfold State.applyRequest
  rw [hkeyed]
  dsimp only
  rw [hty]
  dsimp only
  rw [hwrite, hv.nextWts, ← hholes]
  exact State.wrote_complete hmem hidle hv ((ht.trans (State.handled_writeLine ..)).trans (State.handled_noteHost ..)) hms
    (State.noteHost_ms ..) (hlen ▸ hfit) rfl ..

/-- The bytes that an atomic or a reduction other than .FADD leaves. -/
theorem rmwBytes_eq (hop : p.ty = .red → p.opx ≠ 6) (old : List Byte) :
    rmwBytes p old = leBytes p.len (atomNew p.opx p.len (leNat old) (leNat p.data)) := by
  have hno : (p.ty == .red && p.opx == 6) = false := by
    rw [Bool.and_eq_false_iff, beq_eq_false_iff_ne, beq_eq_false_iff_ne]
    exact or_iff_not_imp_left.2 fun h => hop (not_not.1 h)
  rw [rmwBytes, hno]
  rfl

theorem State.applyRequest_red (hhits : s.hits p w) (hu : s.taken u p.slice) (hidle : (s.slice p.slice).idle) (hty : p.ty = .red)
    (hmem : s.memoryKept) (hfit : p.addr % 128 + p.len ≤ 128) (hop : p.opx ≠ 6) :
    let t := (u.applyRequest p).settleSlice p.slice p.dom
    s.wroteLine t p (leBytes p.len (atomNew p.opx p.len (leNat (s.bytesUnder p.key p.addr p.len)) (leNat p.data))) ∧
      s.wroteUnder t p w .wdone ((s.slice p.slice).nextWts w p.ts) [] ∧ (t.slice p.slice).holes = (u.slice p.slice).holes := by
  obtain ⟨hkeyed, hv, hvhits, hholes⟩ := State.applying hhits hu
  obtain ⟨t, ht, hms, hwrite⟩ := hvhits.homeWrite p.mt2 true (rmwBytes p) []
  rw [rmwBytes_eq (fun _ => hop), hv.bytesUnder] at hwrite
  have hlen : ∀ v, p.addr % 128 + (leBytes p.len v).length ≤ 128 := fun v => by rwa [length_leBytes]
  unfold State.applyRequest
  rw [hkeyed]
  dsimp only
  rw [hty]
  dsimp only
  rw [hwrite, hv.nextWts, ← hholes]
  exact State.wrote_complete hmem hidle hv (ht.trans (State.handled_writeLine ..)) hms rfl
    (hlen _) rfl ..

theorem State.applyRequest_atom (hhits : s.hits p w) (hu : s.taken u p.slice) (hidle : (s.slice p.slice).idle) (hty : p.ty = .atom)
    (hmem : s.memoryKept) (hfit : p.addr % 128 + p.len ≤ 128) :
    let t := (u.applyRequest p).settleSlice p.slice p.dom
    s.wroteLine t p (leBytes p.len (atomNew p.opx p.len (leNat (s.bytesUnder p.key p.addr p.len)) (leNat p.data))) ∧
      s.wroteUnder t p w .ares ((s.slice p.slice).nextWts w p.ts) (s.bytesUnder p.key p.addr p.len) ∧
      (t.slice p.slice).holes = (u.slice p.slice).holes := by
  obtain ⟨hkeyed, hv, hvhits, hholes⟩ := State.applying hhits hu
  obtain ⟨t, ht, hms, hwrite⟩ := hvhits.homeWrite p.mt2 true (rmwBytes p) []
  rw [rmwBytes_eq (fun hred => by rw [hty] at hred; cases hred), hv.bytesUnder] at hwrite
  have hlen : ∀ v, p.addr % 128 + (leBytes p.len v).length ≤ 128 := fun v => by rwa [length_leBytes]
  unfold State.applyRequest
  rw [hkeyed]
  dsimp only
  rw [hty]
  dsimp only
  rw [hwrite, hv.nextWts, ← hholes]
  exact State.wrote_complete hmem hidle hv
    ((ht.trans (State.handled_writeLine ..)).trans (State.handled_setSlice (y := Slice.keepResult _ _) rfl)) hms rfl
    (hlen _) rfl ..

end Applied

/-! ## A request taken from the input (R107) -/

section Taken
variable {s : State} {slice i : Nat} {p : Packet} {w : Way}

theorem State.ready.idle (h : s.ready slice i p) : (s.slice slice).idle := ⟨h.2.2.2.2.1, h.2.2.2.2.2⟩

/-- A new request for a line that its home holds is applied in the step that takes it. -/
theorem State.sliceTake_of_ready (hready : s.ready slice i p) (hrpl : p.rpl = false) (hretry : p.retry = 0)
    (hbehind : (s.slice slice).behind p = false) (hhits : s.hits p w) (hmsg : p.ty ≠ .msg) :
    ∃ u, s.taken u p.slice ∧ s.sliceTake slice i p.ty = (u.applyRequest p).settleSlice p.slice p.dom := by
  obtain ⟨hinbox, rfl, htrim, hblocked, -, hmigrating⟩ := hready
  have hfrozen : (s.slice p.slice).frozen p.addr = false := by
    rw [Slice.frozen, hmigrating]
    rfl
  have htake : s.sliceTake p.slice i p.ty = s.takeRequest p.slice i p := by
    unfold State.sliceTake
    dsimp only
    rw [hinbox]
    dsimp only
    rw [hretry, hblocked]
    simp
  rw [htake]
  unfold State.takeRequest
  dsimp only
  rw [hfrozen, hrpl, htrim, hbehind, hhits.needsFill, hhits.winvFull, Bool.and_false, Bool.false_and, if_neg Bool.false_ne_true,
    Bool.and_false, if_neg Bool.false_ne_true]
  dsimp only
  rw [if_neg Bool.false_ne_true, if_neg Bool.false_ne_true, beq_eq_false_iff_ne.2 hmsg, Bool.false_and,
    if_neg Bool.false_ne_true, if_neg Bool.false_ne_true, if_neg Bool.false_ne_true]
  refine ⟨_, State.taken_setSlice ?_, rfl⟩
  split_ifs <;> rfl

end Taken

/-! ## Timestamps that LEASE holds (R133) -/

theorem Way.fit_delta (w : Way) : w.fit.rts - w.fit.wts ≤ 65535 ∧ w.fit.rts = w.rts := by
  unfold Way.fit
  split_ifs
  · refine ⟨?_, rfl⟩
    show w.rts - (w.rts - 65535) ≤ 65535
    omega
  · exact ⟨by omega, rfl⟩

theorem Slice.raise_delta (x : Slice) (w : Way) : (x.raise w).rts - (x.raise w).wts ≤ 65535 ∧ w.rts ≤ (x.raise w).rts := by
  unfold Slice.raise
  obtain ⟨hdelta, hrts⟩ := Way.fit_delta (if w.wts < x.sbase then { w with wts := x.sbase, rts := max w.rts x.sbase } else w)
  refine ⟨hdelta, ?_⟩
  rw [hrts]
  split_ifs
  · exact Nat.le_max_left ..
  · exact Nat.le_refl _

/-- Settles O40: a request for a line that its home holds is taken and applied in one step, type by type. -/
theorem slicesApplyRequests : Obligations.SlicesApplyRequests := by
  unfold Obligations.SlicesApplyRequests
  intro s slice i p w hmem hready hrpl hretry hbehind hhits
  obtain rfl : p.slice = slice := hready.2.1
  have hidle := hready.idle
  have htake : p.ty ≠ .msg → ∃ u, s.taken u p.slice ∧
      s.sliceTake p.slice i p.ty = (u.applyRequest p).settleSlice p.slice p.dom := fun hmsg =>
    State.sliceTake_of_ready hready hrpl hretry hbehind hhits hmsg
  have hstep : ∀ {row : Instr} {ty : PType}, p.ty = ty → ty ≠ .msg → exec row s = .next (s.sliceTake p.slice i ty) →
      ∃ u, s.taken u p.slice ∧ exec row s = .next ((u.applyRequest p).settleSlice p.slice p.dom) := by
    rintro row ty rfl hmsg hrow
    obtain ⟨u, hu, htaken⟩ := htake hmsg
    exact ⟨u, hu, hrow.trans (congrArg _ htaken)⟩
  refine ⟨(Slice.raise_delta ..).1, (Slice.raise_delta ..).2, fun hty => ?_, fun hty hrace => ?_, fun hfit =>
    ⟨fun hty hlen => ?_, fun hty => ?_, fun hty hop => ?_⟩⟩
  · obtain ⟨u, hu, hexec⟩ := hstep (row := .sliceRd p.slice i) hty (by decide) rfl
    obtain ⟨hms, hreply⟩ := State.applyRequest_rd hhits hu hidle hty
    exact ⟨_, hexec, fun a => by rw [hms], hreply⟩
  · obtain ⟨u, hu, hexec⟩ := hstep (row := .sliceCprdm p.slice i) hty (by decide) rfl
    obtain ⟨hms, hsent⟩ := State.applyRequest_cprdm hhits hu hidle hty hrace
    exact ⟨_, hexec, fun a => by rw [hms], hsent⟩
  · obtain ⟨u, hu, hexec⟩ := hstep (row := .sliceWr p.slice i) hty (by decide) rfl
    obtain ⟨hline, hdone, -⟩ := State.applyRequest_wr hhits hu hidle hty hmem hfit hlen
    exact ⟨_, hexec, hline, hdone⟩
  · obtain ⟨u, hu, hexec⟩ := hstep (row := .sliceAtom p.slice i) hty (by decide) rfl
    obtain ⟨hline, hdone, -⟩ := State.applyRequest_atom hhits hu hidle hty hmem hfit
    exact ⟨_, hexec, hline, hdone⟩
  · obtain ⟨u, hu, hexec⟩ := hstep (row := .sliceRed p.slice i) hty (by decide) rfl
    obtain ⟨hline, hdone, -⟩ := State.applyRequest_red hhits hu hidle hty hmem hfit hop
    exact ⟨_, hexec, hline, hdone⟩

/-! ## Holes, PULLs and WACKs (R96, R112, R113, R116) -/

section Holes
variable {s : State} {slice i : Nat} {p : Packet} {w : Way} {h : Hole}

/-- A payload that fills the only hole of a slice is applied: nothing is left for it to wait for. -/
theorem exec_sliceResentPayload (hmem : s.memoryKept) (hready : s.ready slice i p) (hretry : p.retry ≠ 0) (hty : p.ty = .wr)
    (hholes : (s.slice slice).holes = [h]) (hof : (s.slice slice).holeOf p = some h) (hhits : s.hits p w)
    (hfit : p.addr % 128 + p.len ≤ 128) (hlen : p.data.length = p.len) :
    completes (.sliceResentPayload slice i) s (fun t => (t.slice slice).holes = [] ∧ s.wroteLine t p p.data) := by
  have hidle := hready.idle
  obtain ⟨hinbox, rfl, htrim, hblocked, hwaiting, -⟩ := hready
  have hmine := List.find?_some hof
  let y : Slice := { s.slice p.slice with
    inbox := dropAt (s.slice p.slice).inbox i, holes := [],
    cnt := { (s.slice p.slice).cnt with rereqs := bump48 (s.slice p.slice).cnt.rereqs } }
  have hfree : y.behind p = false := by
    show ([].any _ || (s.slice p.slice).waiting.any _) = false
    rw [hwaiting]
    rfl
  have hexec : exec (.sliceResentPayload p.slice i) s = .next (((s.setSlice p.slice y).applyRequest p).settleSlice p.slice p.dom) := by
    show execSliceResentPayload p.slice i s = _
    unfold execSliceResentPayload
    dsimp only
    rw [hinbox]
    dsimp only
    rw [hof, htrim, hblocked, hhits.winvFull, hty, hholes, List.filter_cons_of_neg (by rw [hmine]; decide), List.filter_nil]
    rw [show y.behind p = false from hfree]
    simp [hretry]
    rfl
  obtain ⟨hline, -, hleft⟩ := State.applyRequest_wr hhits (State.taken_setSlice (y := y) rfl) hidle hty hmem hfit hlen
  exact ⟨_, hexec, hleft.trans (congrArg Slice.holes (s.slice_setSlice_self ..)), hline⟩

/-- The PULL of a hole goes out once its spacing has passed since the last to its port. -/
theorem exec_pullSend (hhole : (s.slice slice).holes[i]? = some h) (hpulled : h.pulled = false) (hmsg : h.pkt.ty ≠ .msg)
    (hdue : ∀ n, Map.get? (s.slice slice).lastPull h.pkt.port = some n → n + min 1024 (32 * 2 ^ h.pkt.retry) ≤ s.netNow) :
    completes (.pullSend slice i) s (fun t => s.replied t h.pkt .pull 0 h.pkt.ts 0 [] ∧
      (t.slice slice).holes[i]? = some { h with pulled := true } ∧
      Map.get? (t.slice slice).lastPull h.pkt.port = some s.netNow ∧ t.ms = s.ms) := by
  have hexec : exec (.pullSend slice i) s = .next ((s.setSlice slice { s.slice slice with
      holes := modAt (fun h => { h with pulled := true }) (s.slice slice).holes i
      lastPull := Map.set (s.slice slice).lastPull h.pkt.port s.netNow
      cnt := { (s.slice slice).cnt with pulls := bump48 (s.slice slice).cnt.pulls } }).sendReply
        { h.pkt.answer .pull 0 h.pkt.ts 0 [] with retry := h.pkt.retry }) := by
    show execPullSend slice i s = _
    unfold execPullSend
    dsimp only
    rw [hhole]
    dsimp only
    rw [hpulled, beq_eq_false_iff_ne.2 hmsg, Bool.false_and, Bool.or_false, Bool.false_or]
    cases hlast : Map.get? (s.slice slice).lastPull h.pkt.port with
    | none => rfl
    | some n =>
      have hpass : n + pullSpacing h.pkt.retry ≤ s.netNow := hdue n hlast
      exact congrArg _ (if_neg (by simp [hpass]))
  refine ⟨_, hexec, ⟨_, _, rfl, rfl, rfl, rfl, rfl, rfl, rfl, rfl, rfl, rfl, rfl⟩, ?_, ?_, rfl⟩
  · refine (congrArg (fun x : Slice => x.holes[i]?) (s.slice_setSlice_self ..)).trans ?_
    rw [getElem?_modAt, if_pos rfl, hhole]
    rfl
  · refine (congrArg (fun x : Slice => Map.get? x.lastPull h.pkt.port) (s.slice_setSlice_self ..)).trans ?_
    exact Map.get?_set_self ..

/-- A slice with WINV operations replaced as it takes a WACK. -/
def Slice.acked (x : Slice) (i : Nat) (ops : List WinvOp) : Slice := { x with inbox := dropAt x.inbox i, winvs := ops }

/-- A WACK counts for the one WINV operation that waits for its cluster. -/
theorem execSliceWack_eq {o : WinvOp} {c : Nat} (hp : (s.slice slice).inbox[i]? = some p) (hty : p.ty = .wack)
    (hc : c = 128 * portDie p.port + p.port % 256 / 2) (hwinvs : (s.slice slice).winvs = [o]) (hline : o.line = p.addr / 128)
    (hmem : c ∈ o.clusters) :
    let left := o.clusters.filter (fun v => v != c)
    exec (.sliceWack slice i) s = .next (if left.isEmpty then
      (match o.reply with
        | some r => (s.setSlice slice ((s.slice slice).acked i [])).sendReply r
        | none => s.setSlice slice ((s.slice slice).acked i [])).settleSlice slice p.dom
      else s.setSlice slice ((s.slice slice).acked i [{ o with clusters := left }])) := by
  have hfind : [o].findIdx? (fun w => w.line == p.addr / 128 && w.clusters.contains c) = some 0 := by
    rw [List.findIdx?_cons, hline, beq_self_eq_true, List.contains_iff_mem.2 hmem]
    rfl
  show execSliceWack slice i s = _
  unfold execSliceWack
  dsimp only
  rw [Slice.inboxAs_of hp hty]
  dsimp only
  rw [← hc, hwinvs, hfind]
  rfl

end Holes

/-- Settles O41: a payload fills its hole, a PULL leaves for one, and WACKs count down to the completion. -/
theorem holesPullsAndWacks : Obligations.HolesPullsAndWacks := by
  unfold Obligations.HolesPullsAndWacks
  refine ⟨fun s slice i p w h hmem hready hretry hty hholes hof hhits hfit hlen =>
      exec_sliceResentPayload hmem hready hretry hty hholes hof hhits hfit hlen,
    fun s slice i h hhole hpulled hmsg hdue => exec_pullSend hhole hpulled hmsg hdue,
    fun s slice i p o c hp hty hc hwinvs hline hmem hwaiting hmigrating => ⟨fun hlast => ?_, fun hmore => ?_⟩⟩
  · have hexec := execSliceWack_eq hp hty hc hwinvs hline hmem
    have hnone : (o.clusters.filter (fun v => v != c)).isEmpty = true := by
      rw [List.isEmpty_iff, List.filter_eq_nil_iff]
      exact fun v hv => by rw [hlast v hv]; simp
    let u := s.setSlice slice ((s.slice slice).acked i [])
    have hslice : u.slice slice = (s.slice slice).acked i [] := s.slice_setSlice_self ..
    have hidle : (u.slice slice).idle := by
      rw [hslice]
      exact ⟨hwaiting, hmigrating⟩
    dsimp only at hexec
    rw [hnone, if_pos rfl] at hexec
    cases hreply : o.reply with
    | none =>
      rw [hreply] at hexec
      dsimp only at hexec
      rw [State.settleSlice_of_idle hidle] at hexec
      exact ⟨u, hexec, congrArg Slice.winvs hslice, rfl, (fun _ hr => by cases hr), fun _ => rfl⟩
    | some r =>
      rw [hreply] at hexec
      dsimp only at hexec
      rw [State.settleSlice_sendReply hidle] at hexec
      refine ⟨u.sendReply r, hexec, congrArg Slice.winvs hslice, rfl, (fun r' hr => ?_), fun hno => by cases hno⟩
      cases hr
      exact ⟨_, rfl⟩
  · have hexec := execSliceWack_eq hp hty hc hwinvs hline hmem
    obtain ⟨v, hv, hne⟩ := hmore
    have hsome : (o.clusters.filter (fun v => v != c)).isEmpty = false := by
      rw [List.isEmpty_eq_false_iff_exists_mem]
      exact ⟨v, List.mem_filter.2 ⟨hv, bne_iff_ne.2 hne⟩⟩
    dsimp only at hexec
    rw [hsome, if_neg Bool.false_ne_true] at hexec
    exact ⟨_, hexec, rfl, rfl, congrArg Slice.winvs (s.slice_setSlice_self ..)⟩

end Sys2Proof.Machine
end

section
/-! SUPPORT. The barrier, the ring wait and the stream queues (R348, R352 to R355). -/

namespace Sys2Proof.Machine

/-! ## The waves of one core -/

theorem State.wave_setWave_of_core (s : State) {id w : WaveId} (h : w.core = id.core) (v : Wave) :
    (s.setWave id v).wave w = if w = id then v else s.wave w := by
  by_cases hw : w = id
  · rw [if_pos hw, hw, State.wave_setWave_self]
  · have hslot : slotIndex w ≠ slotIndex id := fun heq => hw (by
      obtain ⟨c, i⟩ := w
      obtain ⟨d, j⟩ := id
      obtain rfl : c = d := h
      rw [show i = j from Nat.add_left_cancel heq])
    rw [if_neg hw]
    unfold State.setWave
    split_ifs with hid
    · unfold State.wave
      rw [if_neg (hid ▸ hw), if_neg (hid ▸ hw)]
    · unfold State.wave
      split_ifs
      · rfl
      · exact (Map.getD_set ..).trans (if_neg hslot)

/-- One change made to each of some waves of a core. -/
theorem State.wave_foldl_setWave {core : Nat} (f : Wave → Wave) {ids : List WaveId} (hids : ∀ id ∈ ids, id.core = core)
    (hnodup : ids.Nodup) {w : WaveId} (hw : w.core = core) : ∀ s : State,
    (ids.foldl (fun t id => t.setWave id (f (t.wave id))) s).wave w = if w ∈ ids then f (s.wave w) else s.wave w := by
  induction ids with
  | nil => exact fun s => rfl
  | cons id ids ih =>
    intro s
    obtain ⟨hnew, hrest⟩ := List.nodup_cons.1 hnodup
    rw [List.foldl_cons, ih (fun v hv => hids v (List.mem_cons_of_mem _ hv)) hrest,
      s.wave_setWave_of_core (hw.trans (hids id List.mem_cons_self).symm)]
    by_cases hid : w = id
    · rw [if_pos hid, if_neg (hid ▸ hnew), if_pos (hid ▸ List.mem_cons_self), hid]
    · rw [if_neg hid]
      simp only [List.mem_cons, hid, false_or]

theorem State.foldl_setWave_leaves (f : Wave → Wave) (ids : List WaveId) : ∀ s : State,
    (ids.foldl (fun t id => t.setWave id (f (t.wave id))) s).ms = s.ms ∧
      (ids.foldl (fun t id => t.setWave id (f (t.wave id))) s).cores = s.cores := by
  induction ids with
  | nil => exact fun s => ⟨rfl, rfl⟩
  | cons id ids ih =>
    intro s
    obtain ⟨hms, hcores⟩ := ih (s.setWave id (f (s.wave id)))
    exact ⟨hms.trans (State.setWave_ms ..), hcores.trans (State.setWave_cores ..)⟩

/-! ## The barrier (R348) -/

/-- A wave let past its BAR with the status of its block in q0. -/
def Wave.pastBar (w : Wave) (abandoned : Bool) : Wave :=
  { w with
    q := Map.set w.q 0 abandoned
    ctl := { w.ctl with pc := w.ctl.pc + 8 }
    waits := { w.waits with barrier := false, stall := none } }

/-- The wave in hand as it reaches a BAR. -/
def State.arrived (s : State) : State := s.withWv { s.wv with waits := { s.wv.waits with barrier := true } }

section Barrier
variable {s : State} {blk : Block} {f : InsT}

theorem State.mem_barWaves (hblk : s.myBlock? = some blk) {i : Nat} :
    (⟨s.cur.core, i⟩ : WaveId) ∈ s.barWaves ↔ i ∈ blk.waves ∧ (s.wave ⟨s.cur.core, i⟩).halt = none ∧
      (s.wave ⟨s.cur.core, i⟩).waits.ending = false := by
  simp [State.barWaves, hblk, List.mem_filter]

theorem State.core_of_mem_barWaves (hblk : s.myBlock? = some blk) {id : WaveId} (h : id ∈ s.barWaves) : id.core = s.cur.core := by
  rw [State.barWaves, hblk] at h
  obtain ⟨i, -, rfl⟩ := List.mem_map.1 (List.mem_filter.1 h).1
  rfl

theorem State.nodup_barWaves (hblk : s.myBlock? = some blk) (h : blk.waves.Nodup) : s.barWaves.Nodup := by
  rw [State.barWaves, hblk]
  exact (h.map fun i j hij => congrArg WaveId.slot hij).filter _

/-- The release of a barrier, wave by wave of its block. -/
theorem State.barRelease_wave (hblk : s.myBlock? = some blk) (hnodup : blk.waves.Nodup) {i : Nat} (hi : i ∈ blk.waves) :
    (s.barRelease).wave ⟨s.cur.core, i⟩ =
      if (s.wave ⟨s.cur.core, i⟩).halt = none ∧ (s.wave ⟨s.cur.core, i⟩).waits.ending = false then
        (s.wave ⟨s.cur.core, i⟩).pastBar blk.abandoned
      else s.wave ⟨s.cur.core, i⟩ := by
  unfold State.barRelease
  rw [hblk]
  refine (State.wave_foldl_setWave (fun w => w.pastBar blk.abandoned) (fun id h => State.core_of_mem_barWaves hblk h)
    (State.nodup_barWaves hblk hnodup) (w := ⟨s.cur.core, i⟩) rfl s).trans ?_
  simp only [State.mem_barWaves hblk, hi, true_and]

theorem State.barRelease_leaves (hblk : s.myBlock? = some blk) : s.barRelease.ms = s.ms ∧ s.barRelease.cores = s.cores := by
  unfold State.barRelease
  rw [hblk]
  exact State.foldl_setWave_leaves (fun w => w.pastBar blk.abandoned) s.barWaves s

/-- The last running wave of a block to reach BAR lets them all past. -/
theorem exec_bar_last (hg : s.wv.guardUni f.g = true) (hdone : s.coreScopeDone = true) (hblk : s.myBlock? = some blk)
    (hhalt : s.wv.halt = none) (hending : s.wv.waits.ending = false)
    (hall : ∀ i ∈ blk.waves, (s.arrived.wave ⟨s.cur.core, i⟩).halt = none → (s.arrived.wave ⟨s.cur.core, i⟩).waits.ending = false →
      (s.arrived.wave ⟨s.cur.core, i⟩).waits.barrier = true) (hnodup : blk.waves.Nodup) :
    completes (.bar f) s (fun t => t.ms = s.ms ∧ t.cores = s.cores ∧ ∀ i ∈ blk.waves,
      t.wave ⟨s.cur.core, i⟩ = if (s.wave ⟨s.cur.core, i⟩).halt.isSome ∨ (s.wave ⟨s.cur.core, i⟩).waits.ending = true then
        s.wave ⟨s.cur.core, i⟩ else (s.wave ⟨s.cur.core, i⟩).pastBar blk.abandoned) := by
  have hblk' : s.arrived.myBlock? = some blk := hblk
  have hwaits : s.arrived.barWaves.all (fun id => (s.arrived.wave id).waits.barrier) = true := by
    rw [List.all_eq_true]
    rintro ⟨c, i⟩ hid
    obtain rfl : c = s.cur.core := State.core_of_mem_barWaves hblk' hid
    obtain ⟨hi, hrun, hstay⟩ := (State.mem_barWaves hblk').1 hid
    exact hall i hi hrun hstay
  have hexec : exec (.bar f) s = .next s.arrived.barRelease := by
    show execBar f s = _
    rw [execBar, guarded_of_guard hg, hdone]
    exact congrArg _ (if_pos hwaits)
  obtain ⟨hms, hcores⟩ := State.barRelease_leaves hblk'
  refine ⟨_, hexec, hms, hcores, fun i hi => (State.barRelease_wave hblk' hnodup hi).trans ?_⟩
  by_cases hcur : (⟨s.cur.core, i⟩ : WaveId) = s.cur
  · have hself : s.arrived.wave ⟨s.cur.core, i⟩ = s.arrived.wv := by rw [hcur]; exact s.arrived.wave_cur
    rw [show (⟨s.arrived.cur.core, i⟩ : WaveId) = ⟨s.cur.core, i⟩ from rfl, hself, hcur, s.wave_cur,
      if_pos ⟨hhalt, hending⟩, hhalt, hending, if_neg (by simp)]
    rfl
  · have hother : s.arrived.wave ⟨s.cur.core, i⟩ = s.wave ⟨s.cur.core, i⟩ := by
      unfold State.wave
      rw [if_neg hcur]
      exact if_neg hcur
    rw [show (⟨s.arrived.cur.core, i⟩ : WaveId) = ⟨s.cur.core, i⟩ from rfl, hother]
    cases hrun : (s.wave ⟨s.cur.core, i⟩).halt <;> cases hstay : (s.wave ⟨s.cur.core, i⟩).waits.ending <;> simp

end Barrier

/-! ## Instructions on a stream queue (R353 to R355) -/

section Streams
variable {s : State} {f : InsT}

theorem State.wroteS_uniResult (s : State) (f : InsT) (w : Wave) (hw : w.s = s.wv.s) (v : Nat) :
    s.wroteS ((s.withWv w).uniResult f v) (lenT f) w f.d.toNat 32 v :=
  State.wroteS_putS s (lenT f) w f.d 32 v hw

theorem State.withQueue_of_holds (h : s.holdsQueue (s.srcU none 32 f.a % 32)) (body : State → Nat → List StreamEntry → State) :
    s.withQueue f body = body s (s.srcU none 32 f.a % 32)
      ((s.cluster (s.cur.core / 16)).stream (s.srcU none 32 f.a % 32)).entries := by
  obtain ⟨g, hgrid, hmask⟩ := h
  unfold State.withQueue
  rw [hgrid]
  exact if_pos hmask

theorem State.withQueue_of_not_holds (h : ¬ s.holdsQueue (s.srcU none 32 f.a % 32)) (body : State → Nat → List StreamEntry → State) :
    s.withQueue f body = s.trapAll 0x35 9 := by
  unfold State.withQueue
  cases hgrid : Map.get? s.fe.grids s.wv.ident.grid with
  | none => exact if_neg (by simp)
  | some g => exact if_neg fun hmask => h ⟨g, hgrid, hmask⟩

theorem State.push_of_room {n : Nat} {es : List StreamEntry} (h : s.syncReleased = true) (hroom : es.length < 64) (v : Word) (marker : Bool) :
    s.push f n es v marker = (s.setEntries n (es ++ [⟨v, marker, s.wv.pts⟩])).advance (lenT f) := by
  rw [State.push, h, if_neg (by simp), if_neg (by omega)]

/-- The status word of a stream queue (R355). -/
def queueStatus (es : List StreamEntry) : Nat :=
  es.length + match es with
    | e :: _ => if e.marker then 2 ^ 7 + 2 ^ 8 * (e.value.toNat % 8) else 0
    | [] => 0

theorem queueStatus_fields {es : List StreamEntry} (h : es.length ≤ 64) :
    queueStatus es % 128 = es.length ∧
      ((queueStatus es).testBit 7 = true ↔ ∃ e rest, es = e :: rest ∧ e.marker = true) ∧
      ∀ e rest, es = e :: rest → e.marker = true → queueStatus es / 2 ^ 8 = e.value.toNat % 8 := by
  rw [Nat.testBit_eq_decide_div_mod_eq, decide_eq_true_eq]
  cases es with
  | nil => exact ⟨rfl, by simp [queueStatus], fun e rest he => by cases he⟩
  | cons e rest =>
    have hexists : (∃ v tl, e :: rest = v :: tl ∧ v.marker = true) ↔ e.marker = true :=
      ⟨fun ⟨v, tl, heq, hv⟩ => by cases heq; exact hv, fun hv => ⟨e, rest, rfl, hv⟩⟩
    rw [hexists]
    unfold queueStatus
    dsimp only
    cases hmarker : e.marker with
    | false => exact ⟨by simp only [Bool.false_eq_true, if_false]; omega, by simp only [Bool.false_eq_true, if_false, iff_false]; omega,
        fun v tl heq hv => by cases heq; rw [hmarker] at hv; cases hv⟩
    | true => exact ⟨by simp only [if_true]; omega, by simp only [if_true, iff_true]; omega,
        fun v tl heq hv => by cases heq; simp only [if_true]; omega⟩

end Streams

/-- Settles O33: the barrier's release wave by wave, the ring's tail, and the four instructions on a queue that the grid holds
or does not. -/
theorem barriersAndQueues : Obligations.BarriersAndQueues := by
  unfold Obligations.BarriersAndQueues
  intro f s hg
  refine ⟨fun hdone blk hblk _ hhalt hending hall hnodup => exec_bar_last hg hdone hblk hhalt hending hall hnodup,
    fun hacquire hdone hpoison r hring htail hmoved => ?_, fun hacquire hdone hpoison hring => ?_, fun hholds hreleased hroom => ?_,
    fun hholds e rest hes => ?_, fun hholds => ?_, fun hno => ?_⟩
  · refine ⟨_, ?_, State.wroteS_uniResult s f { s.wv with pts := max s.wv.pts (s.myCore.rt.getD (s.srcU none 32 f.a % 8) 0) } rfl _⟩
    show execRwait f s = _
    rw [execRwait, guarded_of_guard hg]
    dsimp only
    rw [hacquire, hdone, hpoison, hring, if_neg (by simp), if_neg (by simp)]
    dsimp only
    rw [htail, if_neg (by simp), if_neg hmoved]
    rfl
  · show execRwait f s = _
    rw [execRwait, guarded_of_guard hg]
    dsimp only
    rw [hacquire, hdone, hpoison, hring, if_neg (by simp), if_neg (by simp)]
    rfl
  · intro r hr
    fin_cases hr
    · show execQpush f s = _
      rw [execQpush, guarded_of_guard hg, State.withQueue_of_holds hholds, State.push_of_room hreleased hroom]
    · show execQmark f s = _
      rw [execQmark, guarded_of_guard hg, State.withQueue_of_holds hholds, State.push_of_room hreleased hroom]
  · refine ⟨_, ?_, State.wroteS_uniResult (s.setEntries (s.srcU none 32 f.a % 32) rest) f
      { s.wv with q := Map.set s.wv.q f.c.toNat e.marker, pts := max s.wv.pts e.ts } rfl _⟩
    show execQpop f s = _
    rw [execQpop, guarded_of_guard hg, State.withQueue_of_holds hholds, hes]
    rfl
  · refine ⟨queueStatus ((s.cluster (s.cur.core / 16)).stream (s.srcU none 32 f.a % 32)).entries,
      ⟨_, ?_, State.wroteS_uniResult s f s.wv rfl _⟩, queueStatus_fields⟩
    show execQstat f s = _
    rw [execQstat, guarded_of_guard hg, State.withQueue_of_holds hholds]
    rfl
  · intro i hi
    fin_cases hi
    · show execQpush f s = _
      rw [execQpush, guarded_of_guard hg, State.withQueue_of_not_holds hno]
    · show execQpop f s = _
      rw [execQpop, guarded_of_guard hg, State.withQueue_of_not_holds hno]
    · show execQmark f s = _
      rw [execQmark, guarded_of_guard hg, State.withQueue_of_not_holds hno]
    · show execQstat f s = _
      rw [execQstat, guarded_of_guard hg, State.withQueue_of_not_holds hno]

end Sys2Proof.Machine
end

section
/-! SUPPORT. The butterflies: a packet enters an output or arrives, a link carries flits, residue copies go on (R98 to R100, R104,
R109, R110, R120). -/

namespace Sys2Proof.Machine

/-! ## A packet entering an output (R109, R110) -/

theorem State.out_setOut (s : State) (k j : Nat) (o : SwitchOut) : (s.setOut k o).out j = if j = k then o else s.out j :=
  Map.getD_set ..

section Enqueue
variable {o : SwitchOut} {f : Flight}

theorem SwitchOut.enqueue_payload (hdata : f.pkt.data ≠ []) (hfit : o.load + f.pkt.flits ≤ 64) :
    o.enqueue f = { o with
      queue := o.queue ++ [{ f with pkt := { f.pkt with mark := f.pkt.mark || decide (24 ≤ o.load) } }]
      marks := if 24 ≤ o.load then bump48 o.marks else o.marks } := by
  unfold SwitchOut.enqueue
  dsimp only
  rw [if_neg (by rwa [List.isEmpty_iff]), if_pos hfit]
  simp only [decide_eq_true_eq]

theorem SwitchOut.enqueue_trimmed (hdata : f.pkt.data ≠ []) (hfull : 64 < o.load + f.pkt.flits) :
    o.enqueue f = { o with header := o.header ++ [{ f with pkt := f.pkt.trimmed }], trims := bump48 o.trims } := by
  unfold SwitchOut.enqueue
  dsimp only
  rw [if_neg (by rwa [List.isEmpty_iff]), if_neg (Nat.not_le.2 hfull)]

theorem SwitchOut.enqueue_header (hdata : f.pkt.data = []) (hfree : ∀ g ∈ o.queue, sameFlow g.pkt f.pkt = false) :
    o.enqueue f = { o with header := o.header ++ [f] } := by
  have hnone : o.queue.any (fun g => sameFlow g.pkt f.pkt) = false := by
    rw [List.any_eq_false]
    exact fun g hg => by rw [hfree g hg]; decide
  unfold SwitchOut.enqueue
  dsimp only
  rw [hdata, hnone]
  rfl

end Enqueue

/-! ## A packet on a wire -/

section Wire
variable {s : State} {i : Nat} {f : Flight}

/-- The state with packet `i` off the wires. -/
def State.offWire (s : State) (i : Nat) : State := s.setWires (dropAt s.net.wires i)

theorem any_wireBehind_eq_false {l : List Flight} (h : ∀ g ∈ l, wireBehind g f = false) : l.any (fun g => wireBehind g f) = false := by
  rw [List.any_eq_false]
  exact fun g hg => by rw [h g hg]; decide

section Plain
variable (hf : s.net.wires[i]? = some f) (hfirst : ∀ g ∈ s.net.wires.take i, wireBehind g f = false)
  (hplain : f.pkt.ty ≠ .mdata ∧ f.pkt.ty ≠ .winv)
include hf hfirst hplain

/-- A packet with outputs ahead enters the next, or is discarded where that is another domain's. -/
theorem exec_switchOutputEnqueue_output {k : Nat} {ks : List Nat} (hpath : f.path = k :: ks) :
    exec (.switchOutputEnqueue i) s = .next (if (s.domOf f.pkt.dom).ownsOut k then
        (s.offWire i).setOut k (((s.offWire i).out k).enqueue { f with last := k, path := ks })
      else (s.offWire i).discardPacket (k / 2048 % 2) (k % 2048) f.pkt.dom) := by
  show execSwitchOutputEnqueue i s = _
  unfold execSwitchOutputEnqueue
  rw [hf]
  dsimp only
  rw [any_wireBehind_eq_false hfirst, if_neg Bool.false_ne_true, beq_eq_false_iff_ne.2 hplain.1, beq_eq_false_iff_ne.2 hplain.2,
    Bool.or_false, if_neg Bool.false_ne_true, hpath]
  rfl

/-- A packet past its last output arrives at its slice or its port. -/
theorem exec_switchOutputEnqueue_end (hpath : f.path = []) : exec (.switchOutputEnqueue i) s = .next (if f.pkt.ty.isRequest then
    (s.offWire i).arriveSlice f.pkt else (s.offWire i).arrivePort f.pkt.port f.pkt) := by
  show execSwitchOutputEnqueue i s = _
  unfold execSwitchOutputEnqueue
  rw [hf]
  dsimp only
  rw [any_wireBehind_eq_false hfirst, if_neg Bool.false_ne_true, beq_eq_false_iff_ne.2 hplain.1, beq_eq_false_iff_ne.2 hplain.2,
    Bool.or_false, if_neg Bool.false_ne_true, hpath]
  rfl

end Plain

theorem State.arriveSlice_of_owned {s : State} {p : Packet} {d : Dom} (hdom : s.dom? p.dom = some d) (hown : d.ownsSlice p.slice = true)
    (hfit : p.data = [] ∨ (s.slice p.slice).inputFlits + p.flits ≤ 64) :
    s.arriveSlice p = s.setSlice p.slice { s.slice p.slice with inbox := (s.slice p.slice).inbox ++ [p] } := by
  have hroom : (p.data.isEmpty || decide ((s.slice p.slice).inputFlits + p.flits ≤ 64)) = true := by
    rcases hfit with hdata | hfit
    · rw [hdata]
      rfl
    · rw [decide_eq_true hfit, Bool.or_true]
  unfold State.arriveSlice
  rw [hdom]
  exact (if_neg (by simp [hown])).trans (if_pos hroom)

theorem State.arrivePort_of_owned {s : State} {port : Nat} {p : Packet} {d : Dom} (hdom : s.dom? p.dom = some d)
    (hown : d.ownsPort port = true) :
    s.arrivePort port p = s.setPort port { s.port port with inbox := (s.port port).inbox ++ [p] } := by
  unfold State.arrivePort
  rw [hdom]
  exact if_neg (by simp [hown])

/-- A WINV at its one port. -/
theorem exec_switchOutputEnqueue_winv (hf : s.net.wires[i]? = some f) (hfirst : ∀ g ∈ s.net.wires.take i, wireBehind g f = false)
    (hty : f.pkt.ty = .winv) (harrived : f.arrived (s.domOf f.pkt.dom) = true) {q : Nat} (htargets : f.targets = [q]) :
    exec (.switchOutputEnqueue i) s = .next ((s.offWire i).arrivePort q { f.pkt with port := q }) := by
  show execSwitchOutputEnqueue i s = _
  unfold execSwitchOutputEnqueue
  rw [hf]
  dsimp only
  rw [any_wireBehind_eq_false hfirst, if_neg Bool.false_ne_true, harrived, hty, htargets]
  rfl

/-- A branch of a fork with room takes the copy whole. -/
theorem State.forkBranch_of_room {s : State} {f : Flight} {b : Nat × List Nat} (hown : (s.domOf f.pkt.dom).ownsOut b.1 = true)
    (hfit : (s.out b.1).load + f.pkt.flits ≤ 64) :
    s.forkBranch f b = s.setOut b.1 ((s.out b.1).enqueue (({ f with targets := b.2 } : Flight).through b.1 f.pkt)) := by
  unfold State.forkBranch
  exact (if_neg (by rw [hown]; decide)).trans (if_pos (by rw [decide_eq_true hfit, Bool.or_true]))

/-- An MDATA with one branch ahead that has room goes down it whole. -/
theorem exec_replySwitchMdata_one (hf : s.net.wires[i]? = some f) (hfirst : ∀ g ∈ s.net.wires.take i, wireBehind g f = false)
    (hty : f.pkt.ty = .mdata) (harrived : f.arrived (s.domOf f.pkt.dom) = false) {b : Nat × List Nat}
    (hfork : forkOutputs (s.domOf f.pkt.dom) f = [b]) (hown : (s.domOf f.pkt.dom).ownsOut b.1 = true)
    (hfit : (s.out b.1).load + f.pkt.flits ≤ 64) :
    exec (.replySwitchMdata i) s = .next ((s.offWire i).setOut b.1 ((s.out b.1).enqueue
      (({ f with targets := b.2 } : Flight).through b.1 f.pkt))) := by
  have hbranch : (s.offWire i).fork f = (s.offWire i).forkBranch f b := by
    unfold State.fork
    rw [show (s.offWire i).domOf f.pkt.dom = s.domOf f.pkt.dom from rfl, hfork]
    rfl
  show execReplySwitchMdata i s = _
  unfold execReplySwitchMdata
  rw [hf]
  dsimp only
  rw [any_wireBehind_eq_false hfirst, harrived, hty]
  exact congrArg _ (hbranch.trans (State.forkBranch_of_room hown hfit))

end Wire

/-! ## A network cycle of a link (R99, R100) -/

/-- The flits that packets of a payload queue take on a link, each with its header (R101). -/
def queueLoad (q : List Flight) : Nat := (q.map (fun f => 1 + f.pkt.flits)).foldl (· + ·) 0

theorem queueLoad_cons (f : Flight) (q : List Flight) : queueLoad (f :: q) = 1 + f.pkt.flits + queueLoad q := by
  rw [queueLoad, queueLoad, List.map_cons, ← List.sum_eq_foldl, ← List.sum_eq_foldl, List.sum_cons]

/-- What a link carries of a payload queue in `n` flits: whole packets from its front, and no flit unused while one waits. -/
theorem carry_spec : ∀ (q : List Flight) (n done : Nat), (∀ f tl, q = f :: tl → done ≤ f.pkt.flits) →
    q = (carry n done q).1 ++ (carry n done q).2.1 ∧
      queueLoad (carry n done q).1 + (carry n done q).2.2 ≤ done + n ∧
      ((carry n done q).2.1 ≠ [] → queueLoad (carry n done q).1 + (carry n done q).2.2 = done + n) := by
  intro q
  induction q with
  | nil => exact fun n done _ => ⟨rfl, Nat.zero_le _, fun h => absurd rfl h⟩
  | cons f q ih =>
    intro n done hdone
    have hpart := hdone f q rfl
    obtain ⟨hsplit, hle, heq⟩ := ih (n - (1 + f.pkt.flits - done)) 0 (fun _ _ _ => Nat.zero_le _)
    unfold carry
    dsimp only
    split_ifs with hfits
    · dsimp only
      rw [queueLoad_cons]
      refine ⟨congrArg (f :: ·) hsplit, by omega, fun hmore => ?_⟩
      have := heq hmore
      omega
    · exact ⟨rfl, by simp [queueLoad], fun _ => by simp [queueLoad]⟩

/-- What a link takes from an output in a cycle: packets from the front of each of its two lanes. -/
theorem SwitchOut.carried_spec (o : SwitchOut) (n : Nat) (hpart : ∀ f tl, o.queue = f :: tl → o.done ≤ f.pkt.flits) :
    ∃ hs qs, o.header = hs ++ (o.carried n).1.header ∧ o.queue = qs ++ (o.carried n).1.queue ∧ (o.carried n).2 = hs ++ qs ∧
      hs.length = min n o.header.length ∧ queueLoad qs + (o.carried n).1.done ≤ o.done + (n - hs.length) ∧
      ((o.carried n).1.queue ≠ [] → queueLoad qs + (o.carried n).1.done = o.done + (n - hs.length)) := by
  obtain ⟨hsplit, hle, heq⟩ := carry_spec o.queue (n - (o.header.take n).length) o.done hpart
  exact ⟨o.header.take n, _, (List.take_append_drop ..).symm, hsplit, rfl, List.length_take, hle, heq⟩

/-- One cycle of a link that no residue copy waits for. -/
theorem exec_switchOutputLinkSlot {s : State} {k : Nat} (h : s.waitingSwitches k = []) :
    exec (.switchOutputLinkSlot k) s = .next ((s.setOut k ((s.out k).carried (if outStage k = 5 then 2 else 8)).1).setWires
      (s.net.wires ++ ((s.out k).carried (if outStage k = 5 then 2 else 8)).2)) := by
  show execSwitchOutputLinkSlot k s = _
  unfold execSwitchOutputLinkSlot
  dsimp only
  exact congrArg (fun l => Host.Outcome.next (List.foldl _ _ l)) h

/-! ## Residue copies (R120) -/

theorem State.residue_setResidue_self (s : State) (sw : Nat) (b : ResidueBuf) : (s.setResidue sw b).residue sw = b :=
  Map.getD_set_self ..

/-- A multicast copy without payload goes by the header lane, whatever the payload queue holds. -/
theorem SwitchOut.enqueue_copy {o : SwitchOut} {f : Flight} (hty : f.pkt.ty = .mdata) (hdata : f.pkt.data = []) :
    o.enqueue f = { o with header := o.header ++ [f] } :=
  SwitchOut.enqueue_header hdata fun g _ => by simp [sameFlow, hty, PType.isRequest]

theorem exec_residueTimeout {s : State} {sw i k n : Nat} {f : Flight} (hheld : (s.residue sw).held[i]? = some (f, k, n))
    (hold : n + 256 ≤ s.netNow) (hty : f.pkt.ty = .mdata) :
    exec (.residueTimeout sw i) s = .next ((s.setResidue sw { s.residue sw with
        held := dropAt (s.residue sw).held i, restrims := bump48 (s.residue sw).restrims }).setOut k
      { s.out k with header := (s.out k).header ++ [f.through k f.pkt.trimmed] }) := by
  show execResidueTimeout sw i s = _
  unfold execResidueTimeout
  dsimp only
  rw [hheld]
  dsimp only
  rw [if_pos hold, SwitchOut.enqueue_copy (f := f.through k f.pkt.trimmed) hty rfl]

/-- Settles O39: a packet on a wire by what stands before it on its path, one cycle of a link, and a residue copy's time-out. -/
theorem packetsInTheNetwork : Obligations.PacketsInTheNetwork := by
  unfold Obligations.PacketsInTheNetwork
  refine ⟨fun s i f hf hfirst => ⟨fun hplain k ks hpath => ⟨fun hown => ?_, fun hforeign => ?_⟩, fun hty harrived q htargets hport => ?_,
    fun hplain hpath d hdom => ⟨fun hreq hown hfit => ?_, fun hreply hown => ?_⟩, fun hty harrived b hfork hdata hown hfit => ?_⟩,
    fun s k hnone hpart => ?_, fun s sw i f k n hheld hold hty => ?_⟩
  · have hexec := exec_switchOutputEnqueue_output hf hfirst hplain hpath
    rw [if_pos hown] at hexec
    refine ⟨_, hexec, rfl, rfl, fun j hj => (State.out_setOut ..).trans (if_neg hj), fun hdata hfit => ?_, fun hdata hfull => ?_,
      fun hdata hfree => ?_⟩ <;> rw [State.out_setOut, if_pos rfl]
    · exact SwitchOut.enqueue_payload (f := { f with last := k, path := ks }) hdata hfit
    · exact SwitchOut.enqueue_trimmed (f := { f with last := k, path := ks }) hdata hfull
    · exact SwitchOut.enqueue_header (f := { f with last := k, path := ks }) hdata hfree
  · have hexec := exec_switchOutputEnqueue_output hf hfirst hplain hpath
    rw [hforeign, if_neg Bool.false_ne_true] at hexec
    exact ⟨_, hexec, rfl, State.discardPacket_ms ..⟩
  · obtain ⟨d, hdom, hown⟩ := hport
    have hexec := exec_switchOutputEnqueue_winv hf hfirst hty harrived htargets
    rw [State.arrivePort_of_owned (s := s.offWire i) (p := { f.pkt with port := q }) hdom hown] at hexec
    exact ⟨_, hexec, rfl, rfl, (State.port_setPort ..).trans (if_pos rfl)⟩
  · have hexec := exec_switchOutputEnqueue_end hf hfirst hplain hpath
    rw [if_pos hreq, State.arriveSlice_of_owned (s := s.offWire i) hdom hown hfit] at hexec
    exact ⟨_, hexec, rfl, rfl, State.slice_setSlice_self ..⟩
  · have hexec := exec_switchOutputEnqueue_end hf hfirst hplain hpath
    rw [hreply, if_neg Bool.false_ne_true, State.arrivePort_of_owned (s := s.offWire i) hdom hown] at hexec
    exact ⟨_, hexec, rfl, rfl, (State.port_setPort ..).trans (if_pos rfl)⟩
  · refine ⟨_, exec_replySwitchMdata_one hf hfirst hty harrived hfork hown hfit, rfl, rfl, rfl, ?_⟩
    rw [State.out_setOut, if_pos rfl,
      SwitchOut.enqueue_payload (f := ({ f with targets := b.2 } : Flight).through b.1 f.pkt) hdata hfit]
    exact List.length_append
  · obtain ⟨hs, qs, hheader, hqueue, hsent, hlen, hle, heq⟩ := (s.out k).carried_spec (if outStage k = 5 then 2 else 8) hpart
    have hout : ∀ w, ((s.setOut k ((s.out k).carried (if outStage k = 5 then 2 else 8)).1).setWires w).out k =
        ((s.out k).carried (if outStage k = 5 then 2 else 8)).1 := fun w => (State.out_setOut ..).trans (if_pos rfl)
    refine ⟨_, exec_switchOutputLinkSlot hnone, hs, qs, ?_⟩
    rw [hout]
    refine ⟨hheader, hqueue, ?_, hlen, hle, heq, fun j hj => (State.out_setOut ..).trans (if_neg hj), rfl, rfl, rfl⟩
    rw [List.append_assoc, ← hsent]
    rfl
  · refine ⟨_, exec_residueTimeout hheld hold hty, ?_, ?_, ?_, rfl, rfl⟩
    · exact State.residue_setResidue_self ..
    · rw [State.out_setOut, if_pos rfl]
      rfl
    · rw [State.out_setOut, if_pos rfl]

end Sys2Proof.Machine
end

section
/-! SUPPORT. Deliveries to a cluster: multicast data, WINVs and messages (R96, R119, R124, R160, R185, R206, R302, R336). -/

namespace Sys2Proof.Machine

/-! ## What changes the network alone -/

/-- From `s` to `t` nothing but the network has changed. -/
def State.netOnly (s t : State) : Prop := t = { s with net := t.net }

section NetOnly
variable {s t u : State}

theorem State.netOnly.refl (s : State) : s.netOnly s := rfl

theorem State.netOnly.trans (h : s.netOnly t) (h' : t.netOnly u) : s.netOnly u := by
  unfold State.netOnly at h h' ⊢
  rw [h', h]

theorem State.netOnly_setPort (s : State) (port : Nat) (x : Port) : s.netOnly (s.setPort port x) := rfl

theorem State.netOnly_portSend (s : State) (port : Nat) (p : Packet) (c : Client) : s.netOnly (s.portSend port p c) := rfl

theorem State.netOnly_drainPort (port n : Nat) : ∀ s : State, s.netOnly (s.drainPort port n) := by
  induction n with
  | zero => exact fun s => .refl s
  | succ n ih =>
    intro s
    unfold State.drainPort
    dsimp only
    split
    · exact .refl s
    · split_ifs
      · exact ((s.netOnly_setPort ..).trans (State.netOnly_portSend ..)).trans (ih _)
      · exact .refl s

theorem State.netOnly_portQueue (s : State) (port : Nat) (p : Packet) (c : Client) : s.netOnly (s.portQueue port p c) :=
  (s.netOnly_setPort ..).trans (State.netOnly_drainPort ..)

theorem State.netOnly_portFinal (s : State) (port : Nat) (o : Outstanding) (mark : Bool) : s.netOnly (s.portFinal port o mark) :=
  (s.netOnly_setPort ..).trans (State.netOnly_drainPort ..)

theorem State.netOnly_takeReply (s : State) (port i : Nat) : s.netOnly (s.takeReply port i) := rfl

theorem State.netOnly.core (h : s.netOnly t) (k : Nat) : t.core k = s.core k := by rw [h]; rfl

theorem State.netOnly.cluster (h : s.netOnly t) (k : Nat) : t.cluster k = s.cluster k := by rw [h]; rfl

theorem State.netOnly.ms (h : s.netOnly t) : t.ms = s.ms := by rw [h]

end NetOnly

/-! ## Ports of a core's memories where no access waits (R163, R188) -/

section Idle
variable {s : State} {k : Nat}

theorem State.usePort_of_idle (h : s.portsIdle k) (port user : Nat) : s.usePort k port user = s := by
  have hnone : (s.core k).ops.filter (fun o => o.portNo == port && (s.core k).beatReady o) = [] := by
    rw [List.filter_eq_nil_iff]
    exact fun o ho => by rw [h o ho, Bool.and_false]; decide
  unfold State.usePort
  dsimp only
  rw [hnone]

theorem Core.beatReady_of_ops {c c' : Core} (h : c'.ops = c.ops) (o : MemOp) : c'.beatReady o = c.beatReady o := by
  unfold Core.beatReady
  rw [h]

theorem State.portsIdle.of_ops {t : State} (h : s.portsIdle k) (hops : (t.core k).ops = (s.core k).ops) : t.portsIdle k := by
  unfold State.portsIdle
  rw [hops]
  exact fun o ho => (Core.beatReady_of_ops hops o).trans (h o ho)

end Idle

/-! ## A multicast chunk in the cores of a cluster (R206) -/

section Land
variable {s t : State}

theorem Core.landMdata_ops (c : Core) (p : Packet) (ks : List Nat) (data : List Byte) : (c.landMdata p ks data).ops = c.ops := by
  unfold Core.landMdata
  dsimp only
  split_ifs <;> rfl

/-- The array buffer after a chunk does not depend on the outliers, which stand in the side store. -/
theorem Core.landMdata_abuf (c : Core) (p : Packet) (ks ks' : List Nat) (data : List Byte) :
    (c.landMdata p ks data).abuf = (c.landMdata p ks' data).abuf := by
  unfold Core.landMdata
  dsimp only
  split_ifs <;> rfl

/-- One core of a cluster takes a multicast chunk. -/
def State.landOn (s : State) (cluster : Nat) (p : Packet) (ks : List Nat) (data : List Byte) (i : Nat) : State :=
  let t := (s.usePort (16 * cluster + i) 1 copyUser)
  let t1 := t.setCore (16 * cluster + i) ((t.core (16 * cluster + i)).landMdata p ks data)
  match p.tagPhaser with
  | some h => t1.queueAdd cluster ⟨h, 64, none, p.tagCore, p.dom⟩
  | none => t1

theorem State.core_queueAdd (s : State) (cluster : Nat) (a : ByteAdd) (k : Nat) : (s.queueAdd cluster a).core k = s.core k := rfl

theorem State.core_landOn {cluster : Nat} {p : Packet} {ks : List Nat} {data : List Byte} {i : Nat} (hidle : s.portsIdle (16 * cluster + i))
    (k : Nat) : (s.landOn cluster p ks data i).core k =
      if k = 16 * cluster + i then (s.core k).landMdata p ks data else s.core k := by
  have hset : (s.setCore (16 * cluster + i) ((s.core (16 * cluster + i)).landMdata p ks data)).core k =
      if k = 16 * cluster + i then (s.core k).landMdata p ks data else s.core k := by
    rw [State.core_setCore]
    split_ifs with hk
    · rw [hk]
    · rfl
  unfold State.landOn
  rw [State.usePort_of_idle hidle]
  dsimp only
  split
  · rw [State.core_queueAdd, hset]
  · exact hset

theorem State.core_foldl_landOn {cluster : Nat} {p : Packet} {ks : List Nat} {data : List Byte} {is : List Nat} (hnodup : is.Nodup)
    (k : Nat) : ∀ s : State, (∀ i ∈ is, s.portsIdle (16 * cluster + i)) →
      (is.foldl (fun t i => t.landOn cluster p ks data i) s).core k =
        if ∃ i ∈ is, k = 16 * cluster + i then (s.core k).landMdata p ks data else s.core k := by
  induction is with
  | nil => exact fun s _ => (if_neg (by simp)).symm
  | cons i is ih =>
    intro s hidle
    obtain ⟨hnew, hrest⟩ := List.nodup_cons.1 hnodup
    have hfirst := State.core_landOn (p := p) (ks := ks) (data := data) (hidle i List.mem_cons_self)
    have hops : ∀ j, ((s.landOn cluster p ks data i).core j).ops = (s.core j).ops := fun j => by
      rw [hfirst]
      split_ifs
      · exact Core.landMdata_ops ..
      · rfl
    rw [List.foldl_cons, ih hrest _ fun j hj => (hidle j (List.mem_cons_of_mem _ hj)).of_ops (hops _), hfirst]
    by_cases hk : k = 16 * cluster + i
    · have hother : ¬ ∃ j ∈ is, k = 16 * cluster + j := by
        rintro ⟨j, hj, hkj⟩
        exact hnew ((show i = j by omega) ▸ hj)
      rw [if_neg hother, if_pos hk, if_pos ⟨i, List.mem_cons_self, hk⟩]
    · have hsame : (∃ j ∈ i :: is, k = 16 * cluster + j) ↔ ∃ j ∈ is, k = 16 * cluster + j := by
        simp [hk]
      simp only [if_neg hk, hsame]

theorem State.abuf_mapCopy (s : State) (core id : Nat) (f : CopyEntry → CopyEntry) (k : Nat) :
    ((s.mapCopy core id f).core k).abuf = (s.core k).abuf := by
  refine (congrArg Core.abuf (State.core_setCore ..)).trans ?_
  split_ifs with hk
  · rw [hk]
    rfl
  · rfl

/-- The cores that take a multicast chunk as it comes to a cluster. -/
def mcastMask (cluster : Nat) (p : Packet) : Nat :=
  if cluster = 128 * portDie p.port + p.port % 256 / 2 then mdataField p 40 16 else mdataField p 56 16

theorem State.abuf_landCluster {cluster j : Nat} (hidle : ∀ i, i < 16 → s.portsIdle (16 * cluster + i)) (hj : j < 16) (p : Packet)
    (ks data : List _) :
    ((s.landCluster cluster p data).core (16 * cluster + j)).abuf =
      if (mcastMask cluster p).testBit j then ((s.core (16 * cluster + j)).landMdata p ks data).abuf
      else (s.core (16 * cluster + j)).abuf := by
  let named := (List.range 16).filter (fun i => (mcastMask cluster p).testBit i)
  have hnamed : (∃ i ∈ named, 16 * cluster + j = 16 * cluster + i) ↔ (mcastMask cluster p).testBit j = true := by
    simp [named, List.mem_filter, hj]
  refine (State.abuf_mapCopy ..).trans ((congrArg Core.abuf (State.core_foldl_landOn (is := named) (List.nodup_range.filter _) _ s
    fun i hi => hidle i (List.mem_range.1 (List.mem_filter.1 hi).1))).trans ?_)
  simp only [hnamed]
  split_ifs
  · exact Core.landMdata_abuf ..
  · rfl

theorem State.abuf_chunkCame (s : State) (port : Nat) (p : Packet) (k : Nat) :
    ((s.chunkCame port p none).core k).abuf = (s.core k).abuf := by
  unfold State.chunkCame
  dsimp only
  split_ifs
  · exact State.abuf_mapCopy ..
  · exact State.abuf_mapCopy ..

end Land

/-! ## The three events -/

section Events
variable {s : State} {port i : Nat} {p : Packet}

theorem State.replyAt_of {ty : PType} (h : (s.port port).inbox[i]? = some p) (hty : p.ty = ty) :
    s.replyAt port i ty = some (p, (s.port port).find p.slice p.seq) := by
  unfold State.replyAt
  dsimp only
  rw [h]
  exact if_pos (by rw [hty, beq_self_eq_true])

/-- A whole chunk of multicast data lands in its cluster, whatever its reply ends at the port. -/
theorem exec_clusterMdata (h : (s.port port).inbox[i]? = some p) (hty : p.ty = .mdata) (hmask : p.mcast ≠ 0) (htrim : p.trim = false)
    (hgood : p.opx % 2 = 0) :
    ∃ u, s.netOnly u ∧ exec (.clusterMdata port i) s = .next ((u.landCluster (portCluster port) p p.data).chunkCame port p none) := by
  have hu : s.netOnly (match (s.port port).find p.slice p.seq with
      | some o => if port = p.port then (s.takeReply port i).portFinal port o p.mark else s.takeReply port i
      | none => s.takeReply port i) := by
    split
    · split_ifs
      · exact (s.netOnly_takeReply ..).trans (State.netOnly_portFinal ..)
      · exact s.netOnly_takeReply ..
    · exact s.netOnly_takeReply ..
  refine ⟨_, hu, ?_⟩
  show execClusterMdata port i s = _
  unfold execClusterMdata
  rw [State.replyAt_of h hty]
  dsimp only
  rw [if_neg hmask, htrim, if_neg Bool.false_ne_true, if_neg (by omega)] <;> rfl

/-- The answer of an interface: one request without payload leaves its port. -/
theorem State.answerSlice_spec (s : State) (port : Nat) (p : Packet) (ty : PType) (reason : Nat) :
    ∃ f, s.answerSlice port p ty reason = { s with net := { s.net with wires := s.net.wires ++ [f] } } ∧ f.pkt.ty = ty ∧
      f.pkt.opx = reason ∧ f.pkt.port = port ∧ f.pkt.addr = p.addr :=
  ⟨_, rfl, rfl, rfl, rfl, rfl⟩

theorem exec_clusterWinv (h : (s.port port).inbox[i]? = some p) (hty : p.ty = .winv) :
    exec (.clusterWinv port i) s = .next (((s.takeReply port i).setCluster (portCluster port) { s.cluster (portCluster port) with
      residencies := (s.cluster (portCluster port)).residencies.map (fun e =>
        (e.1, e.2.invalidated (s.backs (portCluster port) e.1 e.2 (p.addr / 128)))) }).answerSlice port p .wack 0) := by
  show execClusterWinv port i s = _
  unfold execClusterWinv
  rw [State.replyAt_of h hty]

/-- A residency after a WINV (R302). -/
theorem Residency.invalidated_spec (r : Residency) (backed : Bool) :
    (backed = false → r.invalidated backed = r) ∧
      (backed = true → (r.st = .ready ∨ r.st = .pinned) → r.invalidated backed = { r with st := .stale }) ∧
      (backed = true → r.st = .loading → (r.invalidated backed).st = .loading ∧ (r.invalidated backed).winv = true) := by
  refine ⟨fun hb => by rw [hb]; rfl, fun hb hst => ?_, fun hb hst => ?_⟩ <;> rw [hb, Residency.invalidated, if_pos rfl]
  · rcases hst with hst | hst <;> rw [hst]
  · rw [hst]
    exact ⟨rfl, rfl⟩

/-- The lines that a residency is backed by: those that its load has read, and for one that loads those still to be read (R96). -/
theorem State.backs_spec (s : State) (table n : Nat) (r : Residency) (line : Nat) :
    (line ∈ r.lines → s.backs table n r line = true) ∧
      (r.st ≠ .loading → line ∉ r.lines → s.backs table n r line = false) := by
  refine ⟨fun h => ?_, fun hst h => ?_⟩ <;> unfold State.backs
  · rw [List.contains_iff_mem.2 h, Bool.true_or]
  · rw [beq_eq_false_iff_ne.2 hst, Bool.false_and, Bool.or_false]
    exact Bool.eq_false_iff.2 fun hmem => h (List.contains_iff_mem.1 hmem)

theorem exec_interfaceMsgd (h : (s.port port).inbox[i]? = some p) (hty : p.ty = .msgd) :
    exec (.interfaceMsgd port i) s = .next (if p.trim then (s.takeReply port i).answerSlice port p .mnak 1
      else if p.opx = 24 then (s.takeReply port i).receiveAdd port (msgCore p.addr) p
      else if 16 ≤ p.opx then (s.takeReply port i).remoteAtoms port (msgCore p.addr) p
      else (s.takeReply port i).appendRing port (msgCore p.addr) (p.addr % 8) p) := by
  show execInterfaceMsgd port i s = _
  unfold execInterfaceMsgd
  rw [State.replyAt_of h hty]

end Events

/-! ## A message at its ring (R124, R160) -/

section Ring
variable {s : State} {port core n : Nat} {p : Packet} {r : Ring}

/-- A ring that a message of a core fits and whose words are sound. -/
def Core.takesMsg (c : Core) (n : Nat) (p : Packet) (r : Ring) : Prop :=
  c.ringPoisoned n = false ∧ c.ring n = some r ∧ c.spad.poisoned r.head 4 = false ∧ c.spad.poisoned r.tail 4 = false ∧
    p.data.length ≤ r.entry

/-- The entries of a ring that its consumer has still to read. -/
def Core.ringUsed (c : Core) (r : Ring) : Nat := (c.spadWord r.tail + 2 ^ 32 - c.spadWord r.head) % 2 ^ 32

/-- The scratchpad with a message at the tail of a ring and the tail past it. -/
def Core.appended (c : Core) (r : Ring) (data : List Byte) : Store :=
  (c.spad.write (r.base + c.spadWord r.tail % 2 ^ r.logn * r.entry) (data ++ List.replicate (r.entry - data.length) 0)).write r.tail
    (leBytes 4 ((c.spadWord r.tail + 1) % 2 ^ 32))

/-- A core whose ring has taken a message. -/
def Core.withMessage (c : Core) (n : Nat) (r : Ring) (p : Packet) : Core :=
  { c with spad := c.appended r p.data, rt := c.rt.set n (max (c.rt.getD n 0) p.ts) }

theorem State.appendRing_eq (hidle : s.portsIdle core) (h : (s.core core).takesMsg n p r) :
    s.appendRing port core n p = if 2 ^ r.logn ≤ (s.core core).ringUsed r then s.answerSlice port p .mnak 0 else
      (s.setCore core ((s.core core).withMessage n r p)).answerSlice port p .mack 0 := by
  obtain ⟨hpoison, hring, hhead, htail, hfit⟩ := h
  unfold State.appendRing
  rw [State.usePort_of_idle hidle]
  dsimp only
  rw [hpoison, if_neg Bool.false_ne_true, hring]
  dsimp only
  rw [hhead, htail, Bool.or_false, if_neg Bool.false_ne_true, if_neg (Nat.not_lt.2 hfit)]
  rfl

theorem Store.getElem?_read (st : Store) (n : Nat) : ∀ a i : Nat, (st.read a n)[i]? = if i < n then some (st.get (a + i)) else none := by
  induction n with
  | zero => exact fun a i => rfl
  | succ n ih =>
    intro a i
    cases i with
    | zero => rfl
    | succ i =>
      rw [Store.read, List.getElem?_cons_succ, ih, Nat.add_assoc, Nat.add_comm 1 i]
      simp only [Nat.add_lt_add_iff_right]

/-- What has been written is read back. -/
theorem Store.read_write_same (st : Store) (a : Nat) (bs : List Byte) : (st.write a bs).read a bs.length = bs := by
  refine List.ext_getElem? fun i => ?_
  rw [Store.getElem?_read]
  split_ifs with hi
  · rw [Store.get_write, if_pos (by omega), Nat.add_sub_cancel_left, List.getD_eq_getElem _ _ hi, List.getElem?_eq_getElem hi]
  · rw [List.getElem?_eq_none (by omega)]

/-- The tail word after the message. -/
theorem Core.tail_appended (c : Core) (r : Ring) (data : List Byte) :
    leNat (((c.appended r data)).read r.tail 4) = (c.spadWord r.tail + 1) % 2 ^ 32 := by
  have hread := Store.read_write_same (c.spad.write (r.base + c.spadWord r.tail % 2 ^ r.logn * r.entry)
    (data ++ List.replicate (r.entry - data.length) 0)) r.tail (leBytes 4 ((c.spadWord r.tail + 1) % 2 ^ 32))
  rw [length_leBytes] at hread
  rw [Core.appended, hread]
  exact leNat_leBytes_of_lt (lt_of_lt_of_le (Nat.mod_lt _ (by decide)) (by decide))

/-- The entry of the message, padded with zeros, where the tail word stands beside it. -/
theorem Core.entry_appended (c : Core) (r : Ring) {data : List Byte} (hfit : data.length ≤ r.entry) {j : Nat} (hj : j < r.entry)
    (hapart : r.base + c.spadWord r.tail % 2 ^ r.logn * r.entry + r.entry ≤ r.tail ∨
      r.tail + 4 ≤ r.base + c.spadWord r.tail % 2 ^ r.logn * r.entry) :
    (c.appended r data).get (r.base + c.spadWord r.tail % 2 ^ r.logn * r.entry + j) = data.getD j 0 := by
  unfold Core.appended
  rw [Store.get_write, length_leBytes, if_neg (by omega), Store.get_write, List.length_append, List.length_replicate,
    if_pos (by omega), Nat.add_sub_cancel_left]
  by_cases hdata : j < data.length
  · exact List.getD_append _ _ _ _ hdata
  · rw [List.getD_append_right _ _ _ _ (Nat.not_lt.1 hdata), List.getD_replicate _ (by omega),
      List.getD_eq_default _ _ (Nat.not_lt.1 hdata)]

end Ring

section Answered
variable {s : State} {port : Nat} {p : Packet}

/-- What an answer of an interface changes: one more packet on the wires. -/
theorem State.wires_answerSlice {t : State} (ht : t.net.wires = s.net.wires) (ty : PType) (reason : Nat) :
    ∃ f, (t.answerSlice port p ty reason).net.wires = s.net.wires ++ [f] ∧ f.pkt.ty = ty ∧ f.pkt.opx = reason ∧
      f.pkt.port = port ∧ f.pkt.addr = p.addr := by
  obtain ⟨f, heq, hf⟩ := t.answerSlice_spec port p ty reason
  exact ⟨f, by rw [heq, ← ht], hf⟩

theorem State.core_answerSlice (t : State) (ty : PType) (reason k : Nat) : (t.answerSlice port p ty reason).core k = t.core k := rfl

theorem State.cores_answerSlice (t : State) (ty : PType) (reason : Nat) : (t.answerSlice port p ty reason).cores = t.cores := rfl

theorem State.cluster_answerSlice (t : State) (ty : PType) (reason k : Nat) : (t.answerSlice port p ty reason).cluster k = t.cluster k := rfl

theorem State.ms_answerSlice (t : State) (ty : PType) (reason : Nat) : (t.answerSlice port p ty reason).ms = t.ms := rfl

end Answered

/-- Settles O45: multicast data lands core by core, a WINV goes through the residency table, and a message meets its ring. -/
theorem deliveriesToACluster : Obligations.DeliveriesToACluster := by
  unfold Obligations.DeliveriesToACluster
  refine ⟨fun s port i p hp => ⟨fun hty hmask htrim hgood hidle => ?_, fun hty => ?_⟩, fun s port i p hp hty =>
    ⟨fun htrim => ?_, fun htrim hopx hidle hpoison r hring hhead htail hfit => ?_, fun htrim hopx => ?_⟩⟩
  · obtain ⟨u, hu, hexec⟩ := exec_clusterMdata hp hty hmask htrim hgood
    refine ⟨_, hexec, by simpa using hu.ms, fun j hj => ?_⟩
    have hland := fun ks => State.abuf_landCluster (ks := ks) (s := u) (cluster := portCluster port)
      (fun i hi => (hidle i hi).of_ops (congrArg Core.ops (hu.core _))) hj p p.data
    simp only [hu.core] at hland
    exact (State.abuf_chunkCame ..).trans (hland _)
  · refine ⟨_, exec_clusterWinv hp hty, rfl, ?_, fun e he => ?_⟩
    · obtain ⟨f, hwires, hf, -, hport, haddr⟩ := State.wires_answerSlice (port := port) (p := p)
        (s := s) (t := (s.takeReply port i).setCluster (portCluster port) _) rfl .wack 0
      exact ⟨f, hwires, hf, hport, haddr⟩
    · refine ⟨e.2.invalidated (s.backs (portCluster port) e.1 e.2 (p.addr / 128)), ?_,
        (s.backs_spec _ e.1 e.2 _).1, (s.backs_spec _ e.1 e.2 _).2, Residency.invalidated_spec ..⟩
      rw [State.cluster_answerSlice]
      refine (congrArg (fun c : Cluster => _ ∈ c.residencies) ((State.cluster_setCluster ..).trans (if_pos rfl))).mpr ?_
      exact List.mem_map_of_mem (f := fun e => (e.1, e.2.invalidated (s.backs (portCluster port) e.1 e.2 (p.addr / 128)))) he
  · refine ⟨_, exec_interfaceMsgd hp hty, ?_⟩
    rw [if_pos htrim]
    exact ⟨⟨rfl, State.wires_answerSlice rfl ..⟩, rfl⟩
  · have hexec := exec_interfaceMsgd hp hty
    have hring' := State.appendRing_eq (s := s.takeReply port i) (port := port) (hidle.of_ops rfl)
      ⟨hpoison, hring, hhead, htail, hfit⟩
    rw [if_neg (by simp [htrim]), if_neg (by omega), if_neg (by omega), hring'] at hexec
    refine ⟨fun hfull => ?_, fun hroom => ?_⟩
    · rw [if_pos (show 2 ^ r.logn ≤ ((s.takeReply port i).core (msgCore p.addr)).ringUsed r from hfull)] at hexec
      exact ⟨_, hexec, ⟨rfl, State.wires_answerSlice rfl ..⟩, rfl⟩
    · rw [if_neg (show ¬ 2 ^ r.logn ≤ ((s.takeReply port i).core (msgCore p.addr)).ringUsed r from Nat.not_le.2 hroom)] at hexec
      refine ⟨_, hexec, ⟨rfl, State.wires_answerSlice rfl ..⟩, fun k hk => (State.core_setCore ..).trans (if_neg hk), ?_⟩
      rw [State.core_answerSlice, State.core_setCore, if_pos rfl]
      exact ⟨List.length_set, Core.tail_appended .., fun hapart j hj => Core.entry_appended _ r hfit hj hapart⟩
  · refine ⟨_, exec_interfaceMsgd hp hty, ?_⟩
    rw [if_neg (by simp [htrim]), if_pos hopx]
    refine ⟨⟨rfl, State.wires_answerSlice rfl ..⟩, rfl, ?_⟩
    exact ⟨_, congrArg Cluster.adds ((State.cluster_setCluster ..).trans (if_pos rfl)), rfl, rfl⟩

end Sys2Proof.Machine
end

section
/-! SUPPORT. A copy at work: its blocks, the bytes that land, and its two ends (R149, R189, R194, R195, R202, R205, R208). -/

namespace Sys2Proof.Machine

/-! ## The swizzle (R195) -/

/-- An address by the three parts that the swizzle tells apart. -/
theorem swizzle_parts {z lo mid hi : Nat} (hlo : lo < 16) (hmid : mid < 2 ^ z) :
    swizzle z (lo + 16 * (mid + 2 ^ z * hi)) =
      if z = 0 then lo + 16 * (mid + 2 ^ z * hi) else lo + 16 * ((mid ^^^ hi % 2 ^ z) + 2 ^ z * hi) := by
  have hdiv : (lo + 16 * (mid + 2 ^ z * hi)) / 16 = mid + 2 ^ z * hi := by omega
  have hmod : (mid + 2 ^ z * hi) % 2 ^ z = mid := by rw [Nat.add_mul_mod_self_left, Nat.mod_eq_of_lt hmid]
  have htop : (mid + 2 ^ z * hi) / 2 ^ z = hi := by
    rw [Nat.add_mul_div_left _ _ (Nat.two_pow_pos z), Nat.div_eq_of_lt hmid, Nat.zero_add]
  have hbits : bitsOf 4 z (lo + 16 * (mid + 2 ^ z * hi)) = mid := by
    rw [bitsOf, Nat.shiftRight_eq_div_pow, show 2 ^ 4 = 16 from rfl, hdiv, hmod]
  unfold swizzle
  rw [hbits, ← Nat.div_div_eq_div_mul, hdiv, htop]
  split_ifs
  · rfl
  · dsimp only
    omega

/-- The swizzle is its own inverse. -/
theorem swizzle_swizzle (z a : Nat) : swizzle z (swizzle z a) = a := by
  have hparts : a = a % 16 + 16 * (a / 16 % 2 ^ z + 2 ^ z * (a / 16 / 2 ^ z)) := by
    rw [Nat.mod_add_div, Nat.mod_add_div]
  have hlo : a % 16 < 16 := Nat.mod_lt _ (by decide)
  have hmid : a / 16 % 2 ^ z < 2 ^ z := Nat.mod_lt _ (Nat.two_pow_pos z)
  have hhi : a / 16 / 2 ^ z % 2 ^ z < 2 ^ z := Nat.mod_lt _ (Nat.two_pow_pos z)
  conv_lhs => rw [hparts, swizzle_parts hlo hmid]
  split_ifs with hz
  · rw [swizzle_parts hlo hmid, if_pos hz, ← hparts]
  · rw [swizzle_parts hlo (Nat.xor_lt_two_pow hmid hhi), if_neg hz, Nat.xor_assoc, Nat.xor_self, Nat.xor_zero, ← hparts]

section Places
variable {e : CopyEntry} {c : Nat} {p q : Nat × Nat}

/-- A byte of a chunk of the core side: its address and its dense place. -/
theorem CopyEntry.mem_sideChunk : p ∈ e.sideChunk c ↔ p.1 = e.placed p.2 ∧ e.placed p.2 / 64 = c ∧ p.2 < e.total := by
  obtain ⟨x, d⟩ := p
  unfold CopyEntry.sideChunk CopyEntry.placed
  rw [List.mem_filterMap]
  constructor
  · rintro ⟨i, hi, h⟩
    have hi := List.mem_range.1 hi
    dsimp only at h
    split_ifs at h with hin
    obtain ⟨rfl, rfl⟩ := Prod.mk.inj (Option.some.inj h)
    have hback : swizzle e.shape.swz (e.b + (swizzle e.shape.swz (64 * c + i) - e.b)) = 64 * c + i := by
      rw [Nat.add_sub_cancel' hin.1, swizzle_swizzle]
    dsimp only
    rw [hback]
    omega
  · rintro ⟨hx, hc, hd⟩
    dsimp only at hx hc hd
    subst hx
    refine ⟨swizzle e.shape.swz (e.b + d) % 64, List.mem_range.2 (Nat.mod_lt _ (by decide)), ?_⟩
    have hat : 64 * c + swizzle e.shape.swz (e.b + d) % 64 = swizzle e.shape.swz (e.b + d) := by omega
    dsimp only
    rw [hat, swizzle_swizzle, if_pos (by omega), Nat.add_sub_cancel_left]

/-- Two elements of one chunk of the global side that have one dense place are one byte of it. -/
theorem CopyEntry.due_place_unique {chunk : Nat} (hp : p ∈ e.due chunk) (hq : q ∈ e.due chunk) (hpq : q.2 = p.2) : q.1 = p.1 := by
  have hform : ∀ x ∈ e.due chunk, ∃ row o, x.2 = row * e.shape.rowBytes + o ∧ o < e.shape.rowBytes ∧ x.1 < 64 ∧
      o = (chunk + x.1 + 2 ^ 57 - e.shape.rowBase row) % 2 ^ 57 := by
    intro x hx
    obtain ⟨row, -, hx⟩ := List.mem_flatMap.1 (List.mem_filter.1 hx).1
    obtain ⟨j, hj, hx⟩ := List.mem_filterMap.1 hx
    dsimp only at hx
    split_ifs at hx with ho
    obtain rfl := Option.some.inj hx
    exact ⟨row, _, rfl, ho, List.mem_range.1 hj, rfl⟩
  obtain ⟨row, o, hp2, ho, hp1, hoat⟩ := hform p hp
  obtain ⟨row', o', hq2, ho', hq1, hoat'⟩ := hform q hq
  have hdiv : ∀ r x w : Nat, x < w → (r * w + x) / w = r := fun r x w h => by
    rw [Nat.add_comm, Nat.add_mul_div_right _ _ (by omega), Nat.div_eq_of_lt h, Nat.zero_add]
  have hrow : row' = row := by rw [← hdiv row' o' _ ho', ← hdiv row o _ ho, ← hp2, ← hq2, hpq]
  subst hrow
  have hsame : o' = o := by omega
  have hbase : e.shape.rowBase row' < 2 ^ 57 := wrapTo_lt ..
  generalize e.shape.rowBase row' = base at *
  omega

end Places

/-! ## Tables without some of their entries, and tables filled from a list -/

section Tables
variable {α β : Type} {key : β → Nat} {val : β → α}

/-- An entry that a filter keeps is found as before. -/
theorem Map.get?_filter_of_some {j : Nat} {v : α} {keep : Nat × α → Bool} (hkeep : keep (j, v) = true) :
    ∀ {m : Map α}, Map.get? m j = some v → Map.get? (m.filter keep) j = some v
  | (i, w) :: m, h => by
    rw [Map.get?] at h
    split_ifs at h with hlt heq
    · obtain rfl := Option.some.inj h
      subst heq
      rw [List.filter_cons, hkeep, if_pos rfl, Map.get?, if_neg hlt, if_pos rfl]
    · rw [List.filter_cons]
      split_ifs
      · rw [Map.get?, if_neg hlt, if_neg heq]
        exact Map.get?_filter_of_some hkeep h
      · exact Map.get?_filter_of_some hkeep h

/-- A table filled from a list, at an index whose elements agree on their value. -/
theorem Map.get?_foldl_set_of_agree {l : List β} {j : Nat} {v : α} (hin : ∃ p ∈ l, key p = j) (hval : ∀ p ∈ l, key p = j → val p = v)
    (m : Map α) : Map.get? (l.foldl (fun m p => Map.set m (key p) (val p)) m) j = some v := by
  induction l generalizing m with
  | nil => simp at hin
  | cons q l ih =>
    rw [List.foldl_cons]
    by_cases hlater : ∃ r ∈ l, key r = j
    · exact ih hlater (fun p hp => hval p (List.mem_cons_of_mem _ hp)) _
    · have hno : ∀ r ∈ l, key r ≠ j := fun r hr hkey => hlater ⟨r, hr, hkey⟩
      obtain ⟨p, hp, hkey⟩ := hin
      obtain rfl : p = q := (List.mem_cons.1 hp).resolve_right fun h => hno p h hkey
      rw [Map.get?_foldl_set_other hno, ← hkey, Map.get?_set_self, hval p hp hkey]

end Tables

/-! ## Single bytes written into a core memory -/

section Bytes
variable {bs : List (Nat × Byte)} {a : Nat}

theorem Store.get_foldl_write_other (h : ∀ b ∈ bs, b.1 ≠ a) :
    ∀ st : Store, (bs.foldl (fun st b => st.write b.1 [b.2]) st).get a = st.get a := by
  induction bs with
  | nil => exact fun st => rfl
  | cons b bs ih =>
    intro st
    obtain ⟨hb, hbs⟩ := List.forall_mem_cons.1 h
    rw [List.foldl_cons, ih hbs, Store.get_write, if_neg (by simp; omega)]

theorem Store.get_foldl_write {v : Byte} (hin : ∃ b ∈ bs, b.1 = a) (hval : ∀ b ∈ bs, b.1 = a → b.2 = v) :
    ∀ st : Store, (bs.foldl (fun st b => st.write b.1 [b.2]) st).get a = v := by
  induction bs with
  | nil => simp at hin
  | cons b bs ih =>
    intro st
    rw [List.foldl_cons]
    by_cases hlater : ∃ x ∈ bs, x.1 = a
    · exact ih hlater (fun x hx => hval x (List.mem_cons_of_mem _ hx)) _
    · have hno : ∀ x ∈ bs, x.1 ≠ a := fun x hx hxa => hlater ⟨x, hx, hxa⟩
      obtain ⟨x, hx, rfl⟩ := hin
      obtain rfl : x = b := (List.mem_cons.1 hx).resolve_right fun h => hno x h rfl
      rw [Store.get_foldl_write_other hno, Store.get_write, if_pos (by simp), Nat.sub_self]
      exact hval x hx rfl

theorem Store.get_writeEach_other (h : ∀ b ∈ bs, b.1 ≠ a) (st : Store) : (st.writeEach bs).get a = st.get a :=
  Store.get_foldl_write_other h st

theorem Store.get_writeEach {v : Byte} (hin : ∃ b ∈ bs, b.1 = a) (hval : ∀ b ∈ bs, b.1 = a → b.2 = v) (st : Store) :
    (st.writeEach bs).get a = v := Store.get_foldl_write hin hval st

end Bytes

/-! ## The entry of a copy on its core -/

section Entry
variable {s : State} {k id : Nat}

theorem State.core_mapCopy (s : State) (k id : Nat) (f : CopyEntry → CopyEntry) (j : Nat) :
    (s.mapCopy k id f).core j = if j = k then (s.core k).mapCopy id f else s.core j := State.core_setCore ..

/-- The entry of a copy after a change of the entries of its number. -/
theorem Core.find_mapCopy (c : Core) (id : Nat) {f : CopyEntry → CopyEntry} (hf : ∀ x, (f x).id = x.id) :
    (c.mapCopy id f).copies.find? (fun x => x.id == id) = (c.copies.find? (fun x => x.id == id)).map f := by
  have hkeep : (fun x : CopyEntry => x.id == id) ∘ (fun x => if x.id == id then f x else x) = fun x => x.id == id := by
    funext x
    dsimp only [Function.comp]
    split_ifs
    · rw [hf]
    · rfl
  unfold Core.mapCopy
  rw [List.find?_map, hkeep]
  cases hfind : c.copies.find? (fun x => x.id == id) with
  | none => rfl
  | some e => exact congrArg some (if_pos (List.find?_some (p := fun x : CopyEntry => x.id == id) hfind))

/-- From `e` to `e'` a copy has got on with its blocks, and nothing else of its entry has changed. -/
def CopyEntry.progress (e e' : CopyEntry) : Prop :=
  ∃ flying chunks arrived moved, e' = { e with flying := flying, chunks := chunks, arrived := arrived, moved := moved }

theorem CopyEntry.progress.refl (e : CopyEntry) : e.progress e := ⟨_, _, _, _, rfl⟩

end Entry

/-! ## A chunk of the core side written (R149) -/

section Land
variable {s : State} {k id c : Nat} {e e' : CopyEntry}

/-- The byte of a core at a place of the core side of an inward copy. -/
def Core.landed (c : Core) (e : CopyEntry) (sb place : Nat) : Byte := if e.dir = 0 then c.spad.get (sb + place) else c.abuf.get place

theorem Core.foldl_sideRow (c : Core) (ks : List Nat) (fmt : Nat) (slot : Nat → Nat) (bytes : Nat → List (Nat × Byte)) (ns : List Nat) :
    ∃ side, ns.foldl (fun c n => c.sideRow ks fmt (slot n) n (bytes n)) c = { c with sideStore := side } := by
  induction ns generalizing c with
  | nil => exact ⟨_, rfl⟩
  | cons n ns ih =>
    obtain ⟨side, hside⟩ := ih (c.sideRow ks fmt (slot n) n (bytes n))
    exact ⟨side, hside⟩

/-- A chunk of the core side written changes SPAD or ABUF at its places, and the side store. -/
theorem Core.landChunk_eq (c : Core) (e : CopyEntry) (sb : Nat) (ks : List Nat) (bs : List (Nat × Nat × Byte)) :
    ∃ side, c.landChunk e sb ks bs = { c with
      spad := if e.dir = 0 then c.spad.writeEach (bs.map (fun b => (sb + b.1, b.2.2))) else c.spad
      abuf := if e.dir = 0 then c.abuf else c.abuf.writeEach (bs.map (fun b => (b.1, b.2.2)))
      sideStore := side } := by
  unfold Core.landChunk
  dsimp only
  split_ifs
  · exact Core.foldl_sideRow ..
  · exact Core.foldl_sideRow ..
  · exact ⟨_, rfl⟩
  · exact ⟨_, rfl⟩

/-- The bytes of a chunk of the core side that a copy still has to write, or has. -/
def CopyEntry.toLand (e : CopyEntry) (c : Nat) : List (Nat × Nat) :=
  (e.sideChunk c).filter (fun p => decide (e.base ≤ p.2) || (Map.get? e.arrived p.2).isSome)

/-- The K indices of the outliers that a chunk of a copy takes (R207). -/
def State.outliersOf (s : State) (k : Nat) (e : CopyEntry) : List Nat :=
  if e.ol then (outlierList (s.cluster (clusterOf k)) e.hnd).getD [] else []

/-- An entry once a chunk of the core side of `e` has been written. -/
def CopyEntry.sideDone (e : CopyEntry) (c : Nat) (x : CopyEntry) : CopyEntry :=
  { x with
    arrived := x.arrived.filter (fun a => !((e.toLand c).any (fun p => p.2 == a.1)))
    moved := x.moved + (e.toLand c).length }

theorem State.landSide_eq (hidle : s.portsIdle k) (hfind : (s.core k).copies.find? (fun x => x.id == id) = some e) :
    s.landSide k id c = if (e.toLand c).all (fun p => (Map.get? e.arrived p.2).isSome) then
      (s.setCore k ((s.core k).landChunk e (e.sbOn s k) (s.outliersOf k e)
        ((e.toLand c).map (fun p => (p.1, p.2, Map.getD e.arrived p.2 0))))).mapCopy k id (e.sideDone c)
    else s := by
  unfold State.landSide
  rw [hfind]
  dsimp only
  rw [State.usePort_of_idle hidle]
  rfl

/-- What the landing of a copy leaves alone, from `s` to `t`. -/
structure State.landing (s t : State) (k : Nat) (e : CopyEntry) : Prop where
  wv : t.wv = s.wv
  waves : t.waves = s.waves
  others : ∀ j, j ≠ k → t.core j = s.core j
  ops : (t.core k).ops = (s.core k).ops
  blocks : (t.core k).blocks = (s.core k).blocks
  spad : e.dir ≠ 0 → (t.core k).spad = (s.core k).spad
  abuf : e.dir = 0 → (t.core k).abuf = (s.core k).abuf

theorem State.landing.refl (s : State) (k : Nat) (e : CopyEntry) : s.landing s k e :=
  ⟨rfl, rfl, fun _ _ => rfl, rfl, rfl, fun _ => rfl, fun _ => rfl⟩

theorem State.landing.trans {t u : State} (h : s.landing t k e) (h' : t.landing u k e) : s.landing u k e where
  wv := h'.wv.trans h.wv
  waves := h'.waves.trans h.waves
  others := fun j hj => (h'.others j hj).trans (h.others j hj)
  ops := h'.ops.trans h.ops
  blocks := h'.blocks.trans h.blocks
  spad := fun hd => (h'.spad hd).trans (h.spad hd)
  abuf := fun hd => (h'.abuf hd).trans (h.abuf hd)

theorem State.landing.sbOn {t : State} (h : s.landing t k e) : e.sbOn t k = e.sbOn s k := by
  unfold CopyEntry.sbOn Core.blockNum
  rw [h.blocks]

theorem State.mapCopy_landing (s : State) (k id : Nat) (f : CopyEntry → CopyEntry) (e : CopyEntry) : s.landing (s.mapCopy k id f) k e := by
  have hcore : (s.mapCopy k id f).core k = (s.core k).mapCopy id f := (State.core_mapCopy ..).trans (if_pos rfl)
  exact ⟨rfl, rfl, fun j hj => (State.core_mapCopy ..).trans (if_neg hj), by rw [hcore]; rfl, by rw [hcore]; rfl,
    fun _ => by rw [hcore]; rfl, fun _ => by rw [hcore]; rfl⟩

theorem State.landChunk_landing (s : State) (k : Nat) (e : CopyEntry) (sb : Nat) (ks : List Nat) (bs : List (Nat × Nat × Byte)) :
    s.landing (s.setCore k ((s.core k).landChunk e sb ks bs)) k e := by
  obtain ⟨side, hside⟩ := (s.core k).landChunk_eq e sb ks bs
  have hcore := (State.core_setCore s k k ((s.core k).landChunk e sb ks bs)).trans (if_pos rfl)
  rw [hside] at hcore
  rw [hside]
  exact ⟨rfl, rfl, fun j hj => (State.core_setCore ..).trans (if_neg hj), by rw [hcore], by rw [hcore],
    fun hd => by rw [hcore]; exact if_neg hd, fun hd => by rw [hcore]; exact if_pos hd⟩

/-! ### The bytes at their places -/

section Landed
variable {sb place : Nat} {ks : List Nat} {bs : List (Nat × Nat × Byte)}

theorem Core.landed_landChunk_other (h : ∀ b ∈ bs, b.1 ≠ place) (c : Core) :
    (c.landChunk e sb ks bs).landed e sb place = c.landed e sb place := by
  obtain ⟨side, hside⟩ := c.landChunk_eq e sb ks bs
  rw [hside]
  unfold Core.landed
  dsimp only
  split_ifs <;> refine Store.get_writeEach_other (fun b hb => ?_) _ <;> obtain ⟨x, hx, rfl⟩ := List.mem_map.1 hb
  · exact fun heq => h x hx (Nat.add_left_cancel heq)
  · exact h x hx

theorem Core.landed_landChunk {v : Byte} (hin : ∃ b ∈ bs, b.1 = place) (hval : ∀ b ∈ bs, b.1 = place → b.2.2 = v) (c : Core) :
    (c.landChunk e sb ks bs).landed e sb place = v := by
  obtain ⟨side, hside⟩ := c.landChunk_eq e sb ks bs
  obtain ⟨y, hy, hplace⟩ := hin
  rw [hside]
  unfold Core.landed
  dsimp only
  split_ifs
  · refine Store.get_writeEach ⟨_, List.mem_map_of_mem hy, congrArg (sb + ·) hplace⟩ (fun b hb hba => ?_) _
    obtain ⟨x, hx, rfl⟩ := List.mem_map.1 hb
    exact hval x hx (Nat.add_left_cancel hba)
  · refine Store.get_writeEach ⟨_, List.mem_map_of_mem hy, hplace⟩ (fun b hb hba => ?_) _
    obtain ⟨x, hx, rfl⟩ := List.mem_map.1 hb
    exact hval x hx hba

theorem Core.landed_mapCopy (c : Core) (id : Nat) (f : CopyEntry → CopyEntry) :
    (c.mapCopy id f).landed e sb place = c.landed e sb place := rfl

end Landed

theorem CopyEntry.mem_toLand {p : Nat × Nat} :
    p ∈ e.toLand c ↔ p ∈ e.sideChunk c ∧ (e.base ≤ p.2 ∨ (Map.get? e.arrived p.2).isSome = true) := by
  simp [CopyEntry.toLand]

/-- A chunk of the core side whose bytes have all come. -/
def CopyEntry.whole (e : CopyEntry) (c : Nat) : Prop := ∀ q ∈ e.sideChunk c, e.base ≤ q.2 → (Map.get? e.arrived q.2).isSome = true

theorem CopyEntry.toLand_all (h : e.whole c) : (e.toLand c).all (fun p => (Map.get? e.arrived p.2).isSome) = true :=
  List.all_eq_true.2 fun p hp => (CopyEntry.mem_toLand.1 hp).2.elim (h p (CopyEntry.mem_toLand.1 hp).1) fun h => h

/-- A chunk of the core side that is whole lands: its bytes stand at their places. -/
theorem State.landed_landSide (hidle : s.portsIdle k) (hfind : (s.core k).copies.find? (fun x => x.id == id) = some e) (hwhole : e.whole c)
    {d : Nat} {v : Byte} (hc : e.placed d / 64 = c) (hd : d < e.total) (hv : Map.get? e.arrived d = some v) :
    ((s.landSide k id c).core k).landed e (e.sbOn s k) (e.placed d) = v := by
  rw [State.landSide_eq hidle hfind, if_pos (CopyEntry.toLand_all hwhole), State.core_mapCopy, if_pos rfl, Core.landed_mapCopy,
    State.core_setCore, if_pos rfl]
  have hmem : (e.placed d, d) ∈ e.toLand c :=
    CopyEntry.mem_toLand.2 ⟨CopyEntry.mem_sideChunk.2 ⟨rfl, hc, hd⟩, .inr (by rw [hv]; rfl)⟩
  refine Core.landed_landChunk ⟨_, List.mem_map_of_mem hmem, rfl⟩ (fun b hb hplace => ?_) _
  obtain ⟨p, hp, rfl⟩ := List.mem_map.1 hb
  have hp1 := (CopyEntry.mem_sideChunk.1 (CopyEntry.mem_toLand.1 hp).1).1
  have hsame : p.2 = d := by
    have hback := congrArg (swizzle e.shape.swz) (hp1.symm.trans hplace)
    unfold CopyEntry.placed at hback
    rw [swizzle_swizzle, swizzle_swizzle] at hback
    exact Nat.add_left_cancel hback
  show Map.getD e.arrived p.2 0 = v
  rw [hsame, Map.getD, hv]
  rfl

/-- What the landing of one chunk of the core side does to the others: bytes at other places stay, and bytes that have come for
them are kept. -/
theorem State.landSide_step (hidle : s.portsIdle k) (hfind : (s.core k).copies.find? (fun x => x.id == id) = some e) :
    s.landing (s.landSide k id c) k e ∧
      (∀ place, place / 64 ≠ c → ((s.landSide k id c).core k).landed e (e.sbOn s k) place = (s.core k).landed e (e.sbOn s k) place) ∧
      ∃ e', ((s.landSide k id c).core k).copies.find? (fun x => x.id == id) = some e' ∧ e.progress e' ∧
        ∀ d v, e.placed d / 64 ≠ c → Map.get? e.arrived d = some v → Map.get? e'.arrived d = some v := by
  rw [State.landSide_eq hidle hfind]
  split_ifs
  · refine ⟨(s.landChunk_landing ..).trans (State.mapCopy_landing ..), fun place hplace => ?_, ?_⟩
    · rw [State.core_mapCopy, if_pos rfl, Core.landed_mapCopy, State.core_setCore, if_pos rfl]
      refine Core.landed_landChunk_other (fun b hb heq => ?_) _
      obtain ⟨p, hp, rfl⟩ := List.mem_map.1 hb
      obtain ⟨hp1, hpc, -⟩ := CopyEntry.mem_sideChunk.1 (CopyEntry.mem_toLand.1 hp).1
      exact hplace (by rw [← heq]; exact (congrArg (· / 64) hp1).trans hpc)
    · rw [State.core_mapCopy, if_pos rfl, Core.find_mapCopy _ _ (f := e.sideDone c) fun _ => rfl, State.core_setCore, if_pos rfl]
      obtain ⟨side, hside⟩ := (s.core k).landChunk_eq e (e.sbOn s k) (s.outliersOf k e)
        ((e.toLand c).map (fun p => (p.1, p.2, Map.getD e.arrived p.2 0)))
      rw [hside]
      dsimp only
      rw [hfind]
      refine ⟨_, rfl, ⟨_, _, _, _, rfl⟩, fun d v hd hv => Map.get?_filter_of_some ?_ hv⟩
      rw [Bool.not_eq_true', List.any_eq_false]
      intro p hp heq
      obtain ⟨-, hpc, -⟩ := CopyEntry.mem_sideChunk.1 (CopyEntry.mem_toLand.1 hp).1
      exact hd ((congrArg (e.placed · / 64) (eq_of_beq heq)).symm.trans hpc)
  · exact ⟨.refl .., fun _ _ => rfl, e, hfind, .refl e, fun _ _ _ hv => hv⟩

theorem State.foldl_landSide_landing (cs : List Nat) : ∀ {s : State} {e : CopyEntry}, s.portsIdle k →
    (s.core k).copies.find? (fun x => x.id == id) = some e → s.landing (cs.foldl (fun t c => t.landSide k id c) s) k e := by
  induction cs with
  | nil => exact fun _ _ => .refl ..
  | cons c cs ih =>
    intro s e hidle hfind
    obtain ⟨hland, -, e', hfind', ⟨_, _, _, _, rfl⟩, -⟩ := State.landSide_step (c := c) hidle hfind
    have hrest := ih (hidle.of_ops hland.ops) hfind'
    exact hland.trans ⟨hrest.wv, hrest.waves, hrest.others, hrest.ops, hrest.blocks, hrest.spad, hrest.abuf⟩

theorem State.landed_foldl_landSide_other {place : Nat} (cs : List Nat) : ∀ {s : State} {e : CopyEntry}, s.portsIdle k →
    (s.core k).copies.find? (fun x => x.id == id) = some e → place / 64 ∉ cs →
    ((cs.foldl (fun t c => t.landSide k id c) s).core k).landed e (e.sbOn s k) place = (s.core k).landed e (e.sbOn s k) place := by
  induction cs with
  | nil => exact fun _ _ _ => rfl
  | cons c cs ih =>
    intro s e hidle hfind hno
    have hc := List.ne_of_not_mem_cons hno
    have hcs := List.not_mem_of_not_mem_cons hno
    obtain ⟨hland, hother, e', hfind', ⟨_, _, _, _, rfl⟩, -⟩ := State.landSide_step (c := c) hidle hfind
    have hrest := ih (hidle.of_ops hland.ops) hfind' hcs
    rw [← hother place hc, ← hland.sbOn]
    exact hrest

/-- A chunk of the core side that is whole when its turn comes stands at its places in the end. -/
theorem State.landed_foldl_landSide {d : Nat} {v : Byte} (cs : List Nat) : ∀ {s : State} {e : CopyEntry}, s.portsIdle k →
    (s.core k).copies.find? (fun x => x.id == id) = some e → cs.Nodup → e.placed d / 64 ∈ cs → e.whole (e.placed d / 64) → d < e.total →
    Map.get? e.arrived d = some v →
    ((cs.foldl (fun t c => t.landSide k id c) s).core k).landed e (e.sbOn s k) (e.placed d) = v := by
  induction cs with
  | nil => exact fun _ _ _ h => absurd h List.not_mem_nil
  | cons c cs ih =>
    intro s e hidle hfind hnodup hmem hwhole hd hv
    obtain ⟨hc, hcs⟩ := List.nodup_cons.1 hnodup
    obtain ⟨hland, -, e', hfind', ⟨_, _, _, _, rfl⟩, hkept⟩ := State.landSide_step (c := c) hidle hfind
    have hidle' := hidle.of_ops hland.ops
    rw [List.foldl_cons, ← hland.sbOn]
    by_cases hturn : e.placed d / 64 = c
    · have hhere := State.landed_landSide hidle hfind (hturn ▸ hwhole) hturn hd hv
      rw [← hland.sbOn] at hhere
      exact (State.landed_foldl_landSide_other cs hidle' hfind' (hturn ▸ hc)).trans hhere
    · have hrest := ih hidle' hfind' hcs ((List.mem_cons.1 hmem).resolve_left hturn) (fun q hq hbase => by
        obtain ⟨w, hw⟩ := Option.isSome_iff_exists.1 (hwhole q hq hbase)
        have hplace := (CopyEntry.mem_sideChunk.1 hq).2.1
        rw [hkept q.2 w (fun h => hturn (hplace.symm.trans h)) hw]
        rfl) hd (hkept d v hturn hv)
      exact hrest

/-! ### A chunk of the global side -/

theorem nodup_eraseDups (l : List Nat) : l.eraseDups.Nodup := by
  match l with
  | [] => exact List.nodup_nil
  | a :: l =>
    rw [List.eraseDups_cons, List.nodup_cons]
    refine ⟨fun h => ?_, nodup_eraseDups _⟩
    simpa using (List.mem_filter.1 (List.mem_eraseDups.1 h)).2
termination_by l.length
decreasing_by exact Nat.lt_succ_of_le (List.length_filter_le ..)

section Came
variable {chunk : Nat} {data : List Byte}

/-- An entry whose chunk of the global side has come with its bytes. -/
def CopyEntry.came (e : CopyEntry) (chunk : Nat) (data : List Byte) (x : CopyEntry) : CopyEntry :=
  { x with
    flying := x.flying.filter (fun a => a != chunk)
    chunks := x.chunks ++ [chunk]
    arrived := (e.due chunk).foldl (fun m p => Map.set m p.2 (data.getD p.1 0)) x.arrived }

theorem State.landRead_eq (hfind : (s.core k).copies.find? (fun x => x.id == id) = some e) :
    s.landRead k id chunk data = (e.sideChunks ((e.due chunk).map (fun p => p.2))).foldl (fun t c => t.landSide k id c)
      (s.mapCopy k id (e.came chunk data)) := by
  unfold State.landRead
  rw [hfind]
  rfl

theorem CopyEntry.arrived_came {p : Nat × Nat} (hp : p ∈ e.due chunk) :
    Map.get? (e.came chunk data e).arrived p.2 = some (data.getD p.1 0) :=
  Map.get?_foldl_set_of_agree ⟨p, hp, rfl⟩ (fun _ hq hqp => congrArg (data.getD · 0) (CopyEntry.due_place_unique hp hq hqp)) _

/-- A byte that had come, or comes with the chunk, has come. -/
theorem CopyEntry.isSome_arrived_came {d : Nat} (h : (Map.get? e.arrived d).isSome = true ∨ ∃ r ∈ e.due chunk, r.2 = d) :
    (Map.get? (e.came chunk data e).arrived d).isSome = true := by
  by_cases hdue : ∃ r ∈ e.due chunk, r.2 = d
  · obtain ⟨r, hr, rfl⟩ := hdue
    rw [CopyEntry.arrived_came hr]
    rfl
  · have hold : Map.get? (e.came chunk data e).arrived d = Map.get? e.arrived d :=
      Map.get?_foldl_set_other (fun r hr heq => hdue ⟨r, hr, heq⟩) _
    rw [hold]
    exact h.resolve_right hdue

variable (hidle : s.portsIdle k) (hfind : (s.core k).copies.find? (fun x => x.id == id) = some e)
include hidle hfind

theorem State.landRead_landing (chunk : Nat) (data : List Byte) : s.landing (s.landRead k id chunk data) k e := by
  have hmap := s.mapCopy_landing k id (e.came chunk data) e
  have hfind' : ((s.mapCopy k id (e.came chunk data)).core k).copies.find? (fun x => x.id == id) = some (e.came chunk data e) := by
    rw [State.core_mapCopy, if_pos rfl, Core.find_mapCopy _ _ (f := e.came chunk data) fun _ => rfl, hfind]
    rfl
  rw [State.landRead_eq hfind]
  have hsides := State.foldl_landSide_landing (e.sideChunks ((e.due chunk).map (fun p => p.2))) (hidle.of_ops hmap.ops) hfind'
  exact hmap.trans ⟨hsides.wv, hsides.waves, hsides.others, hsides.ops, hsides.blocks, hsides.spad, hsides.abuf⟩

/-- A byte of a chunk of the global side stands at its place, once every byte of its chunk of the core side has come. -/
theorem State.landed_landRead {p : Nat × Nat} (hp : p ∈ e.due chunk) (hd : p.2 < e.total)
    (hwhole : ∀ q ∈ e.sideChunk (e.placed p.2 / 64), e.base ≤ q.2 →
      (Map.get? e.arrived q.2).isSome = true ∨ ∃ r ∈ e.due chunk, r.2 = q.2) :
    ((s.landRead k id chunk data).core k).landed e (e.sbOn s k) (e.placed p.2) = data.getD p.1 0 := by
  have hmap := s.mapCopy_landing k id (e.came chunk data) e
  have hfind' : ((s.mapCopy k id (e.came chunk data)).core k).copies.find? (fun x => x.id == id) = some (e.came chunk data e) := by
    rw [State.core_mapCopy, if_pos rfl, Core.find_mapCopy _ _ (f := e.came chunk data) fun _ => rfl, hfind]
    rfl
  have hmem : e.placed p.2 / 64 ∈ e.sideChunks ((e.due chunk).map (fun p => p.2)) :=
    List.mem_eraseDups.2 (List.mem_map_of_mem (List.mem_map_of_mem hp))
  rw [State.landRead_eq hfind, ← hmap.sbOn]
  exact State.landed_foldl_landSide (e := e.came chunk data e) _ (hidle.of_ops hmap.ops) hfind' (nodup_eraseDups _) hmem
    (fun q hq hbase => CopyEntry.isSome_arrived_came (hwhole q hq hbase)) hd (CopyEntry.arrived_came hp)

end Came

end Land

end Sys2Proof.Machine
end

section
/-! SUPPORT. The blocks of a running copy and the two ends of a copy (R149, R189, R202, R205, R208). -/

namespace Sys2Proof.Machine

/-! ## A request of an engine (R97) -/

section Engine
variable {s s1 : State} {k : Nat} {ctx : Context} {va kind ts pa key mt h : Nat} {d : Dom} {out : Bool} {c : Client} {p : Nat → Nat → Packet}

/-- A request whose address is translated into package memory goes to its home, where the core's port has room. -/
theorem State.engineSend_of_found (hfind : s.engineFind k ctx va kind ts = (s1, .ok pa key mt)) (hpa : pa < 2 ^ 50)
    (hhome : s1.homeOf ctx.dom pa = some (d, h)) (hroom : (s1.port (portOf k)).hasRoom = true) :
    s.engineSend k ctx va kind ts out c p =
      (s1.portSend (portOf k) { p key pa with mt2 := mt == 2, slice := h } c, .sent) := by
  unfold State.engineSend
  rw [hfind]
  dsimp only
  unfold State.enginePost
  rw [if_pos (Nat.div_eq_of_lt hpa), hhome]
  dsimp only
  rw [if_pos hroom]

end Engine

/-! ## One block (R149, R205) -/

section Block
variable {s s1 : State} {k i at' : Nat} {e : CopyEntry}

/-- A copy that runs may begin a block. -/
structure State.copyRuns (s : State) (k i at' : Nat) (e : CopyEntry) : Prop where
  entry : (s.core k).copies[i]? = some e
  goes : e.stop = false
  running : (s.core k).running.any (fun x => x.id == e.id) = true
  low : at' < 2 ^ 57
  may : s.mayBegin e at' = true

theorem exec_copyChunk (h : s.copyRuns k i at' e) : exec (.copyChunk k i at') s = .next
    (if at' ∈ e.chunks ∨ at' ∈ e.flying then s else if e.multi then s.copyMulti k e at'
      else if e.outward then s.copyOut k e at' else s.copyIn k e at') := by
  obtain ⟨hentry, hgoes, hrunning, hlow, hmay⟩ := h
  show execCopyChunk k i at' s = _
  unfold execCopyChunk
  dsimp only
  rw [hentry]
  dsimp only
  rw [hgoes, hrunning, hmay, decide_eq_false (Nat.not_le.2 hlow)]
  simp only [Bool.not_true, Bool.or_false, Bool.false_or, Bool.or_eq_true, List.contains_iff_mem]

theorem State.copyIn_of_found (hat : at' % 64 = 0) (hdue : e.due at' ≠ []) {pa key mt h : Nat} {d : Dom}
    (hfind : s.engineFind k e.ctx at' 4 e.ts = (s1, .ok pa key mt)) (hpa : pa < 2 ^ 50)
    (hhome : s1.homeOf e.ctx.dom pa = some (d, h)) (hroom : (s1.port (portOf k)).hasRoom = true) :
    s.copyIn k e at' = (s1.portSend (portOf k) { chunkRead .rd e.ctx.dom key pa e.ts with mt2 := mt == 2, slice := h }
      (.chunk k e.id at')).mapCopy k e.id (fun x => { x with flying := x.flying ++ [at'] }) := by
  unfold State.copyIn
  rw [if_neg (by simp [hat, hdue]), State.engineSend_of_found hfind hpa hhome hroom]

/-- The request of a multicast chunk (R205). -/
def CopyEntry.multiPacket (e : CopyEntry) (k at' key pa mt h : Nat) : Packet :=
  { chunkRead .cprdm e.ctx.dom key pa e.ts with
    slice := h, mt2 := mt == 2
    ld := chunkTag (if e.ph then some e.c else none) e.ctx.asr (e.chunkVa at') at' k e.id
    data := leBytes 16 (cprdmPayload k e e.shape at') }

theorem State.copyMulti_of_found (hat : at' % 64 = 0) (htotal : at' < e.total) {pa key mt h : Nat} {d : Dom}
    (hfind : s.engineFind k e.ctx (e.chunkVa at') 4 e.ts = (s1, .ok pa key mt)) (hpa : pa < 2 ^ 50)
    (hhome : s1.homeOf e.ctx.dom pa = some (d, h)) :
    s.copyMulti k e at' = (s1.mapCopy k e.id (fun x => { x with
      flying := x.flying ++ [at'], far := if e.cmask1 = 0 then x.far else x.far ++ [at'] })).portQueue
      (256 * (k / 2048) + 2 * (k / 16 % 128)) (e.multiPacket k at' key pa mt h) (.chunk k e.id at') := by
  unfold State.copyMulti
  rw [if_neg (by omega)]
  dsimp only
  rw [hfind]
  dsimp only
  rw [if_neg (not_not.2 (Nat.div_eq_of_lt hpa)), hhome]
  rfl

/-- The bytes of an aligned block are all to be written. -/
theorem mem_of_lt_outBlock {js : List Nat} {j : Nat} : ∀ {m x : Nat}, x < outBlock js j m → j + x ∈ js
  | 0, x, h => by
    unfold outBlock at h
    split_ifs at h with hmem
    · omega
    · obtain rfl : x = 0 := by omega
      exact List.contains_iff_mem.1 hmem
    · omega
  | m + 1, x, h => by
    unfold outBlock at h
    dsimp only at h
    split_ifs at h with hfull
    · omega
    · exact List.contains_iff_mem.1 (List.all_eq_true.1 hfull.2 x (List.mem_range.2 h))
    · exact mem_of_lt_outBlock h

/-- The bytes that a copy keeps of a chunk of the core side that it reads. -/
def State.sideRead (s : State) (k : Nat) (e : CopyEntry) (dir i : Nat) : List Byte :=
  (if e.dir = 1 then (s.core k).spad else (s.core k).cbuf).read (64 * i + if dir = 1 then e.sbOn s k else 0) 64

/-- Chunks of the core side read once each: what is kept already stays. -/
theorem foldl_readSource (bytes : Nat → Nat → List Byte) (l : List Nat) : ∀ e : CopyEntry, ∃ source,
    l.foldl (fun e i => if (Map.get? e.source i).isSome then e else { e with source := Map.set e.source i (bytes e.dir i) }) e =
        { e with source := source } ∧
      (∀ i, (Map.get? e.source i).isSome = true → Map.get? source i = Map.get? e.source i) ∧
      ∀ i ∈ l, Map.get? source i = some ((Map.get? e.source i).getD (bytes e.dir i)) := by
  induction l with
  | nil => exact fun e => ⟨_, rfl, fun _ _ => rfl, fun _ h => absurd h List.not_mem_nil⟩
  | cons a l ih =>
    intro e
    rw [List.foldl_cons]
    by_cases hread : (Map.get? e.source a).isSome = true
    · rw [if_pos hread]
      obtain ⟨source, hfold, hkept, hnew⟩ := ih e
      refine ⟨source, hfold, hkept, fun i hi => ?_⟩
      rcases List.mem_cons.1 hi with rfl | hi
      · obtain ⟨v, hv⟩ := Option.isSome_iff_exists.1 hread
        rw [hkept _ hread, hv]
        rfl
      · exact hnew i hi
    · rw [if_neg hread]
      obtain ⟨source, hfold, hkept, hnew⟩ := ih { e with source := Map.set e.source a (bytes e.dir a) }
      dsimp only at hfold hkept hnew
      have hnone : Map.get? e.source a = none := Option.not_isSome_iff_eq_none.1 hread
      refine ⟨source, hfold, fun i hi => ?_, fun i hi => ?_⟩
      · have hia : i ≠ a := fun h => hread (h ▸ hi)
        have hsame : Map.get? (Map.set e.source a (bytes e.dir a)) i = Map.get? e.source i := by rw [Map.get?_set, if_neg hia]
        rw [hkept i (by rw [hsame]; exact hi), hsame]
      · by_cases hia : i = a
        · subst hia
          rw [hkept i (by rw [Map.get?_set_self]; rfl), Map.get?_set_self, hnone]
          rfl
        · rw [hnew i ((List.mem_cons.1 hi).resolve_left hia), Map.get?_set, if_neg hia]
          rfl

/-- The entry of a copy once the chunks that some dense places lie in have been read: each place gives its byte. -/
theorem State.readSource_spec (s : State) (k : Nat) (e : CopyEntry) (ks : List Nat) : ∃ source,
    s.readSource k e ks = { e with source := source } ∧
      ∀ d ∈ ks, (Map.getD source (e.placed d / 64) []).getD (e.placed d % 64) 0 = s.sideByte k e d := by
  obtain ⟨source, hfold, -, hnew⟩ := foldl_readSource (s.sideRead k e) (e.sideChunks ks) e
  refine ⟨source, hfold, fun d hd => ?_⟩
  rw [Map.getD, hnew _ (List.mem_eraseDups.2 (List.mem_map_of_mem hd)), Option.getD_some]
  unfold State.sideByte
  cases Map.get? e.source (e.placed d / 64) with
  | some l => rfl
  | none =>
    dsimp only [Option.getD_none]
    rw [State.sideRead, List.getD_eq_getElem?_getD, Store.getElem?_read, if_pos (Nat.mod_lt _ (by decide)), Option.getD_some]
    refine congrArg (Store.get _) ?_
    omega

theorem mem_rotate {α : Type} {x : α} (n : Nat) (l : List α) : x ∈ rotate n l ↔ x ∈ l := by
  unfold rotate
  rw [List.mem_append, Or.comm, ← List.mem_append, List.take_append_drop]

theorem State.foldl_usePort_of_idle (h : s.portsIdle k) (port user : Nat) (l : List Nat) :
    l.foldl (fun t _ => t.usePort k port user) s = s := by
  induction l with
  | nil => rfl
  | cons a l ih => rw [List.foldl_cons, State.usePort_of_idle h, ih]

/-- The byte that a block has at a place of its chunk, of the elements that name the place the first of a list. -/
def CopyEntry.blockByte (e : CopyEntry) (turned : List (Nat × Nat)) (place : Nat) : Byte :=
  match turned.find? (fun p => p.1 == place) with
  | some p => (Map.getD e.source (e.placed p.2 / 64) []).getD (e.placed p.2 % 64) 0
  | none => 0

theorem CopyEntry.blockByte_spec {turned : List (Nat × Nat)} {place : Nat} (h : ∃ p ∈ turned, p.1 = place) (e : CopyEntry) :
    ∃ p ∈ turned, p.1 = place ∧ e.blockByte turned place = (Map.getD e.source (e.placed p.2 / 64) []).getD (e.placed p.2 % 64) 0 := by
  obtain ⟨q, hq, hplace⟩ := h
  cases hfind : turned.find? (fun p => p.1 == place) with
  | none => exact absurd (beq_iff_eq.2 hplace) (List.find?_eq_none.1 hfind q hq)
  | some p =>
    refine ⟨p, List.mem_of_find?_eq_some hfind, eq_of_beq (List.find?_some (p := fun p : Nat × Nat => p.1 == place) hfind), ?_⟩
    rw [CopyEntry.blockByte, hfind]

/-- The elements of a block of `n` bytes of a chunk of the global side. -/
def CopyEntry.blockOf (e : CopyEntry) (at' n : Nat) : List (Nat × Nat) :=
  (e.due (at' / 64 * 64)).filter (fun q => decide (at' % 64 ≤ q.1) && decide (q.1 < at' % 64 + n))

/-- The request of a block of an outward copy. -/
def State.outPacket (s : State) (k : Nat) (e : CopyEntry) (at' n key pa mt h : Nat) : Packet :=
  { chunkRead .wr e.ctx.dom key pa e.ts with
    slice := h, mt2 := mt == 2, len := n
    data := (List.range n).map (fun i => (s.readSource k e ((e.blockOf at' n).map (fun q => q.2))).blockByte
      (rotate (s.pick (e.blockOf at' n).length) (e.blockOf at' n)) (at' % 64 + i)) }

/-- A block of a copy into memory whose core side is read without poison goes to its home. -/
theorem State.copyOut_of_found {n : Nat} (hn : outBlock ((e.due (at' / 64 * 64)).map (fun q => q.1)) (at' % 64) 6 = n)
    (hnonzero : n ≠ 0) (hidle : s.portsIdle k) (hpoison : s.sourcePoisoned k e ((e.blockOf at' n).map (fun q => q.2)) = false)
    {pa key mt h : Nat} {d : Dom}
    (hfind : (s.mapCopy k e.id (fun _ => s.readSource k e ((e.blockOf at' n).map (fun q => q.2)))).drawn.engineFind k e.ctx at' 5 e.ts =
      (s1, .ok pa key mt)) (hpa : pa < 2 ^ 50)
    (hhome : s1.homeOf e.ctx.dom pa = some (d, h)) (hroom : (s1.port (portOf k)).hasRoom = true) :
    s.copyOut k e at' = (s1.portSend (portOf k) (s.outPacket k e at' n key pa mt h) (.chunk k e.id at')).mapCopy k e.id
        (fun x => { x with flying := x.flying ++ [at'] }) := by
  unfold State.copyOut
  dsimp only
  rw [hn, if_neg hnonzero, State.foldl_usePort_of_idle hidle, if_neg hnonzero]
  rw [show (e.due (at' / 64 * 64)).filter _ = e.blockOf at' n from rfl, if_neg (by rw [hpoison]; decide),
    State.engineSend_of_found hfind hpa hhome hroom]
  unfold State.outPacket CopyEntry.blockByte
  generalize rotate (s.pick (e.blockOf at' n).length) (e.blockOf at' n) = turned
  generalize s.readSource k e ((e.blockOf at' n).map (fun q => q.2)) = e1
  rfl

theorem State.data_outPacket_eq (s : State) (k : Nat) (e : CopyEntry) (at' n key pa mt h : Nat) :
    (s.outPacket k e at' n key pa mt h).data =
      (List.range n).map (fun i => (s.readSource k e ((e.blockOf at' n).map (fun q => q.2))).blockByte
        (rotate (s.pick (e.blockOf at' n).length) (e.blockOf at' n)) (at' % 64 + i)) := rfl

/-- Each byte of a block is one that its copy keeps or reads for an element of the block's place. -/
theorem State.data_outPacket {n j : Nat} (hn : outBlock ((e.due (at' / 64 * 64)).map (fun q => q.1)) (at' % 64) 6 = n) (hj : j < n)
    (key pa mt h : Nat) : ∃ q ∈ e.due (at' / 64 * 64), q.1 = at' % 64 + j ∧
      (s.outPacket k e at' n key pa mt h).data.getD j 0 = s.sideByte k e q.2 := by
  obtain ⟨source, hsource, hbyte⟩ := s.readSource_spec k e ((e.blockOf at' n).map (fun q => q.2))
  have hj' : j < outBlock ((e.due (at' / 64 * 64)).map (fun q => q.1)) (at' % 64) 6 := lt_of_lt_of_eq hj hn.symm
  obtain ⟨q, hq, hplace⟩ := List.mem_map.1 (mem_of_lt_outBlock hj')
  have hmine : q ∈ e.blockOf at' n := List.mem_filter.2 ⟨hq, by
    rw [hplace, decide_eq_true (Nat.le_add_right ..), decide_eq_true (Nat.add_lt_add_left hj _)]
    rfl⟩
  obtain ⟨p, hp, hp1, hbyte'⟩ := CopyEntry.blockByte_spec
    ⟨q, (mem_rotate (s.pick (e.blockOf at' n).length) _).2 hmine, hplace⟩ { e with source := source }
  have hp := (mem_rotate _ _).1 hp
  refine ⟨p, (List.mem_filter.1 hp).1, hp1, ?_⟩
  rw [State.data_outPacket_eq, hsource, List.getD_eq_getElem?_getD, List.getElem?_map, List.getElem?_range hj, Option.map_some,
    Option.getD_some, hbyte']
  exact hbyte p.2 (List.mem_map_of_mem hp)

end Block

/-! ## The ends of a copy (R202, R208) -/

/-- Releases that waited leave the rest of the machine, each core's tags and its copies alone, from `s` to `t`. -/
structure State.releasing (s t : State) : Prop where
  ms : t.ms = s.ms
  fe : t.fe = s.fe
  net : t.net = s.net
  cur : t.cur = s.cur
  wv : t.wv = s.wv
  waves : t.waves = s.waves
  tags : ∀ k, (t.core k).tags = (s.core k).tags
  copies : ∀ k, (t.core k).copies = (s.core k).copies

section Ends
variable {s t u : State} {k i : Nat} {e : CopyEntry}

theorem State.releasing.refl (s : State) : s.releasing s := ⟨rfl, rfl, rfl, rfl, rfl, rfl, fun _ => rfl, fun _ => rfl⟩

theorem State.releasing.trans (h : s.releasing t) (h' : t.releasing u) : s.releasing u where
  ms := h'.ms.trans h.ms
  fe := h'.fe.trans h.fe
  net := h'.net.trans h.net
  cur := h'.cur.trans h.cur
  wv := h'.wv.trans h.wv
  waves := h'.waves.trans h.waves
  tags := fun k => (h'.tags k).trans (h.tags k)
  copies := fun k => (h'.copies k).trans (h.copies k)

theorem State.releasing_foldl {α : Type} {f : State → α → State} (hf : ∀ (t : State) a, t.releasing (f t a)) (l : List α) :
    ∀ s : State, s.releasing (l.foldl f s) := by
  induction l with
  | nil => exact .refl
  | cons a l ih => exact fun s => (hf s a).trans (ih _)

theorem State.releasing_setCore {c : Core} (htags : c.tags = (s.core k).tags) (hcopies : c.copies = (s.core k).copies) :
    s.releasing (s.setCore k c).drawn := by
  refine ⟨rfl, rfl, rfl, rfl, rfl, rfl, fun j => ?_, fun j => ?_⟩ <;>
    refine (congrArg _ (State.core_setCore s k j c)).trans ?_ <;> split_ifs with hj <;> simp [hj, htags, hcopies]

theorem Core.dropSlot_foldl (draw : Nat) (l : List Nat) : ∀ c : Core, (l.foldl (fun c i => c.dropSlot draw i) c).tags = c.tags ∧
    (l.foldl (fun c i => c.dropSlot draw i) c).copies = c.copies := by
  induction l with
  | nil => exact fun c => ⟨rfl, rfl⟩
  | cons i l ih => exact fun c => ih (c.dropSlot draw i)

theorem State.releasing_freeSlots (s : State) (k : Nat) (b : Block) : s.releasing (s.freeSlots k b) := by
  unfold State.freeSlots
  dsimp only
  split_ifs
  · exact .refl s
  · exact State.releasing_setCore (Core.dropSlot_foldl ..).1 (Core.dropSlot_foldl ..).2

theorem State.releasing_freeKept (s : State) (k : Nat) : s.releasing (s.freeKept k) := by
  unfold State.freeKept
  dsimp only
  split_ifs
  · exact .refl s
  · exact State.releasing_setCore (Core.dropSlot_foldl ..).1 (Core.dropSlot_foldl ..).2

theorem State.releasing_settleFrees (s : State) : s.releasing s.settleFrees := by
  refine State.releasing_foldl (fun t c => ?_) _ s
  have hblocks : t.releasing (c.2.blocks.foldl (fun t b => if b.freeing = 0 then t else t.freeSlots c.1 b) t) :=
    State.releasing_foldl (fun t b => by
      split_ifs
      · exact .refl t
      · exact t.releasing_freeSlots ..) _ t
  dsimp only
  split_ifs
  · exact hblocks
  · exact hblocks.trans (State.releasing_freeKept ..)

/-- What a copy leaves as it ends with a tag, from `s` to `t`, before its phaser gets its bytes. -/
structure State.copyEnds (s t : State) (k : Nat) (e : CopyEntry) (tag : Tag) : Prop where
  ms : t.ms = s.ms
  fe : t.fe = s.fe
  net : t.net = s.net
  tag : Map.getD (t.core k).tags e.tag .free = tag
  tags : ∀ j, j ≠ e.tag → Map.getD (t.core k).tags j .free = Map.getD (s.core k).tags j .free
  copies : (t.core k).copies = (s.core k).copies.filter (fun x => x.id != e.id)
  wave : t.wave ⟨k, e.slot⟩ = { (s.wave ⟨k, e.slot⟩).countDown .cp with
    copyTs := max (s.wave ⟨k, e.slot⟩).copyTs (e.wts.getD 0) }

theorem State.releasing.wave (h : s.releasing t) (id : WaveId) : t.wave id = s.wave id := by
  unfold State.wave
  rw [h.cur, h.wv, h.waves]

/-- A core from which a copy has gone, its tag set. -/
def Core.copyGone (c : Core) (e : CopyEntry) (tag : Tag) : Core :=
  { c with copies := c.copies.filter (fun x => x.id != e.id), tags := Map.set c.tags e.tag tag }

/-- A wave of which a copy has ended. -/
def Wave.copyEnded (w : Wave) (e : CopyEntry) : Wave := { w.countDown .cp with copyTs := max w.copyTs (e.wts.getD 0) }

/-- The end of a copy: the entry goes with its tag set, and then with .PH the phaser gets its bytes. -/
theorem State.endCopy_spec (s : State) (k : Nat) (e : CopyEntry) (tag : Tag) (bytes : Option Nat) :
    ∃ u, s.copyEnds u k e tag ∧ s.endCopy k e tag bytes =
      bytes.elim u (fun n => u.applyAdd (clusterOf k) ⟨e.c, n, e.wts, k, e.ctx.dom⟩) := by
  have hfree := State.releasing_settleFrees ((s.setCore k ((s.core k).copyGone e tag)).setWave ⟨k, e.slot⟩
    ((s.wave ⟨k, e.slot⟩).copyEnded e))
  have hcore : ((s.setCore k ((s.core k).copyGone e tag)).setWave ⟨k, e.slot⟩ ((s.wave ⟨k, e.slot⟩).copyEnded e)).core k =
      (s.core k).copyGone e tag := by
    unfold State.core
    rw [State.setWave_cores]
    exact Map.getD_set_self ..
  refine ⟨_, ⟨hfree.ms.trans (State.setWave_ms ..), hfree.fe.trans (State.setWave_fe ..), hfree.net.trans (State.setWave_net ..),
    ?_, fun j hj => ?_, ?_, (hfree.wave _).trans (State.wave_setWave_self ..)⟩, ?_⟩
  · rw [hfree.tags, hcore]
    exact Map.getD_set_self ..
  · rw [hfree.tags, hcore]
    exact (Map.getD_set ..).trans (if_neg hj)
  · rw [hfree.copies, hcore]
    rfl
  · cases bytes <;> rfl

theorem exec_copyComplete (hentry : (s.core k).copies[i]? = some e) (hbound : e.bound.isSome = true) (herr : e.err = none)
    (hmoved : e.moved = e.total) (hflying : e.flying = []) : exec (.copyComplete k i) s = .next
      (s.endCopy k e (.done (e.wts.getD 0)) (if e.ph && !e.multi then some e.total else none)) := by
  show execCopyComplete k i s = _
  unfold execCopyComplete
  rw [hentry]
  dsimp only
  rw [if_pos (by simp [hbound, herr, hmoved, hflying])]

theorem exec_copyStop {c l : Nat} (hentry : (s.core k).copies[i]? = some e) (herr : e.err = some (c, l)) (hflying : e.flying = [])
    (hfar : e.far = []) (hreading : e.reading = false) : exec (.copyStop k i) s = .next
      (s.endCopy k e (.error c l) (if e.ph && e.bound.isSome then some (e.count k - e.added) else none)) := by
  show execCopyStop k i s = _
  unfold execCopyStop
  rw [hentry]
  dsimp only
  rw [herr]
  dsimp only
  rw [if_pos (by simp [hflying, hfar, hreading])]

end Ends

/-- Settles O31: block by block, then the bytes that land, then the two ends. -/
theorem copiesRunAndEnd : Obligations.CopiesRunAndEnd := by
  unfold Obligations.CopiesRunAndEnd
  refine ⟨fun s k i at' e hentry hgoes hrunning hlow hmay => ?_, fun s k id chunk data e hfind _ _ hidle => ?_,
    fun s k i e hentry hflying => ⟨fun hbound herr hmoved => ?_, fun c l herr hfar hreading => ?_⟩⟩
  · have hexec := exec_copyChunk ⟨hentry, hgoes, hrunning, hlow, hmay⟩
    refine ⟨fun hseen => hexec.trans (congrArg _ (if_pos hseen)), fun hchunks hflies => ?_⟩
    rw [if_neg (not_or.2 ⟨hchunks, hflies⟩)] at hexec
    refine ⟨fun hmulti hout hat hdue s1 pa key mt d h hf hpa hhome hroom => ?_,
      fun hmulti hout => fun hn hidle hpoison s1 pa key mt d h hf hpa hhome hroom => ?_,
      fun hmulti hat htotal s1 pa key mt d h hf hpa hhome => ?_⟩
    · rw [hmulti, hout, State.copyIn_of_found hat hdue hf hpa hhome hroom] at hexec
      exact ⟨_, rfl, rfl, rfl, rfl, rfl, rfl, rfl, hexec⟩
    · rw [hmulti, hout, State.copyOut_of_found rfl hn hidle hpoison hf hpa hhome hroom] at hexec
      exact ⟨_, rfl, rfl, rfl, rfl, rfl, rfl, rfl, by rw [State.data_outPacket_eq, List.length_map, List.length_range],
        fun j hj => State.data_outPacket rfl hj .., hexec⟩
    · rw [hmulti, State.copyMulti_of_found hat htotal hf hpa hhome] at hexec
      exact ⟨_, rfl, rfl, rfl, rfl, rfl, rfl, hexec⟩
  · have hland := State.landRead_landing hidle hfind chunk data
    refine ⟨State.landRead_ms .., hland.wv, hland.waves, hland.others, hland.spad, hland.abuf, fun p hp hwhole hd => ?_⟩
    exact State.landed_landRead hidle hfind hp hd hwhole
  · obtain ⟨u, hends, hend⟩ := s.endCopy_spec k e (.done (e.wts.getD 0)) (if e.ph && !e.multi then some e.total else none)
    refine ⟨u, ⟨hends.ms, hends.fe, hends.net, hends.tag, hends.tags, hends.copies, ?_⟩, ?_⟩
    · rw [hends.wave]
      exact ⟨rfl, rfl, rfl, rfl⟩
    · rw [exec_copyComplete hentry hbound herr hmoved hflying, hend]
      split_ifs <;> rfl
  · obtain ⟨u, hends, hend⟩ := s.endCopy_spec k e (.error c l) (if e.ph && e.bound.isSome then some (e.count k - e.added) else none)
    refine ⟨u, ⟨hends.ms, hends.fe, hends.net, hends.tag, hends.tags, hends.copies, ?_⟩, ?_⟩
    · rw [hends.wave]
      exact ⟨rfl, rfl, rfl, rfl⟩
    · rw [exec_copyStop hentry herr hflying hfar hreading, hend]
      split_ifs <;> rfl

end Sys2Proof.Machine
end

section
/-! SUPPORT. RESIDENCY packets and the MGMT packets on records (R306, R316, R383, R394, R397, R398). -/

namespace Sys2Proof.Machine

/-! ## A packet that ends -/

section Held
variable {s u t : State} {n i : Nat} {b : List Byte}

theorem State.stillHeld.same (h : s.stillHeld u n i) (hqueues : t.fe.queues = u.fe.queues) (hchanges : t.fe.changes = u.fe.changes)
    (hlanes : t.fe.lanes = u.fe.lanes) (hwaves : t.waves = u.waves) (hwv : t.wv = u.wv) : s.stillHeld t n i := by
  obtain ⟨⟨hqueue, hchange⟩, hwave, hw, hholder⟩ := h
  refine ⟨⟨fun j => ?_, hchanges.trans hchange⟩, hwaves.trans hwave, hwv.trans hw, ?_⟩
  · rw [← hqueue, State.queue, hqueues, State.queue]
  · rw [← hholder, State.holder, hlanes, State.holder]

/-- A MGMT packet completed. -/
theorem State.stillHeld.mgmtDone (h : s.stillHeld u n i) (b : List Byte) :
    s.tookPacket (u.mgmtDone n b) i (plainChange n) ∧ u.ends (u.mgmtDone n b) ∧ (pktEvt b = false → (u.mgmtDone n b).ms = u.ms) := by
  obtain ⟨hstand, hwaves, hwv, hholder⟩ := h
  obtain ⟨htook, hends⟩ := State.mgmtDone_took hholder b
  refine ⟨⟨htook.of_stand hstand, ?_, ?_⟩, hends, fun hevt => ?_⟩
  · rw [hends]
    exact hwaves
  · rw [hends]
    exact hwv
  · have hnoted : u.mgmtNoted n b = u := if_neg (ne_true_of_eq_false hevt)
    rw [State.mgmtDone, hnoted]
    exact (State.retired_took hholder).2.1

/-- A packet of a lane that still holds its queue retires with what its change brings. -/
theorem State.stillHeld.retirePacket {c : QueueChange} (h : s.stillHeld u c.queue i) (hbell : c.bell = none) (hnote : c.note = none)
    (herr : c.err = none) : s.tookPacket (u.retirePacket c) i c := by
  obtain ⟨hstand, hwaves, hwv, hholder⟩ := h
  obtain ⟨htook, -, hends⟩ := State.retirePacket_took hholder hbell hnote herr
  refine ⟨htook.of_stand hstand, ?_, ?_⟩ <;> rw [hends]
  · exact hwaves
  · exact hwv

/-- A change with an error for which the owner, where it is asked, can post the event. -/
theorem State.madeChange_erred {c : QueueChange} (hholder : s.holder c.queue = some i) (hbell : c.bell = none) (hnote : c.note = none)
    (hfields : c.fields = none) {code : Nat} (herr : c.err = some code) (hroom : i / 32 % 2 = c.queue % 2 → s.canPost c.queue) :
    s.tookRecord (s.madeChange c) i c ∧ (s.madeChange c).ms = s.erredMem c.queue i code := by
  unfold State.tookRecord State.madeChange State.erredMem
  rw [State.laneDie_of_holder hholder]
  split_ifs with hdie
  · have hdom : ((s.queue c.queue).changed c).dom = (s.queue c.queue).dom := by simp [QueueRec.changed, hfields]
    have hposts := s.posts_putEvent (s.queue c.queue).dom (eventRecord s.netNow code c.queue 2)
    have hpost : s.queueError c.queue code ((s.queue c.queue).changed c) =
        (s.putEvent (s.queue c.queue).dom (eventRecord s.netNow code c.queue 2), (s.queue c.queue).changed c) := by
      unfold State.queueError
      dsimp only
      rw [hdom]
      exact if_pos (hroom hdie)
    simp only [State.applyChange, hbell, hnote, herr, QueueRec.taking_eq_changed, hpost]
    refine ⟨⟨fun j hj => ?_, ?_, rfl⟩, rfl⟩
    · rw [State.queue_setQueue, if_neg hj, hposts.queue]
    · rw [State.queue_setQueue, if_pos rfl, QueueRec.changed_ver]
  · exact ⟨⟨fun _ _ => rfl, rfl, rfl⟩, rfl⟩

theorem State.retiredWith_erred (hholder : s.holder n = some i) {code : Nat} (hroom : i / 32 % 2 = n % 2 → s.canPost n) :
    s.tookRecord (s.retiredWith n code) i { plainChange n with err := some code } ∧ (s.retiredWith n code).ms = s.erredMem n i code := by
  have htidy := s.tidies_retirePacket { plainChange n with err := some code }
  obtain ⟨htook, hms⟩ := State.madeChange_erred (c := { plainChange n with err := some code }) hholder rfl rfl rfl rfl hroom
  exact ⟨htook.of_tidies htidy, htidy.ms.trans hms⟩

theorem State.nextPacket.denied {row : Instr} (h : s.nextPacket n i b row) (hroom : i / 32 % 2 = n % 2 → s.canPost n) :
    s.tookPacket (s.packetTaken.retiredWith n 0x08) i { plainChange n with err := some 0x08 } ∧
      (s.packetTaken.retiredWith n 0x08).clusters = s.clusters ∧ (s.packetTaken.retiredWith n 0x08).ms = s.erredMem n i 0x08 := by
  have hholder : s.packetTaken.holder n = some i := h.holder
  obtain ⟨htook, hms⟩ := State.retiredWith_erred hholder (code := 0x08) hroom
  obtain ⟨-, hends⟩ := State.retiredWith_popped hholder 0x08
  refine ⟨⟨htook.of_stand s.tidies_packetTaken.recordsStand, ?_, ?_⟩, ?_, hms⟩ <;> rw [hends] <;> rfl

end Held

/-! ## RESIDENCY (R397) -/

section Quota
variable {s : State} {n i : Nat} {b : List Byte}

theorem exec_setquota (h : s.nextPacket n i b (.setquota n)) : exec (.setquota n) s = .next
    (if s.ownCluster n (pktField b 26 2) = false ∨ (s.queueAt (i / 32) n).priv = false then s.packetTaken.retiredWith n 0x08
      else (s.packetTaken.setCluster (pktField b 26 2) { s.cluster (pktField b 26 2) with
        quota := Map.set (s.cluster (pktField b 26 2)).quota (s.queueAt (i / 32) n).dom (pktField b 28 2) }).retired n) := by
  have hlane : s.packetTaken.laneQueue n = s.queueAt (i / 32) n := h.laneQueue
  show execSetquota n s = _
  rw [execSetquota, h.withPacket]
  unfold State.privileged
  dsimp only
  rw [hlane, show s.packetTaken.ownCluster n (pktField b 26 2) = s.ownCluster n (pktField b 26 2) from rfl]
  cases s.ownCluster n (pktField b 26 2) <;> cases (s.queueAt (i / 32) n).priv <;> rfl

theorem setquota_done (h : s.nextPacket n i b (.setquota n)) (hown : s.ownCluster n (pktField b 26 2) = true)
    (hpriv : (s.queueAt (i / 32) n).priv = true) :
    completes (.setquota n) s (fun t => s.tookPacket t i (plainChange n) ∧
      Map.getD (t.cluster (pktField b 26 2)).quota (s.queueAt (i / 32) n).dom 512 = pktField b 28 2 ∧
      (∀ d, d ≠ (s.queueAt (i / 32) n).dom →
        Map.getD (t.cluster (pktField b 26 2)).quota d 512 = Map.getD (s.cluster (pktField b 26 2)).quota d 512) ∧
      ∀ j, j ≠ pktField b 26 2 → t.cluster j = s.cluster j) := by
  have hexec := exec_setquota h
  rw [if_neg (by simp [hown, hpriv])] at hexec
  generalize pktField b 26 2 = k at hexec
  have hheld : s.stillHeld (s.packetTaken.setCluster k { s.cluster k with
      quota := Map.set (s.cluster k).quota (s.queueAt (i / 32) n).dom (pktField b 28 2) }) n i := h.stillHeld.same rfl rfl rfl rfl rfl
  have hends := (State.retired_took hheld.2.2.2).2.2
  have hcluster : ∀ j, ((s.packetTaken.setCluster k { s.cluster k with
      quota := Map.set (s.cluster k).quota (s.queueAt (i / 32) n).dom (pktField b 28 2) }).retired n).cluster j =
      if j = k then { s.cluster k with quota := Map.set (s.cluster k).quota (s.queueAt (i / 32) n).dom (pktField b 28 2) }
      else s.cluster j := fun j => by
    rw [hends]
    exact State.cluster_setCluster ..
  refine ⟨_, hexec, hheld.retired.1, ?_, fun d hd => ?_, fun j hj => (hcluster j).trans (if_neg hj)⟩
  · rw [hcluster, if_pos rfl]
    exact Map.getD_set_self ..
  · rw [hcluster, if_pos rfl]
    exact (Map.getD_set ..).trans (if_neg hd)

theorem setquota_denied (h : s.nextPacket n i b (.setquota n))
    (hbad : s.ownCluster n (pktField b 26 2) = false ∨ (s.queueAt (i / 32) n).priv = false) (hroom : i / 32 % 2 = n % 2 → s.canPost n) :
    completes (.setquota n) s (fun t => s.tookPacket t i { plainChange n with err := some 0x08 } ∧ t.clusters = s.clusters ∧
      t.ms = s.erredMem n i 0x08) := by
  have hexec := exec_setquota h
  rw [if_pos hbad] at hexec
  exact ⟨_, hexec, h.denied hroom⟩

/-! ### REVOKEALL -/

/-- From `s` to `t` residencies of cluster `k` may have been released with their planes: the tile operations in hand stand. -/
structure State.unloads (s t : State) : Prop where
  rest : t = { s with cores := t.cores, clusters := t.clusters }
  tiles : ∀ c, (t.core c).tiles = (s.core c).tiles

theorem State.unloads.trans {t u : State} (h : s.unloads t) (h' : t.unloads u) : s.unloads u where
  rest := by
    rw [h'.rest, h.rest]
  tiles := fun c => (h'.tiles c).trans (h.tiles c)

theorem State.unloads.loopUses {t : State} (h : s.unloads t) (k j : Nat) : t.loopUses k j = s.loopUses k j := by
  unfold State.loopUses
  simp only [h.tiles]

theorem Core.zeroPlanes_tiles (ps : List Nat) : ∀ c : Core, (c.zeroPlanes ps).tiles = c.tiles := by
  unfold Core.zeroPlanes
  induction ps with
  | nil => exact fun _ => rfl
  | cons p ps ih => exact fun c => ih _

theorem State.unloads_mapResidency (s : State) (k j : Nat) (f : Residency → Residency) : s.unloads (s.mapResidency k j f) :=
  ⟨rfl, fun _ => rfl⟩

theorem State.unloads_freeOn (k j : Nat) (f : Nat → List Nat) (l : List Nat) : ∀ s : State,
    s.unloads (l.foldl (fun t n => t.freeOn k j n (f n)) s) := by
  induction l with
  | nil => exact fun _ => ⟨rfl, fun _ => rfl⟩
  | cons n l ih =>
    refine fun s => State.unloads.trans ⟨rfl, fun c => ?_⟩ (ih _)
    refine (congrArg Core.tiles (State.core_setCore ..)).trans ?_
    split_ifs with hc
    · rw [hc]
      exact Core.zeroPlanes_tiles ..
    · rfl

theorem State.unloads_revokeEntry (s : State) (k j : Nat) : s.unloads (s.revokeEntry k j) := by
  unfold State.revokeEntry
  split_ifs
  · exact ⟨rfl, fun _ => rfl⟩
  · rw [State.freePlanes_eq]
    exact ((State.unloads_freeOn ..).trans (State.unloads_mapResidency ..)).trans (State.unloads_mapResidency ..)

/-- One residency in REVOKEALL: released, but for one that loads and one that an MLOOP uses (R316, R397). -/
theorem State.residency_revokeEntry (s : State) (k i j : Nat) : ((s.revokeEntry k i).cluster k).residency j =
    if j = i ∧ ((s.cluster k).residency i).st ≠ .loading ∧ s.loopUses k i = false then ((s.cluster k).residency i).released
    else (s.cluster k).residency j := by
  have hcluster : (((((s.cluster k).residency i).cores k).foldl (fun t n =>
      t.freeOn k i n (((s.cluster k).residency i).planesOn n)) s).cluster k) = s.cluster k := by
    rw [State.cluster, State.clusters_freeOn, State.cluster]
  unfold State.revokeEntry
  by_cases hmay : ((s.cluster k).residency i).st ≠ .loading ∧ s.loopUses k i = false
  · rw [if_neg (by simpa using hmay), State.residency_mapResidency, State.freePlanes_eq, State.residency_mapResidency,
      State.residency_mapResidency, hcluster]
    by_cases hj : j = i
    · simp [hj, hmay, Residency.released]
    · simp [hj]
  · rw [if_pos (by simpa [or_iff_not_imp_left] using hmay), if_neg (fun h => hmay h.2)]

theorem State.foldl_revokeEntry (k : Nat) {l : List Nat} (hl : l.Nodup) : ∀ s : State,
    s.unloads (l.foldl (fun t i => t.revokeEntry k i) s) ∧
      ∀ j, ((l.foldl (fun t i => t.revokeEntry k i) s).cluster k).residency j =
        if j ∈ l ∧ ((s.cluster k).residency j).st ≠ .loading ∧ s.loopUses k j = false then ((s.cluster k).residency j).released
        else (s.cluster k).residency j := by
  induction l with
  | nil => exact fun s => ⟨⟨rfl, fun _ => rfl⟩, fun j => (if_neg (by simp)).symm⟩
  | cons i l ih =>
    intro s
    obtain ⟨hi, hl⟩ := List.nodup_cons.1 hl
    obtain ⟨hunload, hres⟩ := ih hl (s.revokeEntry k i)
    refine ⟨(s.unloads_revokeEntry k i).trans hunload, fun j => ?_⟩
    rw [List.foldl_cons, hres, (s.unloads_revokeEntry k i).loopUses, s.residency_revokeEntry]
    by_cases hj : j = i
    · subst hj
      simp [hi]
    · simp [hj]

theorem State.mem_residenciesOf {s : State} {k dom j : Nat} :
    j ∈ s.residenciesOf k dom ↔ j < 256 ∧ ((s.cluster k).residency j).st ≠ .free ∧ ((s.cluster k).residency j).dom = dom := by
  simp [State.residenciesOf]

/-- The state of a REVOKEALL once it has gone through its cluster's residencies. -/
def State.revokedAll (s : State) (k dom : Nat) : State := (s.residenciesOf k dom).foldl (fun t i => t.revokeEntry k i) s

theorem State.revokedAll_spec (s : State) (k dom : Nat) : s.unloads (s.revokedAll k dom) ∧
    ∀ j, j < 256 → ((s.revokedAll k dom).cluster k).residency j =
      if ((s.cluster k).residency j).st ≠ .free ∧ ((s.cluster k).residency j).dom = dom ∧ ((s.cluster k).residency j).st ≠ .loading ∧
          s.loopUses k j = false then ((s.cluster k).residency j).released
      else (s.cluster k).residency j := by
  obtain ⟨hunload, hres⟩ := State.foldl_revokeEntry k (l := s.residenciesOf k dom) (List.nodup_range.filter _) s
  refine ⟨hunload, fun j hj => (hres j).trans ?_⟩
  simp only [State.mem_residenciesOf, hj, true_and, and_assoc]

theorem exec_revokeall (h : s.nextPacket n i b (.revokeall n)) (hown : s.ownCluster n (pktField b 26 2) = true) :
    exec (.revokeall n) s = .next
      (if ((s.packetTaken.revokedAll (pktField b 26 2) (s.queueAt (i / 32) n).dom).residenciesOf (pktField b 26 2)
          (s.queueAt (i / 32) n).dom).isEmpty then (s.packetTaken.revokedAll (pktField b 26 2) (s.queueAt (i / 32) n).dom).retired n
        else (s.packetTaken.revokedAll (pktField b 26 2) (s.queueAt (i / 32) n).dom).putBack n) := by
  have hlane : s.packetTaken.laneQueue n = s.queueAt (i / 32) n := h.laneQueue
  have hown' : s.packetTaken.ownCluster n (pktField b 26 2) = true := hown
  show execRevokeall n s = _
  rw [execRevokeall, h.withPacket]
  dsimp only
  rw [hown', hlane]
  rfl

theorem revokeall_completes (h : s.nextPacket n i b (.revokeall n)) (hown : s.ownCluster n (pktField b 26 2) = true) :
    completes (.revokeall n) s (fun t =>
      (∀ j, j < 256 → (t.cluster (pktField b 26 2)).residency j =
        if ((s.cluster (pktField b 26 2)).residency j).st ≠ .free ∧
            ((s.cluster (pktField b 26 2)).residency j).dom = (s.queueAt (i / 32) n).dom ∧
            ((s.cluster (pktField b 26 2)).residency j).st ≠ .loading ∧ s.loopUses (pktField b 26 2) j = false then
          ((s.cluster (pktField b 26 2)).residency j).released
        else (s.cluster (pktField b 26 2)).residency j) ∧
      ((∀ j, j < 256 → ((s.cluster (pktField b 26 2)).residency j).dom = (s.queueAt (i / 32) n).dom →
        ((s.cluster (pktField b 26 2)).residency j).st ≠ .loading ∧ s.loopUses (pktField b 26 2) j = false) →
          s.tookPacket t i (plainChange n)) ∧
      ((∃ j, j < 256 ∧ ((s.cluster (pktField b 26 2)).residency j).dom = (s.queueAt (i / 32) n).dom ∧
        ((s.cluster (pktField b 26 2)).residency j).st = .loading) → s.recordsStand t)) := by
  have hexec := exec_revokeall h hown
  generalize pktField b 26 2 = k at hexec ⊢
  generalize (s.queueAt (i / 32) n).dom = dom at hexec ⊢
  obtain ⟨hunload, hres⟩ := s.packetTaken.revokedAll_spec k dom
  generalize s.packetTaken.revokedAll k dom = u at hexec hunload hres
  have hheld : s.stillHeld u n i := by
    refine h.stillHeld.same ?_ ?_ ?_ ?_ ?_ <;> rw [hunload.rest]
  have hres' : ∀ j, j < 256 → (u.cluster k).residency j =
      if ((s.cluster k).residency j).st ≠ .free ∧ ((s.cluster k).residency j).dom = dom ∧ ((s.cluster k).residency j).st ≠ .loading ∧
          s.loopUses k j = false then ((s.cluster k).residency j).released
      else (s.cluster k).residency j := hres
  by_cases hempty : (u.residenciesOf k dom).isEmpty = true
  · rw [if_pos hempty] at hexec
    have hends := (State.retired_took hheld.2.2.2).2.2
    refine ⟨_, hexec, fun j hj => ?_, fun _ => hheld.retired.1, fun ⟨j, hj, hdom, hload⟩ => ?_⟩
    · rw [hends]
      exact hres' j hj
    · have hstay := hres' j hj
      rw [if_neg (fun hgo => hgo.2.2.1 hload)] at hstay
      have hmem : j ∈ u.residenciesOf k dom := State.mem_residenciesOf.2 ⟨hj, by rw [hstay, hload]; decide, by rw [hstay, hdom]⟩
      rw [List.isEmpty_iff.1 hempty] at hmem
      exact absurd hmem List.not_mem_nil
  · rw [if_neg hempty] at hexec
    refine ⟨_, hexec, fun j hj => hres' j hj, fun hall => ?_, fun _ => hheld.1⟩
    refine absurd (List.isEmpty_iff.2 (List.eq_nil_iff_forall_not_mem.2 fun j hj => ?_)) hempty
    obtain ⟨hlt, hst, hdom⟩ := State.mem_residenciesOf.1 hj
    have hgone := hres' j hlt
    by_cases hown : ((s.cluster k).residency j).st ≠ .free ∧ ((s.cluster k).residency j).dom = dom
    · rw [if_pos ⟨hown.1, hown.2, hall j hlt hown.2⟩] at hgone
      exact hst (by rw [hgone]; rfl)
    · rw [if_neg (fun hgo => hown ⟨hgo.1, hgo.2.1⟩)] at hgone
      rw [hgone] at hst hdom
      exact hown ⟨hst, hdom⟩

end Quota

/-! ## A change of a record that a packet asks for (R384) -/

section Record
variable {s u : State} {n i m : Nat} {b : List Byte} {c : QueueChange}

/-- What a packet that changes a queue's record comes to: with the lane at the owner's die made at once, from the other die
sent there, its packet waiting. -/
def State.changed (s s1 : State) (row : Instr) (n i : Nat) (b : List Byte) (c : QueueChange) : Prop :=
  (i / 32 % 2 = c.queue % 2 → s1.recordBusy c.queue = false → completes row s (fun t => ∃ v : State,
    s1.tookRecord v i c ∧ v.waves = s.waves ∧ v.wv = s.wv ∧ v.tookPacket t i (plainChange n))) ∧
  (i / 32 % 2 ≠ c.queue % 2 → s1.changing c.queue = false → completes row s (fun t => s1.tookRecord t i c ∧
    Map.get? t.fe.polls n = some (1, b) ∧ t.ms = s1.ms))

/-- The owner makes a plain change: the record, and nothing else. -/
theorem State.applyChange_plain (s : State) (hbell : c.bell = none) (hnote : c.note = none) (herr : c.err = none) :
    s.applyChange c = s.setQueue c.queue ((s.queue c.queue).changed c) := by
  simp only [State.applyChange, hbell, hnote, herr, QueueRec.taking_eq_changed]

theorem State.tookRecord_applyChange (s : State) (hdie : i / 32 % 2 = c.queue % 2) (hbell : c.bell = none) (hnote : c.note = none)
    (herr : c.err = none) : s.tookRecord (s.applyChange c) i c := by
  rw [State.applyChange_plain s hbell hnote herr]
  unfold State.tookRecord
  rw [if_pos hdie]
  refine ⟨fun j hj => ?_, ?_, rfl⟩
  · rw [State.queue_setQueue, if_neg hj]
  · rw [State.queue_setQueue, if_pos rfl, QueueRec.changed_ver]

/-- A packet whose body is the change of a record. -/
theorem State.stillHeld.changeRecord {row : Instr} (hexec : exec row s = .next (u.changeRecord (i / 32) n b c)) (h : s.stillHeld u n i)
    (hpoll : Map.get? u.fe.polls n = none) (hbell : c.bell = none) (hnote : c.note = none) (herr : c.err = none) :
    s.changed u row n i b c := by
  obtain ⟨-, hwaves, hwv, hholder⟩ := h
  refine ⟨fun hdie hbusy => ?_, fun hdie hchanging => ?_⟩
  · have hbody : u.changeRecord (i / 32) n b c = (u.applyChange c).mgmtDone n b := by
      unfold State.changeRecord
      dsimp only
      rw [if_pos hdie, if_neg (ne_true_of_eq_false hbusy)]
    have hheld : (u.applyChange c).stillHeld (u.applyChange c) n i := by
      refine .refl ?_
      rw [State.applyChange_plain u hbell hnote herr]
      exact hholder
    refine ⟨_, hexec.trans (congrArg _ hbody), u.applyChange c, u.tookRecord_applyChange hdie hbell hnote herr, ?_, ?_, (hheld.mgmtDone b).1⟩
    · rw [State.applyChange_plain u hbell hnote herr]
      exact hwaves
    · rw [State.applyChange_plain u hbell hnote herr]
      exact hwv
  · have hbody : u.changeRecord (i / 32) n b c = u.withFe { u.fe with
        changes := u.fe.changes ++ [c], replicas := Map.del u.fe.replicas c.queue, polls := Map.set u.fe.polls n (1, b) } := by
      unfold State.changeRecord
      dsimp only
      rw [if_neg hdie, hpoll, if_neg (by simp), if_neg (ne_true_of_eq_false hchanging)]
    refine ⟨_, hexec.trans (congrArg _ hbody), ?_, Map.get?_set_self .., rfl⟩
    unfold State.tookRecord
    rw [if_neg hdie]
    exact ⟨fun _ _ => rfl, rfl, rfl⟩

/-- A packet that reads a current record goes on with it. -/
theorem State.withRecord_of_current (hcurrent : s.current (i / 32) m = true) (body : State → QueueRec → State) :
    s.withRecord (i / 32) n m body = body s (s.queueAt (i / 32) m) := by
  unfold State.withRecord
  rw [hcurrent, Bool.true_or, if_pos rfl]

end Record

/-! ### RESUME (R398) -/

section Resume
variable {s : State} {n i : Nat} {b : List Byte}

theorem exec_resume (h : s.nextPacket n i b (.resume n)) (hm : mgmtArg b 0 < 4096) (hcurrent : s.current (i / 32) (mgmtArg b 0) = true)
    (hdom : (s.queueAt (i / 32) (mgmtArg b 0)).dom = (s.queueAt (i / 32) n).dom) : exec (.resume n) s = .next
      (if ((s.queueAt (i / 32) (mgmtArg b 0)).halt && (s.queueAt (i / 32) (mgmtArg b 0)).pend.isEmpty) || (Map.get? s.fe.polls n).isSome then
        s.packetTaken.changeRecord (i / 32) n b { QueueChange.blank (mgmtArg b 0) with resume := true }
      else s.packetTaken.mgmtDone n b) := by
  have hlane : s.packetTaken.laneQueue n = s.queueAt (i / 32) n := h.laneQueue
  have hcurrent' : s.packetTaken.current (i / 32) (mgmtArg b 0) = true := hcurrent
  show execResume n s = _
  rw [execResume, h.withPacket, State.withRecord_of_current hcurrent']
  dsimp only
  rw [hlane]
  exact congrArg _ (if_neg (not_or.2 ⟨Nat.not_le.2 hm, not_not.2 hdom⟩))

end Resume

/-! ### COUNTERS, SETQ and SETASR (R383, R394, R398) -/

section Images
variable {s s1 : State} {n i : Nat} {b bs : List Byte}

theorem exec_counters (h : s.nextPacket n i b (.counters n)) (hm : mgmtArg b 0 < 2) {cs : List Byte}
    (hstore : s.packetTaken.feStore (i / 32) (feOwner n 2) (s.queueContext n) (mgmtArg b 1 % 2 ^ 57) 0
      ((if mgmtArg b 0 = 0 then s.netCounters (s.domOf (s.queueAt (i / 32) n).dom)
        else s.waveCounters (s.domOf (s.queueAt (i / 32) n).dom)).flatMap (leBytes 8)) = (s1, .done cs)) :
    exec (.counters n) s = .next (s.packetTaken.mgmtDone n b) ∧ s1 = s.packetTaken := by
  have hlane : s.packetTaken.laneQueue n = s.queueAt (i / 32) n := h.laneQueue
  have hstore' : s.packetTaken.feStore (i / 32) (feOwner n 2) (s.packetTaken.queueContext n) (mgmtArg b 1 % 2 ^ 57) 0
      ((if mgmtArg b 0 = 0 then s.packetTaken.netCounters (s.packetTaken.domOf (s.queueAt (i / 32) n).dom)
        else s.packetTaken.waveCounters (s.packetTaken.domOf (s.queueAt (i / 32) n).dom)).flatMap (leBytes 8)) = (s1, .done cs) := hstore
  have hsame := State.feStore_done hstore'
  refine ⟨?_, hsame⟩
  show execCounters n s = _
  rw [execCounters, h.withPacket]
  dsimp only
  rw [hlane, if_neg (by omega), hstore']
  dsimp only
  rw [hsame]

/-- A packet with PRIV whose image is read goes on with the image, in the state as it finds it. -/
theorem State.nextPacket.withImage {row : Instr} (h : s.nextPacket n i b row) (hpriv : (s.queueAt (i / 32) n).priv = true)
    (himage : s.packetTaken.imageAt (i / 32) n (mgmtArg b 1) 16 s1 bs) (body : State → Nat → State) :
    s.packetTaken.privileged n (fun s => s.withImage (i / 32) n b body) = body s.packetTaken (leNat bs) := by
  have hlane : s.packetTaken.laneQueue n = s.queueAt (i / 32) n := h.laneQueue
  have hsame := State.feLoad_done himage
  unfold State.imageAt at himage
  unfold State.privileged
  rw [hlane, hpriv, if_pos rfl]
  unfold State.withImage
  dsimp only
  rw [himage, hsame]

theorem exec_setq (h : s.nextPacket n i b (.setq n)) (hpriv : (s.queueAt (i / 32) n).priv = true)
    (himage : s.packetTaken.imageAt (i / 32) n (mgmtArg b 1) 16 s1 bs) (hm : mgmtArg b 0 < 4096)
    (hcurrent : s.current (i / 32) (mgmtArg b 0) = true) (hdom : bitsOf 80 4 (leNat bs) = (s.queueAt (i / 32) n).dom)
    (henable : (s.queueAt (i / 32) (mgmtArg b 0)).enable = true → (s.queueAt (i / 32) (mgmtArg b 0)).dom = (s.queueAt (i / 32) n).dom)
    (hlogn : 4 ≤ bitsOf 64 4 (leNat bs)) (hbase : bitsOf 0 57 (leNat bs) % 4096 = 0) : exec (.setq n) s = .next
      (if mgmtArg b 0 = n then (s.packetTaken.mgmtNoted n b).retirePacket { plainChange n with fields := some (leNat bs) }
        else s.packetTaken.changeRecord (i / 32) n b { QueueChange.blank (mgmtArg b 0) with fields := some (leNat bs) }) := by
  have hlane : s.packetTaken.laneQueue n = s.queueAt (i / 32) n := h.laneQueue
  have hcurrent' : s.packetTaken.current (i / 32) (mgmtArg b 0) = true := hcurrent
  show execSetq n s = _
  rw [execSetq, h.withPacket, h.withImage hpriv himage, State.withRecord_of_current hcurrent']
  dsimp only
  rw [hlane]
  refine congrArg Host.Outcome.next (if_neg ?_)
  rintro (hlarge | hbad | ⟨hon, hother⟩ | hsmall | hodd)
  · omega
  · exact hbad hdom
  · exact hother (henable hon)
  · omega
  · exact hodd hbase

/-- The address space that an image of SETASR gives to a domain (R394). -/
def asrOf (dom v : Nat) : AddrSpace := ⟨dom, bitsOf 52 16 v, bitsOf 40 12 v, bitsOf 0 40 v⟩

/-- The state with one record of the address spaces written. -/
def State.withAsr (s : State) (m : Nat) (a : AddrSpace) : State := s.withFe { s.fe with asrs := Map.set s.fe.asrs m a }

theorem exec_setasr (h : s.nextPacket n i b (.setasr n)) (hpriv : (s.queueAt (i / 32) n).priv = true)
    (himage : s.packetTaken.imageAt (i / 32) n (mgmtArg b 1) 16 s1 bs) (hm : mgmtArg b 0 < 4096)
    (hdom : bitsOf 68 4 (leNat bs) = (s.queueAt (i / 32) n).dom)
    (hold : Map.getD s.fe.asrs (mgmtArg b 0) AddrSpace.reset = AddrSpace.reset ∨
      (Map.getD s.fe.asrs (mgmtArg b 0) AddrSpace.reset).dom = (s.queueAt (i / 32) n).dom) : exec (.setasr n) s = .next
      ((s.packetTaken.withAsr (mgmtArg b 0) (asrOf (s.queueAt (i / 32) n).dom (leNat bs))).mgmtDone n b) := by
  have hlane : s.packetTaken.laneQueue n = s.queueAt (i / 32) n := h.laneQueue
  show execSetasr n s = _
  rw [execSetasr, h.withPacket, h.withImage hpriv himage]
  dsimp only
  rw [hlane]
  refine congrArg Host.Outcome.next (if_neg ?_)
  rintro (hlarge | hbad | ⟨hwritten, hother⟩)
  · omega
  · exact hbad hdom
  · exact hold.elim hwritten hother

end Images

/-- Settles O53: the two RESIDENCY packets, and the MGMT packets that change a record or store the counters. -/
theorem residencyAndRecordPackets : Obligations.ResidencyAndRecordPackets := by
  unfold Obligations.ResidencyAndRecordPackets
  refine ⟨fun s n i b => ⟨fun h => ⟨setquota_done h, setquota_denied h⟩, revokeall_completes⟩, fun s n i b => ⟨?_, ?_, ?_⟩⟩
  · intro h hm hcurrent hdom
    have hexec := exec_resume h hm hcurrent hdom
    refine ⟨fun hne hpoll hhalt hpend => ?_, fun hno hpoll => ?_, fun hpoll hdie hchanging => ?_⟩
    · rw [if_pos (by simp [hhalt, hpend])] at hexec
      exact h.stillHeld.changeRecord hexec hpoll rfl rfl rfl
    · rw [if_neg (by rcases hno with hno | hno <;> simp [hno, hpoll])] at hexec
      exact ⟨_, hexec, (h.stillHeld.mgmtDone b).1⟩
    · rw [if_pos (by simp [hpoll])] at hexec
      refine ⟨_, hexec.trans (congrArg _ ?_), (h.stillHeld.mgmtDone b).1⟩
      have hpoll' : (Map.get? s.packetTaken.fe.polls n).isSome = true := hpoll
      unfold State.changeRecord
      exact (if_neg hdie).trans ((if_pos hpoll').trans (if_neg (ne_true_of_eq_false hchanging)))
  · intro h hm s1 cs hstore
    obtain ⟨hexec, rfl⟩ := exec_counters h hm hstore
    obtain ⟨htook, -, hms⟩ := h.stillHeld.mgmtDone b
    exact ⟨_, hexec, htook, hms⟩
  · intro s1 bs himage hpriv hm
    obtain rfl := State.feLoad_done himage
    refine ⟨fun h hcurrent hpoll hdom henable hlogn hbase => ?_, fun h hdom hold => ?_⟩
    · have hexec := exec_setq h hpriv himage hm hcurrent hdom henable hlogn hbase
      refine ⟨fun hne => ?_, fun heq => ?_⟩
      · rw [if_neg hne] at hexec
        exact h.stillHeld.changeRecord hexec hpoll rfl rfl rfl
      · rw [if_pos heq] at hexec
        have hheld := h.stillHeld.posts (s.packetTaken.posts_mgmtNoted n b)
        exact ⟨_, hexec, hheld.retirePacket rfl rfl rfl⟩
    · have hexec := exec_setasr h hpriv himage hm hdom hold
      have hheld := h.stillHeld.same (t := s.packetTaken.withAsr (mgmtArg b 0) (asrOf (s.queueAt (i / 32) n).dom (leNat bs)))
        rfl rfl rfl rfl rfl
      obtain ⟨htook, hends, -⟩ := hheld.mgmtDone b
      refine ⟨_, hexec, htook, ?_, fun j hj => ?_⟩
      · rw [hends]
        exact Map.getD_set_self ..
      · rw [hends]
        exact (Map.getD_set ..).trans (if_neg hj)

end Sys2Proof.Machine
end

section
/-! SUPPORT. A host write of no byte at the end of the host window, which the model takes for one beyond it. -/

namespace Sys2Proof.Machine

/-- The first address past host memory: the end of a range of no byte there, and itself of window 3. -/
def pastHostMemory : PAddr := BitVec.ofNat 52 (2 ^ 51 + 2 ^ 50)

theorem pastHostMemory_window : pastHostMemory.toNat = 2 ^ 51 + 2 ^ 50 ∧ pastHostMemory.toNat / 2 ^ 50 = 3 := by decide

/-- A host write to window 3 is no access: nothing changes, and the host is given no answer. -/
theorem exec_hostWrite_pastHostMemory (s : State) (bs : List Byte) : exec (.hostWrite pastHostMemory bs) s = .next s := by
  show execHostWrite pastHostMemory bs s = _
  unfold execHostWrite
  dsimp only
  rw [pastHostMemory_window.2]
  rfl

/-- Refutes O56: the clause on writes to host memory takes in a write of no byte at the address past the window's last byte, since
the range of such a write ends there. It asks for the host's answer; the model, which goes by the window of the address, gives
none. -/
theorem not_hostAndMailbox : ¬ Obligations.HostAndMailbox := by
  unfold Obligations.HostAndMailbox
  rintro ⟨-, hwrites, -⟩
  have hlow : 2 ^ 51 ≤ pastHostMemory.toNat := by rw [pastHostMemory_window.1]; omega
  have hend : pastHostMemory.toNat + ([] : List Byte).length ≤ 2 ^ 51 + 2 ^ 50 := by rw [pastHostMemory_window.1]; exact Nat.le_refl _
  obtain ⟨-, hmemory, -⟩ := hwrites State.reset pastHostMemory []
  obtain ⟨t, hexec, hanswer, -⟩ := hmemory hlow hend State.memoryKept_reset
  rw [exec_hostWrite_pastHostMemory] at hexec
  obtain rfl : State.reset = t := Host.Outcome.next.inj hexec
  have hreply : (none : Option HostReply) = some ⟨pastHostMemory.toNat, true, [], false⟩ := congrArg State.hostReply hanswer
  exact nomatch hreply

end Sys2Proof.Machine
end
